-- ==== Sys2Proof/Word.lean ====
section
/-! DEFINITION. The word types and the plainest arithmetic on them (11_isa_conventions R239: memory is little-endian). -/

namespace Sys2Proof

/-- One byte of memory. -/
abbrev Byte := BitVec 8
/-- A 32-bit register value. -/
abbrev Word := BitVec 32
/-- A 64-bit register pair, pointer or lane mask. -/
abbrev DWord := BitVec 64

/-- Bits `[hi:lo]` of a value, as a bit vector of the width the reader wants. -/
def field {n : Nat} (x : BitVec n) (lo w : Nat) : BitVec w := x.extractLsb' lo w

/-- Bits `[lo + w - 1 : lo]` of a value, as a number. -/
def fieldNat {n : Nat} (x : BitVec n) (lo w : Nat) : Nat := (x.extractLsb' lo w).toNat

/-- The number a list of bytes spells, byte 0 least significant (R239). -/
def leNat : List Byte → Nat
  | [] => 0
  | b :: bs => b.toNat + 256 * leNat bs

/-- The first `n` bytes of a number, byte 0 least significant (R239). -/
def natLe : Nat → Nat → List Byte
  | 0, _ => []
  | n + 1, x => BitVec.ofNat 8 x :: natLe n (x / 256)

/-- The lanes of a mask, in ascending order (R248: "for each lane i in active"). -/
def lanesOf (m : DWord) : List Nat := (List.range 64).filter (fun i => m.getLsbD i)

/-- The mask that holds exactly the lanes of a list. -/
def maskOf (l : List Nat) : DWord := l.foldl (fun m i => m ||| BitVec.twoPow 64 i) 0

/-- The lanes 0 to w − 1 (R163: bits W to 63 are always zero). -/
def fullMask (w : Nat) : DWord := BitVec.ofNat 64 (2 ^ w - 1)

end Sys2Proof
end

