-- ==== Sys2Proof/Config.lean ====
section
/-! DEFINITION. What the manual leaves to the implementation, or leaves unspecified: each is an opaque constant, a free value about which nothing can be proved. Each is named in a log entry of notes/assumptions/. -/

namespace Sys2Proof.Config

/-- R5: a core that is not enabled, for each of the 72 that a module may lack (R4: at least 1,080 of 1,152 are enabled); 1152 and more names none. DESIGN CHOICE, log entry 4. -/
opaque spareCore : Nat → Nat
/-- R4, R5: the enabled-core map, fixed at manufacture (bit n set: core n enabled): all but at most 72. -/
def enabledCores : BitVec 1152 :=
  (List.range 72).foldl (fun m i => m &&& ~~~BitVec.twoPow 1152 (spareCore i)) (BitVec.allOnes 1152)
/-- Which of several possible internal steps moves next, by the step count (the manual fixes no order between agents). DESIGN CHOICE, log entry 1. -/
opaque choose : Nat → Nat
/-- R108: whether a cycle of a barrier object ends with a step that was one of its events, by the step count. DESIGN CHOICE, log entry 46. -/
opaque cycleEnds : Nat → Bool
/-- R253: whether an outstanding result of a lane lands in its register before an instruction issues, by step count and lane. DESIGN CHOICE, log entry 10. -/
opaque landsEarly : Nat → Nat → Bool
/-- R94, R319: what a latch holds in a lane outside the fragment, by step count and lane. DESIGN CHOICE, log entry 10. -/
opaque latchFree : Nat → Nat → DWord
/-- R31, R103: which entry a full set of a TLB, walk cache or L1 gives up. DESIGN CHOICE, log entry 11. -/
opaque victim : Nat → Nat
/-- R67: the units of 512 bytes that the block compressor needs for a sub-frame that is not all zero (sub-frame address, contents). DESIGN CHOICE, log entry 12. -/
opaque frostUnits : Nat → List Byte → Nat
/-- R41: bank of a placement record (frame, sub-frame, stack). DESIGN CHOICE, log entry 5. -/
opaque placeBank : Nat → Nat → Nat → Nat
/-- R41: row of a placement record (frame, sub-frame, stack). DESIGN CHOICE, log entry 5. -/
opaque placeRow : Nat → Nat → Nat → Nat
/-- R29: whether an access made during a host-map write finds the replica of its stack written already, by the step count. DESIGN CHOICE, log entry 13. -/
opaque replicaNew : Nat → Bool
/-- R96: what another group's frontier spill area reads as, by address and step count. DESIGN CHOICE, log entry 14. -/
opaque frontierByte : Nat → Nat → Byte
/-- R84: byte of the sealed image's ciphertext and tag (compartment key, page address, version, byte index). DESIGN CHOICE, log entry 8. -/
opaque sealByte : Nat → Nat → Nat → Nat → Byte
/-- R442: the ECDSA signature r and s over a report. DESIGN CHOICE, log entry 15. -/
opaque signature : List Byte → List Byte
/-- R442: part number and serial, and the four firmware measurements (208 bytes). DESIGN CHOICE, log entry 15. -/
opaque identity : List Byte
/-- R12, R222: the frame of context 0's level-3 table node, as the firmware leaves it. DESIGN CHOICE, log entry 7. -/
opaque kernelRootFrame : BitVec 30
/-- R12, R222: the slot of context 0's level-3 table node, as the firmware leaves it. DESIGN CHOICE, log entry 7. -/
opaque kernelRootSlot : BitVec 3
/-- R12, R222: context 0's alias bases, bits [55:24] of PRIVBASE and SPILLBASE. DESIGN CHOICE, log entry 7. -/
opaque kernelAliasBase : Bool → BitVec 32
/-- R12, R222: the frame and offset of context 0's stack-set table. DESIGN CHOICE, log entry 7. -/
opaque kernelSst : BitVec 37
/-- R222: the clause-header address at which each service core starts the resident kernel. DESIGN CHOICE, log entry 7. -/
opaque kernelEntry : Nat → BitVec 56
/-- R27: HMBASE of a host, as the firmware leaves it. DESIGN CHOICE, log entry 7. -/
opaque hostBase : Nat → Nat
/-- R27: HMCOUNT of a host, as the firmware leaves it. DESIGN CHOICE, log entry 7. -/
opaque hostCount : Nat → Nat
/-- R27, R45: an entry of a host's stack-set table, as the firmware leaves it (host, index). DESIGN CHOICE, log entry 7. -/
opaque hostSst : Nat → Nat → DWord
/-- R166: which of two fragments of a group the manual's rules leave equal is taken first, by the step count. DESIGN CHOICE, log entry 1. -/
opaque memOrder : Nat → Nat → Nat
/-- R148: which free slot of a scheduler and which engine of a kind a job receives, by the step count and 0 or 1. DESIGN CHOICE, log entry 18. -/
opaque jobPick : Nat → Nat → Nat
/-- R84: byte of the sealed image's header beyond its address, version and tag (compartment, page address, version, byte index). DESIGN CHOICE, log entry 8. -/
opaque sealHeader : Nat → Nat → Nat → Nat → Byte
/-- R64, R374: the frame-space sub-frame (frame × 16 + sub-frame) that a stack-local sub-frame index of FSCRUB with RANGE names (stack, index). DESIGN CHOICE, log entry 5. -/
opaque placeIndex : Nat → Nat → Nat
/-- R370: what mstat writes in a team that has no sequencer, by the step count. DESIGN CHOICE, log entry 20. -/
opaque noSequencer : Nat → DWord
/-- R53: byte of the AES-256-XTS key of a key identifier (64 bytes: data key, tweak key); the base dies never release it. DESIGN CHOICE, log entry 50. -/
opaque keyByte : BitVec 8 → Nat → Byte
/-- R41: starting gang of a placement record (frame, sub-frame, stack), before its reduction modulo the gangs of the class. DESIGN CHOICE, log entry 5. -/
opaque placeGang : Nat → Nat → Nat → Nat
/-- R67: byte of a sub-frame thawed from an image whose decode went wrong undetected (sub-frame, differences in the image's bytes, byte index). DESIGN CHOICE, log entry 50. -/
opaque frostWrong : Nat → List Nat → Nat → Byte

end Sys2Proof.Config
end

