-- ==== Sys2Proof/Machine/Ecc.lean ====
section
/-! DEFINITION. What a granule's bytes become on their way to the DRAM: AES-256 in XTS mode (R53, R67), the Reed-Solomon codes with their codewords (R54, R55), and the pins and beats that carry data bytes and check symbols (R50). Bytes and field elements are numbers below 256. -/

namespace Sys2Proof.Machine

/-! ## The fields -/

/-- A product in GF(2^8) modulo a polynomial of degree 8: bit i of a byte is the coefficient of x^i. -/
def fieldMul (poly a b : Nat) : Nat :=
  (List.range 8).foldr (fun i acc =>
    let d := if acc < 128 then 2 * acc else (2 * acc) ^^^ poly
    if b.testBit i then d ^^^ a else d) 0
/-- A power in that field, by squaring; the exponent is below 256. -/
def fieldPow (poly a n : Nat) : Nat :=
  (List.range 8).foldr (fun i acc =>
    let sq := fieldMul poly acc acc
    if n.testBit i then fieldMul poly sq a else sq) 1

/-- R54: the field polynomial x^8 + x^4 + x^3 + x^2 + 1. -/
def rsMul (a b : Nat) : Nat := fieldMul 0x11D a b
/-- R54: α^i, α = x. -/
def alpha (i : Nat) : Nat := fieldPow 0x11D 2 (i % 255)
/-- The inverse of a field element that is not 0: its 254th power. -/
def rsInv (a : Nat) : Nat := fieldPow 0x11D a 254

/-! ## Reed-Solomon codes (R54) -/

/-- The value of a polynomial whose coefficients stand from the highest power down. -/
def polyHigh (cs : List Nat) (x : Nat) : Nat := cs.foldl (fun acc c => rsMul acc x ^^^ c) 0
/-- The value of a polynomial whose coefficients stand from the power 0 up. -/
def polyLow (cs : List Nat) (x : Nat) : Nat := cs.foldr (fun c acc => rsMul acc x ^^^ c) 0

/-- R54: g(x) = (x - α^0)(x - α^1)…(x - α^(m-1)), from the highest power down. -/
def rsGen : Nat → List Nat
  | 0 => [1]
  | m + 1 => List.zipWith (· ^^^ ·) (rsGen m ++ [0]) (0 :: (rsGen m).map (rsMul (alpha m)))

/-- R54: the check symbols p0 to p(m-1) of the data symbols: the remainder of D(x) x^m by g(x). -/
def rsCheck (m : Nat) (data : List Nat) : List Nat :=
  let g := (rsGen m).tail
  data.foldl (fun r d =>
    let q := d ^^^ r.headD 0
    List.zipWith (fun a b => a ^^^ rsMul q b) (r.tail ++ [0]) g) (List.replicate m 0)

/-- The values of a received word at α^0 to α^(m-1): all 0 for a codeword. -/
def syndromes (m : Nat) (word : List Nat) : List Nat := (List.range m).map (fun i => polyHigh word (alpha i))

/-- A sum of polynomials from the power 0 up. -/
def polyAdd : List Nat → List Nat → List Nat
  | [], ys => ys
  | xs, [] => xs
  | x :: xs, y :: ys => (x ^^^ y) :: polyAdd xs ys

/-- The search for the shortest recurrence of the syndromes: the locator, the one before its last lengthening with its discrepancy, the length, and the steps since. -/
structure Locator where
  cur  : List Nat
  prev : List Nat
  len  : Nat
  gap  : Nat
  disc : Nat
  deriving DecidableEq, Repr

/-- One step of the search (Berlekamp and Massey). -/
def Locator.next (s : List Nat) (x : Locator) (n : Nat) : Locator :=
  let d := (List.range (x.len + 1)).foldl (fun acc i => acc ^^^ rsMul (x.cur.getD i 0) (s.getD (n - i) 0)) 0
  if d = 0 then { x with gap := x.gap + 1 }
  else
    let q := rsMul d (rsInv x.disc)
    let cur := polyAdd x.cur (List.replicate x.gap 0 ++ x.prev.map (rsMul q))
    if 2 * x.len ≤ n then { cur := cur, prev := x.cur, len := n + 1 - x.len, gap := 1, disc := d }
    else { x with cur := cur, gap := x.gap + 1 }

/-- The error locator of a received word. -/
def locator (s : List Nat) : Locator :=
  (List.range s.length).foldl (Locator.next s) { cur := [1], prev := [1], len := 0, gap := 1, disc := 1 }

/-- R54, R56: the error that a decode finds in each symbol of a word with `m` check symbols; none when it finds more errors than the code corrects, or one outside the word. -/
def rsDecode (m : Nat) (word : List Nat) : Option (List Nat) :=
  let s := syndromes m word
  if s.all (· == 0) then some (word.map (fun _ => 0))
  else
    let l := locator s
    let value := (List.range m).map (fun k =>
      (List.range (k + 1)).foldl (fun acc i => acc ^^^ rsMul (s.getD i 0) (l.cur.getD (k - i) 0)) 0)
    let slope := l.cur.tail.mapIdx (fun k c => if k % 2 = 0 then c else 0)
    let errs := (List.range word.length).map (fun k =>
      let p := word.length - 1 - k
      let inv := alpha (255 - p % 255)
      if polyLow l.cur inv = 0 then rsMul (alpha p) (rsMul (polyLow value inv) (rsInv (polyLow slope inv))) else 0)
    let roots := ((List.range word.length).filter (fun p => polyLow l.cur (alpha (255 - p % 255)) == 0)).length
    if 2 * l.len ≤ m && roots = l.len then some errs else none

/-! ## Granules and codewords (R49, R50, R55) -/

/-- R49: bytes of a granule; a CXL frame's is 64 (R74). -/
def granuleBytes (gc : BitVec 3) : Nat :=
  if gc = 0 then 32 else if gc = 1 then 64 else if gc = 2 then 128 else if gc = 3 then 256 else if gc = 4 then 512 else 64
/-- R49: sub-channels of a gang. -/
def gangWidth (gc : BitVec 3) : Nat := granuleBytes gc / 32
/-- R49: gangs of a stack. -/
def gangCount (gc : BitVec 3) : Nat := 64 / gangWidth gc

/-- A pin of a gang, and the beat of a burst. -/
structure PinBeat where
  sub  : Nat
  pin  : Nat
  beat : Nat
  deriving DecidableEq, Repr

/-- R50: the sub-channel of the gang, the DQ pin and the beat that carry bit i of data byte k. -/
def dataPin (gc : BitVec 3) (k i : Nat) : PinBeat :=
  if gc = 0 then { sub := 0, pin := 8 * (k % 4) + i, beat := k / 4 } else { sub := k / 32, pin := k % 32, beat := i }
/-- R50: the sub-channel of the gang, the CB pin and the beat that carry bit i of check symbol c. -/
def checkPin (c i : Nat) : PinBeat := { sub := c / 4, pin := c % 4, beat := i }

/-- R55: a codeword of a granule: its data bytes and its check symbols, in order. -/
structure CodeLayout where
  data  : List Nat
  check : List Nat
  deriving DecidableEq, Repr

/-- R55: the codeword of every second pin of `w` data and `w / 8` check pins, from a first one. -/
def everySecond (w data check odd : Nat) : CodeLayout :=
  { data := (List.range (w / 2)).map (fun i => data + 2 * i + odd), check := (List.range (w / 16)).map (fun i => check + 2 * i + odd) }

/-- R55: the codewords of a granule; a CXL frame has none (R53). -/
def codewords (gc : BitVec 3) : List CodeLayout :=
  if gc = 0 then [{ data := List.range 32, check := List.range 4 }]
  else if gc = 1 || gc = 2 || gc = 3 then [everySecond (granuleBytes gc) 0 0 0, everySecond (granuleBytes gc) 0 0 1]
  else if gc = 4 then [everySecond 256 0 0 0, everySecond 256 0 0 1, everySecond 256 256 32 0, everySecond 256 256 32 1]
  else []

/-- R54, R55: the check symbols of a granule's stored bytes, from gang check pin 0 (CB0) up. -/
def checkSymbols (gc : BitVec 3) (stored : List Nat) : List Nat :=
  let all := (codewords gc).flatMap (fun c => c.check.zip (rsCheck c.check.length (c.data.map (fun k => stored.getD k 0))))
  (List.range (granuleBytes gc / 8)).map (fun k => ((all.find? (fun e => e.1 = k)).map (·.2)).getD 0)

/-- R55, R56: what a granule's decode finds when data byte k is read with the difference `data[k]` from what was stored and check symbol c with `check[c]`: the difference that stays in each data byte, and the number of codewords that it corrects; none when a codeword is uncorrectable. The code is linear, so its contents do not matter. -/
def granuleDecode (gc : BitVec 3) (data check : List Nat) : Option (List Nat × Nat) :=
  (codewords gc).foldl (fun r c => r.bind (fun (left, n) =>
    let word := c.data.map (fun k => data.getD k 0) ++ c.check.map (fun k => check.getD k 0)
    (rsDecode c.check.length word).map (fun errs =>
      (left.mapIdx (fun k x => match c.data.findIdx? (· = k) with | some i => x ^^^ errs.getD i 0 | none => x),
       if errs.all (· == 0) then n else n + 1)))) (some (data, 0))

/-! ## AES-256 and XTS (R53, R67) -/

/-- A byte rotated left. -/
def byteRot (x n : Nat) : Nat := (x * 2 ^ n) % 256 + x / 2 ^ (8 - n)
/-- The substitution of a byte: the inverse in the AES field, then the affine map. -/
def aesSub (x : Nat) : Nat :=
  let y := fieldPow 0x11B x 254
  y ^^^ byteRot y 1 ^^^ byteRot y 2 ^^^ byteRot y 3 ^^^ byteRot y 4 ^^^ 0x63
/-- Its inverse. -/
def aesUnsub (x : Nat) : Nat := fieldPow 0x11B (byteRot x 1 ^^^ byteRot x 3 ^^^ byteRot x 6 ^^^ 0x05) 254

/-- A column times a circulant matrix given by its first row. -/
def aesMix (row : List Nat) (x : List Nat) : List Nat :=
  (List.range 16).map (fun i => (List.range 4).foldl (fun acc j =>
    acc ^^^ fieldMul 0x11B (x.getD (i / 4 * 4 + (i + j) % 4) 0) (row.getD j 0)) 0)
/-- A row r of the state rotated by r columns, `by4` bytes a row. -/
def aesShift (by4 : Nat) (x : List Nat) : List Nat := (List.range 16).map (fun i => x.getD ((i + by4 * (i % 4)) % 16) 0)

/-- The 60 words of the key schedule of a 32-byte key, one after another. -/
def aesKeys (key : List Nat) : List (List Nat) :=
  (List.range 52).foldl (fun w n =>
    let i := n + 8
    let t := w.getD (i - 1) []
    let t := if i % 8 = 0 then (match (t.tail ++ [t.headD 0]).map aesSub with
        | b :: bs => (b ^^^ 2 ^ (i / 8 - 1)) :: bs
        | [] => [])
      else if i % 8 = 4 then t.map aesSub else t
    w ++ [List.zipWith (· ^^^ ·) (w.getD (i - 8) []) t]) ((List.range 8).map (fun i => (key.drop (4 * i)).take 4))
/-- The key of a round. -/
def aesRoundKey (w : List (List Nat)) (r : Nat) : List Nat := ((w.drop (4 * r)).take 4).flatten

/-- AES-256 of a block of 16 bytes. -/
def aesEncrypt (key x : List Nat) : List Nat :=
  let w := aesKeys key
  let add (x : List Nat) (r : Nat) : List Nat := List.zipWith (· ^^^ ·) x (aesRoundKey w r)
  let y := (List.range 13).foldl (fun x r => add (aesMix [2, 3, 1, 1] (aesShift 4 (x.map aesSub))) (r + 1)) (add x 0)
  add (aesShift 4 (y.map aesSub)) 14
/-- Its inverse. -/
def aesDecrypt (key x : List Nat) : List Nat :=
  let w := aesKeys key
  let add (x : List Nat) (r : Nat) : List Nat := List.zipWith (· ^^^ ·) x (aesRoundKey w r)
  let y := (List.range 13).foldl (fun x r => aesMix [14, 11, 13, 9] (add ((aesShift 12 x).map aesUnsub) (13 - r))) (add x 14)
  add ((aesShift 12 y).map aesUnsub) 0

/-- Bytes of a number, lowest first. -/
def numBytes (n x : Nat) : List Nat := (List.range n).map (fun i => x / 2 ^ (8 * i) % 256)
/-- The number that bytes make, lowest first. -/
def bytesNum (bs : List Nat) : Nat := bs.foldr (fun b acc => b + 256 * acc) 0
/-- XTS: the tweak of the next block. -/
def tweakNext (t : Nat) : Nat := if t < 2 ^ 127 then 2 * t else (2 * t - 2 ^ 128) ^^^ 0x87

/-- R53: a data unit of 32 bytes in XTS mode: `code` is AES or its inverse under the first half of the 64-byte key. -/
def xtsUnit (code : List Nat → List Nat → List Nat) (key : List Nat) (tweak : Nat) (x : List Nat) : List Nat :=
  let t0 := bytesNum (aesEncrypt (key.drop 32) (numBytes 16 tweak))
  [t0, tweakNext t0].mapIdx (fun i t =>
    let t := numBytes 16 t
    List.zipWith (· ^^^ ·) (code (key.take 32) (List.zipWith (· ^^^ ·) ((x.drop (16 * i)).take 16) t)) t) |>.flatten

/-- The key of a key identifier: 64 bytes, which nothing reads (R53; DESIGN CHOICE, log entry 50). -/
def frameKey (k : BitVec 8) : List Nat := (List.range 64).map (fun i => (Config.keyByte k i).toNat)

/-- R53: the stored bytes of whole data units of a frame: ciphertext under the frame's key; the tweak of a unit is its frame-space address divided by 32. -/
def xtsRange (code : List Nat → List Nat → List Nat) (k : BitVec 8) (unit : Nat) (bs : List Nat) : List Nat :=
  (List.range (bs.length / 32)).flatMap (fun i => xtsUnit code (frameKey k) (unit + i) ((bs.drop (32 * i)).take 32))
/-- R53: encryption on the way to the DRAM. -/
def cipher (k : BitVec 8) (unit : Nat) (bs : List Nat) : List Nat := xtsRange aesEncrypt k unit bs
/-- R53: decryption on the way back. -/
def plainText (k : BitVec 8) (unit : Nat) (bs : List Nat) : List Nat := xtsRange aesDecrypt k unit bs

end Sys2Proof.Machine
end

