-- ==== Sys2Proof/Syntax.lean ====
section
/-! DEFINITION. The instructions: one constructor for each row of spec/opcode_table.json, and the operands each carries. Short, long and matrix-stream words carry their decoded fields (11_isa_conventions R245-R247, 17_isa_engines_matrix R384); an event of the hardware carries what arrives with it. -/

namespace Sys2Proof

/-- R245: the fields of a short instruction. -/
structure SOps where
  /-- Suppress write-back; for short loads, the counter. -/
  nw : Bool
  d  : BitVec 8
  a  : BitVec 8
  b  : BitVec 8
  deriving DecidableEq, Repr

/-- R246, R247: the fields of a long instruction; `w1` is word 1, read in the layout its form fixes. -/
structure Ops where
  g   : Bool
  gn  : Bool
  gp  : BitVec 5
  nw  : Bool
  mod : BitVec 6
  d   : BitVec 8
  w1  : BitVec 32
  deriving DecidableEq, Repr

/-- R384: the fields of mma, mmas and mconv. -/
structure MmaOps where
  acc   : BitVec 3
  reuse : Bool
  afmt  : BitVec 3
  acci  : Bool
  adv   : Bool
  bslot : BitVec 3
  grp   : BitVec 7
  areg  : BitVec 8
  sreg  : BitVec 8
  mreg  : BitVec 8
  deriving DecidableEq, Repr

/-- R384: the fields of mld and mst. -/
structure TileOps where
  acc  : BitVec 3
  asz  : BitVec 2
  cnt  : Bool
  bobj : BitVec 4
  off  : BitVec 20
  deriving DecidableEq, Repr

/-- R384: the fields of mdrain. -/
structure DrainOps where
  acc  : BitVec 3
  asz  : BitVec 2
  dfmt : BitVec 3
  dst  : Bool
  cnt  : Bool
  bobj : BitVec 4
  ch   : Bool
  grp  : BitVec 7
  dreg : BitVec 8
  off  : BitVec 20
  deriving DecidableEq, Repr

/-- R384: the fields of mloop. -/
structure LoopOps where
  ctr   : Bool
  usep  : Bool
  count : BitVec 16
  off   : BitVec 32
  deriving DecidableEq, Repr

/-- R433, R435: a Fezal transaction as a port receives it. A peer's carries KEY; a host's is translated by its host map. -/
structure HostReq where
  peer : Bool
  host : Nat
  port : Nat
  tag  : BitVec 16
  /-- 64-byte aligned address. -/
  addr : BitVec 52
  /-- Byte enables of a partial write. -/
  mask : BitVec 64
  /-- The 64-byte payload. -/
  data : List Byte
  key  : BitVec 8
  deriving DecidableEq, Repr

/-- R158: a gate descriptor, with whether both owners' signatures over it verify. -/
structure GateDesc where
  gid : Nat
  world : Nat
  skey : Nat
  dkey : Nat
  dir : BitVec 2
  dctxn : Nat
  sbase : DWord
  slen : DWord
  dbase : DWord
  naddr : DWord
  /-- The reserved bits [47:34] and [511:320]. -/
  resv : BitVec 14
  resvHigh : BitVec 192
  signed : Bool
  deriving DecidableEq, Repr

/-- R12: a world descriptor as it reaches the service dies, with whether both owners' signatures verify. -/
structure WorldDesc where
  num : Nat
  modelKey : Nat
  dataKey : Nat
  modelHost : Option Nat
  dataHost : Option Nat
  gates : List GateDesc
  signed : Bool
  deriving DecidableEq, Repr

/-- R438: a collective group as SETCOLL registers it. -/
structure CollGroup where
  num : Nat
  ctx : Nat
  rank : Nat
  members : List Nat
  port : Nat
  deriving DecidableEq, Repr

/-- R377: another member's part of a collective, as the switch brings it. -/
structure CollPeer where
  rank : Nat
  n : Nat
  data : List Byte
  deriving DecidableEq, Repr

/-- R73: what a CXL port finds attached. -/
structure CxlDevice where
  /-- Offers CXL.cache: trained as CXL.io only. -/
  cache : Bool
  /-- A Type 3 expander or one logical device; otherwise not supported. -/
  type3 : Bool
  /-- HDM-DB rather than HDM-H. -/
  hdmDb : Bool
  deriving DecidableEq, Repr

/-- R241: the three rings of the resident kernel. -/
inductive Ring where
  | fr | hfq | evq
  deriving DecidableEq, Repr

/-- One constructor for each row of the opcode table. -/
inductive Instr where
  /-- IADD_SHORT (R274). Short-form 32-bit wrapping add of two vector registers. -/
  | iaddShort (o : SOps)
  /-- ISUB_SHORT (R274). Short-form 32-bit wrapping subtract. -/
  | isubShort (o : SOps)
  /-- IMUL_SHORT (R274). Short-form 32-bit wrapping multiply. -/
  | imulShort (o : SOps)
  /-- IMULH_SHORT (R274). Short-form signed high half of a 32-bit product. -/
  | imulhShort (o : SOps)
  /-- IMIN_SHORT (R274). Short-form signed 32-bit minimum. -/
  | iminShort (o : SOps)
  /-- IMAX_SHORT (R274). Short-form signed 32-bit maximum. -/
  | imaxShort (o : SOps)
  /-- AND_SHORT (R274). Short-form bitwise AND. -/
  | andShort (o : SOps)
  /-- OR_SHORT (R274). Short-form bitwise OR. -/
  | orShort (o : SOps)
  /-- XOR_SHORT (R274). Short-form bitwise XOR. -/
  | xorShort (o : SOps)
  /-- ANDN_SHORT (R274). Short-form a AND NOT b. -/
  | andnShort (o : SOps)
  /-- SHL_SHORT (R274). Short-form left shift by a register count, unreduced. -/
  | shlShort (o : SOps)
  /-- SHR_SHORT (R274). Short-form logical right shift by a register count. -/
  | shrShort (o : SOps)
  /-- SRA_SHORT (R274). Short-form arithmetic right shift by a register count. -/
  | sraShort (o : SOps)
  /-- POPC_SHORT (R274). Short-form population count. -/
  | popcShort (o : SOps)
  /-- CLZ_SHORT (R274). Short-form count of leading zeros. -/
  | clzShort (o : SOps)
  /-- BREV_SHORT (R274). Short-form bit reversal. -/
  | brevShort (o : SOps)
  /-- IADD_IMM8_SHORT (R274). Short-form add of a sign-extended 8-bit literal. -/
  | iaddImm8Short (o : SOps)
  /-- SHL_IMM_SHORT (R274). Short-form left shift by a zero-extended literal. -/
  | shlImmShort (o : SOps)
  /-- SHR_IMM_SHORT (R274). Short-form logical right shift by a literal. -/
  | shrImmShort (o : SOps)
  /-- SRA_IMM_SHORT (R274). Short-form arithmetic right shift by a literal. -/
  | sraImmShort (o : SOps)
  /-- FADD_F32_SHORT (R293). Short-form binary32 add. -/
  | faddF32Short (o : SOps)
  /-- FSUB_F32_SHORT (R293). Short-form binary32 subtract. -/
  | fsubF32Short (o : SOps)
  /-- FMUL_F32_SHORT (R293). Short-form binary32 multiply. -/
  | fmulF32Short (o : SOps)
  /-- FMIN_F32_SHORT (R293). Short-form binary32 minimum in minimum mode. -/
  | fminF32Short (o : SOps)
  /-- FMAX_F32_SHORT (R293). Short-form binary32 maximum in maximum mode. -/
  | fmaxF32Short (o : SOps)
  /-- FADD_F64_SHORT (R293). Short-form binary64 add on even pairs. -/
  | faddF64Short (o : SOps)
  /-- FSUB_F64_SHORT (R293). Short-form binary64 subtract. -/
  | fsubF64Short (o : SOps)
  /-- FMUL_F64_SHORT (R293). Short-form binary64 multiply. -/
  | fmulF64Short (o : SOps)
  /-- FADD_F16X2_SHORT (R293). Short-form paired binary16 add. -/
  | faddF16x2Short (o : SOps)
  /-- FMUL_F16X2_SHORT (R293). Short-form paired binary16 multiply. -/
  | fmulF16x2Short (o : SOps)
  /-- FADD_BF16X2_SHORT (R293). Short-form paired bfloat16 add. -/
  | faddBf16x2Short (o : SOps)
  /-- FMUL_BF16X2_SHORT (R293). Short-form paired bfloat16 multiply. -/
  | fmulBf16x2Short (o : SOps)
  /-- MOV_SHORT (R317). Short-form 32-bit vector register move. -/
  | movShort (o : SOps)
  /-- LD_G_B32_SHORT (R345). Short-form global 32-bit load; NW selects sc0 or sc1. -/
  | ldGB32Short (o : SOps)
  /-- LD_S_B32_SHORT (R345). Short-form shared 32-bit load. -/
  | ldSB32Short (o : SOps)
  /-- ST_G_B32_SHORT (R345). Short-form global 32-bit store. -/
  | stGB32Short (o : SOps)
  /-- ST_S_B32_SHORT (R345). Short-form shared 32-bit store. -/
  | stSB32Short (o : SOps)
  /-- LD_G_B64_SHORT (R345). Short-form global 64-bit load into an even pair. -/
  | ldGB64Short (o : SOps)
  /-- ST_G_B64_SHORT (R345). Short-form global 64-bit store. -/
  | stGB64Short (o : SOps)
  /-- LD_S_B64_SHORT (R345). Short-form shared 64-bit load. -/
  | ldSB64Short (o : SOps)
  /-- ST_S_B64_SHORT (R345). Short-form shared 64-bit store. -/
  | stSB64Short (o : SOps)
  /-- NOP_SHORT (R245). The all-zero word; no architectural effect. -/
  | nopShort
  /-- IADD (R275). Long-form wrapping add, 32 or 64 bits, with guard, scalar or immediate b. -/
  | iadd (o : Ops)
  /-- ISUB (R275). Long-form wrapping subtract. -/
  | isub (o : Ops)
  /-- INEG (R275). Wrapping negation. -/
  | ineg (o : Ops)
  /-- IADDC (R276). 32-bit add with carry-in and carry-out predicates. -/
  | iaddc (o : Ops)
  /-- ISUBB (R276). 32-bit subtract with borrow-in and borrow-out predicates. -/
  | isubb (o : Ops)
  /-- IADDS (R277). Saturating 32-bit add, signed or unsigned. -/
  | iadds (o : Ops)
  /-- ISUBS (R277). Saturating 32-bit subtract. -/
  | isubs (o : Ops)
  /-- IABS (R278). Wrapping absolute value. -/
  | iabs (o : Ops)
  /-- IMIN (R279). Long-form integer minimum in the type. -/
  | imin (o : Ops)
  /-- IMAX (R279). Long-form integer maximum in the type. -/
  | imax (o : Ops)
  /-- IMUL (R280). Long-form wrapping multiply. -/
  | imul (o : Ops)
  /-- IMULH (R280). High half of the exact product. -/
  | imulh (o : Ops)
  /-- IMAD (R280). Wrapping multiply-add. -/
  | imad (o : Ops)
  /-- IMADW (R280). 32x32 multiply widened to 64 bits plus a 64-bit addend. -/
  | imadw (o : Ops)
  /-- ILEA (R281). 64-bit address computation a + (b << shift). -/
  | ilea (o : Ops)
  /-- ICMP (R285). Integer compare writing a predicate. -/
  | icmp (o : Ops)
  /-- ISEL (R285). Select a or b by a predicate. -/
  | isel (o : Ops)
  /-- AND (R284). Long-form bitwise AND. -/
  | land (o : Ops)
  /-- OR (R284). Long-form bitwise OR. -/
  | lor (o : Ops)
  /-- XOR (R284). Long-form bitwise XOR. -/
  | lxor (o : Ops)
  /-- ANDN (R284). Long-form a AND NOT b. -/
  | landn (o : Ops)
  /-- ORN (R284). Bitwise a OR NOT b. -/
  | lorn (o : Ops)
  /-- SHL (R282). Long-form left shift with unreduced count. -/
  | shl (o : Ops)
  /-- SHR (R282). Long-form logical right shift. -/
  | shr (o : Ops)
  /-- SRA (R282). Long-form arithmetic right shift. -/
  | sra (o : Ops)
  /-- ROTL (R283). 32-bit rotate left by count modulo 32. -/
  | rotl (o : Ops)
  /-- FSHL (R283). Funnel shift left of the 64-bit concatenation. -/
  | fshl (o : Ops)
  /-- FSHR (R283). Funnel shift right of the 64-bit concatenation. -/
  | fshr (o : Ops)
  /-- BFE (R286). Bit-field extract, signed or unsigned. -/
  | bfe (o : Ops)
  /-- BFI (R286). Bit-field insert. -/
  | bfi (o : Ops)
  /-- POPC (R287). Long-form population count. -/
  | popc (o : Ops)
  /-- CLZ (R287). Long-form leading-zero count. -/
  | clz (o : Ops)
  /-- BREV (R287). Long-form bit reversal. -/
  | brev (o : Ops)
  /-- BMIX (R288). Build each result byte from a selected source byte with zeroing, reversal or complement. -/
  | bmix (o : Ops)
  /-- FADD (R295). Long-form floating-point add in any wide format. -/
  | fadd (o : Ops)
  /-- FSUB (R295). Long-form floating-point subtract. -/
  | fsub (o : Ops)
  /-- FMUL (R295). Long-form floating-point multiply. -/
  | fmul (o : Ops)
  /-- FFMA (R296). Fused multiply-add with one rounding. -/
  | ffma (o : Ops)
  /-- FMIN (R297). Floating-point minimum, minimum or minimumNumber mode. -/
  | fmin (o : Ops)
  /-- FMAX (R297). Floating-point maximum, maximum or maximumNumber mode. -/
  | fmax (o : Ops)
  /-- FDIV (R298). Correctly rounded division on the sfu, with a counter. -/
  | fdiv (o : Ops)
  /-- FSQRT (R298). Correctly rounded square root. -/
  | fsqrt (o : Ops)
  /-- FRCP (R298). Correctly rounded reciprocal. -/
  | frcp (o : Ops)
  /-- FRSQ (R298). Correctly rounded reciprocal square root. -/
  | frsq (o : Ops)
  /-- FEX2 (R299). Binary32 2^a, correctly rounded. -/
  | fex2 (o : Ops)
  /-- FLG2 (R299). Binary32 log2 a, correctly rounded. -/
  | flg2 (o : Ops)
  /-- FSIN (R299). Binary32 sine with exact argument reduction. -/
  | fsin (o : Ops)
  /-- FCOS (R299). Binary32 cosine with exact argument reduction. -/
  | fcos (o : Ops)
  /-- FCMP (R300). Floating-point compare writing predicates. -/
  | fcmp (o : Ops)
  /-- FCLASS (R301). Write a one-hot class mask. -/
  | fclass (o : Ops)
  /-- FGEXP (R302). Write the unbiased exponent as a signed integer. -/
  | fgexp (o : Ops)
  /-- FSIGN (R303). Copy a with the sign of b. -/
  | fsign (o : Ops)
  /-- FRND (R304). Round to an integral value in the same format. -/
  | frnd (o : Ops)
  /-- FCVT (R305). Convert between wide floating-point formats. -/
  | fcvt (o : Ops)
  /-- F2I (R306). Convert floating point to integer with saturation. -/
  | f2i (o : Ops)
  /-- I2F (R306). Convert integer to floating point. -/
  | i2f (o : Ops)
  /-- FSCAL (R307). Scale by a power of two. -/
  | fscal (o : Ops)
  /-- VDOT8 (R308). Per-lane scaled dot product of four 8-bit elements into binary32. -/
  | vdot8 (o : Ops)
  /-- VDOT4 (R308). Per-lane scaled dot product of eight 4-bit elements into binary32. -/
  | vdot4 (o : Ops)
  /-- VDOT8I (R308). Per-lane integer dot product of 8-bit elements. -/
  | vdot8i (o : Ops)
  /-- VDOT4I (R308). Per-lane integer dot product of 4-bit elements. -/
  | vdot4i (o : Ops)
  /-- VPACK (R309). Pack binary32 values to a narrow format, deterministic or stochastic rounding. -/
  | vpack (o : Ops)
  /-- VUNPK (R310). Unpack narrow elements to binary32 registers. -/
  | vunpk (o : Ops)
  /-- VAMAX (R311). Absolute maximum over a run of binary32 registers. -/
  | vamax (o : Ops)
  /-- VSCAL (R312). Apply two block scales to a binary32 value. -/
  | vscal (o : Ops)
  /-- MOV (R317). Long-form move from vector or scalar. -/
  | mov (o : Ops)
  /-- MOVI (R317). Move a 32-bit immediate to every active lane. -/
  | movi (o : Ops)
  /-- MOVH (R317). Set the odd half of a pair to an immediate. -/
  | movh (o : Ops)
  /-- S2V (R318). Write an arithmetic sequence of scalars across lanes. -/
  | s2v (o : Ops)
  /-- V2S (R319). Read one lane's register into a scalar. -/
  | v2s (o : Ops)
  /-- IDXSET (R320). Set an index register. -/
  | idxset (o : Ops)
  /-- IDXADD (R320). Advance an index register's index field. -/
  | idxadd (o : Ops)
  /-- RGN (R321). Load the region buffer with up to 16 named registers. -/
  | rgn (o : Ops)
  /-- PLOG (R322). Three-input predicate truth table. -/
  | plog (o : Ops)
  /-- PMOV (R322). Copy a register bit to a predicate. -/
  | pmov (o : Ops)
  /-- PMASK (R322). Set a predicate from a 64-bit scalar lane mask. -/
  | pmask (o : Ops)
  /-- CSRR (R323). Read one word of a control register. -/
  | csrr (o : Ops)
  /-- CSRW (R324). Write one word of a control register that has no behaviour row of its own. -/
  | csrw (o : Ops)
  /-- SADD (R325). Scalar wrapping add. -/
  | sadd (o : Ops)
  /-- SSUB (R325). Scalar wrapping subtract. -/
  | ssub (o : Ops)
  /-- SMUL (R325). Scalar wrapping multiply. -/
  | smul (o : Ops)
  /-- SMIN (R325). Scalar minimum. -/
  | smin (o : Ops)
  /-- SMAX (R325). Scalar maximum. -/
  | smax (o : Ops)
  /-- SAND (R325). Scalar AND. -/
  | sand (o : Ops)
  /-- SOR (R325). Scalar OR. -/
  | sor (o : Ops)
  /-- SXOR (R325). Scalar XOR. -/
  | sxor (o : Ops)
  /-- SSHL (R325). Scalar left shift. -/
  | sshl (o : Ops)
  /-- SSHR (R325). Scalar right shift, arithmetic or logical by type. -/
  | sshr (o : Ops)
  /-- SCMP (R325). Scalar compare writing 1 or 0. -/
  | scmp (o : Ops)
  /-- SMOVI (R325). Scalar immediate move. -/
  | smovi (o : Ops)
  /-- VOTE (R327). Group-wide all, any or ballot of a predicate. -/
  | vote (o : Ops)
  /-- XLANE (R328). Read another lane's register by get, rot, flip or rev. -/
  | xlane (o : Ops)
  /-- REDUX (R329). Group-wide reduction. -/
  | redux (o : Ops)
  /-- SCAN (R329). Group-wide inclusive or exclusive prefix operation. -/
  | scan (o : Ops)
  /-- MATCH (R330). Mask of lanes holding an equal value. -/
  | matchLanes (o : Ops)
  /-- BCAST (R330). Broadcast one lane's value. -/
  | bcast (o : Ops)
  /-- LXEC (R332). Check lane-computed short words and run them as classes in lowest-lane order. -/
  | lxec (o : Ops)
  /-- BRA (R336). Relative branch, conditional through its guard. -/
  | bra (o : Ops)
  /-- BRC (R336). Branch per lane when a vector register is nonzero. -/
  | brc (o : Ops)
  /-- BRS (R336). Branch on a scalar zero or nonzero. -/
  | brs (o : Ops)
  /-- BRX (R337). Indirect branch to per-lane targets. -/
  | brx (o : Ops)
  /-- CALL (R337). Relative call writing the return pair. -/
  | call (o : Ops)
  /-- CALLX (R337). Indirect call writing the return pair. -/
  | callx (o : Ops)
  /-- RET (R337). Return to the address in a register pair. -/
  | retLanes (o : Ops)
  /-- EXIT (R338). Exit active lanes, releasing slices and ending the group, team and kernel when last. -/
  | exitLanes (o : Ops)
  /-- TRAP (R339). Raise TRAPINSTR. -/
  | trapLanes (o : Ops)
  /-- SYSCALL (R339). Run the SYSCALL entry once per active lane. -/
  | syscall (o : Ops)
  /-- BRKPT (R339). Raise BREAK. -/
  | brkpt (o : Ops)
  /-- YIELD (R340). Scheduling hint with no architectural effect. -/
  | yieldHint (o : Ops)
  /-- NOP (R340). Long-form no-operation in any class. -/
  | nopLong (o : Ops)
  /-- LD (R346). Long-form per-lane load. -/
  | ld (o : Ops)
  /-- ST (R346). Long-form per-lane store into the store queue. -/
  | st (o : Ops)
  /-- LDA (R347). Acquire load at a scope. -/
  | lda (o : Ops)
  /-- STL (R347). Release store at a scope. -/
  | stl (o : Ops)
  /-- ATOM (R348). Atomic read-modify-write with return. -/
  | atom (o : Ops)
  /-- ACAS (R348). Atomic compare-and-swap. -/
  | acas (o : Ops)
  /-- RED (R348). Reduction without return, store-like or into the shadow buffer. -/
  | red (o : Ops)
  /-- FENCE (R350). Fence at a scope. -/
  | fence (o : Ops)
  /-- LDSH (R351). Copy global bytes to shared memory, counting into a barrier object. -/
  | ldsh (o : Ops)
  /-- PREF (R352). Prefetch that may translate, start a thaw and fill L1. -/
  | pref (o : Ops)
  /-- WADDR (R353). Convert between window offsets and generic addresses. -/
  | waddr (o : Ops)
  /-- PADDR (R354). Convert a private address to its alias. -/
  | paddr (o : Ops)
  /-- SLD (R355). Scalar load for the group. -/
  | sld (o : Ops)
  /-- SST (R355). Scalar store for the group. -/
  | sst (o : Ops)
  /-- BARR (R358). Arrive on a barrier object through a queue marker. -/
  | barr (o : Ops)
  /-- BARW (R358). Arrive on a barrier object and wait for the phase. -/
  | barw (o : Ops)
  /-- BWAIT (R359). Wait without arriving, with a timeout. -/
  | bwait (o : Ops)
  /-- BTEST (R359). Test a barrier phase once. -/
  | btest (o : Ops)
  /-- BEXP (R360). Add expected bytes and optionally set expected arrivals. -/
  | bexp (o : Ops)
  /-- GBAR (R363). Arrive at a barrier tree through a release marker. -/
  | gbar (o : Ops)
  /-- GBWAIT (R363). Wait for a tree release. -/
  | gbwait (o : Ops)
  /-- MPOST (R365). Blocking mailbox post. -/
  | mpost (o : Ops)
  /-- MPOST_NB (R365). Non-blocking mailbox post. -/
  | mpostNb (o : Ops)
  /-- MTAKE (R365). Blocking mailbox take. -/
  | mtake (o : Ops)
  /-- MTRY (R365). Non-blocking mailbox take. -/
  | mtry (o : Ops)
  /-- MBIND (R367). Bind or unbind the group's mailbox. -/
  | mbind (o : Ops)
  /-- JOB (R371). Load a job card and submit it to the scheduler. -/
  | job (o : Ops)
  /-- TCPY (R372). Build and submit a COPY card. -/
  | tcpy (o : Ops)
  /-- TSTO (R372). Build and submit a FILL card. -/
  | tsto (o : Ops)
  /-- TGAT (R372). Build and submit a GATHER card. -/
  | tgat (o : Ops)
  /-- TSCT (R372). Build and submit a SCATTER card. -/
  | tsct (o : Ops)
  /-- TCOL (R372). Build and submit a COLLECTIVE card. -/
  | tcol (o : Ops)
  /-- FWAIT (R378). Classify a handle, blocking while pending or running. -/
  | fwait (o : Ops)
  /-- FTEST (R378). Classify a handle without blocking. -/
  | ftest (o : Ops)
  /-- FCANC (R378). Cancel a pending job. -/
  | fcanc (o : Ops)
  /-- QBIND (R379). Bind a queue register to a port. -/
  | qbind (o : Ops)
  /-- QSTAT_STATUS (R379). Read a queue register's level and port. -/
  | qstatStatus (o : Ops)
  /-- QSTAT_POP (R379). Pop one queue entry into lanes. -/
  | qstatPop (o : Ops)
  /-- QSTAT_PUSH (R379). Push one queue entry from lanes. -/
  | qstatPush (o : Ops)
  /-- MSTART (R382). Start the team's sequencer on a matrix stream. -/
  | mstart (o : Ops)
  /-- MSTAT (R382). Read MPROG, MFLAGS or MSTATE. -/
  | mstat (o : Ops)
  /-- SRET (R397). Check and reinstate fragment state and leave a handler. -/
  | sret (o : Ops)
  /-- TLBINV_PAGE (R400). Invalidate one page's translations of a context. -/
  | tlbinvPage (o : Ops)
  /-- TLBINV_CTX (R400). Invalidate all translations of a context. -/
  | tlbinvCtx (o : Ops)
  /-- TLBINV_GLOBAL (R400). Invalidate every global entry. -/
  | tlbinvGlobal (o : Ops)
  /-- PFREP (R399). Replay a parking named by SEQ. -/
  | pfrep (o : Ops)
  /-- PFCAN (R399). Cancel a parking named by SEQ, making it fatal. -/
  | pfcan (o : Ops)
  /-- MSAVE (R394). Save the sequencer to an image and make it idle. -/
  | msave (o : Ops)
  /-- MREST (R396). Restore the sequencer from an image. -/
  | mrest (o : Ops)
  /-- GATE (R402). Issue a gate job card between compartments. -/
  | gate (o : Ops)
  /-- CTXLD_LOAD (R401). Load or reload a context descriptor. -/
  | ctxldLoad (o : Ops)
  /-- CTXLD_TEARDOWN (R401). Tear down a context. -/
  | ctxldTeardown (o : Ops)
  /-- WFI (R403). Wait for a ring entry, the wake flag or a timeout. -/
  | wfi (o : Ops)
  /-- SIPI_WAKE (R404). Set a service core's wake flag. -/
  | sipiWake (o : Ops)
  /-- SIPI_PREEMPT (R404). Pre-empt a context's teams on a compute core. -/
  | sipiPreempt (o : Ops)
  /-- SIPI_JOIN (R404). Set a core's participate bit on a tree. -/
  | sipiJoin (o : Ops)
  /-- SIPI_LEAVE (R404). Clear a core's participate bit, possibly releasing the tree. -/
  | sipiLeave (o : Ops)
  /-- SIPI_RETIRE (R404). Stop the dispatcher admitting to a core. -/
  | sipiRetire (o : Ops)
  /-- SIPI_UNRETIRE (R404). Allow admission to a core again. -/
  | sipiUnretire (o : Ops)
  /-- MNOP (R384). Matrix-stream no-operation. -/
  | mnop
  /-- MMA (R389). Dense matrix multiply-accumulate in k-steps. -/
  | mma (o : MmaOps)
  /-- MMAS (R389). Sparse matrix multiply-accumulate. -/
  | mmas (o : MmaOps)
  /-- MCONV (R388). Convolution multiply-accumulate with B formed by im2col. -/
  | mconv (o : MmaOps)
  /-- MZERO (R386). Zero accumulator slots. -/
  | mzero (acc n1 : BitVec 3)
  /-- MLD (R390). Load raw accumulator slots from shared memory. -/
  | mld (o : TileOps)
  /-- MST (R390). Store raw accumulator slots to shared memory. -/
  | mst (o : TileOps)
  /-- MDRAIN (R390). Convert and write accumulators to shared memory or registers. -/
  | mdrain (o : DrainOps)
  /-- MSHP (R387). Load and check a B record slot. -/
  | mshp (slot : BitVec 3) (off : BitVec 20)
  /-- MBAR (R391). Sequencer arrival on a barrier object. -/
  | mbar (obj : BitVec 4)
  /-- MBWT (R391). Sequencer wait on a barrier phase. -/
  | mbwt (obj : BitVec 4)
  /-- MLOOP (R391). Loop counter step and jump. -/
  | mloop (o : LoopOps)
  /-- MJMP (R391). Stream jump. -/
  | mjmp (off : BitVec 32)
  /-- MEND (R391). End the stream, release held A, go idle. -/
  | mend
  /-- MSTREAM_UNASSIGNED_WORD (R266). Sequencer meets an unassigned op8 and stops with REASON 1. -/
  | mstreamUnassignedWord (w : BitVec 64)
  /-- KINST_INSTALL (R178). Write of KINST word 0 reads and installs a kernel descriptor. -/
  | kinstInstall (o : Ops)
  /-- LMASK_WRITE (R213). Write of LMASK during RESTORE exits cleared lanes. -/
  | lmaskWrite (o : Ops)
  /-- GSAVE_WRITE (R212). Write of 1 to GSAVE makes the group leave its slot. -/
  | gsaveWrite (o : Ops)
  /-- SPPDATA_WRITE (R101). Write of a scratchpad partition entry, checked and zeroing the range. -/
  | sppdataWrite (o : Ops)
  /-- SRSEED_WRITE (R234). Write of SRSEED sets every lane's generator state. -/
  | srseedWrite (o : Ops)
  /-- FPCSR_WRITE (R225). Write of FPCSR with field rules. -/
  | fpcsrWrite (o : Ops)
  /-- QLEVEL_WRITE (R154). Write of a queue register's entry count. -/
  | qlevelWrite (o : Ops)
  /-- RING_POINTER_WRITE (R241). Write of FRPTR, HFQPTR or EVQPTR with checks. -/
  | ringPointerWrite (o : Ops)
  /-- RING_TAIL_WRITE (R241). Software advances a ring tail. -/
  | ringTailWrite (o : Ops)
  /-- RING_HEAD_READ (R418). Read of a ring head, an acquire at dev. -/
  | ringHeadRead (o : Ops)
  /-- TGTSEL_WRITE (R242). Write of TGTSEL selecting targets and clearing MISS. -/
  | tgtselWrite (o : Ops)
  /-- WAITST_VIEW_WRITE (R398). Write of WAITST word 0 selecting the view of word 1. -/
  | waitstViewWrite (o : Ops)
  /-- PROGWIN_WRITE (R193). Write of PROGWIN with its EXP range rule. -/
  | progwinWrite (o : Ops)
  /-- PROGFAULT_WRITE (R195). Write of PROGFAULT with its EXP range rule. -/
  | progfaultWrite (o : Ops)
  /-- CLAUSE_ISSUE (R188). A free issue slot chooses a group and fragment, fetches and checks a clause, and issues it. -/
  | clauseIssue (core part islot : Nat)
  /-- TRANSLATION_WALK (R32). A cluster walker walks the page tables for a missed (context, page). -/
  | translationWalk (cluster ctx : Nat) (va : BitVec 64)
  /-- TLBINV_COMPLETE (R36). Shootdown completes once no structure or in-flight access uses removed translations. -/
  | tlbinvComplete (core slot : Nat)
  /-- STORE_QUEUE_DRAIN (R115). The head store leaves the queue when its conditions hold and is performed at the L1 and home. -/
  | storeQueueDrain (core slot : Nat)
  /-- BARRIER_ARRIVAL (R108). An arrival marker leaves the queue and counts into a barrier object. -/
  | barrierArrival (core slot : Nat)
  /-- ILLBARRIER_DELIVERY (R108). An excess arrival's ILLBARRIER is taken at the fragment's next clause boundary. -/
  | illbarrierDelivery (core slot : Nat)
  /-- TREE_ARRIVAL (R363). A gbar marker leaves the queue and sets the core's arrived bit. -/
  | treeArrival (core slot : Nat)
  /-- TREE_RELEASE_SEEN (R361). A tree release reaches a participating core. -/
  | treeReleaseSeen (tree core : Nat)
  /-- WAIT_END (R190). A blocked wait ends and the fragment re-executes its clause. -/
  | waitEnd (core slot live : Nat)
  /-- BWAIT_TIMEOUT (R359). A bounded wait expires with predicate 0. -/
  | bwaitTimeout (core slot live : Nat)
  /-- WFI_TIMEOUT (R403). wfi's timeout expires. -/
  | wfiTimeout (core : Nat)
  /-- HOME_ACCESS (R52). A request reaches the head of its bank queue and the base die performs it with key, format and ECC checks. -/
  | homeAccess (n : Nat)
  /-- THAW_COMPLETE (R69). A thaw finishes and waiting accesses are performed. -/
  | thawComplete (frame sub : Nat)
  /-- BANK_IDLE_EXPIRY (R61). A bank's idle timer expires and it precharges. -/
  | bankIdleExpiry (stack bank : Nat)
  /-- REFRESH (R88). A refresh precharges the banks it covers. -/
  | refresh (stack first count : Nat)
  /-- BACKGROUND_AGING (R87). A background request waiting 50 µs is promoted to normal. -/
  | backgroundAging (n : Nat)
  /-- FALLOC (R64). Frame-engine job allocating and zeroing a frame. -/
  | falloc (n : Nat)
  /-- FFREE (R64). Frame-engine job freeing a frame. -/
  | ffree (n : Nat)
  /-- FCLEAR (R64). Frame-engine job zeroing a frame and setting its key tag. -/
  | fclear (n : Nat)
  /-- FMIGR (R59). Frame-engine job migrating or reformatting a frame by copy blocks. -/
  | fmigr (n : Nat)
  /-- CUTOVER (R60). Directory update making the destination the only home. -/
  | cutover (frame : Nat)
  /-- SOURCE_RELEASE (R60). Source DRAM cleared and released after invalidation and drain. -/
  | sourceRelease (frame : Nat)
  /-- FSETTLE (R58). Frame-engine job clearing PV. -/
  | fsettle (n : Nat)
  /-- FFROST (R68). Frame-engine job building frost images of sub-frames. -/
  | ffrost (n : Nat)
  /-- FTHAW (R64). Frame-engine job thawing named sub-frames. -/
  | fthaw (n : Nat)
  /-- FSCRUB (R64). Frame-engine job scrubbing granules. -/
  | fscrub (n : Nat)
  /-- HMWRITE (R28). Frame-engine job writing a checked host map entry to every replica. -/
  | hmwrite (n : Nat)
  /-- HMWRITE_COMPLETE (R29). Completion once every replica holds the entry and old translations are done. -/
  | hmwriteComplete (host hfn : Nat)
  /-- SREGW_MCIDLE (R62). Write a stack's MCIDLE register. -/
  | sregwMcidle (n : Nat)
  /-- SREGW_FROSTCTL (R72). Write a stack's FROSTCTL register. -/
  | sregwFrostctl (n : Nat)
  /-- FREAD (R64). Copy a directory entry or base-die register into the completion record. -/
  | fread (n : Nat)
  /-- COPY (R375). Scheduler starts a COPY job. -/
  | copy (sched slot : Nat)
  /-- FILL (R375). Scheduler starts a FILL job. -/
  | fill (sched slot : Nat)
  /-- GATHER (R375). Scheduler starts a GATHER job. -/
  | gather (sched slot : Nat)
  /-- SCATTER (R375). Scheduler starts a SCATTER job. -/
  | scatter (sched slot : Nat)
  /-- COLLECTIVE (R377). Collective engine starts a COLLECTIVE job. -/
  | collective (sched slot : Nat) (peers : List CollPeer)
  /-- GATE_JOB (R159). A gate job copies between compartments and bumps the notification counter. -/
  | gateJob (sched slot : Nat)
  /-- SEAL (R84). Supervisor copy job sealing an evicted page. -/
  | seal (sched slot : Nat)
  /-- UNSEAL (R85). Supervisor copy job verifying and restoring a sealed page. -/
  | unseal (sched slot : Nat)
  /-- JOB_COMPLETE (R147). A job completes, releasing at its scope and resolving its edges. -/
  | jobComplete (sched slot : Nat)
  /-- GATHER_ENTRY_DELIVERY (R376). A held gather entry is delivered to a bound queue with room. -/
  | gatherEntryDelivery (sched slot : Nat)
  /-- TEAM_ADMIT (R185). The dispatcher admits a whole team, starting groups or RESTORE entries. -/
  | teamAdmit (cluster : Nat)
  /-- PROGRESS_SWAP (R191). The progress-window counter reaches its limit and a team may be pre-empted. -/
  | progressSwap (core : Nat)
  /-- PROGRESS_FAULT (R194). The progress-fault counter reaches its limit and parked posters fault. -/
  | progressFault (core : Nat)
  /-- PREEMPT_ENTRY (R211). A group of a chosen team takes PREEMPT at its next clause boundary. -/
  | preemptEntry (core slot : Nat)
  /-- TEAM_SAVE_COMPLETE (R212). Team resources return once every group has left and its jobs are resolved. -/
  | teamSaveComplete (team : Nat)
  /-- DIE_LOST (R220). Loss of a compute die or memory stack. -/
  | dieLost (bit : Nat)
  /-- DIELOSS_ENTRY (R219). A group of an affected context takes DIELOSS. -/
  | dielossEntry (core slot : Nat)
  /-- WARM_RESET (R221). Warm reset of one compute die with die-kernel checkpoint and replay. -/
  | warmReset (die : Nat)
  /-- MODULE_RESET (R440). Module reset returning lifecycle, ownership and directory to their reset values. -/
  | moduleReset
  /-- THERMAL_TRIP (R444). A die reaches its trip limit, resets the compute side and posts an event. -/
  | thermalTrip (bit : Nat)
  /-- HOST_READ (R78). A host read arrives, is translated and served. -/
  | hostRead (r : HostReq)
  /-- HOST_WRITE (R78). A host write arrives, is translated and served. -/
  | hostWrite (r : HostReq)
  /-- HOST_PARTIAL_WRITE (R433). A host partial write with byte mask. -/
  | hostPartialWrite (r : HostReq)
  /-- HOST_ATOMIC (R433). A host atomic on one 64-bit word. -/
  | hostAtomic (r : HostReq)
  /-- WINDOW_UPDATE (R434). A window-update message changes tag windows. -/
  | windowUpdate (port : Nat) (rd wr : BitVec 16)
  /-- FEZAL_COMPLETION (R433). A completion for an outstanding peer request arrives. -/
  | fezalCompletion (port : Nat) (tag : BitVec 16) (status : Nat) (data : List Byte)
  /-- HELD_MISS_RETRANSLATE (R81). Held requests are translated again once the replica entry is valid. -/
  | heldMissRetranslate (host hfn : Nat)
  /-- HOST_FAULT_DEADLINE (R81). At DEADLINE held requests complete with UNMAPPED. -/
  | hostFaultDeadline (host hfn : Nat)
  /-- LINK_TRAINING (R434). A link is trained and its windows granted. -/
  | linkTraining (port : Nat) (rd wr : BitVec 16)
  /-- BISNP (R76). A back-invalidate snoop is answered after L1 invalidation and shadow merge. -/
  | bisnp (port line kind : Nat)
  /-- REPLICA_ACK_TIMEOUT (R161). A replica-page access unacknowledged for 100 µs faults UNCORR. -/
  | replicaAckTimeout (n : Nat)
  /-- RING_WRITE_RESUME (R241). A waiting fault record or event is written once its ring has room. -/
  | ringWriteResume (ring : Ring)
  /-- WORLD_CREATE (R12). Service dies create a tenant world from a signed descriptor. -/
  | worldCreate (d : WorldDesc)
  /-- QUERY (R436). Management command returning identity, map, states and counters. -/
  | query (master ctx : Nat)
  /-- MEASURE (R442). Management command returning a signed measurement report. -/
  | measure (master : Nat) (nonce : BitVec 384)
  /-- CLAIM (R437). Management command asking for ownership. -/
  | claim (master : Nat)
  /-- HANDOVER (R437). Owner names the master that may claim next. -/
  | handover (master heir : Nat)
  /-- HANDOVER_EXPIRY (R437). The one-second handover window lapses. -/
  | handoverExpiry
  /-- RECLAIM (R437). Board-management port takes ownership at once. -/
  | reclaim (master : Nat)
  /-- LIFECYCLE (R440). Advance one interface's lifecycle state. -/
  | lifecycle (master iface : Nat)
  /-- CRESET (R83). Management command performing a compute-side reset. -/
  | creset (master : Nat)
  /-- SETCOLL (R438). Register or remove a collective group. -/
  | setcoll (master : Nat) (reg : Bool) (c : CollGroup)
  /-- POWERCAP (R444). Set the power cap. -/
  | powercap (master watts : Nat)
  /-- COUNTER_WINDOW_BOUNDARY (R441). A 100 ms boundary refreshes coarsened tenant counters. -/
  | counterWindowBoundary
  /-- COPY_BLOCK_COMPLETE (R59). A 512-byte copy block of a migration finishes, CURSOR advances and writes waiting on that block proceed. -/
  | copyBlockComplete (frame : Nat)
  /-- SUBFRAME_FROSTED (R68). FFROST finishes a sub-frame's image and, in one directory update, sets its FROST bit and releases the uncompressed copy. -/
  | subframeFrosted (frame sub : Nat)
  /-- JOB_READS_PERFORMED (R143). Every read of an in-flight job has been performed, resolving WAR edges of later jobs before the job completes. -/
  | jobReadsPerformed (sched slot : Nat)
  /-- COMPUTE_RESET_END (R222). A compute-side reset ends and the resident kernel restarts from firmware, making context 0 live again. -/
  | computeResetEnd
  /-- CXL_LINK_TRAINING (R73). A CXL port trains with its attached device, refusing CXL.cache and logging an event. -/
  | cxlLinkTraining (port : Nat) (d : CxlDevice)
  /-- CXL_COMPLETION (R77). A CXL expander returns MemRd data or acknowledges a MemWr or MemWrPtl. -/
  | cxlCompletion (n : Nat) (poisoned : Bool) (data : List Byte)
  /-- VARIABLE_LATENCY_RESULT (R252). A variable-latency instruction's results and flags are written and its scoreboard counter goes down by 1. -/
  | variableLatencyResult (core slot n : Nat)
  /-- ARITHMETIC_CLOCK_LOWERING (R444). With power above the cap, the module lowers the compute dies' arithmetic clock in 75 MHz steps. -/
  | arithmeticClockLowering (watts : Nat)
  /-- DEBUG_ACCESS (R440). An access arrives on the debug or trace ports, permitted only while every interface is in CONFIG_OPEN. -/
  | debugAccess (addr : Nat)
  /-- WORLD_END (R28). A tenant world ends, ending its host bindings and freeing its key identifiers. -/
  | worldEnd (world : Nat)
  deriving DecidableEq, Repr

end Sys2Proof
end

