-- ==== Sys2Proof/Machine/Forms.lean ====
section
/-! DEFINITION. The encoding rules of the instruction forms: operand codes (11_isa_conventions R249, R250), MOD6 (R247), selectors (12_opcode_map R265), and each form's operand bytes (R270, R289, R314, R341, R356, R364, R368, R392). A word that breaks one of them is no instruction (R217, R267). -/

namespace Sys2Proof

namespace Ops
/-- R247: word 1, byte A. -/
def a (o : Ops) : BitVec 8 := field o.w1 0 8
/-- R247: word 1, byte B. -/
def b (o : Ops) : BitVec 8 := field o.w1 8 8
/-- R247: word 1, byte C. -/
def c (o : Ops) : BitVec 8 := field o.w1 16 8
/-- R247: word 1, byte E. -/
def e (o : Ops) : BitVec 8 := field o.w1 24 8
/-- R247: the 24-bit immediate of layout LI. -/
def imm24 (o : Ops) : BitVec 24 := field o.w1 8 24
/-- R247: MOD6[3:0]. -/
def var (o : Ops) : Nat := fieldNat o.mod 0 4
/-- R247: MOD6[4], the LI form. -/
def li (o : Ops) : Bool := o.mod.getLsbD 4
/-- R247: MOD6[5], operand B is a scalar register. -/
def sB (o : Ops) : Bool := o.mod.getLsbD 5
/-- R246: G 0 with GN or GP nonzero is no instruction. -/
def guardOk (o : Ops) : Bool := o.g || (!o.gn && o.gp == 0)
/-- R265: the space and scope selector: byte C of L4, imm24[20:15] of LI. -/
def sel (o : Ops) : BitVec 8 := if o.li then (field o.w1 23 6).setWidth 8 else o.c
/-- R265: space 0 generic, 1 .g, 2 .s, 3 .c, 4 .l. -/
def space (o : Ops) : Nat := fieldNat o.sel 0 3
/-- R265: scope 0 none, 1 grp, 2 team, 3 clu, 4 dev, 5 sys. -/
def scope (o : Ops) : Nat := fieldNat o.sel 3 3
/-- R252: the scoreboard counter: E[2:0] of L4, imm24[23:21] of LI. -/
def ctr (o : Ops) : Nat := if o.li then fieldNat o.w1 29 3 else fieldNat o.e 0 3
/-- R265: the counter field of csrr, imm24[23:21]. -/
def csrCtr (o : Ops) : Nat := fieldNat o.w1 29 3
/-- R241, R265: the control register number of csrr and csrw. -/
def csr (o : Ops) : Nat := fieldNat o.w1 8 12
/-- R265: the type of atom, acas and red. -/
def aty (o : Ops) : Nat := fieldNat o.e 5 3
end Ops

namespace Form

/-- R249, R250: a vector source, 32 bits or a 64-bit pair. 0xF0-0xF3 are latches. -/
def vsrc (w64 : Bool) (c : BitVec 8) : Bool :=
  c.toNat ≤ 0xF9 && !(w64 && c.toNat ≤ 0xEF && c.toNat % 2 == 1)
/-- R247, R249, R270, R289, R344: a vector source of a form with an LI layout: code 0xFF reads the immediate in LI. -/
def isrc (o : Ops) (w64 : Bool) (c : BitVec 8) : Bool := vsrc w64 c || (o.li && c == 0xFF)
/-- R250: a vector destination under NW. -/
def vdst (nw w64 : Bool) (c : BitVec 8) : Bool :=
  if nw then c == 0xF4
  else (c.toNat ≤ 0xEF && !(w64 && c.toNat % 2 == 1)) || (0xF6 ≤ c.toNat && c.toNat ≤ 0xF9)
/-- R249, R250: a scalar source. The codes 0x40-0x4F are checked against the mode when the instruction runs (R204). -/
def ssrc (w64 : Bool) (c : BitVec 8) : Bool :=
  (c.toNat ≤ 0x4F && !(w64 && c.toNat % 2 == 1)) || c == 0xF4
/-- R247, R249, R344: a scalar source of sld and sst: 0xFF reads the immediate. -/
def issrc (w64 : Bool) (c : BitVec 8) : Bool := ssrc w64 c || c == 0xFF
/-- R249, R250: a scalar destination. -/
def sdst (w64 : Bool) (c : BitVec 8) : Bool := c.toNat ≤ 0x4F && !(w64 && c.toNat % 2 == 1)
/-- R249: a predicate. -/
def pred (c : BitVec 8) : Bool := c.toNat ≤ 0x1F
/-- R249: a queue register. -/
def queue (c : BitVec 8) : Bool := c.toNat ≤ 0x07
/-- A literal at most n. -/
def lit (n : Nat) (c : BitVec 8) : Bool := c.toNat ≤ n
/-- A byte given as 0. -/
def z (c : BitVec 8) : Bool := c == 0
/-- R289: a plain register run of n registers ending at or below v239. -/
def run (n : Nat) (c : BitVec 8) : Bool := c.toNat + n ≤ 240
/-- R265: only the bits of `m` may be set. -/
def only (m : BitVec 8) (c : BitVec 8) : Bool := c &&& ~~~m == 0
/-- R260: T 2 and T 3 are 64 bits wide. -/
def t64 (n : Nat) : Bool := n == 2 || n == 3
/-- R247, R260: MOD6 is listed: the variant in `vs`, LI and scalar B only where the form offers them. -/
def modOk (o : Ops) (vs : List Nat) (li s : Bool) : Bool :=
  vs.contains o.var && (li || !o.li) && (s || !o.sB) && !(o.li && o.sB)
/-- Operand B of a form that allows "s" (R271). -/
def bsrc (o : Ops) (w64 : Bool) : Bool := if o.sB then ssrc w64 o.b else vsrc w64 o.b
/-- C and E are 0. -/
def ce0 (o : Ops) : Bool := z o.c && z o.e
/-- Every byte of word 1 is 0. -/
def w10 (o : Ops) : Bool := o.w1 == 0
/-- Word 1 in L4 with bytes B, C and E 0. -/
def bce0 (o : Ops) : Bool := z o.b && ce0 o

/-- R270: the two-operand integer forms; `wb` is the width of B. -/
def int2 (o : Ops) (vs : List Nat) (li : Bool) (wide32b : Bool) : Bool :=
  modOk o vs li true && vdst o.nw (t64 o.var) o.d && isrc o (t64 o.var) o.a &&
    (o.li || (bsrc o (t64 o.var && !wide32b) && ce0 o))
/-- R270: the carry forms. -/
def carry (o : Ops) : Bool :=
  modOk o [0] false true && vdst o.nw false o.d && vsrc false o.a && bsrc o false && pred o.c && pred o.e
/-- R270: the one-operand integer forms; popc and clz have a 32-bit result. -/
def int1 (o : Ops) (res32 : Bool) : Bool :=
  modOk o [0, 2] false false && vdst o.nw (t64 o.var && !res32) o.d && vsrc (t64 o.var) o.a && bce0 o
/-- R270: imad, fshl, fshr. -/
def int3 (o : Ops) (vs : List Nat) : Bool :=
  modOk o vs false true && vdst o.nw (t64 o.var) o.d && vsrc (t64 o.var) o.a && bsrc o (t64 o.var) &&
    vsrc (t64 o.var) o.c && z o.e
/-- R260: the width of an F code. -/
def f64 (n : Nat) : Bool := n == 1
/-- R289: the two-operand floating forms. -/
def flt2 (o : Ops) (vs : List Nat) (li s : Bool) (em : BitVec 8) : Bool :=
  let w := f64 (o.var % 8)
  modOk o vs li s && vdst o.nw w o.d && isrc o w o.a &&
    (if o.li then o.var ≤ 1 else bsrc o w && z o.c && only em o.e)
/-- R289: the sfu forms of one operand. -/
def sfu1 (o : Ops) (vs : List Nat) : Bool :=
  let w := f64 o.var
  modOk o vs false false && !o.nw && vdst false w o.d && vsrc w o.a && z o.b && z o.c && only 0xC7 o.e
/-- R265: a rounding selector. -/
def rsel (c : BitVec 8) : Bool := c.toNat ≤ 4 || c == 7
/-- R289: the dot products. -/
def vdot (o : Ops) : Bool :=
  modOk o [0] false false && vdst o.nw false o.d && vsrc false o.a && vsrc false o.b && vsrc false o.c &&
    only 0x0F o.e
/-- R309: elements of a narrow target code. -/
def narrowN (v : Nat) : Nat := if v % 8 < 4 then 4 else 8
/-- R314: the scalar forms of two operands. -/
def sca2 (o : Ops) (vs : List Nat) (b32 : Bool) : Bool :=
  modOk o vs true false && !o.nw && sdst (t64 o.var) o.d && ssrc (t64 o.var) o.a &&
    (o.li || (ssrc (t64 o.var && !b32) o.b && ce0 o))
/-- R265: the C selector of a memory form: space at most 4, scope in range. -/
def selOk (o : Ops) (lo hi : Nat) : Bool :=
  o.space ≤ 4 && lo ≤ o.scope && o.scope ≤ hi && (o.li || fieldNat o.c 6 2 == 0)
/-- R342: the address operand: a pair for generic and .g, one register for .s, .c and .l. -/
def addr (o : Ops) : Bool := isrc o (o.space ≤ 1) o.a
/-- R343: a register operand of a Z size. -/
def zreg (o : Ops) (dst : Bool) (zc : Nat) (c : BitVec 8) : Bool :=
  if zc == 4 then c.toNat ≤ 0xEC && c.toNat % 4 == 0
  else if dst then vdst false (zc == 3) c else isrc o (zc == 3) c
/-- R341: loads and stores. `dst` says that D is written; `ctr` that the form names a counter. -/
def mem (o : Ops) (vs : List Nat) (dst : Bool) (lo hi : Nat) : Bool :=
  modOk o vs true false && !o.nw && selOk o lo hi && addr o && zreg o dst o.var o.d &&
    (if o.li then dst || fieldNat o.w1 29 3 == 0 else vsrc false o.b && only (if dst then 7 else 0) o.e)
/-- R343: types of 8 bytes. -/
def aty64 (t : Nat) : Bool := t == 2 || t == 3 || t == 5
/-- R348: the types an atomic operation allows. -/
def atyOk (op t : Nat) : Bool := if op == 3 || op == 4 || op == 5 then t ≤ 3 else true
/-- R368: the engine forms with a handle and the E byte of tcpy. -/
def tcard (o : Ops) : Bool :=
  o.mod == 0 && !o.nw && sdst true o.d && ssrc true o.a && (o.e.getLsbD 3 || fieldNat o.e 4 4 == 0)
/-- R392: a system form of layout L4. -/
def sys (o : Ops) : Bool := o.mod == 0 && !o.nw

end Form

open Form

/-- R245, R249, R258: the operand bytes of a short instruction: vector sources, with 0xFF reserved. -/
def shortOk (o : SOps) (w64 : Bool) (b : BitVec 8 → Bool) : Bool :=
  vdst o.nw w64 o.d && vsrc w64 o.a && b o.b
/-- R345: the literal offset of a short memory word: no latch code and no reserved code. -/
def shortOff (c : BitVec 8) : Bool := c.toNat ≤ 0xEF || (0xF4 ≤ c.toNat && c.toNat ≤ 0xF9)

/-- R258, R274, R293, R317, R345: whether a short instruction's bytes obey its form; true of what is no short form. -/
def shortFormOk : Instr → Bool
  | .iaddShort o | .isubShort o | .imulShort o | .imulhShort o | .iminShort o | .imaxShort o | .andShort o
  | .orShort o | .xorShort o | .andnShort o | .shlShort o | .shrShort o | .sraShort o
  | .faddF32Short o | .fsubF32Short o | .fmulF32Short o | .fminF32Short o | .fmaxF32Short o
  | .faddF16x2Short o | .fmulF16x2Short o | .faddBf16x2Short o | .fmulBf16x2Short o => shortOk o false (vsrc false)
  | .faddF64Short o | .fsubF64Short o | .fmulF64Short o => shortOk o true (vsrc true)
  | .popcShort o | .clzShort o | .brevShort o | .movShort o => shortOk o false z
  | .iaddImm8Short o | .shlImmShort o | .shrImmShort o | .sraImmShort o => shortOk o false (fun _ => true)
  | .ldGB32Short o => vdst false false o.d && vsrc true o.a && shortOff o.b
  | .ldSB32Short o => vdst false false o.d && vsrc false o.a && shortOff o.b
  | .ldGB64Short o => vdst false true o.d && vsrc true o.a && shortOff o.b
  | .ldSB64Short o => vdst false true o.d && vsrc false o.a && shortOff o.b
  | .stGB32Short o => !o.nw && vsrc false o.d && vsrc true o.a && shortOff o.b
  | .stSB32Short o => !o.nw && vsrc false o.d && vsrc false o.a && shortOff o.b
  | .stGB64Short o => !o.nw && vsrc true o.d && vsrc true o.a && shortOff o.b
  | .stSB64Short o => !o.nw && vsrc true o.d && vsrc false o.a && shortOff o.b
  | _ => true

/-- R261, R270: the integer forms; none for what is no integer form. -/
def intFormOk : Instr → Option Bool
  | .iadd o | .isub o | .imul o | .land o | .lor o | .lxor o | .landn o | .lorn o => some (int2 o [0, 2] true false)
  | .imin o | .imax o => some (int2 o [0, 1, 2, 3] true false)
  | .iadds o | .isubs o => some (int2 o [0, 1] true false)
  | .imulh o => some (int2 o [0, 1, 2, 3] false false)
  | .shl o | .shr o | .sra o => some (int2 o [0, 2] true true)
  | .rotl o => some (int2 o [0] true false)
  | .iaddc o | .isubb o => some (carry o)
  | .ineg o | .iabs o | .brev o => some (int1 o false)
  | .popc o | .clz o => some (int1 o true)
  | .imad o => some (int3 o [0, 2])
  | .fshl o | .fshr o => some (int3 o [0])
  | .imadw o => some (modOk o [0, 1] false true && vdst o.nw true o.d && vsrc false o.a && bsrc o false &&
      vsrc true o.c && z o.e)
  | .ilea o => some (modOk o [0] true true && vdst o.nw true o.d && isrc o true o.a &&
      (o.li || (bsrc o false && lit 7 o.c && only 1 o.e)))
  | .icmp o => some (modOk o [0, 1, 2, 3] false true && !o.nw && pred o.d && vsrc (t64 o.var) o.a &&
      bsrc o (t64 o.var) && lit 5 o.c && z o.e)
  | .isel o => some (modOk o [0, 2] true true && vdst o.nw (t64 o.var) o.d && isrc o (t64 o.var) o.a &&
      (o.li || (bsrc o (t64 o.var) && pred o.c && z o.e)))
  | .bfe o => some (modOk o [0, 1] true false && vdst o.nw false o.d && isrc o false o.a &&
      (if o.li then fieldNat o.w1 24 8 == 0 else vsrc false o.b && vsrc false o.c && z o.e))
  | .bfi o => some (modOk o [0] true false && vdst o.nw false o.d && isrc o false o.a &&
      (if o.li then !o.nw && fieldNat o.w1 24 8 == 0 else vsrc false o.b && vsrc false o.c && vsrc false o.e))
  | .bmix o => some (modOk o [0] true false && vdst o.nw false o.d && isrc o false o.a &&
      (o.li || (vsrc false o.b && vsrc false o.c && z o.e)))
  | _ => none

/-- R262, R265, R289: the floating-point and narrow forms. -/
def fltFormOk : Instr → Option Bool
  | .fadd o | .fsub o | .fmul o => some (flt2 o [0, 1, 2, 3, 4, 5] true true 0xF0)
  | .fmin o | .fmax o => some (flt2 o [0, 1, 2, 3, 4, 5, 8, 9, 10, 11, 12, 13] false true 0xF0)
  | .fsign o => some (flt2 o [0, 1, 2, 3, 4, 5] false true 0xF0)
  | .fdiv o => some (!o.nw && flt2 o [0, 1] false true 0xF7)
  | .ffma o => some (modOk o [0, 1, 2, 3, 4, 5] false true && vdst o.nw (f64 o.var) o.d && vsrc (f64 o.var) o.a &&
      bsrc o (f64 o.var) && vsrc (f64 o.var) o.c && only 0xF8 o.e)
  | .fsqrt o | .frcp o | .frsq o => some (sfu1 o [0, 1])
  | .fex2 o | .flg2 o | .fsin o | .fcos o => some (sfu1 o [0])
  | .fcmp o => some (modOk o [0, 1, 2, 3, 4, 5] false true && !o.nw && pred o.d && vsrc (f64 o.var) o.a &&
      bsrc o (f64 o.var) && lit 7 o.c && only 0xF0 o.e && (o.var < 4 || o.d.toNat % 2 == 0))
  | .fclass o | .fgexp o => some (modOk o [0, 1, 2, 3] false false && vdst o.nw false o.d && vsrc (f64 o.var) o.a && bce0 o)
  | .frnd o => some (modOk o [0, 1, 2, 3] false false && vdst o.nw (f64 o.var) o.d && vsrc (f64 o.var) o.a &&
      rsel o.b && z o.c && only 0xC0 o.e)
  | .fcvt o => some (modOk o [0, 1, 2, 3] false false && vdst o.nw (f64 o.var) o.d && lit 3 o.c &&
      vsrc (f64 o.c.toNat) o.a && rsel o.b && only 0xC0 o.e)
  | .f2i o => some (modOk o [0, 1, 2, 3] false false && vdst o.nw (t64 o.var) o.d && lit 3 o.c &&
      vsrc (f64 o.c.toNat) o.a && rsel o.b && only 0xC0 o.e)
  | .i2f o => some (modOk o [0, 1, 2, 3] false false && vdst o.nw (f64 o.var) o.d && lit 3 o.c &&
      vsrc (t64 o.c.toNat) o.a && rsel o.b && z o.e)
  | .fscal o => some (modOk o [0, 1, 2, 3] false true && vdst o.nw (f64 o.var) o.d && vsrc (f64 o.var) o.a &&
      bsrc o false && z o.c && only 0xC0 o.e)
  | .vdot8 o | .vdot4 o | .vdot8i o | .vdot4i o => some (vdot o)
  | .vpack o => some (modOk o [0, 1, 2, 4, 5, 8, 9, 10, 12, 13] false false && vdst o.nw false o.d &&
      run (narrowN o.var) o.a && bce0 o)
  | .vunpk o => some (modOk o [0, 1, 2, 4, 5] false false && !o.nw && run (narrowN o.var) o.d && vsrc false o.a && bce0 o)
  | .vamax o => some (modOk o [0] false false && vdst o.nw false o.d && 1 ≤ o.b.toNat && lit 32 o.b && run o.b.toNat o.a && ce0 o)
  | .vscal o => some (modOk o [0] false false && vdst o.nw false o.d && vsrc false o.a && vsrc false o.b &&
      vsrc false o.c && only 0x0F o.e)
  | _ => none

/-- R321: the register runs of rgn. -/
def rgnOk (w : Word) : Bool :=
  fieldNat w 8 5 + fieldNat w 24 5 ≤ 16 && fieldNat w 13 3 == 0 && fieldNat w 29 3 == 0 &&
    fieldNat w 0 8 ≤ 239 && fieldNat w 16 8 ≤ 239

/-- R240, R265: csrr and csrw: imm24[20:12] is 0, and imm24[23:21] in csrw; D, A and csrr's counter are checked against the register when the instruction runs. -/
def csrOk (o : Ops) (rd : Bool) : Bool :=
  o.mod == 0 && fieldNat o.w1 20 9 == 0 && (if rd then z o.a else z o.d && !o.nw && fieldNat o.w1 29 3 == 0)

/-- R263, R264, R314: the move, scalar, group-wide and control-flow forms. -/
def datFormOk : Instr → Option Bool
  | .mov o => some (modOk o [0, 2] false true && vdst o.nw (t64 o.var) o.d && ce0 o &&
      (if o.sB then z o.a && ssrc (t64 o.var) o.b else vsrc (t64 o.var) o.a && z o.b))
  | .movi o => some (o.mod == 0 && vdst o.nw false o.d)
  | .movh o => some (o.mod == 0 && vdst o.nw true o.d)
  | .s2v o => some (modOk o [0, 2] false false && vdst o.nw (t64 o.var) o.d && ssrc (t64 o.var) o.a &&
      ssrc (t64 o.var) o.b && ce0 o)
  | .v2s o => some (modOk o [0] true false && !o.nw && sdst false o.d && vsrc false o.a &&
      (if o.li then fieldNat o.w1 14 18 == 0 else ssrc false o.b && ce0 o))
  | .idxset o => some (o.mod == 0 && !o.nw && lit 3 o.d)
  | .idxadd o => some (o.mod == 0 && !o.nw && lit 3 o.d && vsrc false o.a && bce0 o)
  | .rgn o => some (o.mod == 0 && !o.nw && !o.g && z o.d && rgnOk o.w1)
  | .plog o => some (o.mod == 0 && !o.nw && pred o.d && pred o.a && pred o.b && pred o.c)
  | .pmov o => some (o.mod == 0 && !o.nw && pred o.d && vsrc false o.a && lit 31 o.b && ce0 o)
  | .pmask o => some (o.mod == 0 && !o.nw && pred o.d && ssrc true o.a && bce0 o)
  | .csrr o | .ringHeadRead o => some (csrOk o true)
  | .csrw o | .kinstInstall o | .lmaskWrite o | .gsaveWrite o | .sppdataWrite o | .srseedWrite o | .fpcsrWrite o
  | .qlevelWrite o | .ringPointerWrite o | .ringTailWrite o | .tgtselWrite o | .waitstViewWrite o
  | .progwinWrite o | .progfaultWrite o => some (csrOk o false)
  | .sadd o | .ssub o | .smul o | .sand o | .sor o | .sxor o => some (sca2 o [0, 2] false)
  | .smin o | .smax o => some (sca2 o [0, 1, 2, 3] false)
  | .sshl o => some (sca2 o [0, 2] true)
  | .sshr o => some (sca2 o [0, 1, 2, 3] true)
  | .scmp o => some (modOk o [0, 1, 2, 3] false false && !o.nw && sdst false o.d && ssrc (t64 o.var) o.a &&
      ssrc (t64 o.var) o.b && lit 5 o.c && z o.e)
  | .smovi o => some (o.mod == 0 && !o.nw && sdst false o.d)
  | .vote o => some (modOk o [0, 1, 2] false false && !o.nw && (if o.var == 2 then sdst true o.d else pred o.d) &&
      pred o.a && bce0 o)
  | .xlane o => some (modOk o [0, 1, 2, 3] true true && vdst o.nw false o.d && vsrc false o.a &&
      (if o.li then fieldNat o.w1 15 17 == 0 else bsrc o false && ce0 o))
  | .redux o => some (modOk o [0, 1, 2, 3, 4, 5, 6, 7] false false && vdst o.nw false o.d && vsrc false o.a && bce0 o)
  | .scan o => some (modOk o (List.range 16) false false && vdst o.nw false o.d && vsrc false o.a && bce0 o)
  | .matchLanes o => some (modOk o [0, 2] false false && vdst o.nw true o.d && vsrc (t64 o.var) o.a && bce0 o)
  | .bcast o => some (modOk o [0, 2] true true && vdst o.nw (t64 o.var) o.d && vsrc (t64 o.var) o.a &&
      (if o.li then fieldNat o.w1 14 18 == 0 else bsrc o false && ce0 o))
  | .lxec o => some (o.mod == 0 && !o.nw && z o.d && lit 0xEF o.a && bce0 o)
  | .bra o => some (o.mod == 0 && !o.nw && z o.d)
  | .brc o => some (o.mod == 0 && !o.nw && z o.d && vsrc false o.a && fieldNat o.w1 29 3 == 0)
  | .brs o => some (modOk o [0, 1] false false && !o.nw && z o.d && ssrc false o.a && fieldNat o.w1 29 3 == 0)
  | .brx o | .retLanes o => some (o.mod == 0 && !o.nw && z o.d && vsrc true o.a && bce0 o)
  | .call o => some (o.mod == 0 && !o.nw && vdst false true o.d)
  | .callx o => some (o.mod == 0 && !o.nw && vdst false true o.d && vsrc true o.a && bce0 o)
  | .exitLanes o | .yieldHint o | .nopLong o => some (o.mod == 0 && !o.nw && z o.d && w10 o)
  | .trapLanes o | .syscall o | .brkpt o => some (o.mod == 0 && !o.nw && z o.d)
  | _ => none

/-- R264, R265, R341, R356, R364: the memory, barrier, tree and mailbox forms. -/
def memFormOk : Instr → Option Bool
  | .ld o => some (mem o [0, 1, 2, 3, 4, 5, 6] true 0 0)
  | .st o => some (mem o [0, 1, 2, 3, 4] false 0 0)
  | .lda o => some (mem o [2, 3] true 1 5)
  | .stl o => some (mem o [2, 3] false 1 5)
  | .atom o => some (modOk o [0, 1, 2, 3, 4, 5, 6] false false && !o.nw && selOk o 1 5 && addr o &&
      vdst false (aty64 o.aty) o.d && vsrc (aty64 o.aty) o.b && atyOk o.var o.aty && fieldNat o.e 3 2 == 0)
  | .acas o => some (modOk o [0] false false && !o.nw && selOk o 1 5 && addr o && vdst false (aty64 o.aty) o.d &&
      vsrc (aty64 o.aty) o.b && o.aty ≤ 3 && fieldNat o.e 3 2 == 0)
  | .red o => some (modOk o [0, 1, 2, 3, 4, 5] false false && !o.nw && selOk o 1 5 && addr o &&
      vsrc (aty64 o.aty) o.d && z o.b && atyOk o.var o.aty && fieldNat o.e 0 5 == 0)
  | .fence o => some (o.mod == 0 && !o.nw && z o.d && z o.a && z o.b && selOk o 1 5 && o.space == 0 && z o.e)
  | .ldsh o => some (modOk o [2, 3, 4] true false && !o.nw && lit 15 o.d && isrc o true o.a && selOk o 0 0 && o.space ≤ 1 &&
      (if o.li then fieldNat o.w1 29 3 == 0 else vsrc false o.b && z o.e))
  | .pref o => some (modOk o [0] true false && !o.nw && z o.d && selOk o 0 0 && addr o &&
      (if o.li then fieldNat o.w1 29 3 == 0 else vsrc false o.b && z o.e))
  | .waddr o => some (modOk o [1, 2, 3, 4, 9, 10, 11, 12] false false && !o.nw &&
      vdst false (o.var < 8 || o.var == 9) o.d && vsrc (8 < o.var || o.var == 1) o.a && z o.b &&
      (if o.c.getLsbD 7 then fieldNat o.c 5 2 == 0 else z o.c) && z o.e)
  | .paddr o => some (o.mod == 0 && !o.nw && vdst false true o.d && vsrc true o.a && bce0 o)
  | .sld o => some ((o.var == 2 || o.var == 3) && o.li && !o.sB && !o.nw && sdst (o.var == 3) o.d &&
      o.space ≤ 3 && o.scope == 0 && issrc (o.space ≤ 1) o.a)
  | .sst o => some ((o.var == 2 || o.var == 3) && o.li && !o.sB && !o.nw && issrc (o.var == 3) o.d &&
      o.space ≤ 3 && o.scope == 0 && issrc (o.space ≤ 1) o.a && fieldNat o.w1 29 3 == 0)
  | .barr o | .barw o | .gbar o | .gbwait o => some (modOk o (List.range 16) false false && !o.nw && z o.d && w10 o)
  | .btest o => some (modOk o (List.range 16) false false && !o.nw && pred o.d && w10 o)
  | .bwait o => some (modOk o (List.range 16) true true && !o.nw && pred o.d && z o.a &&
      (o.li || (bsrc o false && ce0 o)))
  | .bexp o => some (modOk o (List.range 16) true true && !o.nw && z o.d && z o.a &&
      (o.li || (bsrc o false && (lit 0xF0 o.c || o.c == 0xF4) && z o.e)))
  | .mpost o => some (o.mod == 0 && !o.nw && vsrc false o.d && ssrc true o.a && bce0 o)
  | .mpostNb o => some (o.mod == 1 && !o.nw && vsrc false o.d && ssrc true o.a && z o.b && pred o.c && only 7 o.e)
  | .mtake o => some (o.mod == 0 && !o.nw && vdst false false o.d && ssrc true o.a && z o.b && z o.c && only 7 o.e)
  | .mtry o => some (o.mod == 0 && !o.nw && vdst false false o.d && ssrc true o.a && z o.b && pred o.c && only 7 o.e)
  | .mbind o => some (o.mod == 0 && !o.nw && z o.d && ssrc true o.a && bce0 o)
  | _ => none

/-- R264, R368, R392: the engine and system forms. -/
def engFormOk : Instr → Option Bool
  | .job o => some (o.mod == 0 && !o.nw && sdst true o.d && ssrc true o.a && z o.b && z o.c && only 7 o.e)
  | .tcpy o => some (tcard o && ssrc true o.b && ssrc false o.c)
  | .tsto o => some (tcard o && ssrc false o.b && ssrc false o.c)
  | .tgat o | .tsct o => some (tcard o && ssrc true o.b && lit 0x4C o.c && o.c.toNat % 4 == 0)
  | .tcol o => some (tcard o && ssrc false o.b && ssrc false o.c)
  | .fwait o => some (o.mod == 0 && !o.nw && sdst false o.d && ssrc true o.a && bce0 o)
  | .ftest o | .fcanc o => some (o.mod == 0 && !o.nw && sdst false o.d && ssrc true o.a && z o.b && z o.c && only 7 o.e)
  | .qbind o => some (modOk o [0, 1, 2, 3, 4, 5, 6] false false && !o.nw && queue o.d && w10 o)
  | .qstatStatus o => some (o.mod == 0 && !o.nw && sdst false o.d && queue o.a && z o.b && z o.c && z o.e)
  | .qstatPop o => some (o.mod == 0 && !o.nw && vdst false false o.d && queue o.a && z o.b && o.c == 1 && z o.e)
  | .qstatPush o => some (o.mod == 0 && !o.nw && z o.d && queue o.a && vsrc false o.b && o.c == 2 && z o.e)
  | .mstart o => some (o.mod == 0 && !o.nw && z o.d && ssrc true o.a && ssrc false o.b && ce0 o)
  | .mstat o => some (o.mod == 0 && !o.nw && sdst true o.d && z o.a && z o.b && lit 2 o.c && z o.e)
  | .sret o => some (sys o && z o.d && w10 o)
  | .tlbinvPage o => some (o.mod == 0 && !o.nw && z o.d && ssrc false o.a && ssrc true o.b && ce0 o)
  | .tlbinvCtx o => some (o.mod == 1 && !o.nw && z o.d && ssrc false o.a && o.b == 0xF4 && ce0 o)
  | .tlbinvGlobal o => some (o.mod == 2 && !o.nw && z o.d && o.a == 0xF4 && o.b == 0xF4 && ce0 o)
  | .pfrep o | .pfcan o => some (sys o && sdst false o.d && ssrc false o.a && z o.b && z o.c && only 7 o.e)
  | .msave o | .mrest o => some (sys o && z o.d && ssrc true o.a && bce0 o)
  | .gate o => some (sys o && sdst true o.d && ssrc true o.a && ssrc true o.b && lit 15 o.c && only 7 o.e)
  | .ctxldLoad o => some (sys o && sdst false o.d && ssrc true o.a && o.a != 0xF4 && o.b == 0xF4 && z o.c && only 7 o.e)
  | .ctxldTeardown o => some (sys o && sdst false o.d && o.a == 0xF4 && ssrc false o.b && z o.c && only 7 o.e)
  | .wfi o => some (sys o && z o.d)
  | .sipiWake o => some (sys o && sdst false o.d && ssrc false o.a && ssrc false o.b && o.c == 0 && only 7 o.e)
  | .sipiPreempt o => some (sys o && sdst false o.d && ssrc false o.a && ssrc false o.b && o.c == 1 && only 7 o.e)
  | .sipiJoin o => some (sys o && sdst false o.d && ssrc false o.a && ssrc false o.b && o.c == 2 && only 7 o.e)
  | .sipiLeave o => some (sys o && sdst false o.d && ssrc false o.a && ssrc false o.b && o.c == 3 && only 7 o.e)
  | .sipiRetire o => some (sys o && sdst false o.d && ssrc false o.a && ssrc false o.b && o.c == 4 && only 7 o.e)
  | .sipiUnretire o => some (sys o && sdst false o.d && ssrc false o.a && ssrc false o.b && o.c == 5 && only 7 o.e)
  | _ => none

/-- R383, R384: what the word alone decides: format codes and the fields given as 0. Slots of a tile are a matter of the team's width (R386), and AREG, SREG, MREG and GRP are ignored while A is held (R389). -/
def mtxFormOk : Instr → Option Bool
  | .mma o | .mconv o => some (o.afmt.toNat ≤ 5 && (!o.acci || 4 ≤ o.afmt.toNat))
  | .mmas o => some (4 ≤ o.afmt.toNat && o.afmt.toNat ≤ 5)
  | .mzero acc n1 => some (acc.toNat + n1.toNat + 1 ≤ 8)
  | .mld o => some (o.asz.toNat ≤ 1 && !o.cnt && o.bobj == 0 && o.off.toNat % 16 == 0)
  | .mst o => some (o.asz.toNat ≤ 1 && o.off.toNat % 16 == 0)
  | .mdrain o => some (o.asz.toNat ≤ 2 && o.dfmt.toNat ≤ 4 &&
      ((o.asz == 0 && o.dfmt.toNat ≤ 2) || (o.asz == 1 && (o.dfmt == 3 || o.dfmt == 0)) ||
        (o.asz == 2 && (o.dfmt == 4 || o.dfmt == 0))) &&
      (if o.dst then !o.cnt && o.bobj == 0 && o.off == 0 && o.dreg.toNat % 8 == 0
       else !o.ch && o.grp == 0 && o.dreg == 0))
  | .mshp _ off => some (off.toNat % 64 == 0)
  | .mstreamUnassignedWord w => some (0x0E ≤ fieldNat w 56 8)
  | _ => none

/-- The fields of a long form; none for what is no long form. -/
def Instr.ops? : Instr → Option Ops
  | .iadd o | .isub o | .ineg o | .iaddc o | .isubb o | .iadds o | .isubs o | .iabs o | .imin o | .imax o | .imul o
  | .imulh o | .imad o | .imadw o | .ilea o | .icmp o | .isel o | .land o | .lor o | .lxor o | .landn o | .lorn o
  | .shl o | .shr o | .sra o | .rotl o | .fshl o | .fshr o | .bfe o | .bfi o | .popc o | .clz o | .brev o | .bmix o
  | .fadd o | .fsub o | .fmul o | .ffma o | .fmin o | .fmax o | .fdiv o | .fsqrt o | .frcp o | .frsq o | .fex2 o
  | .flg2 o | .fsin o | .fcos o | .fcmp o | .fclass o | .fgexp o | .fsign o | .frnd o | .fcvt o | .f2i o | .i2f o
  | .fscal o | .vdot8 o | .vdot4 o | .vdot8i o | .vdot4i o | .vpack o | .vunpk o | .vamax o | .vscal o
  | .mov o | .movi o | .movh o | .s2v o | .v2s o | .idxset o | .idxadd o | .rgn o | .plog o | .pmov o | .pmask o
  | .csrr o | .csrw o | .sadd o | .ssub o | .smul o | .smin o | .smax o | .sand o | .sor o | .sxor o | .sshl o
  | .sshr o | .scmp o | .smovi o | .vote o | .xlane o | .redux o | .scan o | .matchLanes o | .bcast o | .lxec o
  | .bra o | .brc o | .brs o | .brx o | .call o | .callx o | .retLanes o | .exitLanes o | .trapLanes o | .syscall o
  | .brkpt o | .yieldHint o | .nopLong o | .ld o | .st o | .lda o | .stl o | .atom o | .acas o | .red o | .fence o
  | .ldsh o | .pref o | .waddr o | .paddr o | .sld o | .sst o | .barr o | .barw o | .bwait o | .btest o | .bexp o
  | .gbar o | .gbwait o | .mpost o | .mpostNb o | .mtake o | .mtry o | .mbind o | .job o | .tcpy o | .tsto o | .tgat o
  | .tsct o | .tcol o | .fwait o | .ftest o | .fcanc o | .qbind o | .qstatStatus o | .qstatPop o | .qstatPush o
  | .mstart o | .mstat o | .sret o | .tlbinvPage o | .tlbinvCtx o | .tlbinvGlobal o | .pfrep o | .pfcan o | .msave o
  | .mrest o | .gate o | .ctxldLoad o | .ctxldTeardown o | .wfi o | .sipiWake o | .sipiPreempt o | .sipiJoin o
  | .sipiLeave o | .sipiRetire o | .sipiUnretire o | .kinstInstall o | .lmaskWrite o | .gsaveWrite o | .sppdataWrite o
  | .srseedWrite o | .fpcsrWrite o | .qlevelWrite o | .ringPointerWrite o | .ringTailWrite o | .ringHeadRead o
  | .tgtselWrite o | .waitstViewWrite o | .progwinWrite o | .progfaultWrite o => some o
  | _ => none

/-- R241: the row of the opcode table that a control-register access is: its number picks the rows that have rules of their own. -/
def csrRow (write : Bool) (o : Ops) : Instr :=
  let n := o.csr
  if write then
    if n = 0x1C8 then .kinstInstall o
    else if n = 0x002 || n = 0x003 then .lmaskWrite o
    else if n = 0x12A then .gsaveWrite o
    else if n = 0x1C4 || n = 0x1C5 then .sppdataWrite o
    else if n = 0x001 then .srseedWrite o
    else if n = 0x000 then .fpcsrWrite o
    else if n = 0x148 then .qlevelWrite o
    else if 0x200 ≤ n && n ≤ 0x205 then .ringPointerWrite o
    else if n = 0x209 || n = 0x20B || n = 0x20D then .ringTailWrite o
    else if n = 0x1CC || n = 0x1CD then .tgtselWrite o
    else if n = 0x128 then .waitstViewWrite o
    else if n = 0x1C0 then .progwinWrite o
    else if n = 0x1C1 then .progfaultWrite o
    else .csrw o
  else if n = 0x208 || n = 0x20A || n = 0x20C then .ringHeadRead o
  else .csrr o

/-- Whether an instruction's fields obey its form: what WellFormed checks and decode refuses otherwise. An event of the hardware has no encoding. -/
def formOk (i : Instr) : Bool :=
  shortFormOk i &&
  (match i.ops? with | some o => o.guardOk | none => true) &&
  (match intFormOk i with | some b => b | none => true) &&
  (match fltFormOk i with | some b => b | none => true) &&
  (match datFormOk i with | some b => b | none => true) &&
  (match memFormOk i with | some b => b | none => true) &&
  (match engFormOk i with | some b => b | none => true) &&
  (match mtxFormOk i with | some b => b | none => true) &&
  (match i with
   | .csrr o => csrRow false o == i && (o.csr ≠ 0x208 && o.csr ≠ 0x20A && o.csr ≠ 0x20C)
   | .ringHeadRead o => o.csr = 0x208 || o.csr = 0x20A || o.csr = 0x20C
   | .csrw o | .kinstInstall o | .lmaskWrite o | .gsaveWrite o | .sppdataWrite o | .srseedWrite o | .fpcsrWrite o
   | .qlevelWrite o | .ringPointerWrite o | .ringTailWrite o | .tgtselWrite o | .waitstViewWrite o
   | .progwinWrite o | .progfaultWrite o => csrRow true o == i
   | _ => true)

end Sys2Proof
end

