-- ==== Sys2Proof/WellFormed.lean ====
section
/-! DEFINITION. Well-formedness of an instruction as syntax: its fields obey the form that the manual gives (Machine/Forms.lean). Every instruction that decode answers is well formed, and encode is meant for well-formed instructions. -/

namespace Sys2Proof

/-- The instruction's fields obey its form. -/
abbrev WellFormed (i : Instr) : Prop := formOk i = true

end Sys2Proof
end

