-- ==== Sys2Proof/Decode.lean ====
section
/-! DEFINITION. Decoding: words to instructions or a named refusal, total on any words (11_isa_conventions R245-R247, 12_opcode_map R258-R267, 17_isa_engines_matrix R266, R384); then the encoder, written from the same tables. A core's stream is 32-bit words, a matrix stream 64-bit words; both little-endian (R239). -/

namespace Sys2Proof

/-- Why a word is no instruction (R267). -/
inductive DecodeError where
  /-- An unassigned op6, or op6 0 with another bit set. -/
  | unassignedOp6
  /-- An unassigned op9. -/
  | unassignedOp9
  /-- R246: G 0 with GN or GP nonzero. -/
  | guardBits
  /-- MOD6, a selector, an operand code or a byte given as 0 that the form does not list. -/
  | illegalForm
  /-- The words end inside the instruction. -/
  | truncated
  deriving DecidableEq, Repr

/-- R258: the short forms of op6 0x01-0x14. -/
def shortInt : List (SOps → Instr) :=
  [.iaddShort, .isubShort, .imulShort, .imulhShort, .iminShort, .imaxShort, .andShort, .orShort, .xorShort, .andnShort,
   .shlShort, .shrShort, .sraShort, .popcShort, .clzShort, .brevShort, .iaddImm8Short, .shlImmShort, .shrImmShort,
   .sraImmShort]
/-- R258: the short forms of op6 0x18-0x23. -/
def shortFp : List (SOps → Instr) :=
  [.faddF32Short, .fsubF32Short, .fmulF32Short, .fminF32Short, .fmaxF32Short, .faddF64Short, .fsubF64Short,
   .fmulF64Short, .faddF16x2Short, .fmulF16x2Short, .faddBf16x2Short, .fmulBf16x2Short]
/-- R258: the short forms of op6 0x30-0x37. -/
def shortMem : List (SOps → Instr) :=
  [.ldGB32Short, .ldSB32Short, .stGB32Short, .stSB32Short, .ldGB64Short, .stGB64Short, .ldSB64Short, .stSB64Short]

/-- R258: the short form of an op6. -/
def shortForm (op : Nat) : Option (SOps → Instr) :=
  if op = 0 then none
  else if op < 0x18 then shortInt[op - 1]?
  else if op < 0x28 then shortFp[op - 0x18]?
  else if op = 0x28 then some .movShort
  else if op < 0x30 then none
  else shortMem[op - 0x30]?

/-- R261: op9 from 0x000. -/
def longInt : List (Ops → Instr) :=
  [.iadd, .isub, .iaddc, .isubb, .ineg, .iabs, .imin, .imax, .iadds, .isubs, .imul, .imulh, .imad, .imadw, .ilea, .icmp,
   .isel, .land, .lor, .lxor, .landn, .lorn, .shl, .shr, .sra, .rotl, .fshl, .fshr, .bfe, .bfi, .popc, .clz, .brev, .bmix]
/-- R262: op9 from 0x040. -/
def longFp : List (Ops → Instr) :=
  [.fadd, .fsub, .fmul, .ffma, .fmin, .fmax, .fdiv, .fsqrt, .frcp, .frsq, .fex2, .flg2, .fsin, .fcos, .fcmp, .fclass,
   .frnd, .fcvt, .f2i, .i2f, .fscal, .fgexp, .fsign]
/-- R262: op9 from 0x080. -/
def longNarrow : List (Ops → Instr) :=
  [.vdot8, .vdot4, .vdot8i, .vdot4i, .vpack, .vunpk, .vamax, .vscal]
/-- R263: op9 from 0x0A0. -/
def longMove : List (Ops → Instr) :=
  [.mov, .movi, .movh, .s2v, .v2s, .idxset, .idxadd, .rgn, .plog, .pmov, .pmask, csrRow false, csrRow true]
/-- R263: op9 from 0x0C0. -/
def longScalar : List (Ops → Instr) :=
  [.sadd, .ssub, .smul, .smin, .smax, .sand, .sor, .sxor, .sshl, .sshr, .scmp, .smovi]
/-- R263: op9 from 0x0E0. -/
def longGroup : List (Ops → Instr) := [.vote, .xlane, .redux, .scan, .matchLanes, .bcast, .lxec]
/-- R264: op9 from 0x0F0. -/
def longControl : List (Ops → Instr) :=
  [.bra, .brc, .brs, .brx, .call, .callx, .retLanes, .exitLanes, .trapLanes, .syscall, .yieldHint, .nopLong, .brkpt]
/-- R264: op9 from 0x110. -/
def longMem : List (Ops → Instr) :=
  [.ld, .st, .lda, .stl, .atom, .acas, .red, .fence, .ldsh, .pref, .waddr, .paddr, .sld, .sst]
/-- R264: op9 from 0x150; mpost's variant 1 does not block. -/
def longBarrier : List (Ops → Instr) :=
  [.barr, .bwait, .barw, .bexp, .btest, .gbar, .gbwait, fun o => if o.var = 1 then .mpostNb o else .mpost o, .mtake,
   .mtry, .mbind]
/-- R264, R368: op9 from 0x170; byte C picks qstat's variant. -/
def longEngine : List (Ops → Instr) :=
  [.job, .tcpy, .tsto, .tgat, .tsct, .tcol, .fwait, .ftest, .fcanc, .qbind,
   fun o => if o.c = 0 then .qstatStatus o else if o.c = 1 then .qstatPop o else .qstatPush o]
/-- R264: op9 from 0x190. -/
def longSeq : List (Ops → Instr) := [.mstart, .mstat]
/-- R264, R392: op9 from 0x1B0; MOD6 picks tlbinv's variant, the operand bytes ctxld's, byte C sipi's. -/
def longSys : List (Ops → Instr) :=
  [.sret, fun o => if o.var = 0 then .tlbinvPage o else if o.var = 1 then .tlbinvCtx o else .tlbinvGlobal o, .pfrep,
   .pfcan, .msave, .mrest, .gate, fun o => if o.a = 0xF4 then .ctxldTeardown o else .ctxldLoad o, .wfi,
   fun o => if o.c = 0 then .sipiWake o else if o.c = 1 then .sipiPreempt o else if o.c = 2 then .sipiJoin o
     else if o.c = 3 then .sipiLeave o else if o.c = 4 then .sipiRetire o else .sipiUnretire o]

/-- R259: the long form of an op9. -/
def longForm (op : Nat) : Option (Ops → Instr) :=
  if op < 0x040 then longInt[op]?
  else if op < 0x080 then longFp[op - 0x040]?
  else if op < 0x0A0 then longNarrow[op - 0x080]?
  else if op < 0x0C0 then longMove[op - 0x0A0]?
  else if op < 0x0E0 then longScalar[op - 0x0C0]?
  else if op < 0x0F0 then longGroup[op - 0x0E0]?
  else if op < 0x110 then longControl[op - 0x0F0]?
  else if op < 0x150 then longMem[op - 0x110]?
  else if op < 0x170 then longBarrier[op - 0x150]?
  else if op < 0x190 then longEngine[op - 0x170]?
  else if op < 0x1B0 then longSeq[op - 0x190]?
  else longSys[op - 0x1B0]?

/-- R245: the fields of a short word. -/
def shortFields (w : Word) : SOps := { nw := w.getLsbD 24, d := field w 16 8, a := field w 8 8, b := field w 0 8 }

/-- R246: the fields of a long instruction. -/
def longFields (w0 w1 : Word) : Ops :=
  { g := w0.getLsbD 21, gn := w0.getLsbD 20, gp := field w0 15 5, nw := w0.getLsbD 14, mod := field w0 8 6,
    d := field w0 0 8, w1 := w1 }

/-- R245, R258: a word whose bit 31 is 0. -/
def decodeShort (w : Word) : Except DecodeError Instr :=
  if w = 0 then .ok .nopShort
  else match shortForm (fieldNat w 25 6) with
    | none => .error .unassignedOp6
    | some f => if formOk (f (shortFields w)) then .ok (f (shortFields w)) else .error .illegalForm

/-- R246, R259: two words, bit 31 of the first 1. -/
def decodeLong (w0 w1 : Word) : Except DecodeError Instr :=
  match longForm (fieldNat w0 22 9) with
  | none => .error .unassignedOp9
  | some f =>
    if !(longFields w0 w1).guardOk then .error .guardBits
    else if formOk (f (longFields w0 w1)) then .ok (f (longFields w0 w1)) else .error .illegalForm

/-- The instruction at the head of a list of words, and the words after it. -/
def decode : List Word → Except DecodeError (Instr × List Word)
  | [] => .error .truncated
  | w :: ws =>
    if w.getLsbD 31 then
      match ws with
      | [] => .error .truncated
      | w1 :: rest => match decodeLong w w1 with
        | .ok i => .ok (i, rest)
        | .error e => .error e
    else match decodeShort w with
      | .ok i => .ok (i, ws)
      | .error e => .error e

/-- R239: bytes to 32-bit words; a rest of fewer than 4 bytes is dropped. -/
def wordsOf : List Byte → List Word
  | b0 :: b1 :: b2 :: b3 :: bs => (b3 ++ b2 ++ b1 ++ b0) :: wordsOf bs
  | _ => []

/-- The instruction at the head of a list of bytes. -/
def decodeBytes (bs : List Byte) : Except DecodeError (Instr × List Word) := decode (wordsOf bs)

/-- R266, R384: one matrix-stream word. A field that its layout gives as 0, or a combination that R383 or R385 excludes, makes the word malformed. -/
def decodeMatrix (w : BitVec 64) : Except DecodeError Instr :=
  let acc : BitVec 3 := field w 53 3
  let m : MmaOps := { acc := acc, reuse := w.getLsbD 52, afmt := field w 49 3, acci := w.getLsbD 48, adv := w.getLsbD 47,
                      bslot := field w 44 3, grp := field w 37 7, areg := field w 29 8, sreg := field w 21 8,
                      mreg := field w 13 8 }
  let t : TileOps := { acc := acc, asz := field w 51 2, cnt := w.getLsbD 50, bobj := field w 46 4, off := field w 0 20 }
  let d : DrainOps := { acc := acc, asz := field w 51 2, dfmt := field w 48 3, dst := w.getLsbD 47, cnt := w.getLsbD 46,
                        bobj := field w 42 4, ch := w.getLsbD 41, grp := field w 34 7, dreg := field w 26 8,
                        off := field w 0 20 }
  let l : LoopOps := { ctr := w.getLsbD 55, usep := w.getLsbD 54, count := field w 32 16, off := field w 0 32 }
  let op := fieldNat w 56 8
  -- (the instruction, whether the bits its layout gives as 0 are 0)
  let r : Instr × Bool :=
    if op = 0x00 then (.mnop, fieldNat w 0 56 == 0)
    else if op = 0x01 then (.mma m, fieldNat w 0 13 == 0)
    else if op = 0x02 then (.mmas m, fieldNat w 0 13 == 0)
    else if op = 0x03 then (.mconv m, fieldNat w 0 13 == 0)
    else if op = 0x04 then (.mzero acc (field w 50 3), fieldNat w 0 50 == 0)
    else if op = 0x05 then (.mld t, fieldNat w 20 26 == 0)
    else if op = 0x06 then (.mst t, fieldNat w 20 26 == 0)
    else if op = 0x07 then (.mdrain d, fieldNat w 20 6 == 0)
    else if op = 0x08 then (.mshp acc (field w 0 20), fieldNat w 20 33 == 0)
    else if op = 0x09 then (.mbar (field w 52 4), fieldNat w 0 52 == 0)
    else if op = 0x0A then (.mbwt (field w 52 4), fieldNat w 0 52 == 0)
    else if op = 0x0B then (.mloop l, fieldNat w 48 6 == 0)
    else if op = 0x0C then (.mjmp (field w 0 32), fieldNat w 32 24 == 0)
    else if op = 0x0D then (.mend, fieldNat w 0 56 == 0)
    else (.mstreamUnassignedWord w, true)
  if r.2 && formOk r.1 then .ok r.1 else .error .illegalForm

/-- The instruction the decoder reads from an instruction of the opcode table: bit 0 of `w` is bit 0 of the first word, bits 32 and up are word 1. -/
def decodeTableWord (nbits w : Nat) : Option Instr :=
  match decode [BitVec.ofNat 32 (w % 2 ^ nbits), BitVec.ofNat 32 (w % 2 ^ nbits / 2 ^ 32)] with
  | .ok (i, _) => some i
  | .error _ => none

/-! ## The encoder -/

/-- R258: the op6 and fields of a short instruction. -/
def Instr.op6? : Instr → Option (BitVec 6 × SOps)
  | .iaddShort o => some (0x01, o) | .isubShort o => some (0x02, o) | .imulShort o => some (0x03, o)
  | .imulhShort o => some (0x04, o) | .iminShort o => some (0x05, o) | .imaxShort o => some (0x06, o)
  | .andShort o => some (0x07, o) | .orShort o => some (0x08, o) | .xorShort o => some (0x09, o)
  | .andnShort o => some (0x0A, o) | .shlShort o => some (0x0B, o) | .shrShort o => some (0x0C, o)
  | .sraShort o => some (0x0D, o) | .popcShort o => some (0x0E, o) | .clzShort o => some (0x0F, o)
  | .brevShort o => some (0x10, o) | .iaddImm8Short o => some (0x11, o) | .shlImmShort o => some (0x12, o)
  | .shrImmShort o => some (0x13, o) | .sraImmShort o => some (0x14, o) | .faddF32Short o => some (0x18, o)
  | .fsubF32Short o => some (0x19, o) | .fmulF32Short o => some (0x1A, o) | .fminF32Short o => some (0x1B, o)
  | .fmaxF32Short o => some (0x1C, o) | .faddF64Short o => some (0x1D, o) | .fsubF64Short o => some (0x1E, o)
  | .fmulF64Short o => some (0x1F, o) | .faddF16x2Short o => some (0x20, o) | .fmulF16x2Short o => some (0x21, o)
  | .faddBf16x2Short o => some (0x22, o) | .fmulBf16x2Short o => some (0x23, o) | .movShort o => some (0x28, o)
  | .ldGB32Short o => some (0x30, o) | .ldSB32Short o => some (0x31, o) | .stGB32Short o => some (0x32, o)
  | .stSB32Short o => some (0x33, o) | .ldGB64Short o => some (0x34, o) | .stGB64Short o => some (0x35, o)
  | .ldSB64Short o => some (0x36, o) | .stSB64Short o => some (0x37, o)
  | _ => none

/-- R259-R264: the op9 of a long instruction; the numbers are given with their range's base. -/
def Instr.op9? : Instr → Option (BitVec 9)
  | .iadd _ => some 0x000 | .isub _ => some 0x001 | .iaddc _ => some 0x002 | .isubb _ => some 0x003
  | .ineg _ => some 0x004 | .iabs _ => some 0x005 | .imin _ => some 0x006 | .imax _ => some 0x007
  | .iadds _ => some 0x008 | .isubs _ => some 0x009 | .imul _ => some 0x00A | .imulh _ => some 0x00B
  | .imad _ => some 0x00C | .imadw _ => some 0x00D | .ilea _ => some 0x00E | .icmp _ => some 0x00F
  | .isel _ => some 0x010 | .land _ => some 0x011 | .lor _ => some 0x012 | .lxor _ => some 0x013
  | .landn _ => some 0x014 | .lorn _ => some 0x015 | .shl _ => some 0x016 | .shr _ => some 0x017
  | .sra _ => some 0x018 | .rotl _ => some 0x019 | .fshl _ => some 0x01A | .fshr _ => some 0x01B
  | .bfe _ => some 0x01C | .bfi _ => some 0x01D | .popc _ => some 0x01E | .clz _ => some 0x01F
  | .brev _ => some 0x020 | .bmix _ => some 0x021
  | .fadd _ => some 0x040 | .fsub _ => some 0x041 | .fmul _ => some 0x042 | .ffma _ => some 0x043
  | .fmin _ => some 0x044 | .fmax _ => some 0x045 | .fdiv _ => some 0x046 | .fsqrt _ => some 0x047
  | .frcp _ => some 0x048 | .frsq _ => some 0x049 | .fex2 _ => some 0x04A | .flg2 _ => some 0x04B
  | .fsin _ => some 0x04C | .fcos _ => some 0x04D | .fcmp _ => some 0x04E | .fclass _ => some 0x04F
  | .frnd _ => some 0x050 | .fcvt _ => some 0x051 | .f2i _ => some 0x052 | .i2f _ => some 0x053
  | .fscal _ => some 0x054 | .fgexp _ => some 0x055 | .fsign _ => some 0x056
  | .vdot8 _ => some 0x080 | .vdot4 _ => some 0x081 | .vdot8i _ => some 0x082 | .vdot4i _ => some 0x083
  | .vpack _ => some 0x084 | .vunpk _ => some 0x085 | .vamax _ => some 0x086 | .vscal _ => some 0x087
  | .mov _ => some 0x0A0 | .movi _ => some 0x0A1 | .movh _ => some 0x0A2 | .s2v _ => some 0x0A3
  | .v2s _ => some 0x0A4 | .idxset _ => some 0x0A5 | .idxadd _ => some 0x0A6 | .rgn _ => some 0x0A7
  | .plog _ => some 0x0A8 | .pmov _ => some 0x0A9 | .pmask _ => some 0x0AA
  | .csrr _ | .ringHeadRead _ => some 0x0AB
  | .csrw _ | .kinstInstall _ | .lmaskWrite _ | .gsaveWrite _ | .sppdataWrite _ | .srseedWrite _ | .fpcsrWrite _ | .qlevelWrite _ | .ringPointerWrite _ | .ringTailWrite _ | .tgtselWrite _ | .waitstViewWrite _ | .progwinWrite _ | .progfaultWrite _ => some 0x0AC
  | .sadd _ => some 0x0C0 | .ssub _ => some 0x0C1 | .smul _ => some 0x0C2 | .smin _ => some 0x0C3
  | .smax _ => some 0x0C4 | .sand _ => some 0x0C5 | .sor _ => some 0x0C6 | .sxor _ => some 0x0C7
  | .sshl _ => some 0x0C8 | .sshr _ => some 0x0C9 | .scmp _ => some 0x0CA | .smovi _ => some 0x0CB
  | .vote _ => some 0x0E0 | .xlane _ => some 0x0E1 | .redux _ => some 0x0E2 | .scan _ => some 0x0E3
  | .matchLanes _ => some 0x0E4 | .bcast _ => some 0x0E5 | .lxec _ => some 0x0E6
  | .bra _ => some 0x0F0 | .brc _ => some 0x0F1 | .brs _ => some 0x0F2 | .brx _ => some 0x0F3
  | .call _ => some 0x0F4 | .callx _ => some 0x0F5 | .retLanes _ => some 0x0F6 | .exitLanes _ => some 0x0F7
  | .trapLanes _ => some 0x0F8 | .syscall _ => some 0x0F9 | .yieldHint _ => some 0x0FA
  | .nopLong _ => some 0x0FB | .brkpt _ => some 0x0FC
  | .ld _ => some 0x110 | .st _ => some 0x111 | .lda _ => some 0x112 | .stl _ => some 0x113
  | .atom _ => some 0x114 | .acas _ => some 0x115 | .red _ => some 0x116 | .fence _ => some 0x117
  | .ldsh _ => some 0x118 | .pref _ => some 0x119 | .waddr _ => some 0x11A | .paddr _ => some 0x11B
  | .sld _ => some 0x11C | .sst _ => some 0x11D
  | .barr _ => some 0x150 | .bwait _ => some 0x151 | .barw _ => some 0x152 | .bexp _ => some 0x153
  | .btest _ => some 0x154 | .gbar _ => some 0x155 | .gbwait _ => some 0x156
  | .mpostNb _ | .mpost _ => some 0x157 | .mtake _ => some 0x158 | .mtry _ => some 0x159
  | .mbind _ => some 0x15A
  | .job _ => some 0x170 | .tcpy _ => some 0x171 | .tsto _ => some 0x172 | .tgat _ => some 0x173
  | .tsct _ => some 0x174 | .tcol _ => some 0x175 | .fwait _ => some 0x176 | .ftest _ => some 0x177
  | .fcanc _ => some 0x178 | .qbind _ => some 0x179 | .qstatStatus _ | .qstatPop _ | .qstatPush _ => some 0x17A
  | .mstart _ => some 0x190 | .mstat _ => some 0x191
  | .sret _ => some 0x1B0 | .tlbinvPage _ | .tlbinvCtx _ | .tlbinvGlobal _ => some 0x1B1
  | .pfrep _ => some 0x1B2 | .pfcan _ => some 0x1B3 | .msave _ => some 0x1B4 | .mrest _ => some 0x1B5
  | .gate _ => some 0x1B6 | .ctxldTeardown _ | .ctxldLoad _ => some 0x1B7 | .wfi _ => some 0x1B8
  | .sipiWake _ | .sipiPreempt _ | .sipiJoin _ | .sipiLeave _ | .sipiRetire _ | .sipiUnretire _ => some 0x1B9
  | _ => none

/-- R245: the word of a short instruction. -/
def encodeShort (op : BitVec 6) (o : SOps) : Word := (0#1 ++ op ++ BitVec.ofBool o.nw ++ o.d ++ o.a ++ o.b : BitVec 32)

/-- R246: word 0 of a long instruction. -/
def encodeLong (op : BitVec 9) (o : Ops) : Word :=
  (1#1 ++ op ++ BitVec.ofBool o.g ++ BitVec.ofBool o.gn ++ o.gp ++ BitVec.ofBool o.nw ++ o.mod ++ o.d : BitVec 32)

/-- R384: mma, mmas and mconv. -/
def encodeMma (op : BitVec 8) (m : MmaOps) : BitVec 64 :=
  (op ++ m.acc ++ BitVec.ofBool m.reuse ++ m.afmt ++ BitVec.ofBool m.acci ++ BitVec.ofBool m.adv ++ m.bslot ++ m.grp ++
    m.areg ++ m.sreg ++ m.mreg ++ 0#13 : BitVec 64)

/-- R384: mld and mst. -/
def encodeTile (op : BitVec 8) (t : TileOps) : BitVec 64 :=
  (op ++ t.acc ++ t.asz ++ BitVec.ofBool t.cnt ++ t.bobj ++ 0#26 ++ t.off : BitVec 64)

/-- R384: the word of a matrix-stream instruction. -/
def encodeMatrix : Instr → Option (BitVec 64)
  | .mnop => some 0
  | .mma m => some (encodeMma 0x01 m)
  | .mmas m => some (encodeMma 0x02 m)
  | .mconv m => some (encodeMma 0x03 m)
  | .mzero acc n1 => some (0x04#8 ++ acc ++ n1 ++ 0#50 : BitVec 64)
  | .mld t => some (encodeTile 0x05 t)
  | .mst t => some (encodeTile 0x06 t)
  | .mdrain d => some (0x07#8 ++ d.acc ++ d.asz ++ d.dfmt ++ BitVec.ofBool d.dst ++ BitVec.ofBool d.cnt ++ d.bobj ++
      BitVec.ofBool d.ch ++ d.grp ++ d.dreg ++ 0#6 ++ d.off : BitVec 64)
  | .mshp slot off => some (0x08#8 ++ slot ++ 0#33 ++ off : BitVec 64)
  | .mbar obj => some (0x09#8 ++ obj ++ 0#52 : BitVec 64)
  | .mbwt obj => some (0x0A#8 ++ obj ++ 0#52 : BitVec 64)
  | .mloop l => some (0x0B#8 ++ BitVec.ofBool l.ctr ++ BitVec.ofBool l.usep ++ 0#6 ++ l.count ++ l.off : BitVec 64)
  | .mjmp off => some (0x0C#8 ++ 0#24 ++ off : BitVec 64)
  | .mend => some (0x0D#8 ++ 0#56 : BitVec 64)
  | .mstreamUnassignedWord w => some w
  | _ => none

/-- The words of a core instruction; an event of the hardware and a matrix-stream word have none. -/
def encode (i : Instr) : List Word :=
  match i with
  | .nopShort => [0]
  | i => match i.op6? with
    | some (op, o) => [encodeShort op o]
    | none => match i.op9?, i.ops? with
      | some op, some o => [encodeLong op o, o.w1]
      | _, _ => []

end Sys2Proof
end

