-- ==== Sys2Proof/Machine/SMap.lean ====
section
/-! DEFINITION. Sparse maps: a list of (key, value) pairs with strictly rising keys. Memory, register files and tables are kept in this one canonical form, so that equal maps are equal data. -/

namespace Sys2Proof

/-- A sparse map keyed by numbers, in canonical form when its keys strictly rise. -/
abbrev SMap (α : Type) := List (Nat × α)

namespace SMap

/-- The entry of a key. -/
def find? {α : Type} : SMap α → Nat → Option α
  | [], _ => none
  | (k, v) :: m, n => if k = n then some v else find? m n

/-- The value of a key; `d` where the map lists none. -/
def get {α : Type} (d : α) (m : SMap α) (n : Nat) : α := (find? m n).getD d

/-- Lists a value for a key, replacing the one listed. -/
def put {α : Type} : SMap α → Nat → α → SMap α
  | [], n, x => [(n, x)]
  | (k, v) :: m, n, x => if n < k then (n, x) :: (k, v) :: m else if n = k then (k, x) :: m else (k, v) :: put m n x

/-- Removes a key. -/
def del {α : Type} (m : SMap α) (n : Nat) : SMap α := m.filter (fun e => e.1 != n)

/-- Sets the value of a key where unlisted keys read as `d`: writing `d` removes the entry. -/
def set {α : Type} [DecidableEq α] (d : α) (m : SMap α) (n : Nat) (x : α) : SMap α :=
  if x = d then del m n else put m n x

/-- Applies `f` to a listed value; leaves an unlisted key alone. -/
def alter {α : Type} (m : SMap α) (n : Nat) (f : α → α) : SMap α :=
  match find? m n with
  | some v => put m n (f v)
  | none => m

/-- Keys strictly rise, from `lo` on. -/
def risesFrom {α : Type} : Nat → SMap α → Bool
  | _, [] => true
  | lo, (k, _) :: m => decide (lo ≤ k) && risesFrom (k + 1) m

/-- The canonical form: keys strictly rise. -/
def sorted {α : Type} (m : SMap α) : Bool := risesFrom 0 m

/-- The canonical form of a map whose unlisted keys read as `d`: keys strictly rise and no value is `d`. -/
def wf {α : Type} [DecidableEq α] (d : α) (m : SMap α) : Bool := sorted m && m.all (fun e => decide (e.2 ≠ d))

/-- Removes every key from `lo` to `lo + n - 1`. -/
def delRange {α : Type} (m : SMap α) (lo n : Nat) : SMap α := m.filter (fun e => e.1 < lo || lo + n ≤ e.1)

end SMap

end Sys2Proof
end

