-- ==== Sys2Proof/Machine/State.lean ====
section
/-! DEFINITION. The state of the module: everything the manual gives it, as plain data, and the state after a module reset. Types that several chapters share come first. A number that the manual gives a width is a BitVec where software can see its bits, and a Nat where it counts or names a unit. -/

namespace Sys2Proof.Machine

/-- Why a step has no next state: the two stuck states that no run reaches. -/
inductive Fault where
  /-- Raised by the meaning of a core instruction when the state names no issuing group with a clause in issue; step never runs one there. Safe: the machine stops where the hardware has nothing to do. -/
  | noIssuingGroup
  /-- Raised by the meaning of a matrix-stream word when the state names no running sequencer; step never runs one there. Safe, for the same reason. -/
  | noSequencer
  deriving DecidableEq, Repr

/-- Why an instruction has no meaning here. -/
inductive Refusal where
  /-- Answered by exec for an instruction that is not modelled yet. Safe: no claim can be proved about it. -/
  | notModelled (mnemonic : String)
  deriving DecidableEq, Repr

/-! ## Parts of a group -/

/-- A byte's place: global bytes by frame-space address, shared bytes by team, scratchpad bytes by cluster (05_consistency, Locations). -/
inductive Place where
  | glob
  | shared (team : Nat)
  | scratch (cluster : Nat)
  deriving DecidableEq, Repr

/-- The translated properties a global access carries to its home: frame-space address, key identifier and granule class (R25, R26), cache policy (R22), and the replica-set descriptor number of a replica page (R160). -/
structure GAddr where
  place : Place
  addr  : Nat
  key   : BitVec 8
  gc    : BitVec 3
  cp    : BitVec 2
  rep   : Option Nat
  /-- The virtual address, for records, and the context that translated it. -/
  va    : DWord
  ctx   : Nat
  deriving DecidableEq, Repr

/-- One lane's part of a queued store or reduction. -/
structure LaneStore where
  lane : Nat
  dst  : GAddr
  data : List Byte
  deriving DecidableEq, Repr

/-- R348: a read-modify-write: op code of MOD6 and type code of E. -/
structure Rmw where
  op : Nat
  ty : Nat
  deriving DecidableEq, Repr

/-- R115, R117: one entry of a store queue. -/
inductive QEntry where
  /-- A store instruction; `rel` is the scope of a release (0 none, R265 coding); `pc` names it for a fault record. -/
  | store (lanes : List LaneStore) (rel : Nat) (pc : Nat)
  /-- A reduction performed at its home when it leaves the queue (R127). -/
  | red (lanes : List LaneStore) (f : Rmw) (pc : Nat)
  /-- R358: a barrier arrival marker: object, active mask, clause, and instruction of the arrival with its index in the clause. -/
  | arrive (obj : Nat) (mask : DWord) (cpc ipc idx : Nat)
  /-- R363: a tree arrival marker. -/
  | treeArrive (tree : Nat)
  deriving DecidableEq, Repr

/-- A register that a variable-latency instruction writes when its result arrives (R252). -/
inductive RegWrite where
  | v (lane reg : Nat) (x : Word)
  | s (reg : Nat) (x : Word) (split : Bool)
  | k (reg : Nat) (x : Word)
  | p (lane reg : Nat) (x : Bool)
  /-- Flags ORed into FPCSR (R237). -/
  | flags (x : Word)
  deriving DecidableEq, Repr

/-- R252: an outstanding result: the counter it holds up and what it writes. -/
structure Pending where
  ctr    : Nat
  writes : List RegWrite
  deriving DecidableEq, Repr

/-- R190, R398: a wait of a live slot. Kinds 1 to 6 are WAITST's; WAITST shows 0 for the others: 17 tlbinv (R400), 18 wfi (R403), 19 a post or take that holds no ticket yet (R366). -/
structure Wait where
  kind     : Nat
  target   : Nat
  /-- The held ticket (R366). -/
  ticket   : Option Word
  /-- The captured payload of a post (R365), the slot that a take has read, the descriptor of a waiting ctxld. -/
  payload  : List Word
  /-- Clock at which a bounded wait expires (R359, R403). -/
  deadline : Option Nat
  /-- The handle of an fwait (R378). -/
  handle   : DWord
  /-- Mailbox header and LOGN of a post or take. -/
  hdr      : Nat
  logn     : Nat
  /-- R366: the step at which a post or take goes on: 0 its header, 1 its ticket, 2 its slot, 3 its stores. -/
  stage    : Nat
  /-- The wait has ended and its clause may execute again. -/
  ended    : Bool
  /-- Address of the waiting instruction (IPC), and its index in its clause. -/
  ipc      : DWord
  idx      : Nat
  deriving DecidableEq, Repr

/-- No wait. -/
def Wait.none : Wait :=
  { kind := 0, target := 0, ticket := Option.none, payload := [], deadline := Option.none, handle := 0, hdr := 0,
    logn := 0, stage := 0, ended := false, ipc := 0, idx := 0 }

/-- R206: the parking registers of a live slot, and whether it is parked. -/
structure Park where
  active : Bool
  mask   : DWord
  pc     : DWord
  idx    : Word
  seq    : Word
  /-- Address of the parked instruction (for MEMFATAL's IPC). -/
  ipc    : DWord
  /-- Resolved by pfrep: the clause replays (R207). -/
  replay : Bool
  deriving DecidableEq, Repr

/-- Nothing parked, registers 0. -/
def Park.none : Park := { active := false, mask := 0, pc := 0, idx := 0, seq := 0, ipc := 0, replay := false }

/-- R165: a live slot: empty when the mask is 0. -/
structure Slot where
  mask  : DWord
  pc    : DWord
  wait  : Wait
  /-- R190: the waits that other instructions of its clause have begun. -/
  past  : List Wait
  park  : Park
  /-- R189: clock at which the fragment's clause became eligible. -/
  since : Nat
  /-- R234, R207: the lanes' generators as they stood at the clause's first issue. -/
  rng   : SMap Word
  /-- R359: clock of the clause's first issue. -/
  first : Option Nat
  deriving DecidableEq, Repr

/-- An empty live slot. -/
def Slot.empty : Slot := { mask := 0, pc := 0, wait := .none, past := [], park := .none, since := 0, rng := [], first := none }

/-- R243, R188: a clause in issue. -/
structure Clause where
  /-- Clause-header address. -/
  pc    : DWord
  hdr   : Word
  /-- Instruction words not yet issued. -/
  words : List Word
  /-- Index of the next instruction, and its address. -/
  idx   : Nat
  ipc   : DWord
  /-- Live slot that issues it. -/
  slot  : Nat
  /-- R94: results of the instructions before, newest first: lanes and 64-bit values; none for no latch result. -/
  lats  : List (Option (SMap DWord))
  /-- R207: index and lanes that a replay executes in place of FMASK. -/
  replay : Option (Nat × DWord)
  deriving DecidableEq, Repr

/-- R152, R153: a queue register: port, entries oldest first (lane values), and the pop buffer: the entries that clauses not yet retired have popped, by 32 × supervisor mode + 16 × live slot + instruction index. -/
structure QReg where
  port : Nat
  fifo : List (SMap Word)
  pop  : SMap (SMap Word)
  /-- R154: entries at or above the count that QENTDATA has written, by number; they count once QLEVEL reaches them. -/
  staged : SMap (SMap Word)
  deriving DecidableEq, Repr

/-- R205, R108: a trap held until sret or the next clause boundary. -/
structure Held where
  cause  : Nat
  reason : Nat
  info   : Word
  /-- For an arrival marker: the arrival's lanes, clause and instruction. -/
  mask   : DWord
  cpc    : DWord
  ipc    : DWord
  idx    : Nat
  deriving DecidableEq, Repr

/-- A lane group. -/
structure Group where
  ctx   : Nat
  kid   : Nat
  /-- Key of its team; none on a service core. -/
  team  : Option Nat
  /-- Index in the team (R17's G) and of the team (T). -/
  gidx  : Nat
  tidx  : Nat
  width : Nat
  regs  : Nat
  prio  : Nat
  spillBytes : Nat
  lmask : DWord
  fmask : DWord
  s0    : Slot
  s1    : Slot
  /-- R170: spilled fragments, oldest first. -/
  spill : List (DWord × DWord)
  rotc  : Nat
  pass  : Nat
  pslot : Nat
  /-- Handler state (R202-R205). -/
  sup    : Bool
  halted : Bool
  entryMask : DWord
  trapSlot  : Nat
  trec   : BitVec 512
  /-- The captured fragment state (R202 step 3): the suspended slots, and what FRAGnM, FRAGnPC, PKMASK to PKSEQ and WAITST show of them; FRSTAT. -/
  k0     : Slot
  k1     : Slot
  c0     : Slot
  c1     : Slot
  cstat  : Word
  /-- R214: lanes of a syscall not yet run. -/
  sysRest : DWord
  held   : List Held
  /-- R446: SEQ of a frontier parking. -/
  fpark  : Option Word
  /-- R208: the SEQs with which a restored group was saved, until the sret of its RESTORE entry. -/
  seqs   : List Word
  /-- R366: the live slots with which a restored group was saved, until then. -/
  kept   : List Slot
  /-- R171: the clause that brought ROTC to 64 ended in the running trap: its boundary comes with sret. -/
  turn   : Bool
  /-- Registers. -/
  vregs  : SMap Word
  xregs  : SMap Word
  preds  : SMap DWord
  sregs  : SMap Word
  ssplit : DWord
  kregs  : SMap Word
  fpcsr  : Word
  srseed : Word
  srstate : SMap Word
  queues : List QReg
  qpopsel : Nat
  qentsel : Nat
  region : List Nat
  counters : List Nat
  pending : List Pending
  /-- R115: the store queue, oldest first. -/
  sq     : List QEntry
  /-- Waits and saving. -/
  waitst : Word
  wp     : BitVec 16
  tp     : BitVec 16
  bound  : Option (DWord × Nat)
  /-- R398: the header address and LOGN that WAITST's views 2 and 3 hold while no mailbox is bound. -/
  bhdr   : DWord
  blogn  : Nat
  gsavep : DWord
  /-- R212: GSAVE written; the group leaves once its queue is empty. -/
  leaving : Bool
  clause : Option Clause
  deriving DecidableEq, Repr

/-- R192, R208, R212, R213: what stays of a group that has left after its save: its index, GSAVEP, its slot and slices until its team leaves, the SEQs of its pending parkings, its live slots, and the traps it holds. -/
structure SavedGroup where
  idx    : Nat
  gid    : Nat
  slices : Nat
  gsavep : DWord
  seqs   : List Word
  kept   : List Slot
  held   : List Held
  deriving DecidableEq, Repr

/-! ## Teams, kernels, contexts, worlds -/

/-- R108, R360: a bexp of the running cycle: the key of the group that issued it, the bytes it adds, and the EXPARR it sets, if any. -/
structure BexpEvent where
  gid    : Nat
  bytes  : Word
  exparr : Option (BitVec 8)
  deriving DecidableEq, Repr

/-- R108: an arrival of the running cycle: the key that orders it (a group's, or the sequencer's), the resident group whose parity it sets, whether the sequencer makes it, and the arrival's lanes, clause and instruction. -/
structure ArriveEvent where
  key   : Nat
  group : Option Nat
  seq   : Bool
  mask  : DWord
  cpc   : DWord
  ipc   : DWord
  idx   : Nat
  deriving DecidableEq, Repr

/-- R107: a barrier object, and the events of the running cycle that its end applies (R108): the clock of the last one, none when the cycle has none. -/
structure BarObj where
  exparr : BitVec 8
  arr    : BitVec 8
  phase  : Bool
  expb   : Word
  landb  : Word
  bexps  : List BexpEvent := []
  arrs   : List ArriveEvent := []
  bytes  : Word := 0
  event  : Option Nat := none
  deriving DecidableEq, Repr

/-- R176: a resident team. -/
structure Team where
  ctx    : Nat
  kid    : Nat
  tidx   : Nat
  core   : Nat
  paired : Bool
  gpt    : Nat
  prio   : Nat
  order  : Nat
  /-- Clock of admission (R191: the one admitted last). -/
  admitted : Nat
  /-- R105: bytes that ldsh has read and that have not landed: shared offset, bytes, object. -/
  landing : List (Nat × List Byte × Nat)
  sharedBytes : Nat
  shared : SMap Byte
  objs   : List BarObj
  bosel  : Nat
  /-- The sequencer's number on its core. -/
  seq    : Option Nat
  /-- Chosen for pre-emption (R192, R211). -/
  preempt : Bool
  /-- Groups that have left after a save. -/
  left   : List SavedGroup
  /-- Base address of the team's matrix stream. -/
  mbase  : DWord
  /-- R396: SEQ of a parking that msave has saved with the sequencer. -/
  mseq   : Option Word
  deriving DecidableEq, Repr

/-- R192, R213: a saved team waiting to be admitted again. -/
structure SavedTeam where
  tidx : Nat
  groups : List SavedGroup
  mbase : DWord
  mseq : Option Word
  deriving DecidableEq, Repr

/-- R178: an installed kernel. -/
structure Kernel where
  desc    : BitVec 512
  /-- R184: clock of its installation. -/
  order   : Nat
  waiting : List Nat
  saved   : List SavedTeam
  ended   : Nat
  /-- R187: its kernel-unplaceable event has been posted. -/
  unplaceable : Bool
  deriving DecidableEq, Repr

/-- R12, R13: a live context. -/
structure Ctx where
  ckey      : BitVec 8
  world     : BitVec 8
  kind      : BitVec 2
  rootFn    : BitVec 30
  rootSlot  : BitVec 3
  privBase  : DWord
  spillBase : DWord
  sstFn     : BitVec 30
  sstOff    : BitVec 7
  touched   : BitVec 144
  svbase    : DWord
  rsetbase  : DWord
  kinst0    : Word
  kinst1    : Word
  kernels   : SMap Kernel
  /-- R399: recorded resolutions: SEQ, and whether it replays. -/
  resolutions : List (Word × Bool)
  /-- R86: terminated by an integrity error. -/
  dead      : Bool
  /-- R39, R86: the cause that the resident kernel has raised in the context: 0x10 INTEGRITY, 0 none. -/
  raised    : Byte
  deriving DecidableEq, Repr

/-- R84: a stored version of an evicted page, with the plaintext its image seals (DESIGN CHOICE, log entry 8). -/
structure Version where
  world : BitVec 8
  key   : BitVec 8
  page  : DWord
  v     : DWord
  stack : Nat
  plain : SMap Byte
  deriving DecidableEq, Repr

/-! ## Sequencers -/

/-- R380: a matrix sequencer. -/
structure Seq where
  team  : Option Nat
  /-- The group that issued mstart. -/
  gid   : Nat
  acc   : SMap Byte
  sh    : SMap (BitVec 512)
  /-- Held A: registers 0-99 of 64 lanes, key 64 × register + lane (R395). -/
  heldA : SMap Word
  hfmt  : BitVec 3
  hsp   : Bool
  hw    : BitVec 2
  lc0   : BitVec 16
  lc1   : BitVec 16
  lact0 : Bool
  lact1 : Bool
  mparam : Word
  wp    : BitVec 16
  arrm  : BitVec 16
  kstep : BitVec 16
  park  : Bool
  aheld : Bool
  /-- R382, R391: byte offset of the current word from the stream's base, modulo 2^64; MPROG shows its low half. -/
  soff  : DWord
  mflags : Word
  state : BitVec 2
  reason : BitVec 8
  /-- SEQ of its parking. -/
  pseq  : Word
  /-- R383: the object of the mbar that stopped it. -/
  sobj  : Nat
  /-- R383: it has stopped, and neither mstart nor mrest has followed. -/
  doubt : Bool
  /-- It waits in mbwt. -/
  waiting : Bool
  /-- R108: its mbar has arrived in a cycle that has not ended. -/
  arriving : Bool := false
  /-- R394: 0 no msave; 1 it pauses for msave; 2 msave has sent its image and waits until every byte is performed. -/
  saving : Nat
  deriving DecidableEq, Repr

/-! ## Translation and caches -/

/-- R31: a cached leaf: context, level (0-2), virtual page base, entry. -/
structure TlbEntry where
  ctx  : Nat
  level : Nat
  page : Nat
  leaf : DWord
  deriving DecidableEq, Repr

/-- R31: a cached table entry: context, level it was read at, virtual prefix, entry. -/
structure WalkEntry where
  ctx  : Nat
  level : Nat
  pfx  : Nat
  entry : DWord
  deriving DecidableEq, Repr

/-- R36: a shootdown in progress: who issued it and what it removes. -/
structure TlbInv where
  gid  : Nat
  /-- 0 page, 1 context, 2 global, 3 nothing (a context that is not live, or an address beyond 56 bits). -/
  kind : Nat
  ctx  : Nat
  va   : DWord
  deriving DecidableEq, Repr

/-- R128: a pending shadow reduction. -/
structure Shadow where
  dst  : GAddr
  f    : Rmw
  val  : List Byte
  stamp : Nat
  deriving DecidableEq, Repr

/-- R221: where a service core stands with fabric messages: the sequence number of the last one that it has sent, and of the last one that it has taken from each sender. -/
structure MsgSt where
  sent  : Nat
  taken : SMap Nat
  deriving DecidableEq, Repr

/-- A compute core. -/
structure CoreSt where
  /-- R103: lines by number (frame-space address / 128). -/
  l1    : SMap (List Byte)
  tlb   : List TlbEntry
  progwin : Word
  progfault : Word
  /-- R191, R194: clocks at which the progress counters last restarted from zero. -/
  wincnt : Nat
  faultcnt : Nat
  retired : Bool
  /-- R403: the wake flag of a service core. -/
  wake  : Bool
  msg   : MsgSt
  tgtsel : DWord
  /-- R361: participate and arrived bits, and the phase each tree shows here. -/
  part  : BitVec 16
  arrived : BitVec 16
  seen  : BitVec 16
  /-- R189: round-robin pointers of the four partitions. -/
  rr    : List Nat
  deriving DecidableEq, Repr

/-- A cluster: what its cores share. -/
structure Cluster where
  tlb   : List TlbEntry
  walkc : List WalkEntry
  /-- Walks in progress: context, 64 KiB page. -/
  walks : List (Nat × Nat)
  /-- R43: frames whose directory entry the remap cache holds. -/
  remap : List Nat
  scratch : SMap Byte
  spp   : SMap DWord
  sppsel : Word
  shadow : List Shadow
  deriving DecidableEq, Repr

/-! ## Frames, stacks, hosts -/

/-- R42: a directory entry. -/
structure DirEntry where
  state   : BitVec 2
  fmt     : BitVec 3
  prevfmt : BitVec 3
  pv      : Bool
  ktag    : BitVec 8
  skind   : BitVec 2
  snum    : BitVec 7
  smask   : BitVec 16
  frost   : BitVec 16
  dkind   : BitVec 2
  dnum    : BitVec 7
  dmask   : BitVec 16
  dfmt    : BitVec 3
  cursor  : BitVec 8
  deriving DecidableEq, Repr

/-- R42: a free frame. -/
def DirEntry.free : DirEntry :=
  { state := 0, fmt := 0, prevfmt := 0, pv := false, ktag := 0, skind := 0, snum := 0, smask := 0, frost := 0, dkind := 0,
    dnum := 0, dmask := 0, dfmt := 0, cursor := 0 }

/-- A memory stack's base-die registers and banks. -/
structure Stack where
  mcidle  : Word
  thawres : BitVec 16
  lowmark : BitVec 16
  lowev   : Bool
  /-- R72: FREE. -/
  freeSub : Nat
  /-- FREE was below LOWMARK when last tested. -/
  lowPosted : Bool
  corrected : Nat
  /-- R48, R61: open rows: 32 × sub-channel + bank to row and clock of idle expiry. -/
  banks   : SMap (Nat × Nat)
  /-- R72: uses of the version store. -/
  versions : Nat
  /-- R88: postponements of a bank's refresh since the last one. -/
  postponed : SMap Nat
  /-- R43: the directory stack's record of who holds a frame's entry: clusters 0-71, and 72 + the stack of a host path. -/
  holders : SMap (List Nat)
  /-- R43: frames whose directory entry this stack's host path holds. -/
  hostRemap : List Nat
  deriving DecidableEq, Repr

/-- R69: a thaw in progress. -/
structure Thaw where
  frame : Nat
  sub   : Nat
  host  : Bool
  /-- R87: a frame-engine job has started it. -/
  bg    : Bool := false
  deriving DecidableEq, Repr

/-- R68: a sub-frame being frosted; a write cancels it. -/
structure Frosting where
  frame : Nat
  sub   : Nat
  units : Nat
  cancelled : Bool
  deriving DecidableEq, Repr

/-- Who made a request that waits at a home. -/
inductive Source where
  | group (gid : Nat)
  | host (r : HostReq)
  | shadow (cluster : Nat)
  | job (sched slot : Nat)
  /-- A job, sequencer or frame engine whose read waits, by the number that stands for it where a group's would stand. -/
  | party (id : Nat)
  /-- A cluster's walker, with the context and 64 KiB page of its walk. -/
  | walker (cluster ctx page : Nat)
  deriving DecidableEq, Repr

/-- What a home is asked to do. -/
inductive HomeOp where
  | write (data : List Byte)
  | rmw (f : Rmw) (data : List Byte)
  | hostRead
  | hostWrite (mask : DWord) (data : List Byte)
  | hostAtomic (data : List Byte)
  /-- R69, R87: the place in the queues of an access of `n` bytes that its issuer performs when its turn comes. -/
  | look (n : Nat)
  deriving DecidableEq, Repr

/-- R52, R87: a request in a bank queue. -/
structure HomeReq where
  cls  : Nat
  arrival : Nat
  src  : Source
  dst  : GAddr
  op   : HomeOp
  pc   : Nat
  /-- Aged to class 3 (R87). -/
  aged : Bool
  /-- R79: a host request whose RETRY decision has been made: it waits for a thaw or a copy block. Of a look: its issuer has not asked again at its last attempt. -/
  decided : Bool := false
  /-- R60, R78: its frame has cut over since it was sent: the former source forwards it. -/
  forwarded : Bool := false
  deriving DecidableEq, Repr

/-- R141, R142: a region of a card, its addresses resolved. -/
structure Region where
  /-- None: a global virtual address. -/
  place  : Place
  base   : Nat
  len    : Nat
  rows   : Nat
  stride : Nat
  /-- R38: the address was generated from the private or spill window. -/
  win    : Bool := false
  /-- R102: where the context's partition of the scratchpad starts, once the job has started; `base` is then an offset in it. -/
  part   : Nat := 0
  deriving DecidableEq, Repr

/-- R63, R65: a frame-engine job waiting or running at its base die. -/
structure FeJob where
  ty    : Nat
  card  : BitVec 512
  addr  : DWord
  ctx   : Nat
  core  : Nat
  /-- Read region 0 as the issuing lane resolves it; none when it has none or it resolves to nothing. -/
  rd    : Option Region
  sup   : Bool
  started : Bool
  /-- R68: sub-frames done so far, for the record's MASK. -/
  mask  : BitVec 16
  deriving DecidableEq, Repr

/-- R29: a host-map write in progress. -/
structure HmWrite where
  host : Nat
  hfn  : Nat
  entry : DWord
  addr : DWord
  /-- The stacks whose replica holds the new entry. -/
  done : List Nat
  deriving DecidableEq, Repr

/-- R27: a host's map: its first host frame number and the number it maps, its stack-set table, and its entries. -/
structure HostMap where
  hmbase  : Nat
  hmcount : Nat
  sst     : SMap DWord
  map     : SMap DWord
  deriving DecidableEq, Repr

/-- What a Fezal request asks for. -/
inductive HostKind where
  | read | write | partialWrite | atomic
  deriving DecidableEq, Repr

/-- R81: a pending entry of the host-fault queue, with the requests it holds. -/
structure HostMiss where
  host : Nat
  hfn  : Nat
  arrival : Nat
  deadline : Nat
  joined : Nat
  /-- Index of its ring entry. -/
  index : Word
  heldReqs : List (HostKind × HostReq × Nat)
  deriving DecidableEq, Repr

/-- R433: a completion a port has sent. -/
structure Completion where
  port : Nat
  tag  : BitVec 16
  status : Nat
  data : List Byte
  deriving DecidableEq, Repr

/-- R432, R434: a Fezal port. -/
structure Port where
  /-- The link has been trained. -/
  trained : Bool
  rdwin : Nat
  wrwin : Nat
  /-- Outstanding tags. -/
  tags  : List (BitVec 16)
  /-- R79: requests completed with RETRY and not yet reissued, oldest first: 64-byte line and tag. -/
  retry : List (Nat × BitVec 16)
  deriving DecidableEq, Repr

/-- R124, R348: what an atomic does to the bytes at its location: a read-modify-write with an operand, or a store of `x` when they equal `m`. -/
inductive AtomOp where
  | rmw (f : Rmw) (x : Nat)
  | cas (m x : Nat)
  deriving DecidableEq, Repr

/-- R161: a request to a replica page on its way through the switch. A write carries what its home is asked to do: the lane accesses of one instruction within one line, or an atomic. -/
structure RepReq where
  /-- The group; 86528 + cluster for a merge of that cluster's shadow reductions. -/
  gid  : Nat
  desc : Nat
  port : Nat
  tag  : BitVec 16
  va   : DWord
  /-- Number of the 128-byte line of a write, of the 64-byte block of a read. -/
  line : Nat
  ctx  : Nat
  since : Nat
  write : Bool
  reqs  : List HomeReq
  /-- The location, the operation and the bytes of an atomic with return. -/
  atom  : Option (GAddr × AtomOp × Nat)
  /-- The answer, once it has come. -/
  got  : Option (Nat × List Byte)
  deriving DecidableEq, Repr

/-- R74: a write on its way to an expander: its 64-byte line, who made it, and its byte enables; a MemWr when they are all set, else a MemWrPtl. -/
structure CxlWrite where
  line  : Nat
  gid   : Nat
  mask  : DWord
  deriving DecidableEq, Repr

/-- R74, R76: a MemRd on its way: its line, and for an HDM-DB region the state it asks for: Shared, or Any. -/
structure CxlRead where
  line   : Nat
  shared : Bool
  /-- R76: a snoop has met it: it is ordered after the snoop. -/
  conflict : Bool := false
  deriving DecidableEq, Repr

/-- R73: a CXL port. -/
structure CxlPort where
  trained : Bool
  /-- Trained as CXL.io only. -/
  ioOnly  : Bool
  hdmDb   : Bool
  /-- Writes that the expander has not acknowledged. -/
  unacked : List CxlWrite
  /-- Reads sent, and lines of reads answered. -/
  asked   : List CxlRead
  ready   : List Nat
  /-- R76: lines of snoops that BIRspI has not answered yet. -/
  snoops  : List Nat
  /-- R76: the presence filter: lines and the clusters that may hold them. -/
  filter  : SMap (List Nat)
  deriving DecidableEq, Repr

/-! ## Jobs -/

/-- R148, R149: the states of a scheduler slot. -/
inductive JobState where
  | empty | pending | running | parked | complete
  deriving DecidableEq, Repr

/-- A slot of a task scheduler: the job it holds or last held. -/
structure Job where
  ctx    : Nat
  gen    : Word
  state  : JobState
  status : Nat
  /-- Completion scope as recorded: 3 clu, 4 dev, 5 sys (R265 coding). -/
  scope  : Nat
  card   : BitVec 512
  engine : Nat
  /-- The issuing group's key, team and index in its team. -/
  gid    : Nat
  team   : Option Nat
  gidx   : Nat
  cluster : Nat
  sup    : Bool
  /-- Resolved read region 0, read region 1 and write region. -/
  rd0    : Option Region
  rd1    : Option Region
  wr     : Option Region
  /-- R143: jobs it waits for: slot and generation, and whether reads performed are enough (WAR). -/
  edges  : List (Nat × Word × Bool)
  /-- Every read has been performed. -/
  readsDone : Bool
  /-- Address of the instruction that issued it (R38). -/
  pc     : Nat
  /-- 0 it reads, 1 it writes, 2 it notifies (a gate), 3 it has made every access. -/
  phase  : Nat
  /-- R146: pieces (or elements) of its phase done so far; a resumed job starts at a 256-byte unit. -/
  unit   : Nat
  /-- R151: pieces of its writes whose bytes have been counted. -/
  counted : Nat
  /-- Bytes it has read. -/
  buf    : List Byte
  /-- R146: pfrep has resumed it. -/
  resume : Bool
  pseq   : Word
  /-- R376: queue entries not yet delivered. -/
  out    : List (SMap Word)
  deriving DecidableEq, Repr

/-! ## Management -/

/-- R436: an answer the service dies have sent: master, status, bytes. -/
structure Reply where
  master : Nat
  status : Nat
  data   : List Byte
  deriving DecidableEq, Repr

/-- R221: what a base die keeps for a die kernel: its last checkpoint (the group, and where its core stands with messages), the messages addressed to it since then in the order of their coming (sender, sequence number), and those that the last warm reset has replayed (DESIGN CHOICE, log entry 49). -/
structure DieKernel where
  checkpoint : Option (Group × MsgSt)
  msgs   : List (Nat × Nat)
  replay : List (Nat × Nat)
  deriving DecidableEq, Repr

/-- A die kernel without a checkpoint or messages. -/
def DieKernel.init : DieKernel := { checkpoint := none, msgs := [], replay := [] }

/-- R241: a ring of the resident kernel: pointer, head, tail. -/
structure RingSt where
  ptr  : DWord
  head : Word
  tail : Word
  /-- Records and events that wait for space, oldest first. -/
  waiting : List (BitVec 512)
  deriving DecidableEq, Repr

/-- Management state (R436-R445). -/
structure Mgmt where
  owner    : Option Nat
  /-- R437: master that may claim, and the clock at which that ends. -/
  handover : Option (Nat × Nat)
  /-- R440: lifecycle of 25 interfaces: 16 Fezal, 8 CXL, board management; 0 open, 1 locked, 2 run. -/
  life     : List (BitVec 2)
  cap      : Nat
  /-- R444: steps of 75 MHz by which the arithmetic clock is lowered. -/
  steps    : Nat
  /-- R441: counters by context, and the snapshot of the last window boundary. -/
  counters : SMap Nat
  snapshot : SMap Nat
  replies  : List Reply
  /-- R440: debug accesses in flight. -/
  debug    : List Nat
  deriving DecidableEq, Repr

/-- R424: what a group that has ended still holds in its store queue. -/
structure Orphan where
  gid  : Nat
  team : Option Nat
  ctx  : Nat
  sq   : List QEntry
  deriving DecidableEq, Repr

/-! ## The state -/

/-- The module. -/
structure State where
  /-- R445: the timebase; the model counts steps (DESIGN CHOICE, log entry 3). -/
  clock   : Nat
  /-- What arrives from outside and has not been taken (DESIGN CHOICE, log entry 1). -/
  inputs  : List Instr
  /-- The group whose instruction the step executes, and the core and number of the sequencer whose word it executes (DESIGN CHOICE, log entry 1). -/
  cur     : Option Nat
  curSeq  : Option Nat
  /-- Frame space (R40): unlisted bytes read 0. -/
  mem     : SMap Byte
  dir     : SMap DirEntry
  /-- R56: poisoned 32-byte units, by frame-space address / 32. -/
  poison  : SMap Unit
  /-- R53-R56: where the DRAM holds something else than was stored, the difference: of a data byte under its frame-space address, of check symbol c of a granule under 2^46 + (the granule's address) / 8 + c. No row of the opcode table brings one about (DESIGN CHOICE, log entry 50). -/
  upsets  : SMap Byte
  memStacks : SMap Stack
  /-- R67: units of the frost image of a frost sub-frame (key 16 × frame + sub-frame). -/
  images  : SMap Nat
  thaws   : List Thaw
  frosting : List Frosting
  /-- R60: sources not yet released after cutover: frame, and the old stacks of its sub-frames. -/
  releases : SMap (List Nat)
  homeQ   : List HomeReq
  feQ     : List FeJob
  hmWrites : List HmWrite
  hosts   : SMap HostMap
  misses  : List HostMiss
  fr      : RingSt
  hfq     : RingSt
  evq     : RingSt
  /-- R399: the module-wide SEQ counter. -/
  seqNo   : Word
  ctxs    : SMap Ctx
  worlds  : SMap WorldDesc
  /-- R84: eviction counters by world and key (256 × world + key). -/
  evict   : SMap Nat
  versions : List Version
  cores   : SMap CoreSt
  groups  : SMap Group
  /-- R424: queue entries of groups that have ended, in order. -/
  orphans : List Orphan
  teams   : SMap Team
  /-- Sequencers: key 4 × core + number. -/
  seqs    : SMap Seq
  clusters : SMap Cluster
  /-- Task schedulers: 0-71 clusters, 128-135 service dies, 255 the collective engine. -/
  scheds  : SMap (SMap Job)
  /-- R361: the phase of each tree. -/
  trees   : BitVec 16
  tlbinvs : List TlbInv
  /-- R220: lost dies, coded as touched bits (R7). -/
  lost    : BitVec 144
  /-- R83: a compute-side reset is in progress. -/
  resetting : Bool
  colls   : SMap CollGroup
  ports   : SMap Port
  sent    : List Completion
  reps    : List RepReq
  cxl     : SMap CxlPort
  dieKernels : SMap DieKernel
  /-- R86: the 32-bit status words of unseals in the host's buffer, oldest first: 0 restored, 1 not. -/
  unseals : List Word
  /-- R152: the resident kernel's service channels: entries towards a group (port 5) and from it (port 6) by the group's context, team index and number; what the kernel's end does with them is not the module's (DESIGN CHOICE, log entry 45). -/
  svcIn   : SMap (List (SMap Word))
  svcOut  : SMap (List (SMap Word))
  mgmt    : Mgmt
  deriving DecidableEq, Repr

/-- R40: frame-space memory; an unlisted byte reads 0 (DESIGN CHOICE, log entry 6). -/
abbrev Memory := SMap Byte

namespace Memory
/-- The canonical form: addresses strictly rise and no byte listed is 0, which is what an unlisted address reads as. -/
def wf (m : Memory) : Bool := SMap.wf (0 : Byte) m
end Memory

/-! ## The state after a module reset -/

/-- A core after reset: R193 EXP 20, EN 1; R195 EXP 28, EN 1; everything else clear. -/
def CoreSt.init : CoreSt :=
  { l1 := [], tlb := [], progwin := 84, progfault := 92, wincnt := 0, faultcnt := 0, retired := false, wake := false,
    msg := { sent := 0, taken := [] }, tgtsel := 0, part := 0, arrived := 0, seen := 0, rr := [0, 0, 0, 0] }

/-- A cluster after reset. -/
def Cluster.init : Cluster :=
  { tlb := [], walkc := [], walks := [], remap := [], scratch := [], spp := [], sppsel := 0, shadow := [] }

/-- A stack after reset: R62 IDLE 16; R72 THAWRES 4096, LOWMARK 16384, LOWEV 1, FREE 2^24. -/
def Stack.init : Stack :=
  { mcidle := 16, thawres := 4096, lowmark := 16384, lowev := true, freeSub := 16777216, lowPosted := false, corrected := 0,
    banks := [], versions := 0, postponed := [], holders := [], hostRemap := [] }

/-- R27, R28: a host's map as the firmware leaves it: the window and the stack-set table are the firmware's, every entry is 0 (DESIGN CHOICE, log entry 7). -/
def HostMap.boot (h : Nat) : HostMap :=
  { hmbase := Config.hostBase h, hmcount := Config.hostCount h, sst := (List.range 64).map (fun i => (i, Config.hostSst h i)), map := [] }

/-- The map of a host number that no host has. -/
def HostMap.init : HostMap := { hmbase := 0, hmcount := 0, sst := [], map := [] }

/-- A Fezal port before training (DESIGN CHOICE, log entry 6). -/
def Port.init : Port := { trained := false, rdwin := 0, wrwin := 0, tags := [], retry := [] }

/-- A CXL port before training. -/
def CxlPort.init : CxlPort :=
  { trained := false, ioOnly := false, hdmDb := false, unacked := [], asked := [], ready := [], snoops := [], filter := [] }

/-- A ring register at reset (R241). -/
def RingSt.init : RingSt := { ptr := 0, head := 0, tail := 0, waiting := [] }

/-- A sequencer at reset: MPROG, MFLAGS and MSTATE 0 (R210, R238, R381); the rest 0 (DESIGN CHOICE, log entry 6). -/
def Seq.init : Seq :=
  { team := none, gid := 0, acc := [], sh := [], heldA := [], hfmt := 0, hsp := false, hw := 0, lc0 := 0, lc1 := 0,
    lact0 := false, lact1 := false, mparam := 0, wp := 0, arrm := 0, kstep := 0, park := false, aheld := false, soff := 0,
    mflags := 0, state := 0, reason := 0, pseq := 0, sobj := 0, doubt := false, waiting := false, saving := 0 }

/-- Context 0 as the firmware starts it (R12, R222; DESIGN CHOICE, log entry 7): the service compartment, key 0. Its groups run on every die's service core, so it has touched every compute die (R7). -/
def Ctx.kernel : Ctx :=
  { ckey := 0, world := 0, kind := 0, rootFn := Config.kernelRootFrame, rootSlot := Config.kernelRootSlot,
    privBase := (Config.kernelAliasBase false).setWidth 64 <<< 24, spillBase := (Config.kernelAliasBase true).setWidth 64 <<< 24,
    sstFn := Config.kernelSst.extractLsb' 0 30, sstOff := Config.kernelSst.extractLsb' 30 7, touched := BitVec.ofNat 144 (2 ^ 72 - 1), svbase := 0,
    rsetbase := 0, kinst0 := 0, kinst1 := 0, kernels := [], resolutions := [], dead := false, raised := 0 }

/-- A queue register not bound. -/
def QReg.init : QReg := { port := 0, fifo := [], pop := [], staged := [] }

/-- R179: a group before its first clause; kernel values of s0-s5 are set at admission. -/
def Group.init (ctx width regs : Nat) (entry : DWord) : Group :=
  { ctx := ctx, kid := 0, team := none, gidx := 0, tidx := 0, width := width, regs := regs, prio := 0, spillBytes := 0,
    lmask := fullMask width, fmask := fullMask width, s0 := { Slot.empty with mask := fullMask width, pc := entry },
    s1 := Slot.empty, spill := [], rotc := 0, pass := 0, pslot := 0, sup := false, halted := false, entryMask := 0,
    trapSlot := 0, trec := 0, k0 := Slot.empty, k1 := Slot.empty, c0 := Slot.empty, c1 := Slot.empty, cstat := 0, sysRest := 0, held := [], fpark := none, seqs := [], kept := [], turn := false,
    vregs := [], xregs := [], preds := [], sregs := [], ssplit := 0, kregs := [], fpcsr := 0, srseed := 0, srstate := [],
    queues := [.init, .init, .init, .init, .init, .init, .init, .init], qpopsel := 0, qentsel := 0, region := [],
    counters := [0, 0, 0, 0, 0, 0, 0, 0], pending := [], sq := [], waitst := 0, wp := 0, tp := 0, bound := none, bhdr := 0, blogn := 0, gsavep := 0,
    leaving := false, clause := none }

/-- Context 0 where some dies are lost: it has not touched those. -/
def Ctx.kernelOn (lost : BitVec 144) : Ctx := { Ctx.kernel with touched := Ctx.kernel.touched &&& ~~~lost }

/-- The group of a service core (R10, R222; DESIGN CHOICE, log entry 7): one lane of the resident kernel in supervisor mode. It belongs to no team, so the manual gives its aliases no T and G (R17): both are 0, and the aliases of all service groups coincide (DESIGN CHOICE, log entry 7). -/
def Group.service (core : Nat) : Group :=
  { Group.init 0 1 240 ((Config.kernelEntry core).setWidth 64) with sup := true, entryMask := 1 }

/-- R437-R445: management after a module reset: no owner, every interface in CONFIG_OPEN. -/
def Mgmt.init : Mgmt :=
  { owner := none, handover := none, life := List.replicate 25 0, cap := 21000, steps := 0, counters := [], snapshot := [],
    replies := [], debug := [] }

/-- The groups of the 200 service cores, core by core (R10, R222). -/
def serviceGroups : SMap Group := (List.range 200).map (fun i => (64 * (1152 + i), Group.service (1152 + i)))

/-- The machine right after a module reset (R3, R222). -/
def State.reset : State :=
  { clock := 0, inputs := [], cur := none, curSeq := none, mem := [], dir := [], poison := [], upsets := [], memStacks := [], images := [],
    thaws := [], frosting := [], releases := [], homeQ := [], feQ := [], hmWrites := [], hosts := (List.range 64).map (fun h => (h, HostMap.boot h)), misses := [],
    fr := .init, hfq := .init, evq := .init, seqNo := 0, ctxs := [(0, Ctx.kernel)], worlds := [], evict := [], versions := [],
    cores := [], groups := serviceGroups, orphans := [], teams := [], seqs := [], clusters := [], scheds := [], trees := 0,
    tlbinvs := [], lost := 0, resetting := false, colls := [], ports := [], sent := [], reps := [], cxl := [],
    dieKernels := [], unseals := [], svcIn := [], svcOut := [], mgmt := .init }

end Sys2Proof.Machine
end

