-- ==== Sys2Proof/Machine/Parts.lean ====
section
/-! DEFINITION. Parts of the module by number, memory bytes, the registers of a group, and its fragments at a clause boundary. -/

namespace Sys2Proof.Machine

/-- What a step answers. -/
abbrev Out := Host.Outcome State Fault Refusal

/-! ## Parts by number -/

def State.coreOf (s : State) (c : Nat) : CoreSt := SMap.get CoreSt.init s.cores c
def State.setCore (s : State) (c : Nat) (x : CoreSt) : State := { s with cores := SMap.set CoreSt.init s.cores c x }
def State.clusterOf (s : State) (c : Nat) : Cluster := SMap.get Cluster.init s.clusters c
def State.setCluster (s : State) (c : Nat) (x : Cluster) : State :=
  { s with clusters := SMap.set Cluster.init s.clusters c x }
def State.stackOf (s : State) (n : Nat) : Stack := SMap.get Stack.init s.memStacks n
def State.setStack (s : State) (n : Nat) (x : Stack) : State := { s with memStacks := SMap.set Stack.init s.memStacks n x }
def State.dirOf (s : State) (f : Nat) : DirEntry := SMap.get DirEntry.free s.dir f
def State.setDir (s : State) (f : Nat) (x : DirEntry) : State := { s with dir := SMap.set DirEntry.free s.dir f x }
def State.hostOf (s : State) (h : Nat) : HostMap := SMap.get HostMap.init s.hosts h
def State.setHost (s : State) (h : Nat) (x : HostMap) : State := { s with hosts := SMap.set HostMap.init s.hosts h x }
def State.portOf (s : State) (p : Nat) : Port := SMap.get Port.init s.ports p
def State.setPort (s : State) (p : Nat) (x : Port) : State := { s with ports := SMap.set Port.init s.ports p x }
def State.cxlOf (s : State) (p : Nat) : CxlPort := SMap.get CxlPort.init s.cxl p
def State.setCxl (s : State) (p : Nat) (x : CxlPort) : State := { s with cxl := SMap.set CxlPort.init s.cxl p x }
def State.seqOf (s : State) (n : Nat) : Seq := SMap.get Seq.init s.seqs n
def State.setSeq (s : State) (n : Nat) (x : Seq) : State := { s with seqs := SMap.set Seq.init s.seqs n x }
def State.setGroup (s : State) (gid : Nat) (g : Group) : State := { s with groups := SMap.put s.groups gid g }
def State.setTeam (s : State) (t : Nat) (x : Team) : State := { s with teams := SMap.put s.teams t x }
def State.setCtx (s : State) (c : Nat) (x : Ctx) : State := { s with ctxs := SMap.put s.ctxs c x }
def State.ctxOf? (s : State) (c : Nat) : Option Ctx := SMap.find? s.ctxs c
/-- Applies `f` to a resident group. -/
def State.modGroup (s : State) (gid : Nat) (f : Group → Group) : State := { s with groups := SMap.alter s.groups gid f }
/-- Applies `f` to a resident team. -/
def State.modTeam (s : State) (t : Nat) (f : Team → Team) : State := { s with teams := SMap.alter s.teams t f }
/-- Applies `f` to a live context. -/
def State.modCtx (s : State) (c : Nat) (f : Ctx → Ctx) : State := { s with ctxs := SMap.alter s.ctxs c f }

/-- R5, R404: the core of a group key. -/
def coreOfGid (gid : Nat) : Nat := gid / 64
/-- R186: the slot of a group key. -/
def slotOfGid (gid : Nat) : Nat := gid % 64
/-- R10, R404: cores 1152 and up are service cores. -/
def isService (core : Nat) : Bool := 1152 ≤ core
/-- R404: ring service cores are 1152-1279. -/
def isRing (core : Nat) : Bool := 1152 ≤ core && core < 1280
/-- R5, R404: the cluster (and compute die) of a core; a ring service core belongs to none. -/
def clusterOfCore (core : Nat) : Option Nat :=
  if core < 1152 then some (core / 16) else if core < 1280 then none else some (core - 1280)
/-- R5, R220: a core that can be used. -/
def State.coreEnabled (s : State) (core : Nat) : Bool :=
  if core < 1152 then Config.enabledCores.getLsbD core && !s.lost.getLsbD (core / 16)
  else if core < 1280 then true
  else core < 1352 && !s.lost.getLsbD (core - 1280)

/-! ## Memory bytes -/

/-- One byte of frame space. -/
def readByte (m : Memory) (a : Nat) : Byte := SMap.get 0 m a
/-- Writes one byte; the byte 0 is not listed. -/
def writeByte (m : Memory) (a : Nat) (b : Byte) : Memory := SMap.set 0 m a b
/-- `n` bytes from `a` on. -/
def readBytes (m : Memory) (a : Nat) : Nat → List Byte
  | 0 => []
  | n + 1 => readByte m a :: readBytes m (a + 1) n
/-- Writes bytes from `a` on. -/
def writeBytes (m : Memory) (a : Nat) : List Byte → Memory
  | [] => m
  | b :: bs => writeBytes (writeByte m a b) (a + 1) bs
/-- Zeroes `n` bytes from `a` on. -/
def zeroBytes (m : Memory) (a n : Nat) : Memory := SMap.delRange m a n

/-- R239: a little-endian number of `n` bytes. -/
def readNat (m : Memory) (a n : Nat) : Nat := leNat (readBytes m a n)

/-- Puts a field of `w` bits at bit `lo`. -/
def fld {n : Nat} (lo w : Nat) (x : Nat) : BitVec n := BitVec.ofNat n (x % 2 ^ w * 2 ^ lo)

/-! ## Registers of a group -/

/-- A vector register of a lane. -/
def Group.v (g : Group) (lane reg : Nat) : Word := SMap.get 0 g.vregs (lane * 512 + reg)
/-- Writes a vector register of a lane. -/
def Group.setV (g : Group) (lane reg : Nat) (x : Word) : Group :=
  { g with vregs := SMap.set 0 g.vregs (lane * 512 + reg) x }
/-- R239: an even/odd pair. -/
def Group.v64 (g : Group) (lane reg : Nat) : DWord := g.v lane (reg + 1) ++ g.v lane reg
/-- R239: writes an even/odd pair. -/
def Group.setV64 (g : Group) (lane reg : Nat) (x : DWord) : Group :=
  (g.setV lane reg (field x 0 32)).setV lane (reg + 1) (field x 32 32)
/-- An index register of a lane. -/
def Group.x (g : Group) (lane n : Nat) : Word := SMap.get 0 g.xregs (lane * 4 + n)
/-- Writes an index register of a lane. -/
def Group.setX (g : Group) (lane n : Nat) (x : Word) : Group := { g with xregs := SMap.set 0 g.xregs (lane * 4 + n) x }
/-- A predicate: one bit a lane. -/
def Group.p (g : Group) (n : Nat) : DWord := SMap.get 0 g.preds n
/-- Writes a predicate of one lane. -/
def Group.setPLane (g : Group) (n lane : Nat) (b : Bool) : Group :=
  let m := BitVec.twoPow 64 lane
  { g with preds := SMap.set 0 g.preds n (if b then g.p n ||| m else g.p n &&& ~~~m) }
/-- Writes a predicate in the lanes of a mask. -/
def Group.setP (g : Group) (n : Nat) (lanes bits : DWord) : Group :=
  { g with preds := SMap.set 0 g.preds n ((g.p n &&& ~~~lanes) ||| (bits &&& lanes)) }
/-- A scalar or supervisor register by operand code (R249, R204). -/
def Group.s (g : Group) (code : Nat) : Word :=
  if code < 0x40 then SMap.get 0 g.sregs code else SMap.get 0 g.kregs (code - 0x40)
/-- R175, R204: writes a scalar register by operand code. The split bit is set when the fragment is not all live lanes and cleared when it is; k registers have none. -/
def Group.setS (g : Group) (code : Nat) (x : Word) : Group :=
  if code < 0x40 then
    let m := BitVec.twoPow 64 code
    { g with sregs := SMap.set 0 g.sregs code x,
             ssplit := if g.fmask = g.lmask then g.ssplit &&& ~~~m else g.ssplit ||| m }
  else { g with kregs := SMap.set 0 g.kregs (code - 0x40) x }
/-- R175: writes a scalar pair. -/
def Group.setS64 (g : Group) (code : Nat) (x : DWord) : Group :=
  (g.setS code (field x 0 32)).setS (code + 1) (field x 32 32)

/-- A result that has arrived is written (R252). -/
def Group.applyWrite (g : Group) : RegWrite → Group
  | .v lane reg x => g.setV lane reg x
  | .s reg x split =>
    let m := BitVec.twoPow 64 reg
    { g with sregs := SMap.set 0 g.sregs reg x, ssplit := if split then g.ssplit ||| m else g.ssplit &&& ~~~m }
  | .k reg x => { g with kregs := SMap.set 0 g.kregs reg x }
  | .p lane reg x => g.setPLane reg lane x
  | .flags x => { g with fpcsr := g.fpcsr ||| x }
/-- R252: the counter of a result that has been written goes down. -/
def Group.applyPending (g : Group) (p : Pending) : Group :=
  let g := p.writes.foldl Group.applyWrite g
  { g with counters := g.counters.set p.ctr (g.counters.getD p.ctr 0 - 1) }
/-- R198, R253: every outstanding result is written and every counter is 0. -/
def Group.flush (g : Group) : Group :=
  let g := g.pending.foldl Group.applyPending g
  { g with pending := [], counters := [0, 0, 0, 0, 0, 0, 0, 0] }
/-- R252: a counter holds up to 63: an issue that would take it to 64 stalls. -/
def Group.full (g : Group) (ctr : Nat) : Bool := 63 ≤ g.counters.getD ctr 0
/-- R252: an instruction with a variable-latency result issues. -/
def Group.addPending (g : Group) (ctr : Nat) (ws : List RegWrite) : Group :=
  { g with pending := g.pending ++ [{ ctr := ctr, writes := ws }],
           counters := g.counters.set ctr (g.counters.getD ctr 0 + 1) }

/-- The live slot of a number. -/
def Group.slot (g : Group) (k : Nat) : Slot := if k = 0 then g.s0 else g.s1
/-- Replaces a live slot. -/
def Group.setSlot (g : Group) (k : Nat) (x : Slot) : Group := if k = 0 then { g with s0 := x } else { g with s1 := x }
/-- The suspended slot of a number (R202). -/
def Group.cslot (g : Group) (k : Nat) : Slot := if k = 0 then g.c0 else g.c1
/-- Replaces a suspended slot. -/
def Group.setCslot (g : Group) (k : Nat) (x : Slot) : Group := if k = 0 then { g with c0 := x } else { g with c1 := x }
/-- The true suspended slot of a number. -/
def Group.kslot (g : Group) (k : Nat) : Slot := if k = 0 then g.k0 else g.k1
/-- Replaces a true suspended slot. -/
def Group.setKslot (g : Group) (k : Nat) (x : Slot) : Group := if k = 0 then { g with k0 := x } else { g with k1 := x }
/-- What the control registers show of a suspended slot: PKMASK is 0 when nothing is parked there. -/
def Slot.shown (x : Slot) : Slot := if x.park.active then x else { x with park := .none }
/-- R398: KIND of a wait; the waits that WAITST does not show read 0. -/
def Wait.code (w : Wait) : Nat := if w.kind < 16 then w.kind else 0
/-- R169, R173: a fragment in a wait or a parking, until its clause has retired. -/
def Slot.held (x : Slot) : Bool := x.wait.kind != 0 || x.park.active
/-- R166: not blocked. -/
def Slot.ready (x : Slot) : Bool := x.mask != 0 && (x.wait.kind == 0 || x.wait.ended) && (!x.park.active || x.park.replay)
/-- R165: converged. -/
def Group.converged (g : Group) : Bool :=
  g.spill.isEmpty && ((g.s0.mask == g.lmask && g.s1.mask == 0) || (g.s1.mask == g.lmask && g.s0.mask == 0))
/-- R172: FRSTAT of the running state. A clause that brings ROTC to 64 and has not reached its boundary shows 63 (DESIGN CHOICE, log entry 44). -/
def Group.frstat (g : Group) : Word :=
  fld 0 6 (min 63 g.rotc) ||| fld 6 6 g.spill.length ||| fld 12 5 g.pass ||| fld 17 1 g.pslot

/-! ## The clause boundary (R168-R171) -/

/-- A fragment: mask and clause-header address. -/
abbrev Frag := DWord × DWord

/-- R169: joins a fragment to the one with the same PC, or adds it, in ascending order of PC. -/
def fuseInto : List Frag → Frag → List Frag
  | [], x => [x]
  | (m, p) :: l, (m', p') =>
    if p' < p then (m', p') :: (m, p) :: l
    else if p' = p then (m ||| m', p) :: l
    else (m, p) :: fuseInto l (m', p')

/-- R169: the spilled entries that do not stand at one of the given PCs. -/
def unspill (sp : List Frag) (pcs : List DWord) : List Frag := sp.filter (fun e => !pcs.contains e.2)

/-- R169: the lanes of the spilled entries at a PC. -/
def spilledAt (sp : List Frag) (pc : DWord) : DWord :=
  (sp.filter (fun e => e.2 = pc)).foldl (fun m e => m ||| e.1) 0

/-- A live slot that holds a fragment and no wait. -/
def Slot.of (x : Slot) (f : Frag) (clock : Nat) : Slot :=
  { x with mask := f.1, pc := f.2, wait := .none, past := [], park := { x.park with active := false, replay := false },
           since := clock, rng := [], first := none }

/-- R169: the lowest PC of the spill area moves into an empty slot. -/
def takeLowest (sp : List Frag) : Option (Frag × List Frag) :=
  match sp with
  | [] => none
  | e :: es =>
    let lo := es.foldl (fun m x => if x.2 < m.2 then x else m) e
    some (lo, sp.filter (fun x => x != lo))

/-- R169: fills an empty live slot from the spill area. -/
def Group.refill (g : Group) (k clock : Nat) : Group :=
  if (g.slot k).mask = 0 then
    match takeLowest g.spill with
    | some (f, sp) => { (g.setSlot k ((g.slot k).of f clock)) with spill := sp }
    | none => g
  else g

/-- R171: one rotation from live slot `k`. -/
def Group.rotate (g : Group) (k clock : Nat) : Group :=
  let k := if (g.slot k).held then 1 - k else k
  if (g.slot k).held then { g with rotc := 0 }
  else match g.spill with
    | [] => { g with rotc := 0 }
    | e :: es =>
      let x := g.slot k
      -- the fusion of R169 applies to the outgoing fragment first
      let out : Frag := (x.mask ||| spilledAt es x.pc, x.pc)
      if e.2 = x.pc then { (g.setSlot k (x.of (x.mask ||| spilledAt g.spill x.pc, x.pc) clock)) with
          spill := unspill es [x.pc], rotc := 0 }
      else { (g.setSlot k (x.of e clock)) with spill := unspill es [x.pc] ++ [out], rotc := 0 }

/-- R168, R169: the lanes of live slot `k` stand at the given fragments (none: every lane has exited): fusion, placement, and the refilling of an empty slot. -/
def Group.place (g : Group) (k clock : Nat) (frs : List Frag) : Group :=
  let o := 1 - k
  let other := g.slot o
  let frs := (frs.filter (fun f => f.1 != 0)).foldl fuseInto []
  -- R169: fusion with the other slot (unless it is blocked or parked) and with the spilled entries
  let live := if other.mask = 0 || other.held then frs else fuseInto frs (other.mask, other.pc)
  let fusable := (live.map (·.2)).filter (fun p => frs.any (fun f => f.2 = p))
  let live := live.map (fun f => if fusable.contains f.2 then (f.1 ||| spilledAt g.spill f.2, f.2) else f)
  let sp := unspill g.spill fusable
  let mine := (g.slot k).of (0, 0) clock
  let g :=
    if other.mask = 0 || other.held then
      match live with
      | [] => { (g.setSlot k mine) with spill := sp }
      | f :: rest =>
        if other.mask = 0 then
          match rest with
          | [] => { (g.setSlot k (mine.of f clock)) with spill := sp }
          | f' :: rest' => { ((g.setSlot k (mine.of f clock)).setSlot o (other.of f' clock)) with spill := sp ++ rest' }
        else { (g.setSlot k (mine.of f clock)) with spill := sp ++ rest }
    else
      match live with
      | [] => { (g.setSlot k mine) with spill := sp }
      | [f] =>
        -- all in one place: it keeps the issuing slot, unless only the other slot's fragment is left
        if frs.isEmpty then { ((g.setSlot k mine).setSlot o { other with mask := f.1 }) with spill := sp }
        else { ((g.setSlot k (mine.of f clock)).setSlot o (other.of (0, 0) clock)) with spill := sp }
      | f :: f' :: rest =>
        -- R169: a fragment that fuses into one of the new ones empties its slot; otherwise it keeps it
        let oKeeps (x : Frag) : Bool := x.2 = other.pc && !fusable.contains x.2
        if oKeeps f then
          { ((g.setSlot k (mine.of f' clock)).setSlot o { other with mask := f.1 }) with spill := sp ++ rest }
        else if oKeeps f' then
          { ((g.setSlot k (mine.of f clock)).setSlot o { other with mask := f'.1 }) with spill := sp ++ rest }
        else { ((g.setSlot k (mine.of f clock)).setSlot o (other.of f' clock)) with spill := sp ++ rest }
  (g.refill k clock).refill o clock

/-- R166, R172: PASS counts the passes of one fragment: another in slot PSLOT has none. -/
def Group.keepPass (g old : Group) : Group :=
  if (g.slot g.pslot).mask = (old.slot g.pslot).mask && (g.slot g.pslot).pc = (old.slot g.pslot).pc then g else { g with pass := 0 }

/-- R168, R169, R171: the clause of live slot `k` has retired and its lanes stand at the given fragments. Counting starts when the area becomes non-empty; the clause that brings ROTC to 64 rotates. -/
def Group.boundary (g : Group) (k clock : Nat) (frs : List Frag) : Group :=
  let g' := g.place k clock frs
  let g' :=
    if g'.spill.isEmpty || g.spill.isEmpty then { g' with rotc := 0 }
    else if 64 ≤ g'.rotc then g'.rotate k clock
    else g'
  g'.keepPass g

end Sys2Proof.Machine
end

