-- ==== Sys2Proof/Machine/Dram.lean ====
section
/-! DEFINITION. The DRAM beneath frame space: stack sets and homes (02_frames_granules R44-R47), placement, gangs and banks (R41, R48, R51, R61, R62), what a read decodes and a write encodes (R52-R56), expanders (03_tiers_and_host R74), thaws (R69), and the queues of the memory controllers (R87). -/

namespace Sys2Proof.Machine

/-! ## Stack sets and homes -/

/-- R44: the grid site of a compute die (row + column even) or of a memory stack (odd): row and column. -/
def siteOf (n : Nat) (stack : Bool) : Nat × Nat :=
  let row := n / 6
  let even := row % 2 = 0
  let col := 2 * (n % 6) + (if even = !stack then 0 else 1)
  (row, col)

/-- R44: the die set of a compute die: the stacks at the orthogonally adjacent sites, ascending. -/
def dieSet (d : Nat) : List Nat :=
  let (r, c) := siteOf d false
  (if r = 0 then [] else [(12 * (r - 1) + c) / 2]) ++ (if c = 0 then [] else [(12 * r + c - 1) / 2]) ++
    (if c = 11 then [] else [(12 * r + c + 1) / 2]) ++ (if r = 11 then [] else [(12 * (r + 1) + c) / 2])

/-- R46: the members of a stack set, from member 0. -/
def members (kind : BitVec 2) (num : BitVec 7) (mask : BitVec 16) : List Nat :=
  if kind = 0 then List.range 72
  else if kind = 1 then dieSet num.toNat
  else if kind = 2 then [num.toNat]
  else ((List.range 16).filter (fun i => mask.getLsbD i)).map (fun i => (num.toNat + i) % 72)

/-- R47: the stack that stores sub-frame `j` of frame `f` in a physical set. -/
def stackOfSet (kind : BitVec 2) (num : BitVec 7) (mask : BitVec 16) (f j : Nat) : Nat :=
  let ms := members kind num mask
  ms.getD ((16 * f + j) % ms.length) 0
/-- R47: the stack that stores the sub-frame of a frame-space address. -/
def State.homeStack (s : State) (addr : Nat) : Nat :=
  let d := s.dirOf (addr / 65536)
  stackOfSet d.skind d.snum d.smask (addr / 65536) (addr / 4096 % 16)

/-- R45: the fields of a stack-set table entry, when it counts as valid. -/
def sstEntry (e : DWord) : Option (BitVec 2 × BitVec 7 × BitVec 16) :=
  let kind : BitVec 2 := field e 1 2
  let num : BitVec 7 := field e 3 7
  let mask : BitVec 16 := field e 10 16
  if e.getLsbD 0 && fieldNat e 26 38 == 0 && num.toNat < 72 && (if kind = 3 then mask != 0 else mask == 0) &&
      (kind != 0 || num == 0) then some (kind, num, mask)
  else none

/-! ## Placement (R41, R43, R48, R51) -/

/-- R40, R160: frame-space addresses of this module end here; a replica that another module holds is written (module number + 1) × 2^46 + its address there. -/
def remoteBase : Nat := 2 ^ 46
/-- R41: the directory stack of a frame. -/
def dirStack (f : Nat) : Nat := f % 72
/-- R57: the format in which the frame of an address stands. -/
def State.fmtAt (s : State) (addr : Nat) : BitVec 3 := (s.dirOf (addr / 65536)).fmt
/-- The first addresses of the `g`-byte granules that an access of `n` bytes touches. -/
def granulesOf (g addr n : Nat) : List Nat := (List.range ((addr % g + n + g - 1) / g)).map (fun i => addr / g * g + g * i)

/-- R41: the placement record of an address's sub-frame. -/
def State.placeOf (s : State) (addr : Nat) (at_ : Nat → Nat → Nat → Nat) : Nat :=
  at_ (addr / 65536) (addr / 4096 % 16) (s.homeStack addr)
/-- R51: the gang that stores the granule of an address. -/
def State.gangOf (s : State) (addr : Nat) : Nat :=
  (s.placeOf addr Config.placeGang + addr % 4096 / granuleBytes (s.fmtAt addr)) % gangCount (s.fmtAt addr)
/-- R48, R49: the sub-channels of the gangs that an access of `n` bytes moves. -/
def State.subChannels (s : State) (addr n : Nat) : List Nat :=
  (granulesOf (granuleBytes (s.fmtAt addr)) addr n).flatMap (fun a =>
    (List.range (gangWidth (s.fmtAt addr))).map (fun q => gangWidth (s.fmtAt addr) * s.gangOf a + q))
/-- R48: the bank of a sub-frame, the same on each sub-channel, among the 32 of 8 groups; its key among the stack's banks. -/
def State.bankOf (s : State) (addr sub : Nat) : Nat := 32 * sub + s.placeOf addr Config.placeBank % 32

/-- R61, R62: an access opens its row on every sub-channel of its gangs and restarts the banks' timers: IDLE units of 2.5 ns, each 45/8 cycles of the timebase (R445). -/
def openRow (s : State) (addr n : Nat) : State :=
  if s.fmtAt addr = 5 || remoteBase ≤ addr then s
  else
    let x := s.stackOf (s.homeStack addr)
    let till := s.clock + (fieldNat x.mcidle 0 8 * 45 + 7) / 8
    s.setStack (s.homeStack addr) { x with
      banks := (s.subChannels addr n).foldl (fun m q => SMap.put m (s.bankOf addr q) (s.placeOf addr Config.placeRow, till)) x.banks }

/-- R43: the directory stack of a frame records who holds its entry. -/
def recordHolder (s : State) (f holder : Nat) : State :=
  let x := s.stackOf (dirStack f)
  let l := SMap.get [] x.holders f
  if l.contains holder then s else s.setStack (dirStack f) { x with holders := SMap.put x.holders f (l ++ [holder]) }
/-- R43: a holder has given an entry up. -/
def forgetHolder (s : State) (f holder : Nat) : State :=
  let x := s.stackOf (dirStack f)
  s.setStack (dirStack f) { x with holders := SMap.set [] x.holders f ((SMap.get [] x.holders f).filter (fun h => h ≠ holder)) }

/-- R43: a cluster's remap cache of 4,096 entries holds the entry of a frame; a full one gives up a victim. -/
def remapFill (s : State) (cl f : Nat) : State :=
  let c := s.clusterOf cl
  if c.remap.contains f then s
  else if c.remap.length < 4096 then recordHolder (s.setCluster cl { c with remap := c.remap ++ [f] }) f cl
  else
    let i := Config.victim s.clock % 4096
    recordHolder (forgetHolder (s.setCluster cl { c with remap := c.remap.eraseIdx i ++ [f] }) (c.remap.getD i 0) cl) f cl

/-- R7, R43: an access of a context reaches a frame: the stack's touched bit and the cluster's remap cache. -/
def reach (s : State) (ctx : Nat) (cluster : Option Nat) (addr : Nat) : State :=
  if remoteBase ≤ addr then s
  else
    let s := s.modCtx ctx (fun c => { c with touched := c.touched ||| BitVec.twoPow 144 (72 + s.homeStack addr) })
    match cluster with
    | some cl => remapFill s cl (addr / 65536)
    | none => s

/-! ## What the DRAM holds (R52-R56) -/

/-- Where the difference of a check symbol stands. -/
def checkKey (start c : Nat) : Nat := remoteBase + start / 8 + c

/-- The differences in a granule's data bytes and check symbols. -/
def State.upsetData (s : State) (start g : Nat) : List Nat := (List.range g).map (fun k => (SMap.get 0 s.upsets (start + k)).toNat)
def State.upsetCheck (s : State) (start g : Nat) : List Nat := (List.range (g / 8)).map (fun c => (SMap.get 0 s.upsets (checkKey start c)).toNat)

/-- R55, R56: the decode of the granule of `g` bytes at an address: what it leaves wrong, and how many codewords it corrects; none when it is uncorrectable. A CXL frame's lines carry no code of the module (R53). -/
def State.decodeGranule (s : State) (start : Nat) : Option (List Nat × Nat) :=
  let gc := s.fmtAt start
  let g := granuleBytes gc
  if gc = 5 || ((s.upsetData start g).all (· == 0) && (s.upsetCheck start g).all (· == 0)) then some (List.replicate g 0, 0)
  else granuleDecode gc (s.upsetData start g) (s.upsetCheck start g)

/-- R53, R56: a byte as a decode delivers it: right, unless the decode went wrong undetected; then what the wrong ciphertext of its 32-byte unit decrypts to. -/
def State.sensedByte (s : State) (a : Nat) : Byte :=
  let g := granuleBytes (s.fmtAt a)
  match s.decodeGranule (a / g * g) with
  | none => readByte s.mem a
  | some (left, _) =>
    let wrong := (left.drop (a % g / 32 * 32)).take 32
    if wrong.all (· == 0) then readByte s.mem a
    else
      let key := (s.dirOf (a / 65536)).ktag
      let stored := cipher key (a / 32) ((readBytes s.mem (a / 32 * 32) 32).map (·.toNat))
      BitVec.ofNat 8 ((plainText key (a / 32) (List.zipWith (· ^^^ ·) stored wrong)).getD (a % 32) 0)

/-- R52: the bytes that a read of frame space delivers. -/
def State.bytes (s : State) (addr n : Nat) : List Byte :=
  if s.upsets.isEmpty then readBytes s.mem addr n else (List.range n).map (fun i => s.sensedByte (addr + i))
/-- R239: the little-endian number that a read delivers. -/
def State.num (s : State) (addr n : Nat) : Nat := leNat (s.bytes addr n)

/-- R56: a granule any of whose bytes stands in the range is recorded as poisoned. -/
def poisoned (s : State) (addr n : Nat) : Bool :=
  let g := granuleBytes (s.fmtAt addr)
  let lo := addr / g * g / 32
  let hi := ((addr + n + g - 1) / g * g) / 32
  s.poison.any (fun e => lo ≤ e.1 && e.1 < hi)

/-- R56: a granule is recorded as poisoned. -/
def poisonGranule (s : State) (start g : Nat) : State :=
  { s with poison := (List.range (g / 32)).foldl (fun m i => SMap.put m (start / 32 + i) ()) s.poison }

/-- R56: ranges that are written together cover the whole granule of `g` bytes at an address. -/
def granuleFull (g : Nat) (whole : List (Nat × Nat)) (a : Nat) : Bool :=
  (List.range g).all (fun i => whole.any (fun w => w.1 ≤ a + i && a + i < w.1 + w.2))

/-- R52, R56: the granules that an access reads are decoded; a write reads those that it does not cover: each corrected codeword counts, and an uncorrectable granule is recorded as poisoned. Nothing is rewritten. -/
def sense (s : State) (addr n : Nat) (whole : List (Nat × Nat)) : State :=
  if s.upsets.isEmpty || remoteBase ≤ addr then s
  else ((granulesOf (granuleBytes (s.fmtAt addr)) addr n).filter (fun a => !granuleFull (granuleBytes (s.fmtAt addr)) whole a)).foldl
      (fun s a => match s.decodeGranule a with
    | none => poisonGranule s a (granuleBytes (s.fmtAt addr))
    | some (_, 0) => s
    | some (_, k) =>
      let st := s.homeStack addr
      s.setStack st { s.stackOf st with corrected := (s.stackOf st).corrected + k }) s

/-- What was stored in a range is stored anew: no difference is left. -/
def freshen (s : State) (addr n : Nat) : State :=
  { s with upsets := SMap.delRange (SMap.delRange s.upsets addr n) (checkKey addr 0) (n / 8) }

/-- R52: before a write the granules that it covers in part are read and corrected, and all of them are encoded anew. -/
def reencode (s : State) (addr n : Nat) : State :=
  if s.upsets.isEmpty then s
  else
    let g := granuleBytes (s.fmtAt addr)
    (granulesOf g addr n).foldl (fun s a => freshen { s with mem := writeBytes s.mem a (s.bytes a g) } a g) s

/-- R56: an access meets a granule that is recorded as poisoned and that the ranges written together with it do not cover; a read covers none. -/
def poisonStops (s : State) (addr n : Nat) (whole : List (Nat × Nat)) : Bool :=
  let g := granuleBytes (s.fmtAt addr)
  !s.poison.isEmpty && (granulesOf g addr n).any (fun a => poisoned s a g && !granuleFull g whole a)

/-- R56: a write of whole granules clears their poison records. -/
def clearPoison (s : State) (addr n : Nat) (whole : List (Nat × Nat)) : State :=
  let g := granuleBytes (s.fmtAt addr)
  if s.poison.isEmpty then s
  else (granulesOf g addr n).foldl (fun s a =>
    if granuleFull g whole a then { s with poison := SMap.delRange s.poison (a / 32) (g / 32) } else s) s

/-! ## Expanders (R74, R432) -/

/-- R432: the CXL port bonded to a stack. -/
def cxlPortOf (stack : Nat) : Nat :=
  match [0, 3, 17, 53, 67, 70, 18, 54].findIdx? (· = stack) with
  | some p => p
  | none => 0
/-- R74: the CXL port that reaches a frame; none for a frame of the stacks. -/
def frameCxl (s : State) (addr : Nat) : Option Nat :=
  if s.fmtAt addr = 5 then some (cxlPortOf (s.homeStack addr)) else none

/-- R74, R76: a read of a CXL line: answered lines are used once; otherwise MemRd is sent, for a line that an L1 may hold in state Shared, and the access waits. -/
def cxlRead (s : State) (addr : Nat) (shared : Bool) : Bool × State :=
  match frameCxl s addr with
  | none => (true, s)
  | some p =>
    let x := s.cxlOf p
    let line := addr / 64
    if x.ready.contains line then (true, s.setCxl p { x with ready := x.ready.erase line })
    else if x.asked.any (fun r => r.line = line && !r.conflict) then (false, s)
    else (false, s.setCxl p { x with asked := x.asked ++ [{ line := line, shared := shared && x.hdmDb }] })

/-- R74: the byte enables of `n` bytes from an address on, within their line. -/
def lineMask (addr n : Nat) : DWord := BitVec.ofNat 64 ((2 ^ n - 1) * 2 ^ (addr % 64))

/-- R74: a write of at most 64 bytes within one line goes to a port's expander: MemWr for the whole line, else MemWrPtl with byte enables. -/
def cxlSend (s : State) (port gid addr n : Nat) : State :=
  let x := s.cxlOf port
  s.setCxl port { x with unacked := x.unacked ++ [{ line := addr / 64, gid := gid, mask := lineMask addr n }] }

/-- R74: a write to a CXL frame is sent to its expander, line by line. -/
def cxlWrite (s : State) (gid addr n : Nat) : State :=
  match frameCxl s addr with
  | some p => (granulesOf 64 addr n).foldl (fun s a => cxlSend s p gid (max a addr) (min (a + 64) (addr + n) - max a addr)) s
  | none => s

/-- R59, R74: while a frame migrates to a CXL frame, a write below CURSOR is also written to its expander. -/
def mirrorCxl (s : State) (gid addr n : Nat) : State :=
  let d := s.dirOf (addr / 65536)
  if d.state = 2 && d.dfmt = 5 && addr % 65536 / 512 < d.cursor.toNat then cxlSend s (cxlPortOf d.dnum.toNat) gid addr n else s

/-- A waiting instruction keeps what others have answered it: answers are used up only when it completes. -/
def keepAnswers (s0 s : State) : State :=
  { s with cxl := s.cxl.map (fun e => (e.1, { e.2 with ready := (s0.cxlOf e.1).ready, unacked := (s0.cxlOf e.1).unacked })),
           reps := s0.reps ++ s.reps.filter (fun r => !s0.reps.contains r) }

/-! ## Frost (R68, R69) -/

/-- R69, R87: starts a thaw of the sub-frame of an address, if it is frost and none runs: for a host, for a frame-engine job (`bg`), or for another access. A thaw that another access has started stays as it is when a host access comes to wait for it: the manual does not say that it is promoted (DESIGN CHOICE, log entry 51). -/
def startThawFor (s : State) (addr : Nat) (host bg : Bool) : State :=
  let f := addr / 65536
  let j := addr / 4096 % 16
  if (s.dirOf f).frost.getLsbD j && !s.thaws.any (fun t => t.frame = f && t.sub = j) then
    { s with thaws := s.thaws ++ [{ frame := f, sub := j, host := host, bg := bg }] }
  else s
/-- R69: starts a thaw for an access. -/
def startThaw (s : State) (addr : Nat) (host : Bool) : State := startThawFor s addr host false

/-- R67, R71: what a decode of the image of a frost sub-frame leaves wrong in its stored bytes; none when a granule of it is uncorrectable. The image is decoded as a whole, whichever block of it is asked for (DESIGN CHOICE, log entry 50). -/
def imageDecode (s : State) (addr : Nat) : Option (List Nat) :=
  let start := addr / 4096 * 4096
  (granulesOf (granuleBytes (s.fmtAt addr)) start (512 * SMap.get 0 s.images (start / 4096))).foldr (fun a acc =>
    match s.decodeGranule a, acc with
    | some (left, _), some l => some (left ++ l)
    | _, _ => none) (some [])

/-- R67, R80: bytes of a frost sub-frame, decoded from its image; one that decodes wrong undetected gives free bytes. -/
def frostData (s : State) (addr n : Nat) : List Byte :=
  match imageDecode s addr with
  | some wrong =>
    if wrong.all (· == 0) then readBytes s.mem addr n
    else (List.range n).map (fun i => Config.frostWrong (addr / 4096) wrong (addr % 4096 + i))
  | none => readBytes s.mem addr n

/-- R68: a write that reaches a sub-frame that is being frosted cancels its frosting. -/
def cancelFrosting (s : State) (addr : Nat) : State :=
  { s with frosting := s.frosting.map (fun f =>
      if f.frame = addr / 65536 && f.sub = addr / 4096 % 16 then { f with cancelled := true } else f) }

/-- R52, R56, R59, R61, R68, R74: bytes are written at their home: the granules are encoded anew, a frosting is cancelled, rows open, expanders are told; `whole` are the ranges that are written together. While a frame is copied the destination takes the same bytes (DESIGN CHOICE, log entry 1); memory keeps one copy. -/
def storeWhole (s : State) (gid addr : Nat) (bs : List Byte) (whole : List (Nat × Nat)) : State :=
  let s := reencode s addr bs.length
  let s := clearPoison { s with mem := writeBytes s.mem addr bs } addr bs.length whole
  cxlWrite (mirrorCxl (openRow (cancelFrosting s addr) addr bs.length) gid addr bs.length) gid addr bs.length
/-- A write by itself. -/
def storeFrame (s : State) (gid addr : Nat) (bs : List Byte) : State := storeWhole s gid addr bs [(addr, bs.length)]

/-! ## The queues of the memory controllers (R69, R87) -/

/-- R87: the class of a group's accesses is a matter of who it is; the number of bytes a request reads or writes. -/
def HomeReq.bytes (r : HomeReq) : Nat :=
  match r.op with
  | .write d => d.length
  | .rmw _ d => d.length
  | .look n => n
  | _ => 64

/-- The request keeps a place for an access. -/
def HomeReq.looks (r : HomeReq) : Bool := match r.op with | .look _ => true | _ => false

/-- R48, R74, R87: the queues in which a request waits: those of its sub-channels (128 × stack + sub-channel); that of its line for a CXL frame; that of the switch for a replica page. -/
def HomeReq.queues (s : State) (r : HomeReq) : List Nat :=
  if r.dst.rep.isSome then [9216]
  else if s.fmtAt r.dst.addr = 5 then [9217 + r.dst.addr / 64]
  else (s.subChannels r.dst.addr r.bytes).map (128 * s.homeStack r.dst.addr + ·)

/-- R40: the key of a sub-frame among all sub-frames of frame space. -/
def subKey (frame sub : Nat) : Nat := 16 * frame + sub
/-- The number that stands for a job of a scheduler where a group's would stand. -/
def jobGid (sched slot : Nat) : Nat := 90112 + 256 * sched + slot
/-- The numbers that stand for a sequencer, a frame-engine job and a thaw. -/
def seqGid (key : Nat) : Nat := 262144 + key
def feParty (target : Nat) : Nat := 2 ^ 20 + target
def thawParty (sub : Nat) : Nat := 2 ^ 60 + sub

/-- The number's job, sequencer or thaw is not under way. -/
def partyGone (s : State) (id : Nat) : Bool :=
  if id < jobGid 256 0 then (match SMap.find? (SMap.get [] s.scheds ((id - jobGid 0 0) / 256)) (id % 256) with
    | some j => j.state != .running
    | none => true)
  else if id < 2 ^ 20 then (s.seqOf (id - seqGid 0)).state != 1
  else 2 ^ 60 ≤ id && !s.thaws.any (fun t => thawParty (subKey t.frame t.sub) = id)

/-- A place in the queues whose access is not asked for any more. -/
def HomeReq.gone (s : State) (r : HomeReq) : Bool :=
  r.looks && (r.decided || (match r.src with
    | .group gid => (match (SMap.find? s.groups gid).bind (·.clause) with | some c => c.ipc.toNat != r.pc | none => true)
    | .walker cl ctx page => !(s.clusterOf cl).walks.contains (ctx, page)
    | .party id => partyGone s id
    | _ => false))

/-- R69: a thaw itself, and a frame-engine job, does not wait for a thaw. -/
def HomeReq.ofEngine (r : HomeReq) : Bool := match r.src with | .party id => 2 ^ 20 ≤ id | _ => false

/-- A request that waits for something else than its turn: a thaw, or the block being copied (R59, R69); and a place whose access is not asked for any more. It keeps nobody waiting. -/
def HomeReq.idle (s : State) (r : HomeReq) : Bool :=
  let d := s.dirOf (r.dst.addr / 65536)
  let reads := match r.op with | .hostRead | .look _ => true | _ => false
  (r.dst.rep.isNone && !r.ofEngine && d.frost.getLsbD (r.dst.addr / 4096 % 16)) ||
    (r.dst.rep.isNone && !reads && d.state = 2 && d.cursor.toNat = r.dst.addr % 65536 / 512) || r.gone s

/-- R48: the banks, by their keys among those of the home's stack, that a request uses. -/
def HomeReq.banks (s : State) (r : HomeReq) : List Nat :=
  if r.dst.rep.isSome || s.fmtAt r.dst.addr = 5 then [] else (s.subChannels r.dst.addr r.bytes).map (s.bankOf r.dst.addr)

/-- R87: entries of a sub-channel's queue of 64 that are held for a class. -/
def reserved (cls : Nat) : Nat := [8, 4, 4].getD cls 0
/-- R87: a request of a class finds room beside others in a queue. -/
def queueRoom (held : List Nat) (cls : Nat) : Bool :=
  held.length + (([0, 1, 2].filter (fun k => k ≠ cls)).map (fun k => reserved k - (held.filter (fun x => x = k)).length)).sum < 64

/-- R87: the requests that stand in a queue, by their place in the order of arrival; the others are still on their way. -/
def queueOf (s : State) (ch : Nat) : List Nat :=
  (s.homeQ.zipIdx.foldl (fun (q : List Nat × List Nat) x =>
    if (x.1.queues s).contains ch && queueRoom q.2 x.1.cls then (q.1 ++ [x.2], q.2 ++ [x.1.cls]) else q) ([], [])).1
/-- R87: a request stands in a queue; while fewer than 48 wait in the whole module every one does. -/
def admitted (s : State) (n ch : Nat) : Bool := s.homeQ.length ≤ 48 || (queueOf s ch).contains n

/-- R52, R87: of two requests the one that a sub-channel serves first: the higher class, and in one class the one that arrived first. -/
def HomeReq.first (x y : HomeReq × Nat) : Bool := x.1.cls < y.1.cls || (x.1.cls = y.1.cls && x.2 < y.2)

/-- R52, R113: what one instruction writes within an aligned block of this size is performed together: a line of 128 bytes, or a granule that is larger. -/
def State.unitAt (s : State) (addr : Nat) : Nat := max 128 (granuleBytes (s.fmtAt addr))

/-- R52, R113: lane accesses of one instruction within one line, or one granule. -/
def HomeReq.together (s : State) (r x : HomeReq) : Bool :=
  let u := if r.dst.rep.isSome then 128 else s.unitAt r.dst.addr
  !r.looks && !x.looks && x.src = r.src && x.arrival = r.arrival && x.cls = r.cls && x.dst.rep = r.dst.rep &&
    x.dst.addr / u = r.dst.addr / u

/-- R116: a store does not wait for the place of a load of its own core in the same line, which waits for it. -/
def HomeReq.ownLine (x r : HomeReq) : Bool :=
  x.looks && x.dst.addr / 128 = r.dst.addr / 128 &&
    (match x.src, r.src with | .group a, .group b => coreOfGid a = coreOfGid b | _, _ => false)

/-- R52, R87: the request whose turn it is at each of its queues: nothing that is served before it waits there. -/
def homeTurn (s : State) (n : Nat) : Option HomeReq :=
  match s.homeQ[n]? with
  | none => none
  | some r =>
    let ahead (x : HomeReq × Nat) : Bool :=
      HomeReq.first x (r, n) && !x.1.ownLine r && !r.together s x.1 && !x.1.idle s &&
        (r.queues s).any (fun ch => (x.1.queues s).contains ch && admitted s x.2 ch)
    if s.homeQ.zipIdx.any ahead then none
    else if s.homeQ.length ≤ 48 || (r.queues s).all (admitted s n) then some r else none

/-- R87: nothing of a class or a higher one waits for the queues of an access of `n` bytes. -/
def homeClear (s : State) (cls addr n : Nat) : Bool :=
  !s.homeQ.any (fun x => x.cls ≤ cls && !x.idle s &&
    (x.queues s).any (fun ch =>
      (if s.fmtAt addr = 5 then [9217 + addr / 64] else (s.subChannels addr n).map (128 * s.homeStack addr + ·)).contains ch))

/-- R69, R87: an access of `n` bytes asks for its turn: it has it, or keeps a place in the order of arrival. -/
def homeAsk (s : State) (src : Source) (cls : Nat) (a : GAddr) (n pc : Nat) : Bool × State :=
  let mine (x : HomeReq) : Bool := x.looks && x.src = src && x.pc = pc && x.dst.addr = a.addr
  let new : HomeReq := { cls := cls, arrival := s.clock, src := src, dst := a, op := .look n, pc := pc, aged := false }
  match s.homeQ.findIdx? mine with
  | some i =>
    let s := { s with homeQ := s.homeQ.modify i (fun x => { x with decided := false }) }
    ((homeTurn s i).isSome, s)
  | none =>
    if s.homeQ.isEmpty then (true, s)
    else
      let s' := { s with homeQ := s.homeQ ++ [new] }
      if (homeTurn s' s.homeQ.length).isSome then (true, s) else (false, s')
/-- R69: an access that waits for a thaw keeps its place. -/
def homeKeep (s : State) (src : Source) (cls : Nat) (a : GAddr) (n pc : Nat) : State :=
  let mine (x : HomeReq) : Bool := x.looks && x.src = src && x.pc = pc && x.dst.addr = a.addr
  match s.homeQ.findIdx? mine with
  | some i => { s with homeQ := s.homeQ.modify i (fun x => { x with decided := false }) }
  | none => { s with homeQ := s.homeQ ++ [{ cls := cls, arrival := s.clock, src := src, dst := a, op := .look n, pc := pc, aged := false }] }

/-- An issuer makes another attempt: places that its last one did not ask for again are given up, and the others lapse unless it asks again. -/
def askAgain (s : State) (src : Source) : State :=
  { s with homeQ := (s.homeQ.filter (fun x => !(x.looks && x.src = src && x.decided))).map (fun x =>
      if x.looks && x.src = src then { x with decided := true } else x) }
/-- An issuer has performed what it waited for: its places are given up. -/
def dropLooks (s : State) (src : Source) : State := { s with homeQ := s.homeQ.filter (fun x => !(x.looks && x.src = src)) }

end Sys2Proof.Machine
end

