-- ==== Sys2Proof/Machine/Translate.lean ====
section
/-! DEFINITION. From a pointer to a home: windows and aliases (R15-R17), page tables (R19-R24, R34, R45, R160), TLBs (R31-R35), stack sets and homes (R44-R47), and the checks the base die makes (R25, R26, R56, R57, R59, R69). -/

namespace Sys2Proof.Machine

/-- What the home says of an access. -/
inductive Verdict where
  | ok
  /-- R69, R59: it waits for a thaw or for the block being copied. -/
  | wait
  | fault (cause : Nat) (ftag : BitVec 8) (ffmt : BitVec 3)
  deriving DecidableEq, Repr

/-- R25, R26, R56, R57, R59, R69: the base die's checks of an access of `n` bytes: key tag, format, poison, then frost and copying. `whole` are the ranges that a write writes together with it; a read has none. What another module holds is checked there (R435). -/
def homeCheck (s : State) (a : GAddr) (n : Nat) (whole : List (Nat × Nat)) : Verdict :=
  let f := a.addr / 65536
  let d := s.dirOf f
  if remoteBase ≤ a.addr then .ok
  else if d.state = 0 then .fault 0x0D 0 0
  else if d.ktag ≠ a.key then .fault 0x0D d.ktag 0
  else if a.gc ≠ d.fmt && !(d.pv && a.gc = d.prevfmt) then .fault 0x0E 0 d.fmt
  else if s.lost.getLsbD (72 + s.homeStack a.addr) then .fault 0x0F 0 0
  else if d.frost.getLsbD (a.addr / 4096 % 16) then .wait
  else if !whole.isEmpty && d.state = 2 && d.cursor.toNat = a.addr % 65536 / 512 then .wait
  else if poisonStops s a.addr n whole then .fault 0x0F 0 0
  else .ok

/-! ## Page tables -/

/-- R24: what an access needs of its leaf. -/
inductive Acc where
  | load | store | atomic | fetch
  /-- A load that does not use the L1 (R120). -/
  | acquire
  deriving DecidableEq, Repr

/-- Why a translation fails: cause (R39), level, last entry read. -/
structure XFault where
  cause : Nat
  level : Nat
  entry : DWord
  deriving DecidableEq, Repr

/-- R34: the walker reads an 8-byte entry: none when the node's frame is free, tagged, or unreadable. -/
def walkRead (s : State) (addr : Nat) : Option DWord :=
  let d := s.dirOf (addr / 65536)
  if d.state = 0 || d.ktag != 0 || poisoned s addr 8 || s.lost.getLsbD (72 + s.homeStack addr) then none
  else some (BitVec.ofNat 64 (s.num addr 8))

/-- R19: the index bits of a level. -/
def vaIndex (va level : Nat) : Nat := va / 2 ^ (16 + 10 * level) % 1024
/-- R19: bytes of a page whose leaf stands at a level. -/
def pageBytes (level : Nat) : Nat := 2 ^ (16 + 10 * level)

/-- R23: a leaf read at a level breaks no format rule; `gl` is allowed in a service context. -/
def leafOk (e : DWord) (level : Nat) (service : Bool) : Bool :=
  fieldNat e 57 7 == 0 && level != 3 && !(e.getLsbD 2 && !e.getLsbD 1) && fieldNat e 6 2 != 3 && fieldNat e 16 3 < 6 &&
    (service || !e.getLsbD 5) && (level != 1 || fieldNat e 27 10 == 0) && (level != 2 || fieldNat e 27 20 == 0)
/-- R20, R23: a table entry read at a level breaks no format rule. -/
def tableOk (e : DWord) (level : Nat) : Bool := fieldNat e 4 20 == 0 && fieldNat e 57 7 == 0 && level != 0

/-- R160: the fields of a replica-set descriptor when it is valid: reads locally, local frame, switch port. -/
def replicaOk (d : BitVec 512) : Bool :=
  let nrep := fieldNat d 1 3
  d.getLsbD 0 && nrep != 0 && fieldNat d 5 3 < nrep && fieldNat d 8 3 < nrep && fieldNat d 11 5 == 0 &&
    fieldNat d 36 28 == 0 && (!d.getLsbD 4 || fieldNat d 5 3 == fieldNat d 8 3) &&
    (List.range 7).all (fun i => fieldNat d (64 * i + 64 + 42) 22 == 0)

/-- R160: the descriptor that a replica leaf names (RSETBASE names a frame-space address: DEDUCED, log entry 16). -/
def replicaDesc (s : State) (c : Ctx) (n : Nat) : BitVec 512 :=
  BitVec.ofNat 512 (s.num (c.rsetbase.toNat % 2 ^ 46 + 64 * n) 64)

/-- R45: where a leaf's stack-set table entry stands. -/
def sstAddr (c : Ctx) (e : DWord) : Nat := c.sstFn.toNat * 65536 + c.sstOff.toNat * 512 + 8 * fieldNat e 10 6

/-- R23, R45, R160: what a well-formed leaf may still name wrongly: its stack set and its replica set. The manual speaks of table nodes alone; a stack-set table or a replica descriptor in a frame that is free, tagged or uncorrectable is read as its bytes stand (DESIGN CHOICE, log entry 16). -/
def leafNames (s : State) (c : Ctx) (e : DWord) (level : Nat) : Option XFault :=
  if (sstEntry (BitVec.ofNat 64 (s.num (sstAddr c e) 8))).isNone then some ⟨0x06, level, e⟩
  else if e.getLsbD 9 && !replicaOk (replicaDesc s c (fieldNat e 27 30)) then some ⟨0x05, level, e⟩
  else none

/-- R31: the prefix of an address that a cached table entry of a level serves. -/
def vaPrefix (va level : Nat) : Nat := va / pageBytes level
/-- R31: a table entry the cluster's walk cache holds for a context, level and address. -/
def walkCached (wc : List WalkEntry) (ctx va level : Nat) : Option DWord :=
  (wc.find? (fun w => w.ctx = ctx && w.level = level && w.pfx = vaPrefix va level)).map (·.entry)

/-- R19-R23, R31, R34: a walk from a level down, with the walk cache's table entries before memory's. It answers the leaf and the table entries met, newest first. -/
def walkFrom (s : State) (wc : List WalkEntry) (ctx : Nat) (c : Ctx) (va : Nat) :
    Nat → Nat → Nat → List WalkEntry → Except XFault (Nat × DWord × List WalkEntry)
  | level, node, last, met =>
    let e? := match walkCached wc ctx va level with
      | some e => some e
      | none => walkRead s (node + 8 * vaIndex va level)
    match e? with
    | none => .error ⟨0x0C, level, BitVec.ofNat 64 last⟩
    | some e =>
      if !e.getLsbD 0 then .error ⟨0x04, level, e⟩
      else if fieldNat e 1 3 != 0 then
        if !leafOk e level (c.kind == 0) then .error ⟨0x05, level, e⟩
        else match leafNames s c e level with
          | some f => .error f
          | none => .ok (level, e, met)
      else if !tableOk e level then .error ⟨0x05, level, e⟩
      else match level with
        | 0 => .error ⟨0x05, 0, e⟩
        | l + 1 => walkFrom s wc ctx c va l (fieldNat e 27 30 * 65536 + fieldNat e 24 3 * 8192) e.toNat
            ({ ctx := ctx, level := l + 1, pfx := vaPrefix va (l + 1), entry := e } :: met)

/-- R19: the level-3 node of a context. -/
def rootNode (c : Ctx) : Nat := c.rootFn.toNat * 65536 + c.rootSlot.toNat * 8192

/-- R19: a whole walk of a context's tables. -/
def walk (s : State) (wc : List WalkEntry) (ctx : Nat) (c : Ctx) (va : Nat) :
    Except XFault (Nat × DWord × List WalkEntry) :=
  walkFrom s wc ctx c va 3 (rootNode c) 0 []

/-- R34: what a walk reads from memory, in order: address and bytes. The table nodes that the walk cache does not give, then the leaf's stack-set table entry, and its replica descriptor if it has one. -/
def walkReads (s : State) (wc : List WalkEntry) (ctx : Nat) (c : Ctx) (va : Nat) : Nat → Nat → List (Nat × Nat)
  | level, node =>
    let a := node + 8 * vaIndex va level
    let here := if (walkCached wc ctx va level).isSome then [] else [(a, 8)]
    let e := (walkCached wc ctx va level).getD ((walkRead s a).getD 0)
    here ++ (if !e.getLsbD 0 then []
      else if fieldNat e 1 3 != 0 then
        (sstAddr c e, 8) :: (if e.getLsbD 9 then [(c.rsetbase.toNat % 2 ^ 46 + 64 * fieldNat e 27 30, 64)] else [])
      else match level with
        | 0 => []
        | l + 1 => walkReads s wc ctx c va l (fieldNat e 27 30 * 65536 + fieldNat e 24 3 * 8192))

/-- R31: the walk cache of a cluster. -/
def State.walkCache (s : State) (cl? : Option Nat) : List WalkEntry :=
  match cl? with
  | some cl => (s.clusterOf cl).walkc
  | none => []

/-- R31: the table entries of a walk enter the cluster's walk cache of 512. -/
def walkInstall (s : State) (cl? : Option Nat) (met : List WalkEntry) : State :=
  match cl? with
  | some cl =>
    let c := s.clusterOf cl
    let put (l : List WalkEntry) (w : WalkEntry) : List WalkEntry :=
      let l := l.filter (fun x => !(x.ctx = w.ctx && x.level = w.level && x.pfx = w.pfx))
      if l.length < 512 then l ++ [w] else l.eraseIdx (Config.victim s.clock % 512) ++ [w]
    s.setCluster cl { c with walkc := met.foldl put c.walkc }
  | none => s

/-- R24: the permission checks against a leaf, in their order. KEYPERM comes last. -/
def leafCheck (c : Ctx) (e : DWord) (level : Nat) (acc : Acc) (sup : Bool) : Option XFault :=
  let us := e.getLsbD 4
  if (!sup && !us) || (sup && acc = .fetch && us) then some ⟨0x07, level, e⟩
  else if acc = .fetch && !e.getLsbD 3 then some ⟨0x08, level, e⟩
  else if (acc = .load || acc = .acquire) && !e.getLsbD 1 then some ⟨0x09, level, e⟩
  else if (acc = .store || acc = .atomic) && !e.getLsbD 2 then some ⟨0x0A, level, e⟩
  else if field e 19 8 ≠ c.ckey then some ⟨0x0B, level, e⟩
  else none

/-- R31: a TLB entry serves a context and an address. -/
def TlbEntry.hits (t : TlbEntry) (ctx va : Nat) (service : Bool) : Bool :=
  (t.ctx = ctx || (t.leaf.getLsbD 5 && service)) && t.page = va / pageBytes t.level * pageBytes t.level

/-- R31: puts an entry into a TLB of `n` entries; a full one gives up a victim. -/
def tlbPut (l : List TlbEntry) (n : Nat) (clock : Nat) (t : TlbEntry) : List TlbEntry :=
  let l := l.filter (fun x => !(x.ctx = t.ctx && x.level = t.level && x.page = t.page))
  if l.length < n then l ++ [t] else l.eraseIdx (Config.victim clock % n) ++ [t]

/-- R31: installs a leaf in a core's TLB (when a core asks) and its cluster's. -/
def tlbInstall (s : State) (core? cl? : Option Nat) (ctx va level : Nat) (leaf : DWord) : State :=
  let t : TlbEntry := { ctx := ctx, level := level, page := va / pageBytes level * pageBytes level, leaf := leaf }
  let s := match core? with
    | some core =>
      let x := s.coreOf core
      s.setCore core { x with tlb := tlbPut x.tlb 256 s.clock t }
    | none => s
  match cl? with
  | some cl =>
    let c := s.clusterOf cl
    s.setCluster cl { c with tlb := tlbPut c.tlb 16384 s.clock t }
  | none => s

/-- What a translation answers. -/
inductive Trans where
  /-- The address, the level of the leaf, and the last entry that a walk has read (0 when none was needed). -/
  | ok (a : GAddr) (level : Nat) (entry : DWord)
  /-- The walk waits: for a walker, for a thaw (R69), for its turn at a home, for an expander, or for a shootdown (R37). -/
  | wait
  | fault (f : XFault)
  deriving DecidableEq, Repr

/-- The frame-space address and properties a leaf gives an address. A replica page is read at entry RIDX of its descriptor: a frame of this module when LV is 1, and of another module otherwise (R160). -/
def leafAddr (s : State) (ctx : Nat) (c : Ctx) (va level : Nat) (e : DWord) : GAddr :=
  let off := va % pageBytes level
  let rep := e.getLsbD 9
  let n := fieldNat e 27 30
  let d := replicaDesc s c n
  let r := 64 * fieldNat d 5 3 + 64
  let frame := if rep then fieldNat d (r + 12) 30 + (if d.getLsbD 4 then 0 else (fieldNat d r 12 + 1) * 2 ^ 30) else n
  { place := .glob, addr := frame * 65536 + off, key := field e 19 8, gc := field e 16 3, cp := field e 6 2,
    rep := if rep then some n else none, va := BitVec.ofNat 64 va, ctx := ctx }

/-- R31: the leaf cached for an address: in the core's TLB first, then in the cluster's. -/
def tlbLookup (s : State) (core? cl? : Option Nat) (ctx va : Nat) (service : Bool) : Option TlbEntry :=
  let mine := match core? with
    | some core => (s.coreOf core).tlb.find? (fun t => t.hits ctx va service)
    | none => none
  match mine with
  | some t => some t
  | none => match cl? with
    | some cl => (s.clusterOf cl).tlb.find? (fun t => t.hits ctx va service)
    | none => none

/-- R37: a tlbinv of the context is in progress. -/
def shootdown (s : State) (ctx : Nat) (service : Bool) : Bool :=
  s.tlbinvs.any (fun t => (t.kind < 2 && t.ctx == ctx) || (t.kind == 2 && service))

/-- R34, R69, R74, R87: the walker of a cluster reads `n` bytes at a home: it waits for a thaw, for an expander, and for its turn in class 1. -/
def walkerRead (s : State) (cl? : Option Nat) (ctx page a n : Nat) : Bool × State :=
  if (s.dirOf (a / 65536)).frost.getLsbD (a / 4096 % 16) then (false, startThaw s a false)
  else match cxlRead s a false with
    | (false, s) => (false, s)
    | (true, s) => match cl? with
      | some cl =>
        let dst : GAddr := { place := .glob, addr := a, key := 0, gc := s.fmtAt a, cp := 1, rep := none, va := 0, ctx := ctx }
        let r := homeAsk s (.walker cl ctx page) 1 dst n a
        (r.1, if r.1 then openRow (sense r.2 a n []) a n else r.2)
      | none => if homeClear s 1 a n then (true, openRow (sense s a n []) a n) else (false, s)

/-- R34: the reads of a walk, one after another, until one waits; then what the expanders have answered is kept. -/
def walkerReads (s : State) (cl? : Option Nat) (ctx page : Nat) (l : List (Nat × Nat)) : Bool × State :=
  let r := l.foldl (fun (r : Bool × State) x => if r.1 then walkerRead r.2 cl? ctx page x.1 x.2 else r) (true, s)
  if r.1 then r else (false, keepAnswers s r.2)

/-- R31, R32: the place of a walk among the cluster's: the first 64 have a walker, 1,024 more wait in the walk queue; none when both are full. -/
def walkPlace (s : State) (cl ctx page : Nat) : Option Nat :=
  let l := (s.clusterOf cl).walks
  match l.findIdx? (· = (ctx, page)) with
  | some i => some i
  | none => if l.length < 64 + 1024 then some l.length else none

/-- R32: a walk takes its place among the cluster's. -/
def walkEnter (s : State) (cl ctx page : Nat) : State :=
  let c := s.clusterOf cl
  if c.walks.contains (ctx, page) then s else s.setCluster cl { c with walks := c.walks ++ [(ctx, page)] }
/-- R32: a walk has ended: its walker is free, and it waits nowhere. -/
def walkLeave (s : State) (cl? : Option Nat) (ctx page : Nat) : State :=
  match cl? with
  | none => s
  | some cl =>
    let c := s.clusterOf cl
    dropLooks (s.setCluster cl { c with walks := c.walks.erase (ctx, page) }) (.walker cl ctx page)

/-- R32, R34: whether a walk has a walker and everything that it reads; it keeps its place while it waits. A full walk queue takes nothing. -/
def walkReady (s : State) (cl? : Option Nat) (ctx : Nat) (c : Ctx) (va : Nat) : Bool × State :=
  let page := va / 65536
  let reads := walkReads s (s.walkCache cl?) ctx c va 3 (rootNode c)
  match cl? with
  | none => walkerReads s none ctx page reads
  | some cl => match walkPlace s cl ctx page with
    | none => (false, s)
    | some i =>
      let s1 := walkEnter s cl ctx page
      if 64 ≤ i then (false, s1) else walkerReads s1 (some cl) ctx page reads

/-- R32: the walk of a missed address, checked against the access, and what it installs. The reads of a walk, of the stack-set table and of a replica descriptor are the walker's, not accesses of the context (R7): they set no bit of its touched mask (DESIGN CHOICE, log entry 16). -/
def walkFor (s : State) (core? cl? : Option Nat) (ctx : Nat) (c : Ctx) (va : Nat) (acc : Acc) (sup : Bool) :
    Trans × State :=
  match walkReady s cl? ctx c va with
  | (false, s) => (.wait, s)
  | (true, s) =>
    let w := walk s (s.walkCache cl?) ctx c va
    let s := walkLeave s cl? ctx (va / 65536)
    match w with
    | .error f => (.fault f, s)
    | .ok (level, e, met) =>
      let s := walkInstall s cl? met
      match leafCheck c e level acc sup with
      | some f => (.fault f, s)
      | none => (.ok (leafAddr s ctx c va level e) level e, tlbInstall s core? cl? ctx va level e)

/-- R31, R32, R35, R37: looks an address up: TLBs, then a walk; a permission fault from a cached leaf reads the leaf again; a walk during a shootdown of the context waits. The result, and the state with what was installed. R38: the entry of a fault is the last that a walk has read, 0 when none was read. -/
def translate (s : State) (core? cl? : Option Nat) (ctx : Nat) (c : Ctx) (va : Nat) (acc : Acc) (sup : Bool) :
    Trans × State :=
  match tlbLookup s core? cl? ctx va (c.kind == 0) with
  | none => if shootdown s ctx (c.kind == 0) then (.wait, s) else walkFor s core? cl? ctx c va acc sup
  | some t => match leafCheck c t.leaf t.level acc sup with
    | none => (.ok (leafAddr s ctx c va t.level t.leaf) t.level 0, tlbInstall s core? cl? ctx va t.level t.leaf)
    | some f =>
      if f.cause = 0x0B then (.fault { f with entry := 0 }, s)
      else if shootdown s ctx (c.kind == 0) then (.wait, s)
      else match walkFor s core? cl? ctx c va acc sup with
        | (.fault f', s') => (.fault { f with entry := f'.entry }, s')
        | r => r

/-! ## Windows and aliases (R15-R17) -/

/-- R16: the window bases. -/
def winPriv : Nat := 0x00FFF00000000000
def winSpill : Nat := 0x00FFF10000000000
def winShared : Nat := 0x00FFF20000000000
def winScratch : Nat := 0x00FFF30000000000
/-- R15: the window region starts here. -/
def winRegion : Nat := 0x00FFF00000000000

/-- R17: the private alias of a lane, in 64 bits modulo nothing: an alias beyond the region is ALIAS. -/
def privAlias (c : Ctx) (g : Group) (lane off : Nat) : Nat :=
  c.privBase.toNat + (((g.tidx * 128 + g.gidx) * 64 + lane) * 2 ^ 24) + off
/-- R17: the spill alias of a group. -/
def spillAlias (c : Ctx) (g : Group) (off : Nat) : Nat :=
  c.spillBase.toNat + ((g.tidx * 128 + g.gidx) * 2 ^ 24) + off

/-- R102: the scratchpad entry of a context on a cluster: base and size in bytes. -/
def scratchEntry (cl : Cluster) (ctx : Nat) : Option (Nat × Nat) :=
  match List.find? (fun (e : Nat × DWord) => e.2.getLsbD 63 && fieldNat e.2 0 16 == ctx) cl.spp with
  | some (_, e) => some (65536 * fieldNat e 16 10, 65536 * fieldNat e 26 11)
  | none => none

/-- R97: the declared shared size of a group's team. -/
def sharedSize (s : State) (g : Group) : Nat :=
  match g.team with
  | some t => match SMap.find? s.teams t with
    | some x => x.sharedBytes
    | none => 0
  | none => 0

/-- Where a lane's pointer leads before translation. -/
inductive Target where
  | place (p : Place) (addr : Nat)
  /-- A global virtual address; `win` when it came from the private or spill window. -/
  | virt (va : Nat) (win : Bool)
  /-- A fault that the core itself detects: cause and recorded address. -/
  | bad (cause : Nat) (va : Nat) (win : Bool)
  deriving DecidableEq, Repr

/-- R15-R17, R95, R102: decodes one lane's pointer for an access of `n` bytes. `g?` says that the access names the global space (.g), whose window addresses are WINDOW faults (R342). -/
def resolve (s : State) (core : Nat) (c : Ctx) (g : Group) (lane : Nat) (ptr n : Nat) (glob : Bool) : Target :=
  if 2 ^ 56 ≤ ptr then .bad 0x01 ptr false
  else if ptr < winRegion then .virt ptr false
  else if glob then .bad 0x02 ptr false
  else if ptr < winPriv + 2 ^ 24 then
    let al := privAlias c g lane (ptr - winPriv)
    if 65536 ≤ g.tidx || winRegion ≤ al then .bad 0x03 al true else .virt al true
  else if winSpill ≤ ptr && ptr < winSpill + 2 ^ 24 then
    let off := ptr - winSpill
    let al := spillAlias c g off
    if (off < 0x400 && !g.sup) || 0x400 + g.spillBytes < off + n then .bad 0x02 al true
    else if 65536 ≤ g.tidx || winRegion ≤ al then .bad 0x03 al true else .virt al true
  else if winShared ≤ ptr && ptr < winShared + 2 ^ 20 then
    let off := ptr - winShared
    match g.team with
    | some t => if off + n ≤ sharedSize s g then .place (.shared t) off else .bad 0x02 ptr false
    | none => .bad 0x02 ptr false
  else if winScratch ≤ ptr && ptr < winScratch + 2 ^ 26 then
    let off := ptr - winScratch
    match clusterOfCore core with
    | some cl => match scratchEntry (s.clusterOf cl) g.ctx with
      | some (base, size) => if off + n ≤ size then .place (.scratch cl) (base + off) else .bad 0x02 ptr false
      | none => .bad 0x02 ptr false
    | none => .bad 0x02 ptr false
  else .bad 0x02 ptr false

/-! ## Bytes of a place -/

/-- Reads bytes of a place. -/
def readPlace (s : State) (p : Place) (addr n : Nat) : List Byte :=
  match p with
  | .glob => s.bytes addr n
  | .shared t => match SMap.find? s.teams t with
    | some x => readBytes x.shared addr n
    | none => List.replicate n 0
  | .scratch cl => readBytes (s.clusterOf cl).scratch addr n
/-- Writes bytes of a place. -/
def writePlace (s : State) (p : Place) (addr : Nat) (bs : List Byte) : State :=
  match p with
  | .glob => storeFrame s 0 addr bs
  | .shared t => s.modTeam t (fun x => { x with shared := writeBytes x.shared addr bs })
  | .scratch cl =>
    let c := s.clusterOf cl
    s.setCluster cl { c with scratch := writeBytes c.scratch addr bs }

end Sys2Proof.Machine
end

