-- ==== Sys2Proof/Machine/Rings.lean ====
section
/-! DEFINITION. The rings of the resident kernel, fault records, events and completion records (01_address_spaces R38; 11_isa_conventions R241; 21_program_host_migration R416; 24_module_links R439). -/

namespace Sys2Proof.Machine

/-! ## Rings, records and events (R38, R241, R416) -/

/-- R241: log2 of the entry count; a count outside 4-20 names no ring. -/
def RingSt.logn (r : RingSt) : Nat := fieldNat r.ptr 0 5
/-- R241: the base address, a frame-space address. -/
def RingSt.base (r : RingSt) : Nat := fieldNat r.ptr 12 44 * 4096
/-- R241: posted and not consumed entries. -/
def RingSt.used (r : RingSt) : Nat := (r.head - r.tail).toNat
/-- R241: the frame-space address of the next entry, for entries of `n` bytes. -/
def RingSt.slotAddr (r : RingSt) (n : Nat) : Nat := r.base + n * (r.head.toNat % 2 ^ r.logn)

/-- R87, R241: the ring has a valid pointer and room, its slot lies in an allocated frame tagged with key 0 that is not frost, and no request of class 0 or 1 waits for the slot's sub-channels. -/
def ringReady (s : State) (r : RingSt) (n : Nat) : Bool :=
  4 ≤ r.logn && r.logn ≤ 20 && r.used < 2 ^ r.logn &&
    (let f := r.slotAddr n / 65536
     let d := s.dirOf f
     d.state != 0 && d.ktag == 0 && !d.frost.getLsbD (r.slotAddr n / 4096 % 16) && homeClear s 1 (r.slotAddr n) n)

/-- R241: the ring of a name. -/
def State.ring (s : State) : Ring → RingSt
  | .fr => s.fr
  | .hfq => s.hfq
  | .evq => s.evq
/-- R241: replaces a ring. -/
def State.setRing (s : State) (k : Ring) (r : RingSt) : State :=
  match k with
  | .fr => { s with fr := r }
  | .hfq => { s with hfq := r }
  | .evq => { s with evq := r }

/-- The number that stands for the rings at an expander. -/
def kernelGid : Nat := 86603

/-- R241: the hardware writes one entry and advances the head. -/
def ringWrite (s : State) (k : Ring) (bytes : List Byte) : State :=
  let r := s.ring k
  (storeFrame s kernelGid (r.slotAddr bytes.length) bytes).setRing k { r with head := r.head + 1 }

/-- R241: an entry of 64 bytes is written when its ring is ready and nothing waits before it; otherwise it waits. -/
def ringPost (s : State) (k : Ring) (x : BitVec 512) : State :=
  let r := s.ring k
  if r.waiting.isEmpty && ringReady s r 64 then ringWrite s k (natLe 64 x.toNat)
  else (startThaw s (r.slotAddr 64) false).setRing k { r with waiting := r.waiting ++ [x] }

/-- R416, R439: an event: KIND, STATUS, MASK, CARD, OBJECT, TIME, DATA. -/
def eventWord (kind status mask card object time data : Nat) : BitVec 512 :=
  fld 0 8 kind ||| fld 8 8 status ||| fld 16 16 mask ||| fld 64 64 card ||| fld 128 36 object ||| fld 192 64 time |||
    fld 256 256 data
/-- R439: posts an event to the event queue. -/
def postEvent (s : State) (kind object data : Nat) : State :=
  ringPost s .evq (eventWord kind 0 0 0 object s.clock data)
/-- R63, R416: posts a frame-engine completion record. -/
def postFe (s : State) (status mask card object data : Nat) : State :=
  ringPost s .evq (eventWord 0x01 status mask card object s.clock data)

/-- R38: a fault record. -/
structure FaultRec where
  cause  : Nat
  akind  : Nat
  level  : Nat
  straddle : Bool
  sup    : Bool
  win    : Bool
  ctx    : Nat
  core   : Nat
  va     : Nat
  pc     : Nat
  lanes  : DWord
  entry  : Nat
  ftag   : Nat
  ffmt   : Nat
  slot   : Nat
  seq    : Nat
  deriving DecidableEq, Repr

/-- R38: the 64 bytes of a fault record. -/
def FaultRec.word (r : FaultRec) (time : Nat) : BitVec 512 :=
  fld 0 8 r.cause ||| fld 8 4 r.akind ||| fld 12 2 r.level ||| fld 14 1 r.straddle.toNat ||| fld 15 1 r.sup.toNat |||
    fld 16 1 r.win.toNat ||| fld 32 16 r.ctx ||| fld 48 11 r.core ||| fld 64 64 r.va ||| fld 128 64 r.pc |||
    fld 192 64 r.lanes.toNat ||| fld 256 64 r.entry ||| fld 320 8 r.ftag ||| fld 328 3 r.ffmt ||| fld 336 6 r.slot |||
    fld 352 32 r.seq ||| fld 384 64 time
/-- R38: writes a fault record to the fault-record ring. -/
def postFault (s : State) (r : FaultRec) : State := ringPost s .fr (r.word s.clock)
/-- R38: writes several records. -/
def postFaults (s : State) (rs : List FaultRec) : State := rs.foldl postFault s
/-- R399: takes the next SEQ. -/
def takeSeq (s : State) : Word × State := (s.seqNo, { s with seqNo := s.seqNo + 1 })

end Sys2Proof.Machine
end

