-- ==== Sys2Proof/Machine/Barrier.lean ====
section
/-! DEFINITION. Barrier objects and barrier trees: arrivals, byte counts, the phase test, releases (04_on_chip_hierarchy R107, R108; 16_isa_memory_sync R357, R361-R363; 23_program_module_barrier R429). The events of an object that fall in one cycle are steps that follow one another; the cycle's end applies them (DESIGN CHOICE, log entry 46). -/

namespace Sys2Proof.Machine

/-- R107: an object at team admission. -/
def BarObj.init (gpt : Nat) : BarObj :=
  { exparr := BitVec.ofNat 8 gpt, arr := 0, phase := false, expb := 0, landb := 0 }

/-- R108: the test at the end of a cycle. -/
def BarObj.test (o : BarObj) : BarObj :=
  if o.exparr ≠ 0 && o.arr = o.exparr && o.landb = o.expb then { o with phase := !o.phase, arr := 0, expb := 0, landb := 0 }
  else o

/-- R107: a team's object. -/
def Team.obj (t : Team) (n : Nat) : BarObj := t.objs.getD n (BarObj.init 0)
/-- Replaces an object. -/
def Team.setObj (t : Team) (n : Nat) (o : BarObj) : Team := { t with objs := t.objs.set n o }

/-- R108: whether one more arrival stays within EXPARR. -/
def BarObj.admits (o : BarObj) : Bool := o.arr.toNat + 1 ≤ o.exparr.toNat

/-- R105, R107, R151: bytes land in the running cycle. -/
def landBytes (s : State) (team obj n : Nat) : State :=
  s.modTeam team (fun t =>
    let o := t.obj obj
    t.setObj obj { o with bytes := o.bytes + BitVec.ofNat 32 n, event := some s.clock })

/-- R108: an arrival of the running cycle. -/
def BarObj.arrive (o : BarObj) (clock : Nat) (e : ArriveEvent) : BarObj := { o with arrs := o.arrs ++ [e], event := some clock }

/-- R108: a list in ascending order of a key; equal keys keep their order. -/
def inOrder {α : Type} (key : α → Nat) : List α → List α
  | [] => []
  | x :: l => putIn x (inOrder key l)
where
  putIn (x : α) : List α → List α
    | [] => [x]
    | y :: l => if key y < key x then y :: putIn x l else x :: y :: l

/-- R108 step 1: one bexp of the cycle. -/
def BarObj.bexp (o : BarObj) (e : BexpEvent) : BarObj :=
  { o with expb := o.expb + e.bytes, exparr := e.exparr.getD o.exparr }
/-- R108 step 2: one arrival of the cycle, with whether it counted. -/
def BarObj.count (x : BarObj × List (ArriveEvent × Bool)) (e : ArriveEvent) : BarObj × List (ArriveEvent × Bool) :=
  (if x.1.admits then { x.1 with arr := x.1.arr + 1 } else x.1, x.2 ++ [(e, x.1.admits)])
/-- R108: the end of a cycle: the bexps, the arrivals, the bytes, and the test; beside the object, the arrivals, each with whether it counted. -/
def BarObj.close (o : BarObj) : BarObj × List (ArriveEvent × Bool) :=
  let o1 := (inOrder BexpEvent.gid o.bexps).foldl BarObj.bexp o
  let (o2, rs) := (inOrder ArriveEvent.key o.arrs).foldl BarObj.count (o1, [])
  ({ o2 with landb := o2.landb + o.bytes, bexps := [], arrs := [], bytes := 0, event := none }.test, rs)

/-- Sets or clears one bit of a parity or core mask. -/
def setBit {w : Nat} (x : BitVec w) (i : Nat) (b : Bool) : BitVec w :=
  if b then x ||| BitVec.twoPow w i else x &&& ~~~BitVec.twoPow w i

/-- R108, R205: the ILLBARRIER of an arrival that does not count. -/
def ArriveEvent.trap (e : ArriveEvent) (obj : Nat) : Held :=
  { cause := 0x06, reason := 0, info := BitVec.ofNat 32 obj, mask := e.mask, cpc := e.cpc, ipc := e.ipc, idx := e.idx }

/-- R108, R357: what a group's arrival does to the group at the end of its cycle: its WP takes the phase, or it holds ILLBARRIER, which goes with its saved state when it has left. An ended group has none (R424). -/
def arrivalResult (obj : Nat) (phase : Bool) (s : State) (tid : Nat) (e : ArriveEvent) (counted : Bool) : State :=
  match e.group with
  | none => s
  | some gid =>
    let s := s.modGroup gid (fun g =>
      if g.team ≠ some tid then g
      else if counted then { g with wp := setBit g.wp obj phase }
      else { g with held := g.held ++ [e.trap obj] })
    if counted then s
    else s.modTeam tid (fun t => { t with left := t.left.map (fun x => if x.gid = gid then { x with held := x.held ++ [e.trap obj] } else x) })

/-- R361: the tree's test: when every participating core has arrived, the phase inverts and the arrived bits clear. -/
def treeTest (s : State) (tree : Nat) : State :=
  if s.cores.all (fun e => !e.2.part.getLsbD tree || e.2.arrived.getLsbD tree) then
    { s with trees := s.trees ^^^ BitVec.twoPow 16 tree,
             cores := (s.cores.map (fun e => (e.1, { e.2 with arrived := setBit e.2.arrived tree false }))).filter
               (fun e => e.2 != CoreSt.init) }
  else s

/-- R363: whether a tree marker at the head of a queue can count: its core takes no part, or it has not arrived in the phase it sees and no release is on its way. -/
def treeReady (s : State) (core tree : Nat) : Bool :=
  let x := s.coreOf core
  !x.part.getLsbD tree || (!x.arrived.getLsbD tree && x.seen.getLsbD tree == s.trees.getLsbD tree)

/-- R363, R429: a tree marker leaves the queue. -/
def treeArrive (s : State) (gid core tree : Nat) : State :=
  let x := s.coreOf core
  let seen := x.seen.getLsbD tree
  if x.part.getLsbD tree then
    let s := s.modGroup gid (fun g => { g with tp := setBit g.tp tree seen })
    treeTest (s.setCore core { x with arrived := setBit x.arrived tree true }) tree
  else s.modGroup gid (fun g => { g with tp := setBit g.tp tree (!seen) })

end Sys2Proof.Machine
end

