-- ==== Sys2Proof/Machine/Queue.lean ====
section
/-! DEFINITION. Loads, stores, releases, acquires and reductions of a group: the store queue, the L1, the home queues and the shadow buffer (04_on_chip_hierarchy R103, R104; 05_consistency R112-R130; 06_engines_memory R161; 03_tiers_and_host R74-R77). -/

namespace Sys2Proof.Machine

/-! ## Forwarding (R116) -/

/-- What a group's queue says of one byte. -/
inductive Fwd where
  | clear
  | byte (b : Byte)
  /-- A queued reduction touches it: the load waits. -/
  | busy
  deriving DecidableEq, Repr

/-- R112: the byte that a store instruction writes to an address: its highest lane's. -/
def laneByte (lanes : List LaneStore) (p : Place) (a : Nat) : Option Byte :=
  lanes.foldl (fun acc l =>
    if l.dst.place = p && l.dst.addr ≤ a && a < l.dst.addr + l.data.length then l.data[a - l.dst.addr]? else acc) none

/-- R116: the youngest queued write of a byte. -/
def fwdByte (q : List QEntry) (p : Place) (a : Nat) : Fwd :=
  q.foldl (fun acc e => match e with
    | .store lanes _ _ => match laneByte lanes p a with | some b => .byte b | none => acc
    | .red lanes _ _ => if (laneByte lanes p a).isSome then .busy else acc
    | _ => acc) .clear

/-- R116: the bytes forwarded to a load: none of them, all of them, or the load waits. -/
inductive FwdLoad where
  | clear
  | bytes (bs : List Byte)
  | busy
  deriving DecidableEq, Repr

/-- R116: forwarding of a load of `n` bytes. -/
def fwdLoad (q : List QEntry) (p : Place) (a n : Nat) : FwdLoad :=
  let fs := (List.range n).map (fun i => fwdByte q p (a + i))
  if fs.all (· == .clear) then .clear
  else if fs.all (fun f => match f with | .byte _ => true | _ => false) then
    .bytes (fs.map (fun f => match f with | .byte b => b | _ => 0))
  else .busy

/-! ## The L1 (R103, R104) -/

/-- R103: the number of a 128-byte line. -/
def lineOf (a : Nat) : Nat := a / 128

/-- R103: a line enters the L1: 128 sets of 8 ways; a full set gives up a victim. -/
def l1Put (l1 : SMap (List Byte)) (clock line : Nat) (bs : List Byte) : SMap (List Byte) :=
  let set := l1.filter (fun e => e.1 % 128 = line % 128 && e.1 != line)
  let l1 := if set.length < 8 then l1
    else match set[Config.victim clock % 8]? with
      | some e => SMap.del l1 e.1
      | none => l1
  SMap.put l1 line bs

/-- R104: a store that reaches the L1 updates a line that is present. -/
def l1Store (l1 : SMap (List Byte)) (a : Nat) (bs : List Byte) : SMap (List Byte) :=
  SMap.alter l1 (lineOf a) (fun line => line.take (a % 128) ++ bs ++ line.drop (a % 128 + bs.length))

/-- R104: every line of a core's L1 is invalidated. -/
def l1Clear (s : State) (core : Nat) : State := s.setCore core { s.coreOf core with l1 := [] }
/-- R104, R76: one line is invalidated in a core. -/
def l1Drop (s : State) (core line : Nat) : State :=
  let x := s.coreOf core
  s.setCore core { x with l1 := SMap.del x.l1 line }

/-- R116: a store of the core to the line has left a queue and is not yet performed at its home. -/
def homeBusy (s : State) (core line : Nat) : Bool :=
  s.homeQ.any (fun r => match r.src with
    | .group gid => coreOfGid gid = core && lineOf r.dst.addr = line && !r.looks
    | _ => false)

/-! ## CXL and replica pages -/

/-- R129: sends shadow entries to their homes: those that a test picks. -/
def mergeShadows (s : State) (cl : Nat) (pick : Shadow → Bool) : State :=
  let c := s.clusterOf cl
  let out := c.shadow.filter pick
  { s.setCluster cl { c with shadow := c.shadow.filter (fun e => !pick e) } with
    homeQ := s.homeQ ++ out.map (fun e =>
      { cls := 3, arrival := s.clock, src := .shadow cl, dst := e.dst, op := .rmw e.f e.val, pc := 0, aged := false }) }

/-- R104, R76: a line is invalidated in every core. -/
def l1DropAll (s : State) (line : Nat) : State :=
  { s with cores := (s.cores.map (fun e => (e.1, { e.2 with l1 := SMap.del e.2.l1 line }))).filter (fun e => e.2 != CoreSt.init) }

/-- R76: the clusters whose shadow buffers hold reductions for a 64-byte line send them to the home. -/
def mergeLine (s : State) (line : Nat) : State :=
  s.clusters.foldl (fun s e => mergeShadows s e.1 (fun x => x.dst.addr / 64 = line)) s

/-- R76: a line of an HDM-DB region enters an L1: the presence filter of 262,144 lines marks the cluster; a full filter gives up a line, which is invalidated and merged. -/
def presence (s : State) (core addr : Nat) : State :=
  match frameCxl s addr with
  | none => s
  | some p =>
    let x := s.cxlOf p
    if !x.hdmDb then s
    else
      let line := addr / 64
      let cl := (clusterOfCore core).getD 72
      match SMap.find? x.filter line with
      | some l => if l.contains cl then s else s.setCxl p { x with filter := SMap.put x.filter line (l ++ [cl]) }
      | none =>
        if x.filter.length < 262144 then s.setCxl p { x with filter := SMap.put x.filter line [cl] }
        else match x.filter[Config.victim s.clock % 262144]? with
          | some e =>
            let s := s.setCxl p { x with filter := SMap.put (SMap.del x.filter e.1) line [cl] }
            mergeLine (l1DropAll s (e.1 / 2)) e.1
          | none => s

/-- R160: the local replica is read (LV). -/
def repLocal (s : State) (ctx desc : Nat) : Bool :=
  match s.ctxOf? ctx with
  | some c => (replicaDesc s c desc).getLsbD 4
  | none => true
/-- R160: the Fezal port towards the switch. -/
def repPort (s : State) (ctx desc : Nat) : Nat :=
  match s.ctxOf? ctx with
  | some c => fieldNat (replicaDesc s c desc) 16 4
  | none => 0

/-- R161: a request to the switch; its tag is the first free one of its kind (R433: bit 15 set for writes and atomics). -/
def repSend (s : State) (gid ctx desc : Nat) (a : GAddr) (write : Bool) (reqs : List HomeReq) (atom : Option (GAddr × AtomOp × Nat)) :
    State :=
  let port := repPort s ctx desc
  let used := (s.reps.filter (fun r => r.port = port && r.write = write)).map (fun r => r.tag.toNat % 32768)
  let n := ((List.range (used.length + 1)).find? (fun i => !used.contains i)).getD 0
  let tag := BitVec.ofNat 16 (n + if write then 32768 else 0)
  { s with reps := s.reps ++ [{ gid := gid, desc := desc, port := port, tag := tag, va := a.va,
                                line := if write then lineOf a.addr else a.addr / 64, ctx := ctx,
                                since := s.clock, write := write, reqs := reqs, atom := atom, got := none }] }

/-- R161: the switch has answered a request with something other than OK, or not within its time. -/
def RepReq.failed (r : RepReq) : Bool := match r.got with
  | some (st, _) => st != 0
  | none => false

/-- R161: the failed request of a party to an address, taken off: the access that waits for it faults with UNCORR. -/
def repFault (s : State) (id : Nat) (a : GAddr) : Option State :=
  match s.reps.find? (fun r => a.rep.isSome && r.gid = id && r.failed && (if r.write then r.va = a.va else r.line = a.addr / 64)) with
  | some r => some { s with reps := s.reps.erase r }
  | none => none

/-- The number that stands for a cluster's shadow merges where a group's would stand. -/
def shadowGid (cl : Nat) : Nat := 86528 + cl
/-- The numbers that stand for a host or peer, and for a frame engine at an expander. -/
def hostGid : Nat := 86600
def engineGid : Nat := 86601
/-- The number that stands for a requester. -/
def Source.gid : Source → Nat
  | .group gid => gid
  | .host _ => hostGid
  | .shadow cl => shadowGid cl
  | .job sched slot => jobGid sched slot
  | .party id => id
  | .walker .. => 86604
/-- The requester that a number stands for. -/
def sourceOf (gid : Nat) : Source :=
  if gid < shadowGid 0 then .group gid else if gid < hostGid then .shadow (gid - shadowGid 0)
  else .job ((gid - jobGid 0 0) / 256) ((gid - jobGid 0 0) % 256)

/-- R161: an earlier write of the party to the line is not yet applied at the replica it reads: it is on its way to the switch, or the switch has not answered it, or its home has still to take it. -/
def repBusy (s : State) (gid : Nat) (a : GAddr) : Bool :=
  s.reps.any (fun r => r.gid = gid && r.write && r.got.isNone && r.line = lineOf a.addr && r.desc = a.rep.getD 0) ||
    s.homeQ.any (fun r => r.src.gid = gid && !r.looks && lineOf r.dst.addr = lineOf a.addr)

/-- R74, R122: a load reads its CXL line; one that fills an L1 line reads both of its 64-byte lines, in state Shared. -/
def lineRead (s : State) (addr : Nat) (fill : Bool) : Bool × State :=
  if !fill then cxlRead s addr false
  else
    let lo := cxlRead s (addr / 128 * 128) true
    let hi := cxlRead lo.2 (addr / 128 * 128 + 64) true
    (lo.1 && hi.1, hi.2)

/-! ## One lane's load -/

/-- What one lane's read gives. -/
inductive Got where
  | bytes (bs : List Byte)
  | wait
  deriving DecidableEq, Repr

/-- R103, R104, R116, R161: one lane's load of `n` bytes; an acquire at clu or wider (`home`) does not use the L1. -/
def loadLane (s : State) (gid : Nat) (g : Group) (a : GAddr) (n : Nat) (home : Bool) : Got × State :=
  let core := coreOfGid gid
  match fwdLoad g.sq a.place a.addr n with
  | .busy => (.wait, s)
  | .bytes bs => (.bytes bs, s)
  | .clear =>
    if a.place ≠ .glob then (.bytes (readPlace s a.place a.addr n), s)
    else if a.rep.isSome && repBusy s gid a then (.wait, s)
    else if a.rep.isSome && !repLocal s g.ctx (a.rep.getD 0) then
      match s.reps.find? (fun r => r.gid = gid && !r.write && r.line = a.addr / 64) with
      | some r => match r.got with
        | some (_, bs) => (.bytes (List.take n (List.drop (a.addr % 64) bs)), { s with reps := s.reps.erase r })
        | none => (.wait, s)
      | none => (.wait, repSend s gid g.ctx (a.rep.getD 0) a false [] none)
    else
      let line := lineOf a.addr
      let x := s.coreOf core
      let cacheable := (a.cp = 0 || a.cp = 2) && !home
      match (if cacheable then SMap.find? x.l1 line else none) with
      | some bs => (.bytes (List.take n (List.drop (a.addr % 128) bs)), s)
      | none =>
        if homeBusy s core line then (.wait, s)
        else match lineRead s a.addr cacheable with
          | (false, s) => (.wait, s)
          | (true, s) =>
            let bs := s.bytes a.addr n
            if cacheable then
              let s1 := presence (presence s core (line * 128)) core (line * 128 + 64)
              (.bytes bs, s1.setCore core { s1.coreOf core with l1 := l1Put (s1.coreOf core).l1 s.clock line (s.bytes (line * 128) 128) })
            else (.bytes bs, s)

/-! ## Releases (R120, R129) -/

/-- R120: every store of the core that has left a queue has been performed at its home. -/
def homesDone (s : State) (core : Nat) : Bool :=
  !s.homeQ.any (fun r => match r.src with | .group gid => coreOfGid gid = core && !r.looks | _ => false)

/-- R129: the shadow entries of a core's die, and the merges under way. -/
def shadowsDone (s : State) (core : Nat) : Bool :=
  match clusterOfCore core with
  | some cl => (s.clusterOf cl).shadow.isEmpty &&
      !s.homeQ.any (fun r => match r.src with | .shadow c => c = cl | _ => false)
  | none => true

/-- The bytes of a buffer. -/
def sliceOf (bs : List Byte) (o n : Nat) : List Byte := (bs.drop o).take n

/-- R124: the die's shadow buffer holds a reduction of one of the `n` bytes from `a` on, or its merge is under way. -/
def shadowOver (s : State) (core a n : Nat) : Bool :=
  match clusterOfCore core with
  | none => false
  | some cl => (s.clusterOf cl).shadow.any (fun e => e.dst.addr < a + n && a < e.dst.addr + e.val.length) ||
      s.homeQ.any (fun r => r.src == .shadow cl && r.dst.addr < a + n && a < r.dst.addr + 8)
/-- R124, R129: what the die's shadow buffer holds for one of the `n` bytes from `a` on goes to its home. -/
def mergeAt (s : State) (core a n : Nat) : State :=
  match clusterOfCore core with
  | none => s
  | some cl => mergeShadows s cl (fun e => e.dst.addr < a + n && a < e.dst.addr + e.val.length)

/-- R126: team scope is that of two cores for a paired team. -/
def pairedTeam (s : State) (g : Group) : Bool :=
  match g.team with
  | some t => match SMap.find? s.teams t with | some x => x.paired | none => false
  | none => false

/-- R77, R120, R161: every CXL write has been acknowledged by its expander and every replica write by the switch, whoever made it: a release at sys waits for all that R122 may order before it. -/
def sysDone (s : State) : Bool :=
  !s.reps.any (fun r => r.write && r.got.isNone) && s.cxl.all (fun e => e.2.unacked.isEmpty)

/-- R120: whether a release of a scope (R265 coding) may be performed. -/
def relReady (s : State) (gid : Nat) (g : Group) (scope : Nat) : Bool :=
  let core := coreOfGid gid
  if scope ≤ 1 || (scope = 2 && !pairedTeam s g) then true
  else homesDone s core &&
    (scope < 4 || shadowsDone s core) &&
    (scope < 5 || sysDone s)

/-- R129: a release at dev or sys drains the die's shadow reductions. -/
def relStart (s : State) (core scope : Nat) : State :=
  if scope < 4 then s
  else match clusterOfCore core with
    | some cl => mergeShadows s cl (fun _ => true)
    | none => s

/-- R120: what an acquire at a scope does before any later load: the core's L1 is invalidated at clu or wider, and at team in a paired team (R104). -/
def acquire (s : State) (gid : Nat) (g : Group) (scope : Nat) : State :=
  if 3 ≤ scope || (scope = 2 && pairedTeam s g) then l1Clear s (coreOfGid gid) else s

/-! ## Stores leave the queue (R104, R115, R117) -/

/-- R87: the class of a group's accesses: 1 for the resident and die kernels, 3 otherwise. -/
def classOf (gid : Nat) : Nat := if isService (coreOfGid gid) then 1 else 3

/-- R104, R115: one lane's store leaves the queue: it reaches the L1 (or shared memory or the scratchpad), and goes on to its home. -/
def drainLane (gid pc : Nat) (s : State) (l : LaneStore) : State :=
  match l.dst.place with
  | .glob =>
    let core := coreOfGid gid
    let x := s.coreOf core
    let s := s.setCore core { x with l1 := l1Store x.l1 l.dst.addr l.data }
    { s with homeQ := s.homeQ ++ [{ cls := classOf gid, arrival := s.clock, src := .group gid, dst := l.dst, op := .write l.data,
                                    pc := pc, aged := false }] }
  | p => writePlace s p l.dst.addr l.data

/-! ## Read-modify-write (R348): the combining function is given by the number format, in Machine/Atomic.lean -/

end Sys2Proof.Machine
end

