-- ==== Sys2Proof/Machine/Eligible.lean ====
section
/-! DEFINITION. Which fragment of a group is eligible, and since when: the word of code at its PC (01_address_spaces R15, R24; 09_traps_faults R215), the header's fields (11_isa_conventions R244), the held traps that are due (R108, R207), and the age of its clause (07_execution_model R166; 08_scheduling R188, R189). -/

namespace Sys2Proof.Machine

/-! ## One word of code -/

/-- What the fetch of a word came to. -/
inductive WordRes where
  | ok (w : Word)
  | wait
  | fault (cause level : Nat) (entry : DWord) (ftag : BitVec 8) (ffmt : BitVec 3)
  deriving DecidableEq, Repr

/-- A read of global bytes at their home, for a fetch: a remote replica's bytes come from the switch, a CXL line's from its expander. -/
def homeRead (s : State) (id ctxn : Nat) (a : GAddr) (n : Nat) : Option (List Byte) × State :=
  if a.rep.isSome && !repLocal s ctxn (a.rep.getD 0) then
    match s.reps.find? (fun r => r.gid = id && !r.write && r.line = a.addr / 64) with
    | some r => match r.got with
      | some (_, bs) => (some (List.take n (List.drop (a.addr % 64) bs)), { s with reps := s.reps.erase r })
      | none => (none, s)
    | none => (none, repSend s id ctxn (a.rep.getD 0) a false [] none)
  else match cxlRead s a.addr false with
    | (false, s) => (none, s)
    | (true, s) => (some (s.bytes a.addr n), openRow s a.addr n)

/-- R15, R24, R215, R337: one word of code, translated for fetch by a core of a context; an address beyond 56 bits is ADDRFORM, a window address WINDOW. -/
def fetchWord (s : State) (gid : Nat) (g : Group) (ctx : Ctx) (a : Nat) : WordRes × State :=
  let core := coreOfGid gid
  let cl := clusterOfCore core
  if 2 ^ 56 ≤ a then (.fault 0x01 0 0 0 0, s)
  else if winRegion ≤ a then (.fault 0x02 0 0 0 0, s)
  else match translate s (some core) cl g.ctx ctx a .fetch g.sup with
    | (.wait, s) => (.wait, s)
    | (.fault f, s) => (.fault f.cause f.level f.entry 0 0, s)
    | (.ok p _ entry, s) =>
      let s := sense (reach s g.ctx cl p.addr) p.addr 4 []
      match repFault s gid p with
      | some s => (.fault 0x0F 0 entry 0 0, s)
      | none => match homeCheck s p 4 [] with
        | .wait => (.wait, startThaw s p.addr false)
        | .fault cause tag fmt => (.fault cause 0 entry tag fmt, s)
        | .ok => match homeRead s gid g.ctx p 4 with
          | (some bs, s) => (.ok (BitVec.ofNat 32 (leNat bs)), s)
          | (none, s) => (.wait, s)

/-- R244: the fields of a header. -/
def hdrCount (h : Word) : Nat := fieldNat h 24 4
def hdrClass (h : Word) : Nat := fieldNat h 21 3
def hdrWait (h : Word) : BitVec 8 := field h 13 8
/-- R216: a header that raises ILLCLAUSE by itself. -/
def hdrIll (h : Word) : Bool := fieldNat h 28 4 ≠ 0xE || hdrCount h = 0 || hdrClass h = 7 || fieldNat h 0 12 ≠ 0

/-! ## Eligibility (R166, R188, R189) -/

/-- The lowest lane of a mask, as a mask. -/
def lowestLane (m : DWord) : DWord := m &&& (0 - m)
/-- R108, R207: the live slot at which a held trap is due: the cancelled parking's, or that of the fragment with the lowest lane still live. A parked fragment reaches its boundary only after its replay. -/
def Group.dueSlot (g : Group) (h : Held) : Option Nat :=
  let parked (x : Slot) : Bool := h.cause = 0x0D && x.park.active && !x.park.replay && x.park.seq = h.info
  let l := lowestLane (h.mask &&& g.lmask)
  let here (x : Slot) : Bool := x.mask &&& l != 0 && !x.park.active
  if g.sup || h.cause = 0x10 then none
  else if parked g.s0 then some 0
  else if parked g.s1 then some 1
  else if here g.s0 then some 0
  else if here g.s1 then some 1
  else none

/-- R166: a trap is due to the fragment of a live slot, so its next clause does not issue. -/
def Group.due (g : Group) (k : Nat) : Bool := g.held.any (fun h => g.dueSlot h == some k)

/-- R188: the issue slot of an engine class: integer, floating point, memory, or shared. -/
def issueSlotOf (cls : Nat) : Nat := if cls < 3 then cls else 3

/-- R253: the counters that a header waits for are 0. -/
def waitsDone (g : Group) (hdr : Word) : Bool :=
  (List.range 8).all (fun n => !(hdrWait hdr).getLsbD n || g.counters.getD n 0 = 0)

/-- R166, R188: the fragment of a live slot is eligible, for the issue slot of its next clause. A clause whose header cannot be read or is illegal goes to the shared slot. -/
def slotEligible (s : State) (gid : Nat) (g : Group) (ctx : Ctx) (k : Nat) : Option Nat :=
  if !(g.slot k).ready || g.due k then none
  else match (fetchWord s gid g ctx (g.slot k).pc.toNat).1 with
    | .ok w => if hdrIll w then some 3 else if waitsDone g w then some (issueSlotOf (hdrClass w)) else none
    | _ => some 3

/-- R189: slots whose clause has become eligible since `before` count their age from now. -/
def refreshAge (s before : State) (gid : Nat) : State :=
  match SMap.find? s.groups gid, SMap.find? before.groups gid with
  | some g, some g0 => match s.ctxOf? g.ctx with
    | none => s
    | some ctx =>
      let age (k : Nat) (g : Group) : Group :=
        if (slotEligible before gid g0 ctx k).isNone && (slotEligible s gid g ctx k).isSome then
          g.setSlot k { g.slot k with since := s.clock }
        else g
      s.setGroup gid (age 1 (age 0 g))
  | _, _ => s

end Sys2Proof.Machine
end

