-- ==== Sys2Proof/Machine/Flags.lean ====
section
/-! DEFINITION. Number formats and rounding: the flag computations of every floating-point operation (10_numbers R223-R232). Values are exact dyadic numbers; one rounding maps them to a format and raises the flags. Flags are bits of FPCSR (R225). -/

namespace Sys2Proof.Machine

/-- R225: the flag bits. -/
def flNV : Word := 0x100
def flDZ : Word := 0x200
def flOF : Word := 0x400
def flUF : Word := 0x800
def flNX : Word := 0x1000

/-- R223: an IEEE 754 interchange format: exponent bits and fraction bits. -/
structure Fmt where
  eb : Nat
  mb : Nat
  deriving DecidableEq, Repr

namespace Fmt
def f64 : Fmt := ⟨11, 52⟩
def f32 : Fmt := ⟨8, 23⟩
def f16 : Fmt := ⟨5, 10⟩
def bf16 : Fmt := ⟨8, 7⟩
/-- R227: E5M2 is IEEE-style. -/
def e5m2 : Fmt := ⟨5, 2⟩
/-- R260: the format of an F code; the packed codes name their element. -/
def ofCode (n : Nat) : Fmt :=
  if n = 0 then f32 else if n = 1 then f64 else if n = 2 || n = 4 then f16 else bf16
/-- Bits of a value. -/
def width (f : Fmt) : Nat := 1 + f.eb + f.mb
def bias (f : Fmt) : Nat := 2 ^ (f.eb - 1) - 1
/-- Exponent of the smallest normal. -/
def emin (f : Fmt) : Int := 1 - (f.bias : Int)
/-- Exponent of the smallest subnormal. -/
def qmin (f : Fmt) : Int := f.emin - f.mb
/-- The code of +infinity. -/
def infCode (f : Fmt) : Nat := (2 ^ f.eb - 1) * 2 ^ f.mb
/-- The sign bit. -/
def signBit (f : Fmt) : Nat := 2 ^ (f.eb + f.mb)
/-- R223: the default NaN. -/
def dnan (f : Fmt) : Nat := f.infCode + 2 ^ (f.mb - 1)
end Fmt

/-- What a code stands for: the value of `fin` is (−1)^neg × m × 2^e. -/
inductive FVal where
  | nan
  | inf (neg : Bool)
  | fin (neg : Bool) (m : Nat) (e : Int)
  deriving DecidableEq, Repr

/-- R223: the sign bit of a code. -/
def fNeg (f : Fmt) (x : Nat) : Bool := x / f.signBit % 2 = 1
/-- R223: a code without its sign bit. -/
def fAbs (f : Fmt) (x : Nat) : Nat := x % f.signBit
def fIsNaN (f : Fmt) (x : Nat) : Bool := f.infCode < fAbs f x
/-- R223: a NaN whose most significant fraction bit is 0. -/
def fIsSNaN (f : Fmt) (x : Nat) : Bool := fIsNaN f x && x / 2 ^ (f.mb - 1) % 2 = 0
def fIsInf (f : Fmt) (x : Nat) : Bool := fAbs f x = f.infCode
def fIsZero (f : Fmt) (x : Nat) : Bool := fAbs f x = 0
def fIsSub (f : Fmt) (x : Nat) : Bool := fAbs f x ≠ 0 && fAbs f x < 2 ^ f.mb

/-- R223: the value of a code. -/
def fVal (f : Fmt) (x : Nat) : FVal :=
  let a := fAbs f x
  if f.infCode < a then .nan
  else if a = f.infCode then .inf (fNeg f x)
  else
    let ex := a / 2 ^ f.mb
    let fr := a % 2 ^ f.mb
    if ex = 0 then .fin (fNeg f x) fr f.qmin else .fin (fNeg f x) (2 ^ f.mb + fr) (f.qmin + (ex - 1 : Nat))

/-- R226: a subnormal operand reads as a zero of its sign under flushing. -/
def fFlushIn (f : Fmt) (fz : Bool) (x : Nat) : Nat := if fz && fIsSub f x then x - fAbs f x else x

/-- A result code and the flags it raises. -/
structure FRes where
  bits : Nat
  fl   : Word
  deriving DecidableEq, Repr

/-- R232: whether a magnitude with remainder is rounded away from zero: `half` compares the remainder with half a unit, `odd` is the kept magnitude's last bit. -/
def roundsUp (rm : Nat) (neg odd : Bool) (half : Ordering) (exact : Bool) : Bool :=
  if exact then false
  else if rm = 0 then half = .gt || (half = .eq && odd)
  else if rm = 1 then false
  else if rm = 2 then !neg
  else if rm = 3 then neg
  else half ≠ .lt

/-- R232: rounds m × 2^e (plus a sliver of it when `sticky`) to a multiple of 2^q: the multiple, and whether it was exact. -/
def roundAt (rm : Nat) (neg : Bool) (m : Nat) (e : Int) (sticky : Bool) (q : Int) : Nat × Bool :=
  -- two guard bits keep a sliver below half a unit
  let m4 := m * 4 + (if sticky then 1 else 0)
  let e4 := e - 2
  if e4 ≥ q then (m4 * 2 ^ (e4 - q).toNat, true)
  else
    let sh := (q - e4).toNat
    let n := m4 / 2 ^ sh
    let r := m4 % 2 ^ sh
    let h := 2 ^ (sh - 1)
    let exact := r = 0
    (if roundsUp rm neg (n % 2 = 1) (compare r h) exact then n + 1 else n, exact)

/-- R232: the exponent of the leading bit of a magnitude. -/
def topExp (m : Nat) (e : Int) : Int := (Nat.log2 m : Int) + e

/-- R232: overflow under a mode. -/
def overflowCode (f : Fmt) (rm : Nat) (neg : Bool) : Nat :=
  (if neg then f.signBit else 0) +
    (if rm = 0 || rm = 4 || (rm = 2 && !neg) || (rm = 3 && neg) then f.infCode else f.infCode - 1)

/-- R226, R232: rounds a nonzero exact magnitude to a wide format: one rounding, tininess after rounding, overflow, flushing. -/
def fRound (f : Fmt) (rm : Nat) (fz : Bool) (neg : Bool) (m : Nat) (e : Int) (sticky : Bool) : FRes :=
  let s := if neg then f.signBit else 0
  let top := topExp m e
  let q := max (top - f.mb) f.qmin
  let (n, exact) := roundAt rm neg m e sticky q
  let tiny := top < f.emin && (top < f.emin - 1 || (roundAt rm neg m e sticky (top - f.mb)).1 < 2 ^ (f.mb + 1))
  let code := (q - f.qmin).toNat * 2 ^ f.mb + n
  if fz && tiny then ⟨s, flUF ||| flNX⟩
  else if f.infCode ≤ code then ⟨overflowCode f rm neg, flOF ||| flNX⟩
  else ⟨s + code, (if exact then 0 else flNX) ||| (if tiny && !exact then flUF else 0)⟩

/-- R224: the NaN of a NaN operand: quiet, its payload truncated or widened at the low end. -/
def fQuiet (src dst : Fmt) (x : Nat) : Nat :=
  let fr := x % 2 ^ src.mb
  let fr := if src.mb ≤ dst.mb then fr * 2 ^ (dst.mb - src.mb) else fr / 2 ^ (src.mb - dst.mb)
  let q := 2 ^ (dst.mb - 1)
  (if fNeg src x then dst.signBit else 0) + dst.infCode + (if fr / q % 2 = 1 then fr else fr + q)

/-- R224: the NaN result of operands of one format, when one of them is a NaN: the first in order; invalid when any is signalling. -/
def fNaNs (f : Fmt) (xs : List Nat) : Option FRes :=
  match xs.find? (fIsNaN f) with
  | some x => some ⟨fQuiet f f x, if xs.any (fIsSNaN f) then flNV else 0⟩
  | none => none

/-- An exact number (−1)^neg × m × 2^e as an integer over a power of two. -/
structure Dy where
  n : Int
  e : Int
  deriving DecidableEq, Repr

/-- The number of a finite value. -/
def dyOf (neg : Bool) (m : Nat) (e : Int) : Dy := ⟨if neg then -(m : Int) else m, e⟩
/-- Exact sum. -/
def Dy.add (a b : Dy) : Dy :=
  let e := min a.e b.e
  ⟨a.n * 2 ^ (a.e - e).toNat + b.n * 2 ^ (b.e - e).toNat, e⟩
/-- Exact product. -/
def Dy.mul (a b : Dy) : Dy := ⟨a.n * b.n, a.e + b.e⟩
/-- The order of two numbers. -/
def Dy.cmp (a b : Dy) : Ordering :=
  let e := min a.e b.e
  compare (a.n * 2 ^ (a.e - e).toNat) (b.n * 2 ^ (b.e - e).toNat)

/-- R232: rounds an exact number; a zero takes the sign given. -/
def Dy.round (f : Fmt) (rm : Nat) (fz : Bool) (x : Dy) (zeroNeg : Bool) : FRes :=
  if x.n = 0 then ⟨if zeroNeg then f.signBit else 0, 0⟩ else fRound f rm fz (x.n < 0) x.n.natAbs x.e false

/-- The code of an infinity. -/
def fInf (f : Fmt) (neg : Bool) : Nat := (if neg then f.signBit else 0) + f.infCode
/-- R224: an invalid operation without a NaN operand. -/
def fInvalid (f : Fmt) : FRes := ⟨f.dnan, flNV⟩

/-- IEEE 754: the sign of an exactly zero sum of values with the given signs. -/
def zeroSum (rm : Nat) (na nb : Bool) : Bool := if na = nb then na else rm = 3

/-- R223, R224, R226, R232: a + b. -/
def fAdd (f : Fmt) (rm : Nat) (fz : Bool) (a b : Nat) : FRes :=
  let a := fFlushIn f fz a
  let b := fFlushIn f fz b
  match fNaNs f [a, b] with
  | some r => r
  | none => match fVal f a, fVal f b with
    | .inf na, .inf nb => if na = nb then ⟨a, 0⟩ else fInvalid f
    | .inf _, _ => ⟨a, 0⟩
    | _, .inf _ => ⟨b, 0⟩
    | .fin na ma ea, .fin nb mb eb => ((dyOf na ma ea).add (dyOf nb mb eb)).round f rm fz (zeroSum rm na nb)
    | _, _ => fInvalid f

/-- IEEE 754: a code with its sign inverted. -/
def fNegate (f : Fmt) (x : Nat) : Nat := if fNeg f x then x - f.signBit else x + f.signBit

/-- a × b. -/
def fMul (f : Fmt) (rm : Nat) (fz : Bool) (a b : Nat) : FRes :=
  let a := fFlushIn f fz a
  let b := fFlushIn f fz b
  match fNaNs f [a, b] with
  | some r => r
  | none => match fVal f a, fVal f b with
    | .inf na, .inf nb => ⟨fInf f (na != nb), 0⟩
    | .inf na, .fin nb m _ => if m = 0 then fInvalid f else ⟨fInf f (na != nb), 0⟩
    | .fin na m _, .inf nb => if m = 0 then fInvalid f else ⟨fInf f (na != nb), 0⟩
    | .fin na ma ea, .fin nb mb eb => ((dyOf na ma ea).mul (dyOf nb mb eb)).round f rm fz (na != nb)
    | _, _ => fInvalid f

/-- a × b + c with one rounding. -/
def fFma (f : Fmt) (rm : Nat) (fz : Bool) (a b c : Nat) : FRes :=
  let a := fFlushIn f fz a
  let b := fFlushIn f fz b
  let c := fFlushIn f fz c
  let bad := (fIsInf f a && fIsZero f b) || (fIsZero f a && fIsInf f b)
  match fNaNs f [a, b, c] with
  | some r => if bad then ⟨r.bits, r.fl ||| flNV⟩ else r
  | none =>
    if bad then fInvalid f
    else
      let np := fNeg f a != fNeg f b
      if fIsInf f a || fIsInf f b then
        if fIsInf f c && fNeg f c != np then fInvalid f else ⟨fInf f np, 0⟩
      else if fIsInf f c then ⟨c, 0⟩
      else match fVal f a, fVal f b, fVal f c with
        | .fin na ma ea, .fin nb mb eb, .fin nc mc ec =>
          (((dyOf na ma ea).mul (dyOf nb mb eb)).add (dyOf nc mc ec)).round f rm fz (zeroSum rm np nc)
        | _, _, _ => fInvalid f

/-- A quotient m / d to `k` more bits than the divisor needs, with what is left as a sliver. -/
def fDiv (f : Fmt) (rm : Nat) (fz : Bool) (a b : Nat) : FRes :=
  let a := fFlushIn f fz a
  let b := fFlushIn f fz b
  let ng := fNeg f a != fNeg f b
  match fNaNs f [a, b] with
  | some r => r
  | none => match fVal f a, fVal f b with
    | .inf _, .inf _ => fInvalid f
    | .inf _, _ => ⟨fInf f ng, 0⟩
    | _, .inf _ => ⟨if ng then f.signBit else 0, 0⟩
    | .fin _ ma ea, .fin _ mb eb =>
      if mb = 0 then if ma = 0 then fInvalid f else ⟨fInf f ng, flDZ⟩
      else if ma = 0 then ⟨if ng then f.signBit else 0, 0⟩
      else
        let k := 2 * f.mb + 8
        let n := ma * 2 ^ k
        fRound f rm fz ng (n / mb) (ea - eb - k) (n % mb ≠ 0)
    | _, _ => fInvalid f

/-- The integer square root, bit by bit from bit `k` down. -/
def isqrtFrom (n : Nat) : Nat → Nat → Nat
  | 0, r => if (r + 1) * (r + 1) ≤ n then r + 1 else r
  | k + 1, r => isqrtFrom n k (if (r + 2 ^ (k + 1)) * (r + 2 ^ (k + 1)) ≤ n then r + 2 ^ (k + 1) else r)
/-- The integer square root. -/
def isqrt (n : Nat) : Nat := isqrtFrom n (Nat.log2 n / 2 + 1) 0

/-- The square root. −0 stays −0; a negative number is invalid. -/
def fSqrt (f : Fmt) (rm : Nat) (fz : Bool) (a : Nat) : FRes :=
  let a := fFlushIn f fz a
  match fNaNs f [a] with
  | some r => r
  | none => match fVal f a with
    | .inf ng => if ng then fInvalid f else ⟨a, 0⟩
    | .fin ng m e =>
      if m = 0 then ⟨a, 0⟩
      else if ng then fInvalid f
      else
        -- an even exponent with enough bits below
        let k := 2 * f.mb + 8
        let k := if (e - k) % 2 = 0 then k else k + 1
        let n := m * 2 ^ k
        let r := isqrt n
        fRound f rm fz false r ((e - k) / 2) (r * r ≠ n)
    | .nan => fInvalid f

end Sys2Proof.Machine
end

