-- ==== Sys2Proof/Machine/Float.lean ====
section
/-! DEFINITION. The floating-point operations beyond addition, multiplication, division and root: minimum and maximum, comparison, classification, conversions, elementary functions, narrow elements, dot products and packing (10_numbers R227-R236; 14_isa_float_narrow R297-R312). -/

namespace Sys2Proof.Machine

/-- The order of two codes that are no NaNs, −0 equal to +0. -/
def fOrd (f : Fmt) (a b : Nat) : Ordering :=
  let key (x : Nat) : Int := if fNeg f x then -(fAbs f x : Int) else fAbs f x
  compare (key a) (key b)

/-- R297: minimum (`mx` false) or maximum; −0 below +0; `num` picks the number before a NaN. -/
def fMinMax (f : Fmt) (fz mx num : Bool) (a b : Nat) : FRes :=
  let a := fFlushIn f fz a
  let b := fFlushIn f fz b
  let nv := if fIsSNaN f a || fIsSNaN f b then flNV else 0
  if fIsNaN f a && fIsNaN f b then ⟨fQuiet f f a, nv⟩
  else if fIsNaN f a then ⟨if num then b else fQuiet f f a, nv⟩
  else if fIsNaN f b then ⟨if num then a else fQuiet f f b, nv⟩
  else
    let aLess := match fOrd f a b with
      | .lt => true
      | .gt => false
      | .eq => fNeg f a
    ⟨if aLess = mx then b else a, 0⟩

/-- R300: the relation of fcmp and the flag it raises. -/
def fCmp (f : Fmt) (fz : Bool) (cond : Nat) (a b : Nat) : Bool × Word :=
  let a := fFlushIn f fz a
  let b := fFlushIn f fz b
  let nan := fIsNaN f a || fIsNaN f b
  let snan := fIsSNaN f a || fIsSNaN f b
  let o := fOrd f a b
  let r := if cond = 6 then nan
    else if cond = 7 then !nan
    else if nan then cond = 1
    else if cond = 0 then o = .eq
    else if cond = 1 then o ≠ .eq
    else if cond = 2 then o = .lt
    else if cond = 3 then o ≠ .gt
    else if cond = 4 then o = .gt
    else o ≠ .lt
  (r, if snan || (nan && 2 ≤ cond && cond ≤ 5) then flNV else 0)

/-- R301: the class mask. -/
def fClass (f : Fmt) (fz : Bool) (a : Nat) : Word :=
  let a := fFlushIn f fz a
  let ng := fNeg f a
  let bit := if fIsSNaN f a then 8 else if fIsNaN f a then 9
    else if fIsInf f a then (if ng then 0 else 7)
    else if fIsZero f a then (if ng then 3 else 4)
    else if fIsSub f a then (if ng then 2 else 5)
    else (if ng then 1 else 6)
  BitVec.twoPow 32 bit

/-- R302: the exponent as a signed integer. -/
def fGexp (f : Fmt) (fz : Bool) (a : Nat) : Word × Word :=
  match fVal f (fFlushIn f fz a) with
  | .nan => (0x80000000, flNV)
  | .inf _ => (0x7FFFFFFF, 0)
  | .fin _ m e => if m = 0 then (0x80000000, 0) else (BitVec.ofInt 32 (topExp m e), 0)

/-- R303: a's bits with b's sign. -/
def fSign (f : Fmt) (fz : Bool) (a b : Nat) : Nat :=
  let a := fFlushIn f fz a
  let b := fFlushIn f fz b
  fAbs f a + (if fNeg f b then f.signBit else 0)

/-- R304: rounds to an integral value. -/
def fRnd (f : Fmt) (rm : Nat) (fz : Bool) (a : Nat) : FRes :=
  let a := fFlushIn f fz a
  match fNaNs f [a] with
  | some r => r
  | none => match fVal f a with
    | .fin ng m e =>
      let n := (roundAt rm ng m e false 0).1
      if n = 0 then ⟨if ng then f.signBit else 0, 0⟩ else ⟨(fRound f rm false ng n 0 false).bits, 0⟩
    | _ => ⟨a, 0⟩

/-- R305: converts between formats. -/
def fCvt (src dst : Fmt) (rm : Nat) (fzs fzd : Bool) (a : Nat) : FRes :=
  let a := fFlushIn src fzs a
  match fVal src a with
  | .nan => ⟨fQuiet src dst a, if fIsSNaN src a then flNV else 0⟩
  | .inf ng => ⟨fInf dst ng, 0⟩
  | .fin ng m e => if m = 0 then ⟨if ng then dst.signBit else 0, 0⟩ else fRound dst rm fzd ng m e false

/-- R260, R306: the range of an integer type code: width and whether signed. -/
def tSigned (t : Nat) : Bool := t % 2 = 0
def tWidth (t : Nat) : Nat := if t < 2 then 32 else 64
def tMin (t : Nat) : Int := if tSigned t then -(2 ^ (tWidth t - 1) : Nat) else 0
def tMax (t : Nat) : Int := if tSigned t then (2 ^ (tWidth t - 1) : Nat) - 1 else (2 ^ tWidth t : Nat) - 1

/-- R306: converts to an integer type. -/
def fToInt (f : Fmt) (t rm : Nat) (fz : Bool) (a : Nat) : Int × Word :=
  match fVal f (fFlushIn f fz a) with
  | .nan => (0, flNV)
  | .inf ng => (if ng then tMin t else tMax t, flNV)
  | .fin ng m e =>
    let (n, exact) := roundAt rm ng m e false 0
    let x : Int := if ng then -(n : Int) else n
    if x < tMin t then (tMin t, flNV)
    else if tMax t < x then (tMax t, flNV)
    else (x, if exact then 0 else flNX)

/-- R306: converts from an integer. -/
def fOfInt (f : Fmt) (rm : Nat) (fz : Bool) (x : Int) : FRes := (⟨x, 0⟩ : Dy).round f rm fz false

/-- R307: a × 2^b. -/
def fScal (f : Fmt) (rm : Nat) (fz : Bool) (a : Nat) (b : Int) : FRes :=
  let a := fFlushIn f fz a
  match fNaNs f [a] with
  | some r => r
  | none => match fVal f a with
    | .fin ng m e =>
      -- beyond 5000 the result overflows or underflows whatever the exact exponent is
      let b := max (-5000) (min 5000 b)
      if m = 0 then ⟨a, 0⟩ else fRound f rm fz ng m (e + b) false
    | _ => ⟨a, 0⟩

/-- R298: the reciprocal of the square root. -/
def fRsq (f : Fmt) (rm : Nat) (fz : Bool) (a : Nat) : FRes :=
  let a := fFlushIn f fz a
  match fNaNs f [a] with
  | some r => r
  | none => match fVal f a with
    | .inf ng => if ng then fInvalid f else ⟨0, 0⟩
    | .fin ng m e =>
      if m = 0 then ⟨fInf f ng, flDZ⟩
      else if ng then fInvalid f
      else
        let m' := if e % 2 = 0 then m else 2 * m
        let e' := if e % 2 = 0 then e else e - 1
        let k := Nat.log2 m' + f.mb + 8
        let r := isqrt (2 ^ (2 * k) / m')
        fRound f rm fz false r (-(k : Int) - e' / 2) (r * r * m' ≠ 2 ^ (2 * k))
    | .nan => fInvalid f

/-! ## Elementary functions (R299): fixed-point series, with a sliver for what they leave out -/

/-- Fixed point of 256 fraction bits: ln 2. -/
def ln2Fix : Nat := 0xb17217f7d1cf79abc9e3b39803f2f6af40f343267298b62d8a0d175b8baafa2b
/-- Fixed point of 448 fraction bits: π / 2. -/
def halfPiFix : Nat := 0x1921fb54442d18469898cc51701b839a252049c1114cf98e804177d4c76273644a29410f31c6809bbdf2a33679a748636605614dbe4be286e

/-- Σ y^k / k! from term `k` on, with `fuel` terms left. -/
def expSeries (y : Nat) : Nat → Nat → Nat → Nat
  | 0, _, _ => 0
  | fuel + 1, k, t => t + expSeries y fuel (k + 1) (t * y / 2 ^ 256 / (k + 1))

/-- R299: 2^a. -/
def fEx2 (rm : Nat) (fz : Bool) (a : Nat) : FRes :=
  let f := Fmt.f32
  let a := fFlushIn f fz a
  match fNaNs f [a] with
  | some r => r
  | none => match fVal f a with
    | .inf ng => ⟨if ng then 0 else f.infCode, 0⟩
    | .fin ng m e =>
      if m = 0 then ⟨0x3F800000, 0⟩
      else if 9 < topExp m e then fRound f rm fz false 1 (if ng then -1000 else 1000) ng
      else
        -- |a| < 1024, exact in 256 fraction bits
        let x : Int := if ng then -((m * 2 ^ (e + 256).toNat : Nat) : Int) else (m * 2 ^ (e + 256).toNat : Nat)
        let n : Int := x / (2 ^ 256 : Nat)
        let fr := (x % (2 ^ 256 : Nat)).toNat
        if fr = 0 then fRound f rm fz false 1 n false
        else fRound f rm fz false (expSeries (fr * ln2Fix / 2 ^ 256) 64 0 (2 ^ 256)) (n - 256) true
    | .nan => fInvalid f

/-- Σ z^(2k+1) / (2k+1) from term `k` on. -/
def atanhSeries (z2 : Nat) : Nat → Nat → Nat → Nat
  | 0, _, _ => 0
  | fuel + 1, k, p => p / (2 * k + 1) + atanhSeries z2 fuel (k + 1) (p * z2 / 2 ^ 256)

/-- R299: log2 a. -/
def fLg2 (rm : Nat) (fz : Bool) (a : Nat) : FRes :=
  let f := Fmt.f32
  let a := fFlushIn f fz a
  match fNaNs f [a] with
  | some r => r
  | none => match fVal f a with
    | .inf ng => if ng then fInvalid f else ⟨a, 0⟩
    | .fin ng m e =>
      if m = 0 then ⟨fInf f true, flDZ⟩
      else if ng then fInvalid f
      else
        let l := Nat.log2 m
        let top := topExp m e
        if m = 2 ^ l then (⟨top, 0⟩ : Dy).round f rm fz false
        else
          let z : Nat := (m - 2 ^ l) * 2 ^ 256 / (m + 2 ^ l)
          let frac : Nat := 2 * atanhSeries (z * z / 2 ^ 256) 96 0 z * 2 ^ 256 / ln2Fix
          let x : Int := top * (2 ^ 256 : Nat) + frac
          fRound f rm fz (x < 0) (if x < 0 then x.natAbs - 1 else x.natAbs) (-256) true
    | .nan => fInvalid f

/-- Σ (−1)^k x^(2k) / (2k + c)! × c! from term `k` on, at 448 fraction bits: the even terms minus the odd ones. -/
def alternating (x2 c : Nat) : Nat → Nat → Nat → Int
  | 0, _, _ => 0
  | fuel + 1, k, t =>
    (t : Int) - alternating x2 c fuel (k + 1) (t * x2 / 2 ^ 448 / ((2 * k + 1 + c) * (2 * k + 2 + c)))

/-- sin x / x and cos x of a fixed-point x in [0, π/2]. -/
def sincFix (x : Nat) : Nat := (alternating (x * x / 2 ^ 448) 1 64 0 (2 ^ 448)).toNat
def cosFix (x : Nat) : Nat := (alternating (x * x / 2 ^ 448) 0 64 0 (2 ^ 448)).toNat

/-- R299: sin a (`co` false) or cos a, the argument reduced exactly enough for every binary32. -/
def fSinCos (co : Bool) (rm : Nat) (fz : Bool) (a : Nat) : FRes :=
  let f := Fmt.f32
  let a := fFlushIn f fz a
  match fNaNs f [a] with
  | some r => r
  | none => match fVal f a with
    | .fin ng m e =>
      if m = 0 then ⟨if co then 0x3F800000 else a, 0⟩
      else
        let x := m * 2 ^ (e + 448).toNat
        let k := x / halfPiFix
        let r := x % halfPiFix
        let quad := (k + if co then 1 else 0) % 4
        let neg := (2 ≤ quad) != (!co && ng)
        if quad % 2 = 0 then
          -- a sine: x × (sin x / x), exact in the small
          if k = 0 then fRound f rm fz neg (m * sincFix r) (e - 448) true
          else fRound f rm fz neg (r * sincFix r) (-896) true
        else fRound f rm fz neg (cosFix r) (-448) true
    | _ => fInvalid f

/-! ## Narrow elements (R227-R233) -/

/-- R227, R262: a narrow variant: 0 E4M3, 1 E5M2, 2 INT8, 4 E2M1, 5 INT4. -/
def narrowBits (v : Nat) : Nat := if v < 4 then 8 else 4

/-- R227, R228: what a narrow code reads as: none for a reserved code. -/
def narrowVal (v x : Nat) : Option FVal :=
  if v = 0 then
    let a := x % 128
    let ng := x / 128 % 2 = 1
    if x % 256 = 0x80 then none
    else if a = 0x7F then some .nan
    else if a < 8 then some (.fin ng a (-9)) else some (.fin ng (8 + a % 8) (Int.ofNat (a / 8) - 10))
  else if v = 1 then some (fVal Fmt.e5m2 (x % 256))
  else if v = 2 then
    let a := x % 256
    if a = 0x80 then none else if a < 0x80 then some (.fin false a 0) else some (.fin true (256 - a) 0)
  else if v = 4 then
    let a := x % 8
    let ng := x / 8 % 2 = 1
    if x % 16 = 8 then none
    else if a < 2 then some (.fin ng a (-1)) else some (.fin ng (2 + a % 2) (Int.ofNat (a / 2) - 2))
  else
    let a := x % 16
    if a = 8 then none else if a < 8 then some (.fin false a 0) else some (.fin true (16 - a) 0)

/-- R227, R229: the variant that a record's tag gives in a family (`four`: the 4-bit family). -/
def recVariant (four : Bool) (tag : Nat) : Option Nat :=
  if four then (if tag = 0 then some 4 else if tag = 1 then some 5 else none)
  else (if tag < 3 then some tag else none)

/-- R230, R257 (ElemValue): an element under its record: the value, and whether the read raises invalid. `int` is an integer accumulator. -/
def elemValue (four int : Bool) (rec x : Nat) : FVal × Bool :=
  let bad : FVal × Bool := if int then (.fin false 0 0, true) else (.nan, true)
  match recVariant four (rec / 64 % 4) with
  | none => bad
  | some v =>
    if rec % 64 = 63 || (int && v ≠ 2 && v ≠ 5) then bad
    else match narrowVal v x with
      | none => bad
      | some y => (y, v = 1 && fIsSNaN Fmt.e5m2 (x % 256))

/-- A running exact sum: the finite part, what infinities and NaNs have made of it, and the flags. -/
structure Sum where
  fin : Dy
  pos : Bool
  neg : Bool
  nan : Bool
  /-- Finite terms that are not zero, that are +0 and that are −0 have been added. -/
  nonz : Bool
  pz  : Bool
  nz  : Bool
  fl  : Word
  deriving DecidableEq, Repr

/-- The empty sum. -/
def Sum.zero : Sum :=
  { fin := ⟨0, 0⟩, pos := false, neg := false, nan := false, nonz := false, pz := false, nz := false, fl := 0 }

/-- R236: adds a term. -/
def Sum.term (s : Sum) (v : FVal) (scale : Int) : Sum :=
  match v with
  | .nan => { s with nan := true }
  | .inf ng => if ng then { s with neg := true } else { s with pos := true }
  | .fin ng m e => { s with fin := s.fin.add (dyOf ng m (e + scale)), nonz := s.nonz || m != 0,
                            pz := s.pz || (m == 0 && !ng), nz := s.nz || (m == 0 && ng) }

/-- R236: adds a product. -/
def Sum.product (s : Sum) (a b : FVal) (scale : Int) : Sum :=
  match a, b with
  | .nan, _ => { s with nan := true }
  | _, .nan => { s with nan := true }
  | .inf na, .inf nb => s.term (.inf (na != nb)) 0
  | .inf na, .fin nb m _ => if m = 0 then { s with nan := true, fl := s.fl ||| flNV } else s.term (.inf (na != nb)) 0
  | .fin na m _, .inf nb => if m = 0 then { s with nan := true, fl := s.fl ||| flNV } else s.term (.inf (na != nb)) 0
  | .fin na ma ea, .fin nb mb eb => s.term (.fin (na != nb) (ma * mb) (ea + eb)) scale

/-- IEEE 754: the sign of a sum that is exactly zero: that of its terms where they are zeros of one sign. -/
def Sum.zeroSign (s : Sum) (rm : Nat) : Bool := if s.nonz || (s.pz && s.nz) then rm = 3 else s.nz

/-- R235, R236: closes a sum of products with an accumulator code, one rounding; NaNs become the default NaN. -/
def Sum.close (s : Sum) (f : Fmt) (rm : Nat) (fz : Bool) (acc : Nat) : FRes :=
  let acc := fFlushIn f fz acc
  let fl := s.fl ||| (if fIsSNaN f acc || (s.pos && s.neg) then flNV else 0)
  if s.nan || (s.pos && s.neg) || fIsNaN f acc then ⟨f.dnan, fl⟩
  else match fVal f acc with
    | .inf ng =>
      if (s.pos && ng) || (s.neg && !ng) then ⟨f.dnan, fl ||| flNV⟩ else ⟨acc, fl⟩
    | .fin ng m e =>
      if s.pos then ⟨fInf f false, fl⟩
      else if s.neg then ⟨fInf f true, fl⟩
      else
        let r := (s.fin.add (dyOf ng m e)).round f rm fz
          (if m = 0 && !s.nonz then zeroSum rm (s.zeroSign rm) ng else rm = 3)
        ⟨r.bits, fl ||| r.fl⟩
    | .nan => ⟨f.dnan, fl⟩

/-- R233: one step of a lane's generator. -/
def draw (s : Word) : Word :=
  let s := s ^^^ (s <<< 13)
  let s := s ^^^ (s >>> 17)
  s ^^^ (s <<< 5)

/-- R234: the state a seed gives lane `i`. -/
def seedState (value : Word) (i : Nat) : Word :=
  let s := value ^^^ BitVec.ofNat 32 ((i + 1) * 0x9E3779B9)
  if s = 0 then 1 else s

/-- R232, R233: rounds a magnitude to a multiple of 2^q, by mode or by a draw. -/
def roundNarrowAt (rm : Nat) (sr : Option Word) (neg : Bool) (m : Nat) (e : Int) (q : Int) : Nat × Bool :=
  match sr with
  | none => roundAt rm neg m e false q
  | some r =>
    if e ≥ q then (m * 2 ^ (e - q).toNat, true)
    else
      let sh := (q - e).toNat
      let n := m / 2 ^ sh
      let d := m % 2 ^ sh * 2 ^ 32 / 2 ^ sh
      (if 2 ^ 32 ≤ d + r.toNat then n + 1 else n, m % 2 ^ sh = 0)

/-- R232: rounds a nonzero magnitude to a narrow float of `mb` fraction bits, least quantum `qmin` and greatest code `top`; beyond it `past`. -/
def narrowFloat (mb : Nat) (qmin : Int) (top : Nat) (past : Nat × Word) (rm : Nat) (sr : Option Word) (neg : Bool) (m : Nat)
    (e : Int) : Nat × Word :=
  let t := topExp m e
  let emin := qmin + mb
  let q := max (t - mb) qmin
  let (n, exact) := roundNarrowAt rm sr neg m e q
  let tiny := t < emin && (t < emin - 1 || (roundNarrowAt rm sr neg m e (t - mb)).1 < 2 ^ (mb + 1))
  let code := (q - qmin).toNat * 2 ^ mb + n
  if top < code then past
  else (code, (if exact then 0 else flNX) ||| (if tiny && !exact then flUF else 0))

/-- R228, R232, R257 (RoundNarrow): a binary32 code to a narrow variant. -/
def roundNarrow (v rm : Nat) (sr : Option Word) (fz : Bool) (x : Nat) : Nat × Word :=
  let x := fFlushIn Fmt.f32 fz x
  let ng := fNeg Fmt.f32 x
  match fVal Fmt.f32 x with
  | .nan =>
    if v = 0 then (0x7F, if fIsSNaN Fmt.f32 x then flNV else 0)
    else if v = 1 then (if ng then 0xFE else 0x7E, if fIsSNaN Fmt.f32 x then flNV else 0)
    else (0, flNV)
  | .inf _ =>
    if v = 0 then (if ng then 0xFE else 0x7E, flNV)
    else if v = 1 then (if ng then 0xFC else 0x7C, 0)
    else if v = 4 then (if ng then 0xF else 0x7, flNV)
    else if v = 2 then (if ng then 0x81 else 0x7F, flNV)
    else (if ng then 0x9 else 0x7, flNV)
  | .fin _ m e =>
    if v = 2 || v = 5 then
      let bound := if v = 2 then 127 else 7
      let modulus := if v = 2 then 256 else 16
      let (n, exact) := roundNarrowAt rm sr ng m e 0
      let fl := if bound < n then flNV else if exact then 0 else flNX
      let n := min n bound
      (if ng then (modulus - n) % modulus else n, fl)
    else if m = 0 then (if v = 1 && ng then 0x80 else 0, 0)
    else if v = 1 then
      let past := if sr.isSome then 0x7C else overflowCode Fmt.e5m2 rm ng % 128
      let (c, fl) := narrowFloat 2 (-16) 0x7B (past, flOF ||| flNX) rm sr ng m e
      (if ng then c + 0x80 else c, fl)
    else if v = 0 then
      let (c, fl) := narrowFloat 3 (-9) 0x7E (0x7E, flOF ||| flNX) rm sr ng m e
      (if ng && c ≠ 0 then c + 0x80 else c, fl)
    else
      let (c, fl) := narrowFloat 1 (-1) 7 (7, flOF ||| flNX) rm sr ng m e
      (if ng && c ≠ 0 then c + 8 else c, fl)

/-- R310: a narrow code as binary32, with the flag it raises. -/
def unpackNarrow (v x : Nat) : Nat × Word :=
  match narrowVal v x with
  | none => (0x7FC00000, flNV)
  | some .nan => (0x7FC00000, if v = 1 && fIsSNaN Fmt.e5m2 x then flNV else 0)
  | some (.inf ng) => (fInf Fmt.f32 ng, 0)
  | some (.fin ng m e) => if m = 0 then (if ng then 0x80000000 else 0, 0) else ((fRound Fmt.f32 0 false ng m e false).bits, 0)

/-! ## Read-modify-write (R130, R348) -/

/-- R130, R348: the new value of a location of `w` bits under an operation and type, and the flags; floats round to nearest even and keep subnormals. -/
def rmwVal (op ty : Nat) (m v : Nat) : Nat × Word :=
  let flt (f : Fmt) (m v : Nat) : FRes :=
    if op = 0 then fAdd f 0 false m v else if op = 6 then ⟨v, 0⟩ else fMinMax f false (op = 2) true m v
  let w := if ty = 2 || ty = 3 || ty = 5 then 64 else 32
  if op = 6 then (v % 2 ^ w, 0)
  else if ty = 4 then let r := flt .f32 m v; (r.bits, r.fl)
  else if ty = 5 then let r := flt .f64 m v; (r.bits, r.fl)
  else if ty = 6 || ty = 7 then
    let f := if ty = 6 then Fmt.f16 else Fmt.bf16
    let lo := flt f (m % 65536) (v % 65536)
    let hi := flt f (m / 65536 % 65536) (v / 65536 % 65536)
    (lo.bits + 65536 * hi.bits, lo.fl ||| hi.fl)
  else
    let signed (x : Nat) : Int := if ty % 2 = 0 && 2 ^ (w - 1) ≤ x then (x : Int) - (2 ^ w : Nat) else x
    (if op = 0 then (m + v) % 2 ^ w
      else if op = 1 then (if signed v < signed m then v else m)
      else if op = 2 then (if signed m < signed v then v else m)
      else if op = 3 then m &&& v
      else if op = 4 then m ||| v
      else m ^^^ v, 0)

end Sys2Proof.Machine
end

