-- ==== Sys2Proof/Machine/Ops.lean ====
section
/-! DEFINITION. The named operations of a group in execution: the issuing group, retiring an instruction and a clause, ending lanes, groups and teams, taking a trap (the one shared operation for every exception, 09_traps_faults R198-R205), parking (R206), the frontier spill area (R96, R446), and the return from a handler (18_isa_system R397). -/

namespace Sys2Proof.Machine

/-! ## The issuing group -/

/-- The issuing group and its clause in issue. -/
def withClause (s : State) (k : Nat → Group → Clause → Out) : Out :=
  match s.cur with
  | none => .fault .noIssuingGroup
  | some gid => match SMap.find? s.groups gid with
    | none => .fault .noIssuingGroup
    | some g => match g.clause with
      | none => .fault .noIssuingGroup
      | some c => k gid g c

/-- R207: FMASK, or the unfinished lanes when a replay stands at the parked instruction. -/
def Clause.lanes (c : Clause) (g : Group) : DWord :=
  match c.replay with
  | some (i, m) => if c.idx = i then m &&& g.fmask else g.fmask
  | none => g.fmask

/-- R248: the active mask of a long instruction. -/
def active (g : Group) (c : Clause) (o : Ops) : DWord :=
  let m := c.lanes g
  if o.g then m &&& (if o.gn then ~~~(g.p o.gp.toNat) else g.p o.gp.toNat) else m

/-- R191, R194: an instruction of a group of the core issues, or a team is admitted to it: its progress counters restart. -/
def restartProgress (s : State) (core : Nat) : State :=
  s.setCore core { s.coreOf core with wincnt := s.clock, faultcnt := s.clock }

/-- R191: a team leaves its core, or its pair: the window counters restart. -/
def restartWindow (s : State) (t : Team) : State :=
  let on (s : State) (core : Nat) : State := s.setCore core { s.coreOf core with wincnt := s.clock }
  if t.paired then on (on s t.core) (t.core + 1) else on s t.core

/-- The words of the instruction at hand: 2 when bit 31 of the first is set (R246). -/
def Clause.len (c : Clause) : Nat :=
  match c.words with
  | [] => 1
  | w :: _ => if w.getLsbD 31 then 2 else 1

/-- The address after the instruction at hand. -/
def Clause.nextPc (c : Clause) : DWord := c.ipc + BitVec.ofNat 64 (4 * c.len)

/-- R153: the pop buffers of a clause that has retired are emptied. -/
def Group.dropPops (g : Group) (slot : Nat) : Group :=
  { g with queues := g.queues.map (fun q => { q with pop := q.pop.filter (fun e => e.1 / 16 != slot + 2 * g.sup.toNat) }) }

/-- R168, R188: the clause has retired and its lanes stand at the given fragments. -/
def endClause (s : State) (gid : Nat) (g : Group) (c : Clause) (frs : List Frag) : State :=
  let g := (g.dropPops c.slot).boundary c.slot s.clock frs
  s.setGroup gid { g with clause := none }

/-- R94, R188: the instruction has retired with its latch; the clause goes on, or ends and falls through to the next. -/
def retire (s : State) (gid : Nat) (g : Group) (c : Clause) (lat : Option (SMap DWord)) : State :=
  let s := restartProgress s (coreOfGid gid)
  let rest := c.words.drop c.len
  if rest.isEmpty then endClause s gid g c [(g.fmask &&& g.lmask, c.nextPc)]
  else s.setGroup gid { g with
    clause := some { c with words := rest, idx := c.idx + 1, ipc := c.nextPc, lats := lat :: c.lats } }

/-! ## Ends (R163, R180, R424) -/

/-- R189: a partition without resident groups has its round-robin pointer at 0. -/
def clearPointer (s : State) (core : Nat) : State :=
  let x := s.coreOf core
  let rr := x.rr.mapIdx (fun p r => if s.groups.any (fun e => e.1 / 16 = core * 4 + p) then r else 0)
  s.setCore core { x with rr := rr }

/-- R178: a field of a kernel descriptor. -/
def Kernel.teams (k : Kernel) : Nat := fieldNat k.desc 128 16

/-- R180: a team has ended: what it held returns, and the last team of a kernel posts the kernel-quiet event. -/
def endTeam (s : State) (tid : Nat) (t : Team) : State :=
  let s := restartWindow { s with teams := SMap.del s.teams tid } t
  let s := match t.seq with
    | some n => s.setSeq (4 * t.core + n) { s.seqOf (4 * t.core + n) with team := none, state := 0, waiting := false }
    | none => s
  match s.ctxOf? t.ctx with
  | none => s
  | some c => match SMap.find? c.kernels t.kid with
    | none => s
    | some k =>
      let k := { k with ended := k.ended + 1 }
      let s := s.setCtx t.ctx { c with kernels := SMap.put c.kernels t.kid k }
      if k.ended = k.teams then postEvent s 0x02 (t.ctx + 65536 * t.kid) 0 else s

/-- A team with no group left in a slot ends, unless groups of it have been saved (R212). -/
def teamCheck (s : State) (tid? : Option Nat) : State :=
  match tid? with
  | none => s
  | some tid => match SMap.find? s.teams tid with
    | none => s
    | some t =>
      if s.groups.any (fun e => e.2.team = some tid) || !t.left.isEmpty then s else endTeam s tid t

/-- R163, R424: a group ends: its slot returns, what its queue holds stays to be performed, its team may end. -/
def endGroup (s : State) (gid : Nat) (g : Group) : State :=
  let s := { s with groups := SMap.del s.groups gid,
                    orphans := if g.sq.isEmpty then s.orphans
                      else s.orphans ++ [{ gid := gid, team := g.team, ctx := g.ctx, sq := g.sq }] }
  teamCheck (clearPointer s (coreOfGid gid)) g.team

/-! ## Traps (R201-R205) -/

/-- What a trap records and how its handler runs. -/
structure TrapReq where
  cause  : Nat
  reason : Nat
  info   : Word
  tmask  : DWord
  cpc    : DWord
  ipc    : DWord
  idx    : Nat
  rpc    : DWord
  slot   : Nat
  /-- Lanes the handler runs under. -/
  run    : DWord
  /-- The trapping slot's wait is abandoned. -/
  abandon : Bool
  /-- R191, R194: an instruction has issued and raised it (DEDUCED, log entry 48). -/
  issues : Bool := false
  deriving DecidableEq, Repr

/-- R203: the trap record. -/
def trecWord (t : TrapReq) (g : Group) : BitVec 512 :=
  fld 0 8 t.cause ||| fld 8 8 t.reason ||| fld 16 4 t.idx ||| fld 20 1 g.sup.toNat ||| fld 64 64 t.cpc.toNat |||
    fld 128 64 t.ipc.toNat ||| fld 192 64 t.rpc.toNat ||| fld 256 64 t.tmask.toNat ||| fld 320 64 g.s0.mask.toNat |||
    fld 384 64 g.s1.mask.toNat ||| fld 448 6 g.spill.length ||| fld 480 32 t.info.toNat

/-- R203: a field of the trap record. -/
def Group.tcause (g : Group) : Nat := fieldNat g.trec 0 8
def Group.rpc (g : Group) : DWord := field g.trec 192 64

/-- R170: the 16 bytes of a spilled entry. -/
def frontierBytes (f : Frag) : List Byte := natLe 8 f.1.toNat ++ natLe 8 f.2.toNat

/-- R96, R446: where the frontier entries 0 to n − 1 lie, or the fault that keeps them from being reached: the alias address, its cause, and the frame's key tag and format for a fault of its home. A wait (R69, R37) is retried. -/
inductive Frontier where
  | ok (addrs : List GAddr)
  | wait
  | fault (va : Nat) (f : XFault) (ftag : BitVec 8) (ffmt : BitVec 3)
  deriving DecidableEq, Repr

/-- R96: translates the frontier area of a group, entry by entry, as a load or a store with the group's key. -/
def frontier (s : State) (gid : Nat) (g : Group) (acc : Acc) : Nat → Frontier × State
  | 0 => (.ok [], s)
  | n + 1 =>
    let core := coreOfGid gid
    match frontier s gid g acc n with
    | (.ok l, s) => match s.ctxOf? g.ctx with
      | none => (.wait, s)
      | some c =>
        let va := spillAlias c g (16 * n)
        if 65536 ≤ g.tidx || winRegion ≤ va then (.fault va ⟨0x03, 0, 0⟩ 0 0, s)
        else match translate s (some core) (clusterOfCore core) g.ctx c va acc true with
          | (.wait, s) => (.wait, s)
          | (.fault f, s) => (.fault va f 0 0, s)
          | (.ok a _ entry, s) =>
            let s := sense (reach s g.ctx (clusterOfCore core) a.addr) a.addr 16 (if acc == .store then [(a.addr, 16)] else [])
            match homeCheck s a 16 (if acc == .store then [(a.addr, 16)] else []) with
            | .ok => (.ok (l ++ [a]), s)
            | .wait => (.wait, startThaw s a.addr false)
            | .fault cause tag fmt => (.fault va ⟨cause, 0, entry⟩ tag fmt, s)
    | r => r

/-- R446: the fault record of a frontier write or read. -/
def frontierRec (gid : Nat) (g : Group) (akind va : Nat) (f : XFault) (ftag : BitVec 8) (ffmt : BitVec 3) (pc : DWord) (seq : Word) :
    FaultRec :=
  { cause := f.cause, akind := akind, level := f.level, straddle := false, sup := g.sup, win := true, ctx := g.ctx,
    core := coreOfGid gid, va := va, pc := pc.toNat, lanes := 0, entry := f.entry.toNat, ftag := ftag.toNat, ffmt := ffmt.toNat,
    slot := slotOfGid gid, seq := seq.toNat }

/-- R96: writes the spilled entries through the store queue; no group when it must be tried again. A fault puts the group in a frontier parking (R446). -/
def frontierWrite (s : State) (gid : Nat) (g : Group) (pc : DWord) : Option Group × State :=
  if g.spill.isEmpty then (some g, s)
  else if 32 ≤ g.sq.length then (none, s)
  else match frontier s gid g .store g.spill.length with
    | (.ok addrs, s) =>
      let lanes := (addrs.zip g.spill).mapIdx (fun i x => { lane := i, dst := x.1, data := frontierBytes x.2 : LaneStore })
      (some { g with sq := g.sq ++ [.store lanes 0 pc.toNat] }, s)
    | (.wait, s1) => (none, keepAnswers s s1)
    | (.fault va f tag fmt, s) =>
      let (seq, s) := takeSeq s
      (some { g with fpark := some seq }, postFault s (frontierRec gid g 1 va f tag fmt pc seq))

/-- R205: the double-trap event names the context, the core and the slot (the place of context and slot in the entry is a DESIGN CHOICE, log entry 48). -/
def postDouble (s : State) (gid ctx : Nat) : State :=
  postEvent s 0x04 (coreOfGid gid) (ctx + 65536 * slotOfGid gid)

/-- R202, R203, R205: a group takes a trap. In supervisor mode it halts and the double-trap event is posted. Otherwise outstanding results are written (R198), the frontier area is made exact, the record is written, the fragment state is captured, and the handler starts at SVBASE + 0x100 × TCAUSE in supervisor mode. While the frontier area cannot be written yet (a full queue, a thaw), no group changes and the step is tried again. -/
def takeTrap (s : State) (gid : Nat) (t : TrapReq) : State :=
  match SMap.find? s.groups gid with
  | none => s
  | some g =>
    let g := g.flush
    let issued (s : State) : State := if t.issues then restartProgress s (coreOfGid gid) else s
    if g.sup then
      let g := { g with trec := trecWord t g, halted := true, clause := none }
      postDouble ((issued s).setGroup gid g) gid g.ctx
    else match frontierWrite s gid g (g.slot t.slot).pc with
      | (none, s) => s
      | (some g, s) =>
        let s := issued s
        let sv := match s.ctxOf? g.ctx with | some c => c.svbase | none => 0
        let trec := trecWord t g
        let quiet (x : Slot) (mine : Bool) : Slot :=
          let x := if mine && t.abandon then { x with wait := .none } else x
          if t.cause = 0x10 || (mine && t.cause = 0x0D) then
            { x with park := { x.park with active := false, replay := false } } else x
        let g := { g with
          trec := trec, trapSlot := t.slot, cstat := g.frstat,
          k0 := quiet g.s0 (t.slot = 0), k1 := quiet g.s1 (t.slot = 1),
          c0 := (quiet g.s0 (t.slot = 0)).shown, c1 := (quiet g.s1 (t.slot = 1)).shown,
          s0 := { Slot.empty with mask := t.run, pc := sv + BitVec.ofNat 64 (0x100 * t.cause), since := s.clock },
          s1 := Slot.empty, spill := if g.fpark.isSome then g.spill else [], rotc := 0, pass := 0, pslot := 0,
          turn := 64 ≤ g.rotc && t.rpc != t.cpc, sup := true, entryMask := t.run, fmask := t.run, region := [], clause := none }
        s.setGroup gid g

/-- The state after a trap that a change of the groups has prepared: where the trap must be tried again, the groups are as they were before. -/
def orRetry (before prepared after : State) : State :=
  if after.groups = prepared.groups then { after with groups := before.groups } else after

/-- R198, R201: a trap taken precisely at the instruction at hand, by its fragment, resuming at the clause. -/
def trapHere (s : State) (gid : Nat) (g : Group) (c : Clause) (cause reason : Nat) (info : Word) (tmask : DWord) : State :=
  takeTrap s gid { cause := cause, reason := reason, info := info, tmask := tmask, cpc := c.pc, ipc := c.ipc, idx := c.idx,
                   rpc := c.pc, slot := c.slot, run := (g.slot c.slot).mask, abandon := false, issues := true }

/-- R201: a trap that concerns the whole fragment. -/
def trapFrag (s : State) (gid : Nat) (g : Group) (c : Clause) (cause : Nat) : State :=
  trapHere s gid g c cause 0 0 g.fmask

/-- R206: the fragment parks at the instruction at hand, which has issued, with its unfinished lanes. The results that it waits for are written; the other fragment may become eligible. -/
def park (s : State) (gid : Nat) (g : Group) (c : Clause) (mask : DWord) (seq : Word) : State :=
  let before := s
  let g := g.flush
  let x := g.slot c.slot
  let p : Park := { active := true, mask := mask, pc := c.pc, idx := BitVec.ofNat 32 c.idx, seq := seq, ipc := c.ipc,
                    replay := false }
  refreshAge ((restartProgress s (coreOfGid gid)).setGroup gid { g.setSlot c.slot { x with park := p } with clause := none }) before gid

/-- R190: the wait was begun by the instruction at hand, which waits so; a restored wait names no instruction, and the first of its kind and target continues it. -/
def Wait.mine (w : Wait) (c : Clause) (kind target : Nat) : Bool :=
  w.kind == kind && (w.ipc == c.ipc || (w.ipc == 0 && w.target == target))

/-- R190: the wait that the instruction at hand has begun, when its clause executes again. -/
def waitOf (g : Group) (c : Clause) (kind target : Nat) : Wait :=
  (((g.slot c.slot).wait :: (g.slot c.slot).past).find? (fun w => w.mine c kind target)).getD .none

/-- The wait of the instruction at hand is over. -/
def clearWait (g : Group) (c : Clause) (kind target : Nat) : Group :=
  let x := g.slot c.slot
  g.setSlot c.slot { x with wait := if x.wait.mine c kind target then .none else x.wait,
                            past := x.past.filter (fun w => !w.mine c kind target) }

/-- R190: records the wait of the instruction at hand beside those of the other instructions of its clause. -/
def setWait (g : Group) (c : Clause) (w : Wait) : Group :=
  let x := g.slot c.slot
  let rest := (x.wait :: x.past).filter (fun y => y.kind != 0 && y.ipc != c.ipc && !y.mine c w.kind w.target)
  g.setSlot c.slot { x with wait := { w with ipc := c.ipc, idx := c.idx }, past := rest }

/-- R190, R359: records what became of the wait of the instruction at hand, for the clause's next executions. -/
def pastWait (g : Group) (c : Clause) (w : Wait) : Group :=
  let g := clearWait g c w.kind w.target
  let x := g.slot c.slot
  g.setSlot c.slot { x with past := { w with ipc := c.ipc, idx := c.idx, ended := true } :: x.past }

/-- R190: the instruction at hand waits: its fragment is blocked, its issue slot is free, and its clause will execute again. -/
def block (s : State) (gid : Nat) (g : Group) (c : Clause) (w : Wait) : State :=
  let s := restartProgress s (coreOfGid gid)
  s.setGroup gid { setWait g c { w with ended := false } with clause := none }

/-! ## Returning from a handler (R397) -/

/-- R397: what the frontier area holds: the entries of the given addresses as the group's loads see them; none while one must be waited for. -/
def frontierRead (s : State) (gid : Nat) (g : Group) (addrs : List GAddr) : Option (List Frag) × State :=
  addrs.foldl (fun acc a => match acc with
    | (none, s) => (none, s)
    | (some l, s) => match loadLane s gid g a 16 false with
      | (.bytes bs, s) => (some (l ++ [(BitVec.ofNat 64 (leNat (bs.take 8)), BitVec.ofNat 64 (leNat (bs.drop 8)))]), s)
      | (.wait, s) => (none, s)) (some [], s)

/-- R172: fields of FRSTAT. -/
def statRotc (x : Word) : Nat := fieldNat x 0 6
def statSpill (x : Word) : Nat := fieldNat x 6 6
def statPass (x : Word) : Nat := fieldNat x 12 5
def statPslot (x : Word) : Nat := fieldNat x 17 1

/-- R397: the masks are disjoint, nonzero where used, and join to LMASK; PCs are 56 bits; NSPILL, FRSTAT and WAITST are in range. -/
def sretOk (g : Group) (sp : List Frag) : Bool :=
  let ms := (if g.c0.mask = 0 then [] else [g.c0.mask]) ++ (if g.c1.mask = 0 then [] else [g.c1.mask]) ++ sp.map (·.1)
  let disjoint := ms.foldl (fun acc m => match acc with
    | none => none
    | some u => if u &&& m = 0 then some (u ||| m) else none) (some (0 : DWord))
  disjoint == some g.lmask && sp.all (fun f => f.1 != 0 && fieldNat f.2 56 8 == 0) &&
    fieldNat g.c0.pc 56 8 == 0 && fieldNat g.c1.pc 56 8 == 0 && statSpill g.cstat ≤ 62 && fieldNat g.cstat 18 14 == 0 &&
    g.c0.wait.code ≤ 6 && g.c1.wait.code ≤ 6

/-- R359: what is left of the deadline of a restored wait: one that has expired stays so, and a wait without one has none. -/
def restoredDeadline (kept written : Option Nat) : Option Nat :=
  match kept with
  | none => none
  | some 0 => some 0
  | some d => some (written.getD d)

/-- R208, R366: the live slot that the RESTORE entry leaves, with what the core kept of the saved one: the captured payload and the instruction of a wait, the waits of the other instructions of its clause, the generators that the clause started from, and a resolution made before the save. A restored wait executes its clause again and waits on. -/
def restoredSlot (kept x : Slot) : Slot :=
  let w := if kept.wait.code = x.wait.code && (x.wait.code = 0 || (kept.wait.target = x.wait.target &&
        (kept.wait.ticket = x.wait.ticket || kept.wait.kind < 4 || kept.wait.kind = 6))) then
      { kept.wait with deadline := restoredDeadline kept.wait.deadline x.wait.deadline } else x.wait
  let same := kept.mask != 0 && kept.pc = x.pc
  { x with
    wait := if w.kind = 0 then .none else { w with ended := true }, past := if same then kept.past else [],
    rng := if same then kept.rng else [], first := if same then kept.first else none,
    park := { x.park with active := x.park.mask != 0,
                          replay := x.park.mask != 0 && kept.park.active && kept.park.replay && kept.park.seq = x.park.seq } }

/-- R397, R208: the fragment state that a handler leaves becomes live. After RESTORE the written wait and parking state applies. -/
def reinstate (g : Group) (sp : List Frag) (clock : Nat) : Group :=
  let restore := g.tcause = 0x11
  let fix (k : Nat) (x : Slot) : Slot :=
    let x := if restore then x
      else
        -- a fragment that the handler sends elsewhere starts a clause there; one at its own clause goes on with it
        let pc := if k = g.trapSlot && x.mask != 0 then g.rpc else x.pc
        if pc = (g.kslot k).pc then { g.kslot k with mask := x.mask, pc := pc } else { Slot.empty with mask := x.mask, pc := pc }
    let x := if x.mask = 0 then Slot.empty else if restore then restoredSlot (g.kept.getD k .empty) x else x
    { x with since := clock }
  { g with k0 := .empty, k1 := .empty, s0 := fix 0 g.c0, s1 := fix 1 g.c1, spill := sp,
           rotc := if g.turn && !restore then 64 else statRotc g.cstat, pass := statPass g.cstat,
           pslot := statPslot g.cstat, turn := false, sup := false, kept := [], clause := none }

/-- R169, R171: the handler's fragment that resumes elsewhere than at the clause it left stands at a clause boundary: it fuses with what stands there, and the rotation that its clause owes takes place. -/
def resumeBoundary (before g : Group) (clock : Nat) : Group :=
  let k := before.trapSlot
  let x := g.slot k
  if before.tcause = 0x11 || x.mask = 0 || x.held || x.pc = (before.kslot k).pc then g
  else g.boundary k clock [(x.mask, x.pc)]

end Sys2Proof.Machine
end

