-- ==== Sys2Proof/Machine/Operands.lean ====
section
/-! DEFINITION. Operand forms: reading and writing operands by code, the traps operands raise, and the skeletons of the vector, predicate and scalar instructions (11_isa_conventions R248-R251; 04_on_chip_hierarchy R92, R94; 07_execution_model R175; 13_isa_integer R271-R273; 15_isa_data_group_control R315, R316). -/

namespace Sys2Proof.Machine

/-! ## Operands that are checked before an instruction has any effect -/

/-- An operand as its form names it. -/
inductive Opd where
  /-- A vector source, 32 bits or a pair. -/
  | vs (w64 : Bool) (code : BitVec 8)
  /-- A vector destination. -/
  | vd (w64 nw : Bool) (code : BitVec 8)
  /-- A plain run of n registers. -/
  | run (n : Nat) (code : BitVec 8)
  /-- A scalar source. -/
  | ss (w64 : Bool) (code : BitVec 8)
  /-- A scalar destination. -/
  | sd (w64 : Bool) (code : BitVec 8)
  deriving DecidableEq, Repr

/-- R94: the latch that `code` reads is one that an earlier instruction of the clause filled. -/
def latchOk (c : Clause) (code : BitVec 8) : Bool :=
  match c.lats[code.toNat - 0xF0]? with
  | some (some _) => true
  | _ => false

/-- R94, R204, R217: the operand raises ILLINSTR here. -/
def Opd.ill (g : Group) (c : Clause) : Opd → Bool
  | .vs _ code => 0xF0 ≤ code.toNat && code.toNat ≤ 0xF3 && !latchOk c code
  | .ss _ code | .sd _ code => 0x40 ≤ code.toNat && code.toNat ≤ 0x4F && !g.sup
  | _ => false

/-- R251: the register that v[xN] names in a lane, and whether it is in bounds for an operand of `n` registers. -/
def xReg (g : Group) (lane : Nat) (code : BitVec 8) : Nat :=
  let x := g.x lane (code.toNat - 0xF6)
  fieldNat x 0 8 + fieldNat x 16 8
/-- R251: the index is below the limit, the registers lie below the declared count, and a pair starts even. -/
def xOk (g : Group) (lane : Nat) (code : BitVec 8) (w64 : Bool) : Bool :=
  let x := g.x lane (code.toNat - 0xF6)
  fieldNat x 16 8 < fieldNat x 8 8 && xReg g lane code + (if w64 then 1 else 0) < g.regs &&
    !(w64 && xReg g lane code % 2 == 1)

/-- R92, R251: whether a vector operand of `n` registers lies out of bounds, and in which of the active lanes. -/
def vecBounds (g : Group) (act : DWord) (w64 : Bool) (code : BitVec 8) : Option DWord :=
  if code.toNat ≤ 0xEF then
    if code.toNat + (if w64 then 2 else 1) ≤ g.regs then none else some act
  else if 0xF6 ≤ code.toNat && code.toNat ≤ 0xF9 then
    let bad := maskOf ((lanesOf act).filter (fun i => !xOk g i code w64))
    if bad = 0 then none else some bad
  else none

/-- R92, R251: the lanes for which an operand raises REGBOUNDS. A vN or a run at or above the declared count raises it whatever lanes are active, a v[xN] in the active lanes whose index is out of bounds. -/
def Opd.bounds (g : Group) (act : DWord) (o : Opd) : Option DWord :=
  match o with
  | .vs w64 code => vecBounds g act w64 code
  | .vd w64 nw code => if nw then none else vecBounds g act w64 code
  | .run n code => if code.toNat + n ≤ g.regs then none else some act
  | _ => none

/-- R175: the split register that a scalar source reads in user mode. -/
def Opd.split (g : Group) : Opd → Option Nat
  | .ss w64 code =>
    if g.sup || 0x40 ≤ code.toNat then none
    else if g.ssplit.getLsbD code.toNat then some code.toNat
    else if w64 && g.ssplit.getLsbD (code.toNat + 1) then some (code.toNat + 1)
    else none
  | _ => none

/-- A trap an operand raises: cause, reason, INFO, TMASK. -/
structure OpTrap where
  cause  : Nat
  reason : Nat
  info   : Word
  tmask  : DWord
  deriving DecidableEq, Repr

/-- The first ILLINSTR of a list of operands. -/
def illOf (g : Group) (c : Clause) (os : List Opd) : Option OpTrap :=
  if os.any (fun o => o.ill g c) then some ⟨0x02, 0, 0, g.fmask⟩ else none
/-- The REGBOUNDS of a list of operands, with every offending lane. -/
def boundsOf (g : Group) (act : DWord) (os : List Opd) : Option OpTrap :=
  match os.filterMap (fun o => o.bounds g act) with
  | [] => none
  | ms => some ⟨0x04, 0, 0, ms.foldl (· ||| ·) 0⟩
/-- The CONVERGE of the first split scalar source; an instruction without active lanes reads none (R248, R315; DEDUCED, log entry 17). -/
def splitOf (g : Group) (act : DWord) (os : List Opd) : Option OpTrap :=
  if act = 0 then none
  else match os.filterMap (fun o => o.split g) with
    | [] => none
    | n :: _ => some ⟨0x03, 1, BitVec.ofNat 32 n, g.fmask⟩

/-- The first trap of a list of operands in the order ILLINSTR, REGBOUNDS, CONVERGE (R273, R294, R316, R344). -/
def opTrap (g : Group) (c : Clause) (act : DWord) (os : List Opd) : Option OpTrap :=
  match illOf g c os with
  | some t => some t
  | none => match boundsOf g act os with
    | some t => some t
    | none => splitOf g act os

/-- Takes the trap of an operand at the instruction at hand. -/
def opTrapHere (s : State) (gid : Nat) (g : Group) (c : Clause) (t : OpTrap) : Out :=
  .next (trapHere s gid g c t.cause t.reason t.info t.tmask)

/-- R273, R294, R316: runs `k` for the issuing group when no operand traps. -/
def checked (s : State) (act : Group → Clause → DWord) (os : List Opd) (k : Nat → Group → Clause → Out) : Out :=
  withClause s (fun gid g c => match opTrap g c (act g c) os with
    | some t => opTrapHere s gid g c t
    | none => k gid g c)

/-! ## Values -/

/-- R249, R94: a vector operand of a lane; a 32-bit operand is the low half. -/
def vec (g : Group) (c : Clause) (lane : Nat) (w64 : Bool) (code : BitVec 8) : DWord :=
  let n := code.toNat
  let reg (r : Nat) : DWord := if w64 then g.v64 lane r else (g.v lane r).setWidth 64
  if n ≤ 0xEF then reg n
  else if n ≤ 0xF3 then
    match c.lats[n - 0xF0]? with
    | some (some m) => let x := SMap.get 0 m lane; if w64 then x else (field x 0 32 : Word).setWidth 64
    | _ => 0
  else if n = 0xF5 then BitVec.ofNat 64 lane
  else if 0xF6 ≤ n && n ≤ 0xF9 then reg (xReg g lane code)
  else 0
/-- A 32-bit vector operand. -/
def vec32 (g : Group) (c : Clause) (lane : Nat) (code : BitVec 8) : Word := field (vec g c lane false code) 0 32

/-- R249: a scalar operand. -/
def sca (g : Group) (w64 : Bool) (code : BitVec 8) : DWord :=
  let n := code.toNat
  if n = 0xF4 then 0
  else if w64 then g.s (n + 1) ++ g.s n else (g.s n).setWidth 64
/-- A 32-bit scalar operand. -/
def sca32 (g : Group) (code : BitVec 8) : Word := field (sca g false code) 0 32

/-- R247, R271: the immediate of LI, sign-extended. -/
def immS (o : Ops) : DWord := o.imm24.signExtend 64

/-- R247, R271: the immediate as a 32-bit or a 64-bit operand. -/
def immW (o : Ops) (w64 : Bool) : DWord := if w64 then immS o else (o.imm24.signExtend 32).setWidth 64

/-- R247, R249: a vector source of a long form: code 0xFF reads the immediate in LI. -/
def src (g : Group) (c : Clause) (o : Ops) (lane : Nat) (w64 : Bool) (code : BitVec 8) : DWord :=
  if o.li && code == 0xFF then immW o w64 else vec g c lane w64 code
/-- R247, R249: a scalar source of sld and sst, whose code 0xFF reads the immediate. -/
def scaSrc (g : Group) (o : Ops) (w64 : Bool) (code : BitVec 8) : DWord :=
  if o.li && code == 0xFF then immW o w64 else sca g w64 code

/-- R252: the immediate of an LI form that names a counter: imm24[20:0], sign-extended. -/
def immC (o : Ops) (w64 : Bool) : DWord :=
  let x : BitVec 21 := field o.w1 8 21
  if w64 then x.signExtend 64 else (x.signExtend 32).setWidth 64
/-- R252, R342: the base address of a memory form: a long vector operand, or, in the form of a scalar access, a scalar one. `ctr`: the form names a counter. -/
def baseOf (o : Ops) (ctr : Bool) (w64 : Bool) (code : BitVec 8) (read : DWord) : DWord :=
  if o.li && code == 0xFF then (if ctr then immC o w64 else immW o w64) else read

/-- R252: an instruction that would take its counter beyond 63 stalls at issue; with no active lane it names none. -/
def counted (s : State) (o : Ops) (k : Out) : Out :=
  withClause s (fun _ g c => if active g c o ≠ 0 && g.full o.ctr then .next s else k)

/-- R271 (Bop): operand B of a lane. -/
def bop (g : Group) (c : Clause) (o : Ops) (lane : Nat) (w64 : Bool) : DWord :=
  if o.li then immW o w64
  else if o.sB then sca g w64 o.b
  else vec g c lane w64 o.b
/-- R271: operand B as it is checked. -/
def bopd (o : Ops) (w64 : Bool) : List Opd := if o.li then [] else if o.sB then [.ss w64 o.b] else [.vs w64 o.b]

/-- R249, R251: writes a lane's vector destination. -/
def writeVec (g : Group) (lane : Nat) (w64 : Bool) (code : BitVec 8) (x : DWord) : Group :=
  let r := if code.toNat ≤ 0xEF then code.toNat else xReg g lane code
  if w64 then g.setV64 lane r x else g.setV lane r (field x 0 32)

/-- R94: the destination's value in a lane where the producer was suppressed; a free value where v[xN] names no register there (DESIGN CHOICE, log entry 10). -/
def keptLatch (clock : Nat) (g : Group) (lane : Nat) (w64 nw : Bool) (code : BitVec 8) : DWord :=
  if nw then 0
  else if 0xEF < code.toNat && !xOk g lane code w64 then Config.latchFree clock lane
  else
    let r := if code.toNat ≤ 0xEF then code.toNat else xReg g lane code
    if w64 then g.v64 lane r else (g.v lane r).setWidth 64

/-- R94: the latch of an instruction: each lane of the fragment, its result or what the destination holds. -/
def latchOf (clock : Nat) (g : Group) (w64 nw : Bool) (code : BitVec 8) (res : SMap DWord) : SMap DWord :=
  (lanesOf g.fmask).map (fun i => (i, match SMap.find? res i with
    | some x => x
    | none => keptLatch clock g i w64 nw code))

/-! ## Skeletons -/

/-- R248, R272, R94, R237: writes a vector result in the active lanes (only to the latches under NW), ORs flags, and retires. -/
def finishVec (s : State) (gid : Nat) (g : Group) (c : Clause) (w64 nw : Bool) (d : BitVec 8) (res : SMap DWord) (fl : Word) :
    Out :=
  let lat := latchOf s.clock g w64 nw d res
  let g' := if nw then g else res.foldl (fun g e => writeVec g e.1 w64 d e.2) g
  .next (retire s gid { g' with fpcsr := g'.fpcsr ||| fl } c (some lat))

/-- A vector instruction with a lane function: operands checked, each active lane's result and flags computed from the state before, results written. -/
def vecOp (s : State) (act : Group → Clause → DWord) (os : List Opd) (w64 nw : Bool) (d : BitVec 8)
    (f : Group → Clause → Nat → DWord × Word) : Out :=
  checked s act (.vd w64 nw d :: os) (fun gid g c =>
    let rs := (lanesOf (act g c)).map (fun i => (i, f g c i))
    finishVec s gid g c w64 nw d (rs.map (fun e => (e.1, e.2.1))) (rs.foldl (fun fl e => fl ||| e.2.2) 0))

/-- An instruction whose result is a predicate: written in the active lanes; no vector result (R94). -/
def predOp (s : State) (act : Group → Clause → DWord) (os : List Opd) (pd : Nat)
    (f : Group → Clause → Nat → Bool × Word) : Out :=
  checked s act os (fun gid g c =>
    let rs := (lanesOf (act g c)).map (fun i => (i, f g c i))
    let bits := maskOf ((rs.filter (fun e => e.2.1)).map (·.1))
    let g' := g.setP pd (act g c) bits
    .next (retire s gid { g' with fpcsr := g'.fpcsr ||| rs.foldl (fun fl e => fl ||| e.2.2) 0 } c none))

/-- R315: an instruction performed once for the group, when active is not empty; `f` gives the group after it. -/
def onceOp (s : State) (act : Group → Clause → DWord) (os : List Opd) (f : Group → Clause → Group) : Out :=
  checked s act os (fun gid g c =>
    .next (retire s gid (if act g c = 0 then g else f g c) c none))

/-- R315, R175: an instruction with a scalar result. -/
def scaOp (s : State) (o : Ops) (os : List Opd) (w64 : Bool) (f : Group → Clause → DWord) : Out :=
  onceOp s (fun g c => active g c o) (.sd w64 o.d :: os) (fun g c =>
    if w64 then g.setS64 o.d.toNat (f g c) else g.setS o.d.toNat (field (f g c) 0 32))

/-- R245: the lanes of a short instruction: no guard. -/
def shortAct (g : Group) (c : Clause) : DWord := c.lanes g

end Sys2Proof.Machine
end

