-- ==== Sys2Proof/Machine/Int.lean ====
section
/-! DEFINITION. Integer and logic instructions (13_isa_integer R269-R288). Each operation is a function of one lane's operand values; a 32-bit value stands zero-extended in 64 bits. The meanings differ only in that function and in their operands. -/

namespace Sys2Proof.Machine

open Form

/-! ## Values in a type -/

/-- R260: the width of a type or operand. -/
def wid (w64 : Bool) : Nat := if w64 then 64 else 32
/-- R260: the integer that the low bits of an operand stand for, signed or unsigned. -/
def asInt (w64 signed : Bool) (x : DWord) : Int :=
  if w64 then (if signed then x.toInt else x.toNat)
  else (if signed then (field x 0 32 : Word).toInt else (field x 0 32 : Word).toNat)
/-- R260: a value of a type code: T 0 and T 2 are signed. -/
def tInt (t : Nat) (x : DWord) : Int := asInt (t64 t) (t % 2 == 0) x
/-- R257: an integer modulo 2^w. -/
def wrap (w64 : Bool) (n : Int) : DWord := if w64 then BitVec.ofInt 64 n else (BitVec.ofInt 32 n).setWidth 64
/-- R257 (SatS, SatU): clamps to the range of 32 bits. -/
def sat32 (signed : Bool) (n : Int) : Int :=
  if signed then max (-2147483648) (min 2147483647 n) else max 0 (min 4294967295 n)

/-! ## Lane functions -/

/-- R275: a + b. -/
def fnAdd (w64 : Bool) (a b : DWord) : DWord := wrap w64 (asInt w64 false a + asInt w64 false b)
/-- R275: a − b. -/
def fnSub (w64 : Bool) (a b : DWord) : DWord := wrap w64 (asInt w64 false a - asInt w64 false b)
/-- R275: 0 − a. -/
def fnNeg (w64 : Bool) (a : DWord) : DWord := wrap w64 (0 - asInt w64 false a)
/-- R277: the saturated sum. -/
def fnAdds (t : Nat) (a b : DWord) : DWord := wrap false (sat32 (t == 0) (tInt t a + tInt t b))
/-- R277: the saturated difference. -/
def fnSubs (t : Nat) (a b : DWord) : DWord := wrap false (sat32 (t == 0) (tInt t a - tInt t b))
/-- R278: |a|. -/
def fnAbs (w64 : Bool) (a : DWord) : DWord := wrap w64 (asInt w64 true a).natAbs
/-- R279: the smaller value in the type. -/
def fnMin (t : Nat) (a b : DWord) : DWord := if tInt t b < tInt t a then wrap (t64 t) (tInt t b) else wrap (t64 t) (tInt t a)
/-- R279: the larger value in the type. -/
def fnMax (t : Nat) (a b : DWord) : DWord := if tInt t a < tInt t b then wrap (t64 t) (tInt t b) else wrap (t64 t) (tInt t a)
/-- R280: a × b. -/
def fnMul (w64 : Bool) (a b : DWord) : DWord := wrap w64 (asInt w64 false a * asInt w64 false b)
/-- R280: the high half of the exact product. -/
def fnMulh (t : Nat) (a b : DWord) : DWord := wrap (t64 t) ((tInt t a * tInt t b) / (2 ^ wid (t64 t) : Nat))
/-- R280: a × b + c. -/
def fnMad (w64 : Bool) (a b c : DWord) : DWord := wrap w64 (asInt w64 false a * asInt w64 false b + asInt w64 false c)
/-- R280: a × b of 32 bits in the type, plus 64-bit c. -/
def fnMadw (t : Nat) (a b c : DWord) : DWord := wrap true (tInt t a * tInt t b + asInt true false c)
/-- R281: a + (b << shift). -/
def fnLea (zext : Bool) (sh : Nat) (a b : DWord) : DWord := wrap true (asInt true false a + asInt false (!zext) b * (2 ^ sh : Nat))
/-- R282: a << n. -/
def fnShl (w64 : Bool) (a : DWord) (n : Nat) : DWord :=
  if wid w64 ≤ n then 0 else wrap w64 (asInt w64 false a * (2 ^ n : Nat))
/-- R282: a >> n, logical. -/
def fnShr (w64 : Bool) (a : DWord) (n : Nat) : DWord :=
  if wid w64 ≤ n then 0 else wrap w64 (asInt w64 false a / (2 ^ n : Nat))
/-- R282: a >> n, arithmetic. -/
def fnSra (w64 : Bool) (a : DWord) (n : Nat) : DWord := wrap w64 (asInt w64 true a / (2 ^ min n (wid w64 - 1) : Nat))
/-- R283: a rotated left by n modulo 32. -/
def fnRotl (a : DWord) (n : Nat) : DWord :=
  let x := (field a 0 32 : Word).toNat * 2 ^ (n % 32)
  BitVec.ofNat 64 (x % 2 ^ 32 + x / 2 ^ 32)
/-- R283: a × 2^32 + b. -/
def funnel (a b : DWord) : Nat := (field a 0 32 : Word).toNat * 2 ^ 32 + (field b 0 32 : Word).toNat
/-- R283: the high word of the funnel shifted left. -/
def fnFshl (a b : DWord) (n : Nat) : DWord := BitVec.ofNat 64 (funnel a b * 2 ^ (n % 32) / 2 ^ 32 % 2 ^ 32)
/-- R283: the low word of the funnel shifted right. -/
def fnFshr (a b : DWord) (n : Nat) : DWord := BitVec.ofNat 64 (funnel a b / 2 ^ (n % 32) % 2 ^ 32)
/-- The low 32 or 64 bits. -/
def lowBits (w64 : Bool) (x : DWord) : DWord := if w64 then x else (field x 0 32 : Word).setWidth 64
/-- R284: bitwise AND, OR, XOR, AND NOT, OR NOT. -/
def fnAnd (w64 : Bool) (a b : DWord) : DWord := lowBits w64 (a &&& b)
def fnOr (w64 : Bool) (a b : DWord) : DWord := lowBits w64 (a ||| b)
def fnXor (w64 : Bool) (a b : DWord) : DWord := lowBits w64 (a ^^^ b)
def fnAndn (w64 : Bool) (a b : DWord) : DWord := lowBits w64 (a &&& ~~~b)
def fnOrn (w64 : Bool) (a b : DWord) : DWord := lowBits w64 (a ||| ~~~b)
/-- R265, R285: the conditions eq, ne, lt, le, gt, ge. -/
def condInt (cond : Nat) (a b : Int) : Bool :=
  if cond = 0 then a == b
  else if cond = 1 then a != b
  else if cond = 2 then decide (a < b)
  else if cond = 3 then decide (a ≤ b)
  else if cond = 4 then decide (b < a)
  else decide (b ≤ a)
/-- R286: the extracted field. -/
def fnBfe (signed : Bool) (a : DWord) (pos len : Nat) : DWord :=
  let l := min len 32
  let f : Int := (asInt false signed a / (2 ^ pos : Nat)) % (2 ^ l : Nat)
  if l = 0 then 0
  else wrap false (if signed && (2 ^ (l - 1) : Nat) ≤ f then f - (2 ^ l : Nat) else f)
/-- R286: the inserted field. -/
def fnBfi (a base : DWord) (pos len : Nat) : DWord :=
  let l := min len 32
  let m : Nat := (2 ^ l - 1) * 2 ^ pos % 2 ^ 32
  let x : Nat := (field a 0 32 : Word).toNat * 2 ^ pos % 2 ^ 32
  BitVec.ofNat 64 (((field base 0 32 : Word) &&& ~~~(BitVec.ofNat 32 m)) ||| (BitVec.ofNat 32 x &&& BitVec.ofNat 32 m)).toNat
/-- R287: the number of 1 bits. -/
def fnPopc (w64 : Bool) (a : DWord) : DWord :=
  BitVec.ofNat 64 (((List.range (wid w64)).filter (fun i => a.getLsbD i)).length)
/-- R287: the number of 0 bits above the highest 1 bit. -/
def fnClz (w64 : Bool) (a : DWord) : DWord :=
  let x := asInt w64 false a
  BitVec.ofNat 64 (if x = 0 then wid w64 else wid w64 - 1 - Nat.log2 x.toNat)
/-- R287: the bits in reverse order. -/
def fnBrev (w64 : Bool) (a : DWord) : DWord :=
  (List.range (wid w64)).foldl (fun r i => if a.getLsbD (wid w64 - 1 - i) then r ||| BitVec.twoPow 64 i else r) 0
/-- R288: the bits of a byte in reverse order. -/
def revByte (x : Byte) : Byte :=
  (List.range 8).foldl (fun r j => if x.getLsbD (7 - j) then r ||| BitVec.twoPow 8 j else r) 0
/-- R288: one result byte from its control. -/
def mixByte (a b : Word) (q : Nat) : Byte :=
  if q / 8 % 2 = 1 then 0
  else
    let x : Byte := field (b ++ a) (8 * (q % 8)) 8
    let x := if q / 16 % 2 = 1 then revByte x else x
    if q / 32 % 2 = 1 then ~~~x else x
/-- R288: bytes 0-3 of a are source bytes 0-3, those of b 4-7. -/
def fnBmix (a b : Word) (q : Nat → Nat) : DWord :=
  BitVec.ofNat 64 (leNat ((List.range 4).map (fun k => mixByte a b (q k))))

/-! ## Shared forms -/

/-- R272: a vector instruction without flags: checks the sources, computes each active lane, writes. -/
def intOp (s : State) (o : Ops) (src : List Opd) (w64 : Bool) (f : Group → Clause → Nat → DWord) : Out :=
  vecOp s (fun g c => active g c o) src w64 o.nw o.d (fun g c i => (f g c i, 0))

/-- R271, R272: a form of two operands a and Bop of one width. -/
def intOp2 (s : State) (o : Ops) (w64 : Bool) (f : DWord → DWord → DWord) : Out :=
  intOp s o (.vs w64 o.a :: bopd o w64) w64 (fun g c i => f (src g c o i w64 o.a) (bop g c o i w64))

/-- R274: a short form of two vector operands. -/
def shortOp2 (s : State) (o : SOps) (f : DWord → DWord → DWord) : Out :=
  vecOp s shortAct [.vs false o.a, .vs false o.b] false o.nw o.d
    (fun g c i => (f (vec g c i false o.a) (vec g c i false o.b), 0))

/-- R274: a short form of one vector operand; a literal B belongs to the function. -/
def shortOp1 (s : State) (o : SOps) (f : DWord → DWord) : Out :=
  vecOp s shortAct [.vs false o.a] false o.nw o.d (fun g c i => (f (vec g c i false o.a), 0))

/-- R274: the sign-extended literal of op6 0x11. -/
def imm8S (o : SOps) : DWord := (o.b.signExtend 32).setWidth 64

/-- R276: the carry forms: `f` gives the result and the carry-out; the carry-out is written whatever NW is. -/
def carryOp (s : State) (o : Ops) (f : Nat → Nat → Bool → Int × Bool) : Out :=
  checked s (fun g c => active g c o) ([.vd false o.nw o.d, .vs false o.a] ++ bopd o false) (fun gid g c =>
    let rs := (lanesOf (active g c o)).map (fun i =>
      (i, f (vec g c i false o.a).toNat (bop g c o i false).toNat ((g.p o.c.toNat).getLsbD i)))
    let out := maskOf ((rs.filter (fun e => e.2.2)).map (·.1))
    finishVec s gid (g.setP o.e.toNat (active g c o) out) c false o.nw o.d (rs.map (fun e => (e.1, wrap false e.2.1))) 0)

/-! ## Short forms (R274) -/

/-- IADD_SHORT, R274, R275. -/
def execIaddShort (o : SOps) (s : State) : Out := shortOp2 s o (fnAdd false)
/-- ISUB_SHORT, R274, R275. -/
def execIsubShort (o : SOps) (s : State) : Out := shortOp2 s o (fnSub false)
/-- IMUL_SHORT, R274, R280. -/
def execImulShort (o : SOps) (s : State) : Out := shortOp2 s o (fnMul false)
/-- IMULH_SHORT, R274, R280. -/
def execImulhShort (o : SOps) (s : State) : Out := shortOp2 s o (fnMulh 0)
/-- IMIN_SHORT, R274, R279. -/
def execIminShort (o : SOps) (s : State) : Out := shortOp2 s o (fnMin 0)
/-- IMAX_SHORT, R274, R279. -/
def execImaxShort (o : SOps) (s : State) : Out := shortOp2 s o (fnMax 0)
/-- AND_SHORT, R274, R284. -/
def execAndShort (o : SOps) (s : State) : Out := shortOp2 s o (fnAnd false)
/-- OR_SHORT, R274, R284. -/
def execOrShort (o : SOps) (s : State) : Out := shortOp2 s o (fnOr false)
/-- XOR_SHORT, R274, R284. -/
def execXorShort (o : SOps) (s : State) : Out := shortOp2 s o (fnXor false)
/-- ANDN_SHORT, R274, R284. -/
def execAndnShort (o : SOps) (s : State) : Out := shortOp2 s o (fnAndn false)
/-- SHL_SHORT, R274, R282. -/
def execShlShort (o : SOps) (s : State) : Out := shortOp2 s o (fun a b => fnShl false a b.toNat)
/-- SHR_SHORT, R274, R282. -/
def execShrShort (o : SOps) (s : State) : Out := shortOp2 s o (fun a b => fnShr false a b.toNat)
/-- SRA_SHORT, R274, R282. -/
def execSraShort (o : SOps) (s : State) : Out := shortOp2 s o (fun a b => fnSra false a b.toNat)
/-- POPC_SHORT, R274, R287. -/
def execPopcShort (o : SOps) (s : State) : Out := shortOp1 s o (fnPopc false)
/-- CLZ_SHORT, R274, R287. -/
def execClzShort (o : SOps) (s : State) : Out := shortOp1 s o (fnClz false)
/-- BREV_SHORT, R274, R287. -/
def execBrevShort (o : SOps) (s : State) : Out := shortOp1 s o (fnBrev false)
/-- IADD_IMM8_SHORT, R274, R275. -/
def execIaddImm8Short (o : SOps) (s : State) : Out := shortOp1 s o (fun a => fnAdd false a (imm8S o))
/-- SHL_IMM_SHORT, R274, R282. -/
def execShlImmShort (o : SOps) (s : State) : Out := shortOp1 s o (fun a => fnShl false a o.b.toNat)
/-- SHR_IMM_SHORT, R274, R282. -/
def execShrImmShort (o : SOps) (s : State) : Out := shortOp1 s o (fun a => fnShr false a o.b.toNat)
/-- SRA_IMM_SHORT, R274, R282. -/
def execSraImmShort (o : SOps) (s : State) : Out := shortOp1 s o (fun a => fnSra false a o.b.toNat)

/-! ## Long forms -/

/-- IADD, R275. -/
def execIadd (o : Ops) (s : State) : Out := intOp2 s o (t64 o.var) (fnAdd (t64 o.var))
/-- ISUB, R275. -/
def execIsub (o : Ops) (s : State) : Out := intOp2 s o (t64 o.var) (fnSub (t64 o.var))
/-- INEG, R275. -/
def execIneg (o : Ops) (s : State) : Out :=
  intOp s o [.vs (t64 o.var) o.a] (t64 o.var) (fun g c i => fnNeg (t64 o.var) (vec g c i (t64 o.var) o.a))
/-- IADDC, R276. -/
def execIaddc (o : Ops) (s : State) : Out :=
  carryOp s o (fun a b ci => let t : Int := (a : Int) + b + ci.toNat; (t, decide ((2 ^ 32 : Nat) ≤ t)))
/-- ISUBB, R276. -/
def execIsubb (o : Ops) (s : State) : Out :=
  carryOp s o (fun a b ci => let t : Int := (a : Int) - b - ci.toNat; (t, decide (t < 0)))
/-- IADDS, R277. -/
def execIadds (o : Ops) (s : State) : Out := intOp2 s o false (fnAdds o.var)
/-- ISUBS, R277. -/
def execIsubs (o : Ops) (s : State) : Out := intOp2 s o false (fnSubs o.var)
/-- IABS, R278. -/
def execIabs (o : Ops) (s : State) : Out :=
  intOp s o [.vs (t64 o.var) o.a] (t64 o.var) (fun g c i => fnAbs (t64 o.var) (vec g c i (t64 o.var) o.a))
/-- IMIN, R279. -/
def execImin (o : Ops) (s : State) : Out := intOp2 s o (t64 o.var) (fnMin o.var)
/-- IMAX, R279. -/
def execImax (o : Ops) (s : State) : Out := intOp2 s o (t64 o.var) (fnMax o.var)
/-- IMUL, R280. -/
def execImul (o : Ops) (s : State) : Out := intOp2 s o (t64 o.var) (fnMul (t64 o.var))
/-- IMULH, R280. -/
def execImulh (o : Ops) (s : State) : Out := intOp2 s o (t64 o.var) (fnMulh o.var)
/-- IMAD, R280. -/
def execImad (o : Ops) (s : State) : Out :=
  let w := t64 o.var
  intOp s o ([.vs w o.a] ++ bopd o w ++ [.vs w o.c]) w
    (fun g c i => fnMad w (vec g c i w o.a) (bop g c o i w) (vec g c i w o.c))
/-- IMADW, R280. -/
def execImadw (o : Ops) (s : State) : Out :=
  intOp s o ([.vs false o.a] ++ bopd o false ++ [.vs true o.c]) true
    (fun g c i => fnMadw o.var (vec g c i false o.a) (bop g c o i false) (vec g c i true o.c))
/-- ILEA, R281. -/
def execIlea (o : Ops) (s : State) : Out :=
  intOp s o ([.vs true o.a] ++ bopd o false) true (fun g c i =>
    let a := src g c o i true o.a
    if o.li then fnAdd true a (immS o) else fnLea (o.e.getLsbD 0) o.c.toNat a (bop g c o i false))
/-- ICMP, R285. -/
def execIcmp (o : Ops) (s : State) : Out :=
  let w := t64 o.var
  predOp s (fun g c => active g c o) ([.vs w o.a] ++ bopd o w) o.d.toNat
    (fun g c i => (condInt o.c.toNat (tInt o.var (vec g c i w o.a)) (tInt o.var (bop g c o i w)), 0))
/-- R285: the selecting predicate of isel. -/
def iselPred (o : Ops) : Nat := if o.li then fieldNat o.w1 27 5 else o.c.toNat
/-- R285: operand b of isel; the LI immediate has 19 bits. -/
def iselB (g : Group) (c : Clause) (o : Ops) (i : Nat) (w64 : Bool) : DWord :=
  if o.li then lowBits w64 ((field o.w1 8 19 : BitVec 19).signExtend 64) else bop g c o i w64
/-- ISEL, R285. -/
def execIsel (o : Ops) (s : State) : Out :=
  let w := t64 o.var
  intOp s o ([.vs w o.a] ++ bopd o w) w
    (fun g c i => if (g.p (iselPred o)).getLsbD i then (if o.li && o.a == 0xFF then iselB g c o i w else vec g c i w o.a)
      else iselB g c o i w)
/-- AND, R284. -/
def execLand (o : Ops) (s : State) : Out := intOp2 s o (t64 o.var) (fnAnd (t64 o.var))
/-- OR, R284. -/
def execLor (o : Ops) (s : State) : Out := intOp2 s o (t64 o.var) (fnOr (t64 o.var))
/-- XOR, R284. -/
def execLxor (o : Ops) (s : State) : Out := intOp2 s o (t64 o.var) (fnXor (t64 o.var))
/-- ANDN, R284. -/
def execLandn (o : Ops) (s : State) : Out := intOp2 s o (t64 o.var) (fnAndn (t64 o.var))
/-- ORN, R284. -/
def execLorn (o : Ops) (s : State) : Out := intOp2 s o (t64 o.var) (fnOrn (t64 o.var))
/-- R282: a shift: its count is 32 bits in every type. -/
def shiftOp (s : State) (o : Ops) (w64 : Bool) (f : DWord → Nat → DWord) : Out :=
  intOp s o ([.vs w64 o.a] ++ bopd o false) w64 (fun g c i => f (src g c o i w64 o.a) (bop g c o i false).toNat)
/-- SHL, R282. -/
def execShl (o : Ops) (s : State) : Out := shiftOp s o (t64 o.var) (fnShl (t64 o.var))
/-- SHR, R282. -/
def execShr (o : Ops) (s : State) : Out := shiftOp s o (t64 o.var) (fnShr (t64 o.var))
/-- SRA, R282. -/
def execSra (o : Ops) (s : State) : Out := shiftOp s o (t64 o.var) (fnSra (t64 o.var))
/-- ROTL, R283. -/
def execRotl (o : Ops) (s : State) : Out := shiftOp s o false fnRotl
/-- R283: a funnel shift, its count in C. -/
def funnelOp (s : State) (o : Ops) (f : DWord → DWord → Nat → DWord) : Out :=
  intOp s o ([.vs false o.a] ++ bopd o false ++ [.vs false o.c]) false
    (fun g c i => f (vec g c i false o.a) (bop g c o i false) (vec g c i false o.c).toNat)
/-- FSHL, R283. -/
def execFshl (o : Ops) (s : State) : Out := funnelOp s o fnFshl
/-- FSHR, R283. -/
def execFshr (o : Ops) (s : State) : Out := funnelOp s o fnFshr
/-- BFE, R286. -/
def execBfe (o : Ops) (s : State) : Out :=
  intOp s o (.vs false o.a :: if o.li then [] else [.vs false o.b, .vs false o.c]) false (fun g c i =>
    let pos := if o.li then fieldNat o.w1 8 8 else (vec g c i false o.b).toNat % 256
    let len := if o.li then fieldNat o.w1 16 8 else (vec g c i false o.c).toNat % 256
    fnBfe (o.var == 0) (src g c o i false o.a) pos len)
/-- BFI, R286. -/
def execBfi (o : Ops) (s : State) : Out :=
  intOp s o (.vs false o.a :: if o.li then [] else [.vs false o.b, .vs false o.c, .vs false o.e]) false (fun g c i =>
    let base := vec g c i false (if o.li then o.d else o.b)
    let pos := if o.li then fieldNat o.w1 8 8 else (vec g c i false o.c).toNat % 256
    let len := if o.li then fieldNat o.w1 16 8 else (vec g c i false o.e).toNat % 256
    fnBfi (src g c o i false o.a) base pos len)
/-- POPC, R287. -/
def execPopc (o : Ops) (s : State) : Out :=
  intOp s o [.vs (t64 o.var) o.a] false (fun g c i => fnPopc (t64 o.var) (vec g c i (t64 o.var) o.a))
/-- CLZ, R287. -/
def execClz (o : Ops) (s : State) : Out :=
  intOp s o [.vs (t64 o.var) o.a] false (fun g c i => fnClz (t64 o.var) (vec g c i (t64 o.var) o.a))
/-- BREV, R287. -/
def execBrev (o : Ops) (s : State) : Out :=
  intOp s o [.vs (t64 o.var) o.a] (t64 o.var) (fun g c i => fnBrev (t64 o.var) (vec g c i (t64 o.var) o.a))
/-- BMIX, R288. -/
def execBmix (o : Ops) (s : State) : Out :=
  intOp s o (.vs false o.a :: if o.li then [] else [.vs false o.b, .vs false o.c]) false (fun g c i =>
    let b : Word := if o.li then 0 else vec32 g c i o.b
    let q (k : Nat) : Nat := if o.li then fieldNat o.w1 (8 + 6 * k) 6 else fieldNat (vec32 g c i o.c) (8 * k) 6
    fnBmix (field (src g c o i false o.a) 0 32) b q)

end Sys2Proof.Machine
end

