-- ==== Sys2Proof/Machine/Mem.lean ====
section
/-! DEFINITION. Memory instructions: addresses, lane accesses and their faults, loads, stores, acquires, releases, atomics, reductions, fences, ldsh, pref, waddr, paddr and the scalar accesses (16_isa_memory_sync R341-R355; 01_address_spaces R33, R38; 05_consistency R112-R130). -/

namespace Sys2Proof.Machine

open Form

/-! ## Faults of lanes (R33, R38, R206) -/

/-- What one lane's fault records. -/
structure LaneFault where
  lane  : Nat
  cause : Nat
  va    : Nat
  win   : Bool
  level : Nat
  entry : DWord
  ftag  : BitVec 8
  ffmt  : BitVec 3
  /-- R32: bytes of the page: those of the matching leaf, 64 KiB where none matched. -/
  page  : Nat := 65536
  deriving DecidableEq, Repr

/-- R32, R38: one record for each distinct page and cause, in ascending order of the lowest lane, with that lane's address. -/
def faultRecs (gid : Nat) (g : Group) (akind : Nat) (pc : DWord) (seq : Word) : List LaneFault → List FaultRec → List FaultRec
  | [], acc => acc
  | f :: fs, acc =>
    let same (r : FaultRec) : Bool := r.cause = f.cause && r.va / f.page = f.va / f.page
    let acc :=
      if acc.any same then
        acc.map (fun r => if same r then { r with lanes := r.lanes ||| BitVec.twoPow 64 f.lane } else r)
      else acc ++ [{ cause := f.cause, akind := akind, level := f.level, straddle := false, sup := g.sup, win := f.win,
                     ctx := g.ctx, core := coreOfGid gid, va := f.va, pc := pc.toNat, lanes := BitVec.twoPow 64 f.lane,
                     entry := f.entry.toNat, ftag := f.ftag.toNat, ffmt := f.ffmt.toNat, slot := slotOfGid gid,
                     seq := seq.toNat }]
    faultRecs gid g akind pc seq fs acc

/-- R206: the group parks at the instruction at hand; `mask` is its unfinished mask. -/
def parkFaults (s : State) (gid : Nat) (g : Group) (c : Clause) (akind : Nat) (fs : List LaneFault) (mask : DWord) : State :=
  let (seq, s) := takeSeq s
  park (postFaults s (faultRecs gid g akind c.ipc seq fs [])) gid g c mask seq

/-- The lanes of a list of faults. -/
def faultMask (fs : List LaneFault) : DWord := maskOf (fs.map (·.lane))

/-! ## One lane's access -/

/-- Where a lane's access goes. -/
inductive Lane where
  | ok (a : GAddr)
  /-- It waits at its home, where it keeps its place (R69, R87). -/
  | turn
  /-- Its translation waits. -/
  | wait
  | fault (f : LaneFault)
  deriving DecidableEq, Repr

/-- R103: a load finds its line in the core's L1, or its bytes in the group's queue. -/
def l1Has (s : State) (core : Nat) (g : Group) (a : GAddr) (n : Nat) : Bool :=
  ((a.cp = 0 || a.cp = 2) && (SMap.find? (s.coreOf core).l1 (lineOf a.addr)).isSome) || fwdLoad g.sq a.place a.addr n != .clear

/-- What a lane access does with what the home says: a store waits at its home, and a load that the L1 serves needs no DRAM. -/
def laneVerdict (s : State) (core : Nat) (g : Group) (a : GAddr) (n : Nat) (acc : Acc) (whole : List (Nat × Nat)) : Verdict :=
  match homeCheck s a n whole with
  | .ok => .ok
  | .wait => if acc == .store || (acc == .load && l1Has s core g a n) then .ok else .wait
  | .fault cause tag fmt =>
    if cause = 0x0F && acc == .load && l1Has s core g a n && !s.lost.getLsbD (72 + s.homeStack a.addr) then .ok
    else .fault cause tag fmt

/-- R52, R113: the bytes of a block of `u` bytes that an instruction writes together without reading, at the frame-space address of one of its pointers; an atomic covers none, and a read writes none. -/
def lineWrites (u : Nat) (acc : Acc) (writes : List (Nat × Nat)) (ptr addr : Nat) : List (Nat × Nat) :=
  match acc with
  | .store => (writes.filter (fun w => w.1 / u = ptr / u)).map (fun w => (addr / u * u + w.1 % u, w.2))
  | .atomic => [(addr, 0)]
  | _ => []

/-- R161: the switch performs an access to a replica page. -/
def atSwitch (s : State) (ctx : Nat) (a : GAddr) (acc : Acc) : Bool :=
  a.rep.isSome && (acc == .atomic || acc == .store || !repLocal s ctx (a.rep.getD 0))

/-- R69, R87: a lane's access needs no turn at its home: a load that the L1 or the queue serves, a store, whose request follows when it leaves the queue, and what the switch performs. -/
def laneFree (s : State) (gid : Nat) (g : Group) (a : GAddr) (n : Nat) (acc : Acc) : Bool :=
  (acc == .load && l1Has s (coreOfGid gid) g a n) || acc == .store || a.place != .glob || atSwitch s g.ctx a acc

/-- R69: a group's access keeps its place at a home. -/
def laneKeep (s : State) (gid : Nat) (g : Group) (a : GAddr) (n : Nat) : State :=
  homeKeep s (.group gid) (classOf gid) { a with rep := none } n (match g.clause with | some c => c.ipc.toNat | none => 0)

/-- R56, R69, R87: a lane's access at the home that its translation gives. -/
def laneHome (s : State) (gid : Nat) (g : Group) (a : GAddr) (n : Nat) (acc : Acc) (whole : List (Nat × Nat)) : Verdict × State :=
  let core := coreOfGid gid
  let s := if acc == .load && l1Has s core g a n then s else sense s a.addr n whole
  match laneVerdict s core g a n acc whole with
  | .ok =>
    if laneFree s gid g a n acc then (.ok, s)
    else match homeAsk s (.group gid) (classOf gid) { a with rep := none } n (match g.clause with | some c => c.ipc.toNat | none => 0) with
      | (true, s) => (.ok, openRow s a.addr n)
      | (false, s) => (.wait, s)
  | .wait => (.wait, laneKeep (startThaw s a.addr false) gid g a n)
  | v => (v, s)

/-- R7, R15-R17, R24-R26, R31, R33: decodes and translates one lane's pointer and asks its home. `glob` is the space .g; `writes` are the pointers and bytes of a store's lanes. -/
def laneTarget (s : State) (gid : Nat) (g : Group) (ctx : Ctx) (lane ptr n : Nat) (acc : Acc) (glob : Bool)
    (writes : List (Nat × Nat)) : Lane × State :=
  let core := coreOfGid gid
  let cl := clusterOfCore core
  let bad (cause va : Nat) (win : Bool) (level : Nat) (e : DWord) (tag : BitVec 8) (fmt : BitVec 3) (page : Nat) : Lane :=
    .fault { lane := lane, cause := cause, va := va, win := win, level := level, entry := e, ftag := tag, ffmt := fmt, page := page }
  match resolve s core ctx g lane ptr n glob with
  | .bad cause va win => (bad cause va win 0 0 0 0 65536, s)
  | .place p addr =>
    (.ok { place := p, addr := addr, key := 0, gc := 0, cp := 1, rep := none, va := BitVec.ofNat 64 ptr, ctx := g.ctx }, s)
  | .virt va win =>
    match translate s (some core) cl g.ctx ctx va acc g.sup with
    | (.wait, s) => (.wait, s)
    | (.fault f, s) => (bad f.cause va win f.level f.entry 0 0 (if f.cause = 0x04 || f.cause = 0x05 || f.cause = 0x06 || f.cause = 0x0C then 65536 else pageBytes f.level), s)
    | (.ok a level entry, s) =>
      let s := reach s g.ctx cl a.addr
      match repFault s gid a with
      | some s => (bad 0x0F va win 0 entry 0 0 (pageBytes level), s)
      | none => match laneHome s gid g a n acc (lineWrites (s.unitAt a.addr) acc writes ptr a.addr) with
        | (.ok, s) => (.ok a, s)
        | (.wait, s) => (.turn, s)
        | (.fault cause tag fmt, s) => (bad cause va win 0 entry tag fmt (pageBytes level), s)

/-- The accesses of several lanes. -/
structure Lanes where
  ok    : List (Nat × GAddr)
  bad   : List LaneFault
  /-- Some lane waits; `walks`: some lane's translation does. -/
  stall : Bool
  walks : Bool
  s     : State
  deriving DecidableEq, Repr

/-- No lane yet. -/
def Lanes.start (s : State) (stall : Bool) : Lanes := { ok := [], bad := [], stall := stall, walks := false, s := s }

/-- One more lane's access. -/
def Lanes.add (r : Lanes) (lane : Nat) (x : Lane × State) : Lanes :=
  match x with
  | (.ok a, s) => { r with ok := r.ok ++ [(lane, a)], s := s }
  | (.turn, s) => { r with stall := true, s := s }
  | (.wait, s) => { r with stall := true, walks := true, s := s }
  | (.fault f, s) => { r with bad := r.bad ++ [f], s := s }

/-- R69: what an instruction's lanes keep at the homes: while one waits for its turn, the places of all that need one; none while a translation waits, or once every lane has its turn or has faulted. -/
def Lanes.keep (r : Lanes) (gid : Nat) (g : Group) (n : Nat) (acc : Acc) : Lanes :=
  let spent (x : HomeReq) : Bool := x.looks && x.src = .group gid && (r.walks || !r.bad.isEmpty || r.ok.any (fun e => e.2.addr = x.dst.addr))
  { r with s := if r.stall && !r.walks then
      (r.ok.filter (fun x => !laneFree r.s gid g x.2 n acc)).foldl (fun s x => laneKeep s gid g x.2 n) r.s
    else { r.s with homeQ := r.s.homeQ.filter (fun x => !spent x) } }

/-- R113: the pointers and bytes of the lanes whose writes may meet a lane's line: those of its own window, or of the global space. -/
def lanesWith (n : Nat) (ptrs : List (Nat × Nat)) (ptr : Nat) : List (Nat × Nat) :=
  if ptr < winRegion then (ptrs.filter (fun p => p.2 < winRegion)).map (fun p => (p.2, n)) else [(ptr, n)]

/-- R33: every lane is looked up by itself. -/
def lanesGo (s : State) (gid : Nat) (g : Group) (n : Nat) (acc : Acc) (glob : Bool) (ptrs : List (Nat × Nat)) : Lanes :=
  match s.ctxOf? g.ctx with
  | none => Lanes.start s true
  | some ctx => (ptrs.foldl (fun (r : Lanes) p => r.add p.1 (laneTarget r.s gid g ctx p.1 p.2 n acc glob (lanesWith n ptrs p.2)))
      (Lanes.start s false)).keep gid g n acc

/-! ## Addresses (R342, R343) -/

/-- R260: bytes of a Z size; R343: of a type. -/
def zBytes (z : Nat) : Nat := if z = 0 || z = 5 then 1 else if z = 1 || z = 6 then 2 else if z = 2 then 4 else if z = 3 then 8 else 16
def tyBytes (t : Nat) : Nat := if aty64 t then 8 else 4

/-- R265: the literal offset of an LI form. -/
def immOff (o : Ops) : Int := (field o.w1 8 15 : BitVec 15).toInt

/-- R16: the window base of a space. -/
def spaceBase (sp : Nat) : Nat := if sp = 2 then winShared else if sp = 3 then winScratch else winPriv

/-- R342: an address from its base and offset. -/
def addrOf (sp : Nat) (base : DWord) (off : Int) : Nat :=
  if sp ≤ 1 then (((base.toNat : Int) + off) % (2 ^ 64 : Nat)).toNat
  else spaceBase sp + (((fieldNat base 0 32 : Int) + off) % (2 ^ 32 : Nat)).toNat

/-- R342: lane i's address; `hasOff` says that the form has an offset operand, `ctr` that it names a counter. -/
def laneAddr (g : Group) (c : Clause) (o : Ops) (hasOff ctr : Bool) (i : Nat) : Nat :=
  let off : Int := if o.li then immOff o else if hasOff && o.b ≠ 0xF4 then (vec g c i false o.b).toNat else 0
  addrOf o.space (baseOf o ctr (o.space ≤ 1) o.a (vec g c i (o.space ≤ 1) o.a)) off

/-- R342: the addresses of the active lanes. -/
def laneAddrs (g : Group) (c : Clause) (o : Ops) (hasOff ctr : Bool) : List (Nat × Nat) :=
  (lanesOf (active g c o)).map (fun i => (i, laneAddr g c o hasOff ctr i))

/-- R343: the lanes whose address is no multiple of the size. -/
def misaligned (ptrs : List (Nat × Nat)) (n : Nat) : DWord := maskOf ((ptrs.filter (fun p => p.2 % n != 0)).map (·.1))

/-- The address operands of a long memory form. -/
def addrOpds (o : Ops) (hasOff : Bool) : List Opd :=
  .vs (o.space ≤ 1) o.a :: if hasOff && !o.li then [.vs false o.b] else []

/-- R343: a data register of a size, as source or destination. -/
def zOpd (dst : Bool) (z : Nat) (code : BitVec 8) : Opd :=
  if z = 4 then .run 4 code else if dst then .vd (z == 3) false code else .vs (z == 3) code

/-- R343: the bytes a store takes from its data register. -/
def storeBytes (g : Group) (lane z : Nat) (code : BitVec 8) (x : DWord) : List Byte :=
  if z = 4 then (List.range 4).flatMap (fun k => natLe 4 (g.v lane (code.toNat + k)).toNat) else natLe (zBytes z) x.toNat

/-- R343: what a load writes. -/
def loadWrites (g : Group) (lane z : Nat) (code : BitVec 8) (bs : List Byte) : List RegWrite :=
  let r := if code.toNat ≤ 0xEF then code.toNat else xReg g lane code
  let w (k : Nat) : Word := BitVec.ofNat 32 (leNat ((bs.drop (4 * k)).take 4))
  if z = 4 then (List.range 4).map (fun k => .v lane (r + k) (w k))
  else if z = 3 then [.v lane r (w 0), .v lane (r + 1) (w 1)]
  else if z = 5 then [.v lane r ((field (w 0) 0 8 : Byte).signExtend 32)]
  else if z = 6 then [.v lane r ((field (w 0) 0 16 : BitVec 16).signExtend 32)]
  else [.v lane r (w 0)]

/-! ## Loads and stores of lanes -/

/-- What an access of several lanes came to. -/
structure Done where
  stall : Bool
  bad   : List LaneFault
  g     : Group
  s     : State
  deriving DecidableEq, Repr

/-- R117: an acquire waits while the queue holds a store that overlaps its location. -/
def overlaps (g : Group) (a : GAddr) (n : Nat) : Bool := fwdLoad g.sq a.place a.addr n != .clear

/-- R17: the number of a group in its context's alias regions. -/
def Group.alias (g : Group) : Nat := g.tidx * 128 + g.gidx
/-- R95, R96: the address lies in the frontier spill area of a group of its context other than the one whose alias number is `self`. -/
def frontierOther (s : State) (self : Nat) (a : GAddr) : Bool :=
  match s.ctxOf? a.ctx with
  | none => false
  | some c =>
    let off := a.va.toNat - c.spillBase.toNat
    a.place = .glob && c.spillBase.toNat ≤ a.va.toNat && off % 2 ^ 24 < 0x400 && off / 2 ^ 24 != self &&
      s.groups.any (fun e => e.2.ctx = a.ctx && e.2.alias = off / 2 ^ 24)
/-- R96: what a read sees: free values in another group's frontier spill area (DESIGN CHOICE, log entry 14). -/
def readSees (s : State) (self : Nat) (a : GAddr) (n : Nat) (bs : List Byte) : List Byte :=
  if frontierOther s self a then (List.range n).map (fun i => Config.frontierByte (a.va.toNat + i) s.clock) else bs

/-- R116, R120, R252, R346, R347: loads of lanes: the results are on their way on counter `ctr`, whose full count stalls; an acquire at scope `acq` reads the home and clears the L1. -/
def loadLanes (s : State) (gid : Nat) (g : Group) (n : Nat) (glob : Bool) (acq ctr : Nat) (wr : Nat → List Byte → List RegWrite)
    (ptrs : List (Nat × Nat)) : Done :=
  let home := 3 ≤ acq || (acq = 2 && pairedTeam s g)
  let t := lanesGo s gid g n (if home then .acquire else .load) glob ptrs
  if g.full ctr then { stall := true, bad := [], g := g, s := s }
  else if acq ≠ 0 && t.ok.any (fun x => overlaps g x.2 n) then
    { stall := true, bad := [], g := g, s := dropLooks (keepAnswers s t.s) (.group gid) }
  else if t.stall then { stall := true, bad := [], g := g, s := keepAnswers s t.s }
  else
    let r := t.ok.foldl (fun (r : Bool × List RegWrite × State) x => match loadLane r.2.2 gid g x.2 n home with
      | (.bytes bs, s) => (r.1, r.2.1 ++ wr x.1 (readSees s g.alias x.2 n bs), s)
      | (.wait, s) => (true, r.2.1, s)) (false, [], t.s)
    if r.1 then { stall := true, bad := [], g := g, s := keepAnswers s r.2.2 }
    else
      let s := if acq = 0 || t.ok.isEmpty then r.2.2 else acquire r.2.2 gid g acq
      { stall := false, bad := t.bad, g := g.addPending ctr r.2.1, s := s }

/-- R115, R117, R346, R347: stores of lanes: one entry of the queue; `rel` is a release's scope. A full queue stalls. -/
def storeLanes (s : State) (gid : Nat) (g : Group) (n : Nat) (glob : Bool) (rel : Nat) (pc : DWord) (data : Nat → List Byte)
    (ptrs : List (Nat × Nat)) : Done :=
  if 32 ≤ g.sq.length then { stall := true, bad := [], g := g, s := s }
  else
    let t := lanesGo s gid g n .store glob ptrs
    if t.stall then { stall := true, bad := [], g := g, s := keepAnswers s t.s }
    else
      let e : QEntry := .store (t.ok.map (fun x => { lane := x.1, dst := x.2, data := data x.1 })) rel pc.toNat
      { stall := false, bad := t.bad, g := if t.ok.isEmpty then g else { g with sq := g.sq ++ [e] }, s := t.s }

/-- An access ends: it is tried again, it retires, or the group parks with the unfinished mask that `unfinished` gives. -/
def finishMem (gid : Nat) (g : Group) (c : Clause) (akind : Nat) (unfinished : List LaneFault → DWord) (d : Done) : Out :=
  if d.stall then .next (d.s.setGroup gid g)
  else if d.bad.isEmpty then .next (retire d.s gid d.g c none)
  else .next (parkFaults d.s gid d.g c akind d.bad (unfinished d.bad))

/-- R344: the MISALIGN of a memory form, then the access. -/
def aligned (s : State) (gid : Nat) (g : Group) (c : Clause) (ptrs : List (Nat × Nat)) (n : Nat) (k : Out) : Out :=
  let bad := misaligned ptrs n
  if bad ≠ 0 then .next (trapHere s gid g c 0x0E 0 0 bad) else k

/-! ## ld, st, lda, stl (R346, R347) -/

/-- R346, R347: a long load. -/
def loadOp (s : State) (o : Ops) (acq : Nat) : Out :=
  checked s (fun g c => active g c o) (zOpd true (if o.var = 5 || o.var = 6 then 2 else o.var) o.d :: addrOpds o true) (fun gid g c =>
    let ptrs := laneAddrs g c o true true
    aligned s gid g c ptrs (zBytes o.var) (finishMem gid g c 0 faultMask
      (loadLanes s gid g (zBytes o.var) (o.space = 1) acq o.ctr (fun i bs => loadWrites g i o.var o.d bs) ptrs)))
/-- R346, R347: a long store. -/
def storeOp (s : State) (o : Ops) (rel : Nat) : Out :=
  checked s (fun g c => active g c o) (zOpd false o.var o.d :: addrOpds o true) (fun gid g c =>
    let ptrs := laneAddrs g c o true false
    aligned s gid g c ptrs (zBytes o.var) (finishMem gid g c 1 faultMask
      (storeLanes s gid g (zBytes o.var) (o.space = 1) rel c.ipc
        (fun i => storeBytes g i o.var o.d (src g c o i (o.var == 3) o.d)) ptrs)))

/-- LD, R346. -/
def execLd (o : Ops) (s : State) : Out := loadOp s o 0
/-- ST, R346. -/
def execSt (o : Ops) (s : State) : Out := storeOp s o 0
/-- LDA, R347. -/
def execLda (o : Ops) (s : State) : Out := loadOp s o o.scope
/-- STL, R347. -/
def execStl (o : Ops) (s : State) : Out := storeOp s o o.scope

/-! ## Short forms (R345) -/

/-- R345: the addresses of a short access in the given lanes: space .g or .s, a literal offset in units of the size. -/
def shortAddrs (g : Group) (c : Clause) (o : SOps) (sp n : Nat) (lanes : DWord) : List (Nat × Nat) :=
  (lanesOf lanes).map (fun i => (i, addrOf sp (vec g c i (sp = 1) o.a) (n * o.b.toNat : Nat)))
/-- R345: a short load in the given lanes. -/
def shortLoad (s : State) (gid : Nat) (g : Group) (c : Clause) (o : SOps) (sp z : Nat) (lanes : DWord) : Done :=
  loadLanes s gid g (zBytes z) (sp = 1) 0 (if o.nw then 1 else 0) (fun i bs => loadWrites g i z o.d bs)
    (shortAddrs g c o sp (zBytes z) lanes)
/-- R345: a short store in the given lanes. -/
def shortStore (s : State) (gid : Nat) (g : Group) (c : Clause) (o : SOps) (sp z : Nat) (lanes : DWord) : Done :=
  storeLanes s gid g (zBytes z) (sp = 1) 0 c.ipc (fun i => storeBytes g i z o.d (vec g c i (z == 3) o.d)) (shortAddrs g c o sp (zBytes z) lanes)
/-- R345: a short load as an instruction. -/
def shortLoadOp (s : State) (o : SOps) (sp z : Nat) : Out :=
  checked s shortAct [zOpd true z o.d, .vs (sp = 1) o.a] (fun gid g c =>
    aligned s gid g c (shortAddrs g c o sp (zBytes z) (shortAct g c)) (zBytes z)
      (finishMem gid g c 0 faultMask (shortLoad s gid g c o sp z (shortAct g c))))
/-- R345: a short store as an instruction. -/
def shortStoreOp (s : State) (o : SOps) (sp z : Nat) : Out :=
  checked s shortAct [zOpd false z o.d, .vs (sp = 1) o.a] (fun gid g c =>
    aligned s gid g c (shortAddrs g c o sp (zBytes z) (shortAct g c)) (zBytes z)
      (finishMem gid g c 1 faultMask (shortStore s gid g c o sp z (shortAct g c))))

/-- LD_G_B32_SHORT, R345. -/
def execLdGB32Short (o : SOps) (s : State) : Out := shortLoadOp s o 1 2
/-- LD_S_B32_SHORT, R345. -/
def execLdSB32Short (o : SOps) (s : State) : Out := shortLoadOp s o 2 2
/-- ST_G_B32_SHORT, R345. -/
def execStGB32Short (o : SOps) (s : State) : Out := shortStoreOp s o 1 2
/-- ST_S_B32_SHORT, R345. -/
def execStSB32Short (o : SOps) (s : State) : Out := shortStoreOp s o 2 2
/-- LD_G_B64_SHORT, R345. -/
def execLdGB64Short (o : SOps) (s : State) : Out := shortLoadOp s o 1 3
/-- ST_G_B64_SHORT, R345. -/
def execStGB64Short (o : SOps) (s : State) : Out := shortStoreOp s o 1 3
/-- LD_S_B64_SHORT, R345. -/
def execLdSB64Short (o : SOps) (s : State) : Out := shortLoadOp s o 2 3
/-- ST_S_B64_SHORT, R345. -/
def execStSB64Short (o : SOps) (s : State) : Out := shortStoreOp s o 2 3

/-! ## Atomics (R124, R348, R349) -/

/-- R104: an atomic or reduction invalidates the core's copy of its line. -/
def dropLine (s : State) (core : Nat) (a : GAddr) : State := if a.place = .glob then l1Drop s core (lineOf a.addr) else s

/-- R7, R56, R59, R61, R161: a write of a context that is performed at its home now, with what else is written together with it. -/
def performWhole (s : State) (gid : Nat) (a : GAddr) (bs : List Byte) (whole : List (Nat × Nat)) : State :=
  match a.place with
  | .glob => storeWhole (reach s a.ctx none a.addr) gid a.addr bs whole
  | p => writePlace s p a.addr bs
/-- R7, R56, R59, R61, R161: a write by itself. -/
def performWrite (s : State) (gid : Nat) (a : GAddr) (bs : List Byte) : State := performWhole s gid a bs [(a.addr, bs.length)]

/-- R124, R348: the new bytes of an atomic's location, as a number; none when it writes nothing. -/
def AtomOp.value (f : AtomOp) (old : Nat) : Option Nat :=
  match f with
  | .rmw f x => some (rmwVal f.op f.ty old x).1
  | .cas m x => if old = m then some x else none
/-- R348: the flags that an atomic raises. -/
def AtomOp.flags (f : AtomOp) (old : Nat) : Word :=
  match f with
  | .rmw f x => (rmwVal f.op f.ty old x).2
  | .cas _ _ => 0

/-- R161: an atomic on a replica page is performed by the switch: the old value, once it has come. A replica on this module takes the new one when the answer comes, in the order of the switch. -/
def repAtomic (s : State) (gid ctx : Nat) (a : GAddr) (n : Nat) (f : AtomOp) : Option Nat × State :=
  match s.reps.find? (fun r => r.gid = gid && r.write && r.va = a.va && r.atom.isSome) with
  | some r => match r.got with
    | some (_, bs) => (some (leNat (List.take n (List.drop (a.addr % 64) bs))), { s with reps := s.reps.erase r })
    | none => (none, s)
  | none => (none, repSend s gid ctx (a.rep.getD 0) a true [] (some (a, f, n)))

/-- R124, R161, R348: one lane's atomic update: the old value, or it waits. A replica page's is performed by the switch. -/
def atomLane (s : State) (gid : Nat) (g : Group) (a : GAddr) (n : Nat) (f : AtomOp) : Option Nat × State :=
  let core := coreOfGid gid
  if a.place ≠ .glob then
    let m := leNat (readPlace s a.place a.addr n)
    (some m, match f.value m with | some x => writePlace s a.place a.addr (natLe n x) | none => s)
  else if a.rep.isSome then repAtomic s gid g.ctx a n f
  else if homeBusy s core (lineOf a.addr) then (none, s)
  else match cxlRead s a.addr false with
    | (false, s) => (none, s)
    | (true, s) =>
      let m := leNat (readSees s g.alias a n (s.bytes a.addr n))
      (some m, match f.value m with | some x => performWrite s gid a (natLe n x) | none => s)

/-- R117, R124, R129: an atomic waits for an empty queue and for its release; then its lanes are performed in ascending order, and it acquires. `f` gives a lane's operation, `wr` its register writes. -/
def atomOp (s : State) (gid : Nat) (g : Group) (c : Clause) (o : Ops) (f : Nat → AtomOp) (wr : Nat → Nat → List RegWrite) : Out :=
  let n := tyBytes o.aty
  let ptrs := laneAddrs g c o false false
  aligned s gid g c ptrs n (
    if ptrs.isEmpty then .next (retire s gid g c none)
    else if !g.sq.isEmpty || g.full o.ctr then .next (s.setGroup gid g)
    else
      let s1 := relStart s (coreOfGid gid) o.scope
      if !relReady s1 gid g o.scope then .next ((dropLooks s1 (.group gid)).setGroup gid g)
      else
        let t := lanesGo s1 gid g n .atomic (o.space = 1) ptrs
        if t.stall then .next ((keepAnswers s1 t.s).setGroup gid g)
        else
          let r := t.ok.foldl (fun (r : Bool × List RegWrite × Word × State) x =>
            match atomLane r.2.2.2 gid g x.2 n (f x.1) with
            | (some m, s) => (r.1, r.2.1 ++ wr x.1 m, r.2.2.1 ||| (f x.1).flags m, dropLine s (coreOfGid gid) x.2)
            | (none, s) => (true, r.2.1, r.2.2.1, s)) (false, [], 0, t.s)
          if r.1 then
            -- what it must ask others for is asked; no lane has been performed
            .next ((keepAnswers s1 { t.s with cxl := r.2.2.2.cxl, reps := r.2.2.2.reps }).setGroup gid g)
          else
            finishMem gid g c 2 faultMask { stall := false, bad := t.bad, g := g.addPending o.ctr (r.2.1 ++ [.flags r.2.2.1]),
                                              s := acquire r.2.2.2 gid g o.scope })

/-- R348: a lane's operand in the width of the type. -/
def tyVal (g : Group) (c : Clause) (lane t : Nat) (code : BitVec 8) : Nat := (vec g c lane (aty64 t) code).toNat
/-- R348: a register of the width of the type receives the old value. -/
def tyWrites (g : Group) (lane t : Nat) (code : BitVec 8) (m : Nat) : List RegWrite :=
  loadWrites g lane (if aty64 t then 3 else 2) code (natLe 8 m)

/-- ATOM, R348. -/
def execAtom (o : Ops) (s : State) : Out :=
  checked s (fun g c => active g c o) (.vd (aty64 o.aty) false o.d :: .vs (aty64 o.aty) o.b :: addrOpds o false) (fun gid g c =>
    atomOp s gid g c o (fun i => .rmw { op := o.var, ty := o.aty } (tyVal g c i o.aty o.b))
      (fun i m => tyWrites g i o.aty o.d m))
/-- ACAS, R348: a failed comparison writes nothing. -/
def execAcas (o : Ops) (s : State) : Out :=
  checked s (fun g c => active g c o) (.vd (aty64 o.aty) false o.d :: .vs (aty64 o.aty) o.b :: addrOpds o false) (fun gid g c =>
    atomOp s gid g c o (fun i => .cas (tyVal g c i o.aty o.b) (tyVal g c i o.aty o.d))
      (fun i m => tyWrites g i o.aty o.d m))

/-- R128: a reduction enters the shadow buffer of a die: it combines, or makes room and adds an entry. -/
def shadowRed (s : State) (cl : Nat) (f : Rmw) (l : LaneStore) : State :=
  let here (e : Shadow) : Bool := e.dst.addr = l.dst.addr && e.dst.place = l.dst.place
  let same (e : Shadow) : Bool := here e && e.f = f && e.val.length = l.data.length
  let c := s.clusterOf cl
  match c.shadow.find? same with
  | some e =>
    let v := (rmwVal f.op f.ty (leNat e.val) (leNat l.data)).1
    s.setCluster cl { c with shadow := (c.shadow.erase e) ++ [{ e with val := natLe l.data.length v, stamp := s.clock }] }
  | none =>
    -- an entry of the location with another operation or type merges first
    let clash (e : Shadow) : Bool := e.dst.addr < l.dst.addr + l.data.length && l.dst.addr < e.dst.addr + e.val.length
    let s := mergeShadows s cl clash
    let c := s.clusterOf cl
    -- the list is in order of combination, so its head is the least recently combined
    let s := if c.shadow.length < 2048 then s else mergeShadows s cl (fun e => c.shadow.head? == some e)
    let c := s.clusterOf cl
    s.setCluster cl { c with shadow := c.shadow ++ [{ dst := l.dst, f := f, val := l.data, stamp := s.clock }] }

/-- R128: a reduction at dev or sys to global memory; a ring service core has no die and sends it to the home. -/
def redGlobal (s : State) (gid : Nat) (f : Rmw) (pc : DWord) (l : LaneStore) : State :=
  let s := dropLine s (coreOfGid gid) l.dst
  match clusterOfCore (coreOfGid gid) with
  | some cl => shadowRed s cl f l
  | none => { s with homeQ := s.homeQ ++ [{ cls := classOf gid, arrival := s.clock, src := .group gid, dst := l.dst,
                                            op := .rmw f l.data, pc := pc.toNat, aged := false }] }

/-- RED, R127, R128, R348, R349: at dev or sys to global memory it waits for an empty queue and enters the shadow buffer; every other one enters the queue. -/
def execRed (o : Ops) (s : State) : Out :=
  checked s (fun g c => active g c o) (.vs (aty64 o.aty) o.d :: addrOpds o false) (fun gid g c =>
    let n := tyBytes o.aty
    let f : Rmw := { op := o.var, ty := o.aty }
    let ptrs := laneAddrs g c o false false
    aligned s gid g c ptrs n (
      let t := lanesGo s gid g n .atomic (o.space = 1) ptrs
      let ls := t.ok.map (fun x => ({ lane := x.1, dst := x.2, data := natLe n (tyVal g c x.1 o.aty o.d) } : LaneStore))
      let glob := if 4 ≤ o.scope then ls.filter (fun l => l.dst.place = .glob) else []
      let rest := if 4 ≤ o.scope then ls.filter (fun l => l.dst.place ≠ .glob) else ls
      if t.stall || 32 ≤ g.sq.length || (!glob.isEmpty && !g.sq.isEmpty) then .next ((keepAnswers s t.s).setGroup gid g)
      else
        let s1 := glob.foldl (fun s l => redGlobal s gid f c.ipc l) t.s
        let g' := if rest.isEmpty then g else { g with sq := g.sq ++ [.red rest f c.ipc.toNat] }
        finishMem gid g c 2 faultMask { stall := false, bad := t.bad, g := g', s := s1 }))

/-- FENCE, R123, R350: waits for an empty queue and for its release, then acquires; it acts with an empty active mask too. -/
def execFence (o : Ops) (s : State) : Out :=
  withClause s (fun gid g c =>
    if !g.sq.isEmpty then .next s
    else
      let s1 := relStart s (coreOfGid gid) o.scope
      if !relReady s1 gid g o.scope then .next s1
      else .next (retire (acquire s1 gid g o.scope) gid g c none))

/-! ## ldsh, pref, waddr, paddr (R351-R354) -/

/-- R117: every earlier store of the group has been performed. -/
def storesDone (s : State) (gid : Nat) (g : Group) : Bool :=
  g.sq.isEmpty && !s.homeQ.any (fun r => r.src == .group gid && !r.looks)

/-- R117, R122, R131: the release of a job issue towards the job's own reads: every store of the core has been performed, at the switch for a replica page (R161). -/
def coreDone (s : State) (gid : Nat) (g : Group) : Bool :=
  g.sq.isEmpty && homesDone s (coreOfGid gid) &&
    !s.reps.any (fun r => r.write && r.got.isNone && r.gid < 86528 && coreOfGid r.gid = coreOfGid gid)

/-- R351: the shared offset of a lane. -/
def ldshOff (g : Group) (c : Clause) (o : Ops) (i : Nat) : Int :=
  if o.li then immOff o + (i * zBytes o.var : Nat) else (vec g c i false o.b).toNat

/-- R351: a lane's read side: the shared and scratchpad windows are no source. -/
def ldshTarget (s : State) (gid : Nat) (g : Group) (ctx : Ctx) (lane ptr n : Nat) (glob : Bool) : Lane × State :=
  match laneTarget s gid g ctx lane ptr n .load glob [] with
  | (.ok a, s') =>
    if a.place = .glob then (.ok a, s')
    else (.fault { lane := lane, cause := 0x02, va := ptr, win := false, level := 0, entry := 0, ftag := 0, ffmt := 0 }, s)
  | r => r

/-- LDSH, R105, R106, R351: reads lanes' bytes; they land in shared memory and are counted later. The read address need not be checked before the write side: a misaligned offset raises MISALIGN, one outside the team's shared memory WINDOW. -/
def execLdsh (o : Ops) (s : State) : Out :=
  withClause s (fun gid g c =>
    let act := active g c o
    let n := zBytes o.var
    if isService (coreOfGid gid) then .next (trapFrag s gid g c 0x02)
    else match opTrap g c act (.vs true o.a :: if o.li then [] else [.vs false o.b]) with
      | some t => opTrapHere s gid g c t
      | none =>
        let bad := maskOf ((lanesOf act).filter (fun i => ldshOff g c o i % (n : Int) ≠ 0 || (src g c o i true o.a).toNat % n ≠ 0))
        if bad ≠ 0 then .next (trapHere s gid g c 0x0E 0 0 bad)
        else if !coreDone s gid g then .next s
        else match s.ctxOf? g.ctx, g.team with
          | some ctx, some team =>
            let outside (i : Nat) : Bool := ldshOff g c o i < 0 || sharedSize s g < (ldshOff g c o i).toNat + n
            let w : List LaneFault := ((lanesOf act).filter outside).map (fun i =>
              { lane := i, cause := 0x02, va := (((winShared : Int) + ldshOff g c o i) % (2 ^ 64 : Nat)).toNat, win := false,
                level := 0, entry := 0, ftag := 0, ffmt := 0 })
            let t := (((lanesOf act).filter (fun i => !outside i)).foldl (fun (r : Lanes) i =>
              r.add i (ldshTarget r.s gid g ctx i (src g c o i true o.a).toNat n (o.space = 1))) (Lanes.start s false)).keep gid g n .load
            let r := t.ok.foldl (fun (r : Bool × List (Nat × List Byte × Nat) × State) x =>
              match loadLane r.2.2 gid g x.2 n false with
              | (.bytes bs, s) => (r.1, r.2.1 ++ [((ldshOff g c o x.1).toNat, readSees s g.alias x.2 n bs, o.d.toNat)], s)
              | (.wait, s) => (true, r.2.1, s)) (false, [], t.s)
            if t.stall || r.1 then .next ((keepAnswers s r.2.2).setGroup gid g)
            else
              let s1 := r.2.2.modTeam team (fun t => { t with landing := t.landing ++ r.2.1 })
              finishMem gid g c 7 faultMask { stall := false, bad := w ++ t.bad, g := g, s := s1 }
          | _, _ => .next s)

/-- R105: the n-th lane's bytes of an ldsh land and are counted. -/
def landLdsh (s : State) (team n : Nat) : State :=
  match SMap.find? s.teams team with
  | none => s
  | some t => match t.landing[n]? with
    | none => s
    | some (off, bs, obj) =>
      landBytes (s.setTeam team { t with shared := writeBytes t.shared off bs, landing := t.landing.eraseIdx n }) team obj bs.length

/-- R7, R69, R352: pref at the home of a translated page: a frost sub-frame starts to thaw. A lane that would fault is dropped. -/
def prefetchHome (s : State) (g : Group) (ctx : Ctx) (cl : Option Nat) (va : Nat) (t : TlbEntry) : State :=
  if (leafCheck ctx t.leaf t.level .load g.sup).isSome then s
  else
    let a := leafAddr s g.ctx ctx va t.level t.leaf
    let s := reach s g.ctx cl a.addr
    if homeCheck s a 1 [] = .wait then startThaw s a.addr false else s

/-- R32, R352: one lane of pref: a page that no TLB holds is asked of the cluster's walkers (a ring core walks only when it accesses). False when the walk queue is full. -/
def prefetch (s : State) (gid : Nat) (g : Group) (ctx : Ctx) (lane ptr : Nat) (glob : Bool) : Bool × State :=
  match resolve s (coreOfGid gid) ctx g lane ptr 1 glob with
  | .virt va _ =>
    let cl? := clusterOfCore (coreOfGid gid)
    match tlbLookup s (some (coreOfGid gid)) cl? g.ctx va (ctx.kind == 0), cl? with
    | some t, _ => (true, prefetchHome s g ctx cl? va t)
    | none, some cl => if (walkPlace s cl g.ctx (va / 65536)).isSome then (true, walkEnter s cl g.ctx (va / 65536)) else (false, s)
    | none, none => (true, s)
  | _ => (true, s)
/-- PREF, R32, R352: asks for translations and thaws; it changes no value. A full walk queue stalls it at issue. -/
def execPref (o : Ops) (s : State) : Out :=
  checked s (fun g c => active g c o) (addrOpds o true) (fun gid g c =>
    match s.ctxOf? g.ctx with
    | none => .next (retire s gid g c none)
    | some ctx =>
      let r := (laneAddrs g c o true false).foldl (fun (r : Bool × State) p =>
        let x := prefetch r.2 gid g ctx p.1 p.2 (o.space = 1)
        (r.1 && x.1, x.2)) (true, s)
      .next (if r.1 then retire r.2 gid g c none else r.2))

/-- R353: the size against which an access in a space would be resolved. -/
def spaceSize (s : State) (gid : Nat) (g : Group) (sp : Nat) : Nat :=
  if sp = 4 then 2 ^ 24
  else if sp = 2 then sharedSize s g
  else match clusterOfCore (coreOfGid gid) with
    | some cl => match scratchEntry (s.clusterOf cl) g.ctx with
      | some (_, size) => size
      | none => 0
    | none => 0
/-- R353: a lane's conversion: the result and its success bit. -/
def waddrVal (s : State) (gid : Nat) (g : Group) (var : Nat) (p : DWord) : DWord × Bool :=
  let sp := var % 8
  if sp = 1 then (if p.toNat < winRegion then (p, true) else (0, false))
  else
    let size := spaceSize s gid g sp
    let w := spaceBase sp
    if var < 8 then (if fieldNat p 0 32 < size then (BitVec.ofNat 64 (w + fieldNat p 0 32), true) else (0, false))
    else if w ≤ p.toNat && p.toNat < w + size then (BitVec.ofNat 64 (p.toNat - w), true)
    else (0xFFFFFFFF#64, false)
/-- WADDR, R353: the otherwise-result of .off.g is a pair of zeros. -/
def execWaddr (o : Ops) (s : State) : Out :=
  let wd := o.var < 8 || o.var == 9
  let ws := 8 < o.var || o.var == 1
  checked s (fun g c => active g c o) [.vd wd false o.d, .vs ws o.a] (fun gid g c =>
    let rs := (lanesOf (active g c o)).map (fun i => (i, waddrVal s gid g o.var (vec g c i ws o.a)))
    let ok := maskOf ((rs.filter (fun e => e.2.2)).map (·.1))
    let g' := if o.c.getLsbD 7 then g.setP (fieldNat o.c 0 5) (active g c o) ok else g
    finishVec s gid g' c wd false o.d (rs.map (fun e => (e.1, e.2.1))) 0)

/-- R354: a lane's alias. -/
def paddrVal (ctx : Ctx) (g : Group) (lane : Nat) (p : DWord) : DWord :=
  let p := p.toNat
  if p < winRegion then BitVec.ofNat 64 p
  else if winPriv ≤ p && p < winPriv + 2 ^ 24 then
    let al := privAlias ctx g lane (p - winPriv)
    if 65536 ≤ g.tidx || winRegion ≤ al then 0 else BitVec.ofNat 64 al
  else 0
/-- PADDR, R354. -/
def execPaddr (o : Ops) (s : State) : Out :=
  checked s (fun g c => active g c o) [.vd true false o.d, .vs true o.a] (fun gid g c =>
    finishVec s gid g c true false o.d ((lanesOf (active g c o)).map (fun i => (i, match s.ctxOf? g.ctx with
      | some ctx => paddrVal ctx g i (vec g c i true o.a)
      | none => 0))) 0)

/-! ## sld, sst (R355) -/

/-- R355: the one address, in the name of the lowest active lane; `ctr`: the form names a counter. -/
def scalarAddrs (g : Group) (c : Clause) (o : Ops) (ctr : Bool) : List (Nat × Nat) :=
  ((lanesOf (active g c o)).take 1).map (fun i =>
    (i, addrOf o.space (baseOf o ctr (o.space ≤ 1) o.a (sca g (o.space ≤ 1) o.a)) (immOff o)))
/-- R355: what sld writes: the split is marked by the fragment that issues it. -/
def scalarWrites (g : Group) (z : Nat) (code : BitVec 8) (bs : List Byte) : List RegWrite :=
  let w (k : Nat) : Word := BitVec.ofNat 32 (leNat ((bs.drop (4 * k)).take 4))
  let split := g.fmask != g.lmask
  let one (k : Nat) : RegWrite :=
    if code.toNat < 0x40 then .s (code.toNat + k) (w k) split else .k (code.toNat - 0x40 + k) (w k)
  if z = 3 then [one 0, one 1] else [one 0]
/-- R344, R355: the traps of a scalar access; MISALIGN names the whole fragment. -/
def scalarMem (s : State) (o : Ops) (os : List Opd) (akind : Nat) (ctr : Bool) (k : Nat → Group → Clause → List (Nat × Nat) → Done) : Out :=
  checked s (fun g c => active g c o) os (fun gid g c =>
    let ptrs := scalarAddrs g c o ctr
    if misaligned ptrs (zBytes o.var) ≠ 0 then .next (trapHere s gid g c 0x0E 0 0 g.fmask)
    else if ptrs.isEmpty then .next (retire s gid g c none)
    else finishMem gid g c akind (fun _ => g.fmask) (k gid g c ptrs))
/-- SLD, R355. -/
def execSld (o : Ops) (s : State) : Out :=
  scalarMem s o [.sd (o.var = 3) o.d, .ss (o.space ≤ 1) o.a] 0 true (fun gid g _ ptrs =>
    loadLanes s gid g (zBytes o.var) (o.space = 1) 0 o.ctr (fun _ bs => scalarWrites g o.var o.d bs) ptrs)
/-- SST, R355. -/
def execSst (o : Ops) (s : State) : Out :=
  scalarMem s o [.ss (o.var = 3) o.d, .ss (o.space ≤ 1) o.a] 1 false (fun gid g c ptrs =>
    storeLanes s gid g (zBytes o.var) (o.space = 1) 0 c.ipc (fun _ => natLe (zBytes o.var) (scaSrc g o (o.var = 3) o.d).toNat) ptrs)

end Sys2Proof.Machine
end

