-- ==== Sys2Proof/Machine/Jobs.lean ====
section
/-! DEFINITION. The task schedulers: job cards and their checks, regions, footprint edges, submission, future handles, and the transfer of each job type (06_engines_memory R140-R151, R158, R159, R447; 17_isa_engines_matrix R371-R377; 03_tiers_and_host R84-R86; 24_module_links R438). -/

namespace Sys2Proof.Machine

/-! ## Cards (R140-R142, R373) -/

/-- R141: a region descriptor. -/
structure RawRegion where
  base   : Nat
  len    : Nat
  rows   : Nat
  stride : Nat
  deriving DecidableEq, Repr

/-- R140: the header field that starts at a bit. -/
def cardField (card : BitVec 512) (lo w : Nat) : Nat := fieldNat card lo w
/-- R140: TYPE. -/
def cardType (card : BitVec 512) : Nat := cardField card 0 8
/-- R373: TOPS bits. -/
def cardTops (card : BitVec 512) (lo w : Nat) : Nat := cardField card (32 + lo) w
/-- R141: region descriptor k. -/
def cardRegion (card : BitVec 512) (k : Nat) : RawRegion :=
  let o := 128 + 128 * k
  { base := cardField card o 56, len := cardField card (o + 56) 24, rows := cardField card (o + 80) 16,
    stride := cardField card (o + 96) 32 }
/-- R371: the supervisor-only types. -/
def cardPriv (ty : Nat) : Bool := ty = 0x10 || ty = 0x11 || (0x20 ≤ ty && ty ≤ 0x2A)
/-- R371: a frame-engine card. -/
def cardFrame (ty : Nat) : Bool := 0x20 ≤ ty && ty ≤ 0x2A

/-- R141: the region is present. -/
def RawRegion.present (r : RawRegion) : Bool := r.len != 0
/-- R141: bytes from the first to past the last. -/
def RawRegion.extent (r : RawRegion) : Nat := (r.rows - 1) * r.stride + r.len
/-- R142: LEN, ROWS and STRIDE go together. -/
def RawRegion.ok (r : RawRegion) : Bool := (r.len == 0) == (r.rows == 0) && !(1 < r.rows && r.stride < r.len)
/-- R141: bytes of the region. -/
def RawRegion.bytes (r : RawRegion) : Nat := r.len * r.rows

/-- R373: bytes of an element. -/
def gatherSize (esz : Nat) : Nat := if esz = 0 then 4 else if esz = 1 then 8 else if esz = 2 then 16 else 64
/-- R377: bytes of an element of a collective. -/
def collSize (op : Nat) : Nat := if op = 2 then 8 else 4

/-- R142, R373, R376, R377, R447: the checks of a card that its bits and its issuer alone decide. `svc`: issued by a service core; `gate`: by the gate instruction. A GATHER that queues its output writes no region; one that is present with QOUT is a region that the Regions column does not name (DEDUCED, log entry 19). -/
def cardOk (card : BitVec 512) (ckey : BitVec 8) (svc gate : Bool) : Bool :=
  let ty := cardType card
  let r0 := cardRegion card 0
  let r1 := cardRegion card 1
  let w := cardRegion card 2
  cardField card 15 1 == 0 && cardField card 24 8 == 0 && cardField card 13 2 != 3 &&
    !(cardField card 8 1 == 0 && cardField card 9 4 != 0) && !(cardField card 8 1 == 1 && svc) &&
    cardField card 16 8 == ckey.toNat && r0.ok && r1.ok && w.ok &&
    (if ty = 0x01 then cardTops card 0 96 == 0 && r0.present && w.present && !r1.present && r0.len == w.len && r0.rows == w.rows
     else if ty = 0x02 then cardTops card 32 64 == 0 && !r0.present && !r1.present && w.present && w.len % 4 == 0
     else if ty = 0x03 then cardTops card 3 93 == 0 && r0.present && r0.rows == 1 && r0.len % 4 == 0 && r1.present &&
       (if cardTops card 2 1 == 1 then !w.present && cardTops card 0 2 == 0 && !svc else w.present)
     else if ty = 0x04 then cardTops card 2 94 == 0 && r0.present && r0.rows == 1 && r0.len % 4 == 0 && r1.present && w.present
     else if ty = 0x05 then cardTops card 13 83 == 0 && cardTops card 8 3 < 5 && r0.present && r0 == w && !r1.present &&
       r0.base < 0x00FFF20000000000 && r0.len % collSize (cardTops card 8 3) == 0 && !(svc && cardTops card 11 2 != 0)
     else if ty = 0x06 then gate && !svc && cardTops card 84 12 == 0 && !r0.present && !r1.present && !w.present
     else if ty = 0x10 then cardTops card 0 96 == 0 && r0.bytes == 65536 && !r1.present && w.bytes == 65600
     else if ty = 0x11 then cardTops card 30 2 == 0 && cardTops card 88 8 == 0 && r0.bytes == 65600 && !r1.present && !w.present
     else false)

/-- R142, R17, R102, R447: where a region lies: its space and start, resolved for a lane; none makes the card invalid. A scratchpad region keeps its window offset until the job starts. An address of the private or spill window that has no alias resolves to nothing, and a global region that reaches into the window region lies beyond the end of its space (DEDUCED, log entry 19). -/
def resolveRegion (s : State) (core : Nat) (ctx : Ctx) (g : Group) (lane : Nat) (r : RawRegion) : Option Region :=
  let mk (p : Place) (base : Nat) : Region := { place := p, base := base, len := r.len, rows := r.rows, stride := r.stride }
  let last := r.base + r.extent
  if r.base < winRegion then (if last ≤ winRegion then some (mk .glob r.base) else none)
  else if winShared ≤ r.base && r.base < winShared + 2 ^ 20 then
    match g.team with
    | some t => if last ≤ winShared + 2 ^ 20 then some (mk (.shared t) (r.base - winShared)) else none
    | none => none
  else if winScratch ≤ r.base && r.base < winScratch + 2 ^ 26 then
    match clusterOfCore core with
    | some cl => if last ≤ winScratch + 2 ^ 26 then some (mk (.scratch cl) (r.base - winScratch)) else none
    | none => none
  else match resolve s core ctx g lane r.base 1 false, resolve s core ctx g lane (last - 1) 1 false with
    | .virt al true, .virt al' true =>
      if al' = al + r.extent - 1 && al' < winRegion then some { mk .glob al with win := true } else none
    | _, _ => none

/-- R141: bytes from the first to past the last. -/
def Region.extent (r : Region) : Nat := (r.rows - 1) * r.stride + r.len
/-- R102: where the bytes of a region start in its space. -/
def Region.first (r : Region) : Nat := r.base + r.part
/-- R142: `n` bytes from offset `o` on lie in the region. -/
def Region.holds (r : Region) (o n : Nat) : Bool :=
  if r.rows ≤ 1 || r.stride = r.len then o + n ≤ r.rows * r.len
  else o / r.stride < r.rows && o % r.stride + n ≤ r.len
/-- The row of a region in which an address lies, with the rows that follow it without a gap: start and length. -/
def Region.rowAt (r : Region) (a : Nat) : Nat × Nat :=
  if r.rows ≤ 1 || r.stride = r.len then (r.first, r.rows * r.len) else (r.first + (a - r.first) / r.stride * r.stride, r.len)

/-- R102: a region as its job starts: a scratchpad region must lie in the partition that the context then has on the cluster. -/
def startRegion (s : State) (ctx : Nat) (r : Region) : Option Region :=
  match r.place with
  | .scratch cl => match scratchEntry (s.clusterOf cl) ctx with
    | some (b, size) => if r.base + r.extent ≤ size then some { r with part := b } else none
    | none => none
  | _ => some r

/-- R143: a region's span. -/
def Region.span (r : Region) : Nat × Nat := (r.base / 256 * 256, (r.base + r.extent + 255) / 256 * 256)
/-- R143: two spans of one space meet. -/
def spansMeet (a b : Option Region) : Bool :=
  match a, b with
  | some x, some y => x.place == y.place && x.span.1 < y.span.2 && y.span.1 < x.span.2
  | _, _ => false

/-! ## Schedulers and handles (R145, R148, R149, R447) -/

/-- R447: the scheduler that a core issues to. -/
def schedOf (core : Nat) : Nat :=
  match clusterOfCore core with
  | some cl => cl
  | none => 128 + (core - 1152) / 16

/-- An empty slot. -/
def Job.none : Job :=
  { ctx := 65536, gen := 0, state := .empty, status := 0, scope := 3, card := 0, engine := 0, gid := 0, team := Option.none,
    gidx := 0, cluster := 0, sup := false, rd0 := Option.none, rd1 := Option.none, wr := Option.none, edges := [], readsDone := false,
    pc := 0, phase := 0, unit := 0, counted := 0, buf := [], resume := false, pseq := 0, out := [] }

/-- A scheduler's slot. -/
def State.job (s : State) (sched slot : Nat) : Job := SMap.get Job.none (SMap.get [] s.scheds sched) slot
/-- Replaces a scheduler's slot. -/
def State.setJob (s : State) (sched slot : Nat) (j : Job) : State :=
  { s with scheds := SMap.put s.scheds sched (SMap.put (SMap.get [] s.scheds sched) slot j) }

/-- The job is in flight. -/
def Job.live (j : Job) : Bool := j.state == .pending || j.state == .running || j.state == .parked
/-- R150: the slot's job has not started. -/
def Job.pending (j : Job) : Bool := j.state == .pending

/-- Every slot of every scheduler: scheduler, slot, job. -/
def State.jobs (s : State) : List (Nat × Nat × Job) := s.scheds.flatMap (fun e => e.2.map (fun x => (e.1, x.1, x.2)))

/-- R145: the slots of a scheduler that hold no job. -/
def freeSlots (s : State) (sched : Nat) : List Nat := (List.range 256).filter (fun k => !(s.job sched k).live)

/-- R148: a handle. -/
def handleOf (sched slot engine : Nat) (gen : Word) : DWord :=
  BitVec.ofNat 64 (gen.toNat + slot * 2 ^ 32 + engine * 2 ^ 48 + sched * 2 ^ 56)

/-- R373, R447: the engines that run a type. -/
def enginesOf (ty sched : Nat) : List Nat :=
  if ty = 0x03 || ty = 0x04 then [4, 5] else if ty = 0x05 || sched = 255 then [0x10] else [0, 1, 2, 3]

/-- R143, R447: the edges of a new job of a scheduler: the earlier jobs of its context and cluster (of the same scheduler, on a service die) still in flight that its regions meet; an edge names a job by 256 × scheduler + slot, its generation, and whether its reads are enough. -/
def edgesOf (s : State) (sched : Nat) (j : Job) : List (Nat × Word × Bool) :=
  s.jobs.filterMap (fun e =>
    let i := e.2.2
    if i.live && i.ctx = j.ctx && i.cluster = j.cluster && (j.cluster < 72 || e.1 = sched) then
      if spansMeet i.wr j.rd0 || spansMeet i.wr j.rd1 || spansMeet i.wr j.wr then some (256 * e.1 + e.2.1, i.gen, false)
      else if spansMeet i.rd0 j.wr || spansMeet i.rd1 j.wr then some (256 * e.1 + e.2.1, i.gen, true)
      else none
    else none)

/-- R144: an edge has resolved. -/
def edgeDone (s : State) (e : Nat × Word × Bool) : Bool :=
  let i := s.job (e.1 / 256) (e.1 % 256)
  i.gen != e.2.1 || !i.live || (e.2.2 && i.readsDone)

/-- R148: the next generation. -/
def nextGen (x : Word) : Word := if x + 1 = 0 then 1 else x + 1

/-- R159: the read span of a gate job is that of its source. -/
def gateOf (s : State) (ctx : Ctx) (card : BitVec 512) : Option GateDesc :=
  if ctx.kind = 0 then none
  else match SMap.find? s.worlds ctx.world.toNat with
    | some w => List.find? (fun (d : GateDesc) => d.gid = cardTops card 80 4) w.gates
    | none => none

/-- R159, R402: the gate, when the job may run. -/
def gateOk (s : State) (ctx : Ctx) (card : BitVec 512) : Option GateDesc :=
  match gateOf s ctx card with
  | some d =>
    let off := cardTops card 0 40
    let len := cardTops card 40 40
    if ctx.ckey.toNat = d.skey && off + len ≤ d.slen.toNat && off % 64 = 0 && len % 64 = 0 then some d else none
  | none => none

/-- R371, R142, R145, R148: submits a card: the handle, or none while all slots are taken. `bad` marks a card that could not be built. -/
def submit (s : State) (gid : Nat) (g : Group) (ctx : Ctx) (lane : Nat) (pc : DWord) (card : BitVec 512) (bad gate : Bool) :
    Option (DWord × State) :=
  let core := coreOfGid gid
  let home := schedOf core
  let ty := cardType card
  let sched := if ty = 0x05 then 255 else home
  let free := freeSlots s sched
  match free[Config.jobPick s.clock 0 % free.length]? with
  | none => none
  | some slot =>
    let engines := enginesOf ty sched
    let engine := engines.getD (Config.jobPick s.clock 1 % engines.length) 0
    let gen := nextGen (s.job sched slot).gen
    let rr (k : Nat) : Option Region :=
      if (cardRegion card k).present then resolveRegion s core ctx g lane (cardRegion card k) else none
    let placed := [0, 1, 2].all (fun k => !(cardRegion card k).present || (rr k).isSome)
    let gd := if ty = 0x06 then gateOk s ctx card else none
    let ok := !bad && cardOk card ctx.ckey (isService core) gate && placed && (ty != 0x06 || gd.isSome)
    let rd0 := match gd with
      | some d => some { place := .glob, base := d.sbase.toNat + cardTops card 0 40, len := cardTops card 40 40, rows := 1,
                         stride := cardTops card 40 40 : Region }
      | none => rr 0
    let sc := cardField card 13 2
    let j : Job :=
      { Job.none with
        ctx := g.ctx, gen := gen, state := if ok then .pending else .complete, status := if ok then 0 else 3,
        scope := if sc = 3 then 3 else if sc = 0 && isRing core then 4 else 3 + sc, card := card, engine := engine, gid := gid,
        team := g.team, gidx := g.gidx, cluster := home, sup := g.sup, pc := pc.toNat, rd0 := if ok then rd0 else none,
        rd1 := if ok then rr 1 else none, wr := if ok then rr 2 else none, readsDone := !ok,
        phase := if ty = 0x02 then 1 else 0 }
    let j := { j with edges := if ok then edgesOf s sched j else [] }
    some (handleOf sched slot engine gen, s.setJob sched slot j)

/-- R149: the scheduler that a handle names. -/
def handleSched (h : DWord) : Nat := fieldNat h 56 8
/-- R149: the slot that a handle names. -/
def handleSlot (h : DWord) : Nat := fieldNat h 32 16

/-- R149: the code of a handle, the status that goes with it, and the job that its slot last held. A scheduler has 256 slots; the table names no result for a SLOT of 256 or more, which is INVALID here (DESIGN CHOICE, log entry 52). -/
def classify (s : State) (ctx : Nat) (h : DWord) : Nat × Nat × Job :=
  let cl := handleSched h
  let en := fieldNat h 48 8
  let j := s.job cl (handleSlot h)
  let age := j.gen - (field h 0 32 : Word)
  if !(cl < 72 || (128 ≤ cl && cl < 136) || cl = 255) || !(en < 6 || en = 0x10) || field h 0 32 = (0 : Word) ||
      256 ≤ handleSlot h || 2 ^ 31 ≤ age.toNat || j.ctx ≠ ctx then (4, 0, j)
  else if age ≠ 0 then (3, 0, j)
  else if j.state = .pending then (0, 0, j)
  else if j.state = .running || j.state = .parked then (1, 0, j)
  else if j.state = .complete then (2, j.status, j)
  else (4, 0, j)

/-- R378: the result word of fwait and ftest. -/
def futureWord (code status : Nat) : Word := BitVec.ofNat 32 (code + if code = 2 then 256 * status else 0)

/-- R149, R378: DONE and EXPIRED carry an acquire at the job's scope, for a waiter within it. -/
def futureAcquire (s : State) (gid : Nat) (g : Group) (code : Nat) (j : Job) : State :=
  if (code = 2 || code = 3) && (j.scope ≠ 3 || clusterOfCore (coreOfGid gid) = some j.cluster) then acquire s gid g j.scope
  else s

/-- A job has made its last access. -/
def Job.finish (j : Job) (status : Nat) : Job := { j with phase := 3, status := status, readsDone := true }
/-- A job is over. -/
def Job.end (j : Job) (status : Nat) : Job :=
  { j with state := .complete, phase := 3, status := status, readsDone := true, edges := [], buf := [], out := [], resume := false }

/-- R150: cancels a pending job. -/
def cancelJob (s : State) (ctx : Nat) (h : DWord) : Bool × State :=
  if (classify s ctx h).1 = 0 then
    (true, s.setJob (handleSched h) (handleSlot h) ((s.job (handleSched h) (handleSlot h)).end 4))
  else (false, s)

/-! ## Accesses of a job (R146, R151, R161, R375) -/

/-- The cluster whose TLB and walkers a scheduler's jobs use. -/
def schedCluster (sched : Nat) (j : Job) : Option Nat := if sched < 72 then some sched else if j.cluster < 72 then some j.cluster else none

/-- Who makes accesses for a group: a job, a sequencer, a frame-engine job. -/
structure Actor where
  /-- The number that stands for it where a group's would stand, and the source of the writes that the switch sends back. -/
  id   : Nat
  src  : Source
  /-- R87: the class of its accesses. -/
  cls  : Nat
  cl   : Option Nat
  ctx  : Nat
  sup  : Bool
  /-- R96: the alias number of its group. -/
  self : Nat
  /-- R159: the leaf key that it requires beside its context's. -/
  key  : Option (BitVec 8) := none
  /-- R135: the core whose earlier stores it follows. -/
  core : Option Nat := none
  deriving DecidableEq, Repr

/-- R96: an alias number that no group has. -/
def noAlias : Nat := 2 ^ 40

/-- R87, R375: a job's accesses. -/
def jobActor (s : State) (sched slot : Nat) (j : Job) : Actor :=
  { id := jobGid sched slot, src := .job sched slot, cls := 3, cl := schedCluster sched j, ctx := j.ctx, sup := j.sup,
    self := match j.team.bind (SMap.find? s.teams) with
      | some t => t.tidx * 128 + j.gidx
      | none => noAlias }

/-- What an access came to. -/
inductive JRes where
  | ok
  | wait
  /-- R146: cause, address, level, entry, window, frame tag and format. -/
  | fault (cause va level : Nat) (entry : DWord) (ftag : BitVec 8) (ffmt : BitVec 3)
  /-- Uncorrectable data. -/
  | error
  deriving DecidableEq, Repr

/-- R56: what is written together with an access: of a row of virtual addresses, the part in the frame of the access, by frame-space address. -/
def rowPlaced (row : Nat × Nat) (va addr : Nat) : Nat × Nat :=
  let before := min (va - row.1) (addr % 65536)
  (addr - before, row.2 - (va - row.1) + before)

/-- R69, R87: an actor asks for its turn at a home, and keeps at most that one place. -/
def actorAsk (s : State) (b : Actor) (a : GAddr) (n : Nat) : Bool × State :=
  let others := { s with homeQ := s.homeQ.filter (fun x => !(x.looks && x.src = .party b.id && x.dst.addr ≠ a.addr)) }
  match homeAsk others (.party b.id) b.cls { a with rep := none } n 0 with
  | (true, s) => (true, openRow (dropLooks s (.party b.id)) a.addr n)
  | (false, s) => (false, s)

/-- R56, R69, R87, R135, R161: an actor's access at the home that its translation gives. -/
def actorHome (s : State) (b : Actor) (va : Nat) (a : GAddr) (n : Nat) (acc : Acc) (entry : DWord) (whole : List (Nat × Nat)) :
    JRes × Option GAddr × State :=
  let s := sense s a.addr n whole
  match homeCheck s a n whole with
  | .fault cause tag fmt => if cause = 0x0F then (.error, none, s) else (.fault cause va 0 entry tag fmt, none, s)
  | .wait => (.wait, none, homeKeep (startThaw s a.addr false) (.party b.id) b.cls { a with rep := none } n 0)
  | .ok =>
    if b.core.any (fun c => homeBusy s c (lineOf a.addr)) then (.wait, none, s)
    else if atSwitch s b.ctx a acc then (.ok, some a, s)
    else match actorAsk s b a n with
      | (true, s) => (.ok, some a, s)
      | (false, s) => (.wait, none, s)

/-- R7, R15, R24, R25, R26, R56, R59, R69, R159: translates and checks an access of an actor; `row` is the run of addresses that it writes. -/
def jobTarget (s : State) (b : Actor) (va n : Nat) (acc : Acc) (row : Nat × Nat) : JRes × Option GAddr × State :=
  if 2 ^ 56 ≤ va then (.fault 0x01 va 0 0 0 0, none, s)
  else if winRegion ≤ va then (.fault 0x02 va 0 0 0 0, none, s)
  else match s.ctxOf? b.ctx with
  | none => (.error, none, s)
  | some ctx =>
    match translate s none b.cl b.ctx ctx va acc b.sup with
    | (.wait, s) => (.wait, none, s)
    | (.fault f, s) => (.fault f.cause va f.level f.entry 0 0, none, s)
    | (.ok a level entry, s) =>
      if b.key.any (fun k => k ≠ a.key) then (.fault 0x0B va level entry 0 0, none, s)
      else actorHome (reach s b.ctx b.cl a.addr) b va a n acc entry
        (if acc == .store then [rowPlaced row va a.addr] else if acc == .atomic then [(a.addr, 0)] else [])

/-- R16: the fault of an access beyond the declared size of shared memory. -/
def outside (s : State) (p : Place) (addr n : Nat) : Option JRes :=
  match p with
  | .shared t =>
    if (SMap.find? s.teams t).any (fun x => decide (addr + n ≤ x.sharedBytes)) then none
    else some (.fault 0x02 (winShared + addr) 0 0 0 0)
  | _ => none

/-- A read of at most 64 bytes within one 64-byte block. -/
def jobRead (s : State) (b : Actor) (p : Place) (addr n : Nat) : JRes × List Byte × State :=
  match outside s p addr n with
  | some f => (f, [], s)
  | none => match p with
    | .glob => match jobTarget s b addr n .load (addr, n) with
      | (.ok, some a, s) => match repFault s b.id a with
        | some s => (.error, [], s)
        | none =>
          if a.rep.isSome && repBusy s b.id a then (.wait, [], s)
          else match homeRead s b.id b.ctx a n with
            | (some bs, s) => (.ok, readSees s b.self a n bs, s)
            | (none, s) => (.wait, [], s)
      | (r, _, s) => (r, [], s)
    | p => (.ok, readPlace s p addr n, s)

/-- R161: a write to a replica page goes to the switch, and is performed once it has answered. -/
def repWrite (s : State) (b : Actor) (a : GAddr) (bs : List Byte) : JRes × State :=
  match repFault s b.id a with
  | some s => (.error, s)
  | none => match s.reps.find? (fun r => r.gid = b.id && r.write && r.va = a.va && r.atom.isNone) with
    | some r => if r.got.isSome then (.ok, { s with reps := s.reps.erase r }) else (.wait, s)
    | none => (.wait, repSend s b.id b.ctx (a.rep.getD 0) a true
        [{ cls := b.cls, arrival := s.clock, src := b.src, dst := a, op := .write bs, pc := 0, aged := false }] none)

/-- A write of at most 64 bytes within one 64-byte block, part of a row. -/
def jobWrite (s : State) (b : Actor) (p : Place) (addr : Nat) (bs : List Byte) (row : Nat × Nat) : JRes × State :=
  match outside s p addr bs.length with
  | some f => (f, s)
  | none => match p with
    | .glob => match jobTarget s b addr bs.length .store row with
      | (.ok, some a, s) =>
        if a.rep.isSome then repWrite s b a bs else (.ok, performWhole s b.id a bs [rowPlaced row addr a.addr])
      | (r, _, s) => (r, s)
    | p => (.ok, writePlace s p addr bs)

/-- The pieces of a run of bytes, cut at 64-byte boundaries: address and length. -/
def cut64 (a n : Nat) : List (Nat × Nat) :=
  if n = 0 then []
  else (List.range ((a % 64 + n + 63) / 64)).map (fun k =>
    let lo := max a ((a / 64 + k) * 64)
    (lo, min (a + n) ((a / 64 + k + 1) * 64) - lo))

/-- The pieces of a region, in order. -/
def Region.pieces (r : Region) : List (Nat × Nat) := (List.range r.rows).flatMap (fun i => cut64 (r.first + i * r.stride) r.len)

/-- R146: the first piece of the 256-byte unit in which piece k lies. -/
def unitStart (ps : List (Nat × Nat)) (k : Nat) : Nat :=
  match ps[k]? with
  | none => k
  | some p => k - (((ps.take k).reverse).takeWhile (fun q => q.1 / 256 = p.1 / 256)).length

/-- A job under way. -/
structure JRun where
  s   : State
  j   : Job
  res : JRes
  deriving DecidableEq, Repr

/-- R151: `n` more bytes of the write region count into the barrier object. -/
def jobCount (s : State) (j : Job) (n : Nat) : State :=
  match j.team with
  | some t => if cardField j.card 8 1 = 1 then landBytes s t (cardField j.card 9 4) n else s
  | none => s

/-- Reads the pieces of a region that are not read yet. -/
def readPieces (sched slot : Nat) (s : State) (j : Job) (r : Region) : JRun :=
  (r.pieces.drop j.unit).foldl (fun x p => if x.res ≠ .ok then x
    else match jobRead x.s (jobActor x.s sched slot x.j) r.place p.1 p.2 with
      | (.ok, bs, s) => { x with s := s, j := { x.j with unit := x.j.unit + 1, buf := x.j.buf ++ bs } }
      | (f, _, s) => { x with s := s, res := f }) { s := s, j := j, res := .ok }

/-- Writes the pieces of a region that are not written yet; `data` gives the bytes of a range of the region. `who` makes the writes. -/
def writePieces (who : Actor) (s : State) (j : Job) (w : Region) (data : Nat → Nat → List Byte) : JRun :=
  let start := ((w.pieces.take j.unit).map (·.2)).foldl (· + ·) 0
  ((w.pieces.drop j.unit).foldl (fun (r : JRun × Nat) x => if r.1.res ≠ .ok then r
    else
      let bs := data r.2 x.2
      match jobWrite r.1.s who w.place x.1 bs (w.rowAt x.1) with
      | (.ok, s) =>
        let k := r.1.j.unit + 1
        let s := if r.1.j.counted < k then jobCount s r.1.j x.2 else s
        ({ r.1 with s := s, j := { r.1.j with unit := k, counted := max r.1.j.counted k } }, r.2 + x.2)
      | (f, s) => ({ r.1 with s := s, res := f }, r.2)) ({ s := s, j := j, res := .ok }, start)).1

/-- Reads a run of at most 64 bytes that may cross a block. -/
def readRun (sched slot : Nat) (s : State) (j : Job) (p : Place) (a n : Nat) : JRes × List Byte × State :=
  (cut64 a n).foldl (fun r x => if r.1 ≠ .ok then r
    else match jobRead r.2.2 (jobActor s sched slot j) p x.1 x.2 with
      | (.ok, bs, s) => (.ok, r.2.1 ++ bs, s)
      | (f, _, s) => (f, [], s)) (.ok, [], s)
/-- Writes a run of at most 64 bytes that may cross a block. -/
def writeRun (sched slot : Nat) (s : State) (j : Job) (p : Place) (a : Nat) (bs : List Byte) : JRes × State :=
  (cut64 a bs.length).foldl (fun r x => if r.1 ≠ .ok then r
    else jobWrite r.2 (jobActor s sched slot j) p x.1 ((bs.drop (x.1 - a)).take x.2) (a, bs.length)) (.ok, s)

/-! ## Starting, parking, ending (R144, R146) -/

/-- R144: the job may start, or go on: its edges are resolved and its engine is free. -/
def jobReady (s : State) (sched slot : Nat) (j : Job) : Bool :=
  let free := !s.jobs.any (fun e => e.1 = sched && e.2.1 ≠ slot && e.2.2.engine = j.engine && e.2.2.state == .running)
  (j.state == .pending && j.edges.all (edgeDone s) && free) || (j.state == .parked && j.resume && free) ||
    (j.state == .running && j.phase < 3)

/-- R38: the address comes from a region that the card names through the private or spill window. -/
def Job.windowed (j : Job) (va : Nat) : Bool :=
  [j.rd0, j.rd1, j.wr].any (fun r => r.any (fun r => r.win && r.base ≤ va && va < r.base + r.extent))

/-- R146: the fault record of a job. -/
def jobRec (j : Job) (cause va level : Nat) (entry : DWord) (ftag : BitVec 8) (ffmt : BitVec 3) (seq : Word) : FaultRec :=
  { cause := cause, akind := 5, level := level, straddle := false, sup := j.sup, win := j.windowed va, ctx := j.ctx,
    core := coreOfGid j.gid, va := va, pc := j.pc, lanes := 0, entry := entry.toNat, ftag := ftag.toNat, ffmt := ffmt.toNat,
    slot := slotOfGid j.gid, seq := seq.toNat }

/-- R146: what a transfer came to: the job goes on, waits, parks at `unit` or ends with ERROR. -/
def settle (sched slot : Nat) (r : JRun) (unit : Nat) : State :=
  match r.res with
  | .ok | .wait => r.s.setJob sched slot r.j
  | .error => r.s.setJob sched slot (r.j.finish 1)
  | .fault cause va level entry ftag ffmt =>
    let (seq, s) := takeSeq r.s
    let s := postFault s (jobRec r.j cause va level entry ftag ffmt seq)
    s.setJob sched slot { r.j with state := .parked, resume := false, pseq := seq, unit := unit }

/-- R144: the job runs. -/
def Job.run (j : Job) : Job := { j with state := .running, resume := false, edges := [] }

/-- R146: a parked reading phase starts its 256-byte unit again, so what it read of it is dropped. -/
def settleRead (sched slot : Nat) (r : JRun) (ps : List (Nat × Nat)) : State :=
  let u := unitStart ps r.j.unit
  let r := match r.res with
    | .fault .. => { r with j := { r.j with buf := r.j.buf.take (((ps.take u).map (·.2)).foldl (· + ·) 0) } }
    | _ => r
  settle sched slot r u

/-- Reads region 0 into the buffer; when it is whole, the job goes on to its next phase. -/
def readPhase (sched slot : Nat) (s : State) (j : Job) (r : Region) (next : State → Job → State × Job) : State :=
  let x := readPieces sched slot s j.run r
  if x.res = .ok then
    let (s, j) := next x.s { x.j with unit := 0, phase := 1 }
    s.setJob sched slot j
  else settleRead sched slot x r.pieces

/-- Writes a region from the buffer or a pattern; when it is whole, the job has phase `next`. -/
def writePhase (sched slot : Nat) (who : Actor) (s : State) (j : Job) (r : Region) (data : Nat → Nat → List Byte) (next : Nat) : State :=
  let x := writePieces who s j.run r data
  if x.res = .ok then x.s.setJob sched slot { x.j with phase := next, unit := 0 }
  else settle sched slot x (unitStart r.pieces x.j.unit)

/-- R375: COPY: every byte is read before any is written. -/
def runCopy (s : State) (sched slot : Nat) (j : Job) : State :=
  match j.rd0, j.wr with
  | some r, some w =>
    if j.phase = 0 then readPhase sched slot s j r (fun s j => (s, j))
    else writePhase sched slot (jobActor s sched slot j) s j w (sliceOf j.buf) 3
  | _, _ => s.setJob sched slot (j.run.finish 3)

/-- R375: FILL: every 4-byte unit of the region takes the value. -/
def runFill (s : State) (sched slot : Nat) (j : Job) : State :=
  match j.wr with
  | some w =>
    let v := natLe 4 (cardTops j.card 0 32)
    writePhase sched slot (jobActor s sched slot j) s j w (fun o n => (List.range n).map (fun i => v.getD ((o + i) % 4) 0)) 3
  | none => s.setJob sched slot (j.run.finish 3)

/-- R376: entries of the issuing group's width; the lanes of the last entry beyond the elements are 0. -/
def entriesOf (width : Nat) (xs : List Word) : List (SMap Word) :=
  (List.range ((xs.length + width - 1) / width)).map (fun e =>
    (List.range width).map (fun i => (i, xs.getD (width * e + i) 0)))

/-- The issuing group of a job of a team, in whatever slot it now lives. -/
def jobGroup (s : State) (j : Job) : Option (Nat × Group) :=
  List.find? (fun (e : Nat × Group) => j.team.isSome && e.2.team = j.team && e.2.gidx = j.gidx) s.groups

/-- The width of a job's issuing group. -/
def jobWidth (s : State) (j : Job) : Nat :=
  match jobGroup s j with
  | some (_, g) => g.width
  | none => 64

/-- R375: one element of a GATHER or SCATTER: index k, read, written. -/
def gatherOne (sched slot : Nat) (scatter : Bool) (r0 r1 : Region) (w : Option Region) (z : Nat) (r : JRun) : JRun :=
  let k := r.j.unit
  match readRun sched slot r.s r.j r0.place (r0.first + 4 * k) 4 with
  | (.ok, ib, s) =>
    let x := leNat ib
    let table := if scatter then w.getD r1 else r1
    let fits := if scatter then r1.holds (z * k) z else w.all (fun w => w.holds (z * k) z)
    if table.len / z ≤ x || !fits then { r with s := s, j := r.j.finish 2 }
    else match readRun sched slot s r.j r1.place (r1.first + (if scatter then z * k else z * x)) z with
      | (.ok, bs, s) => match w with
        | none => { r with s := s, j := { r.j with unit := k + 1, buf := r.j.buf ++ bs } }
        | some w => match writeRun sched slot s r.j w.place (w.first + (if scatter then z * x else z * k)) bs with
          | (.ok, s) =>
            let s := if r.j.counted < k + 1 then jobCount s r.j z else s
            { r with s := s, j := { r.j with unit := k + 1, counted := max r.j.counted (k + 1) } }
          | (f, s) => { r with s := s, res := f }
      | (f, _, s) => { r with s := s, res := f }
  | (f, _, s) => { r with s := s, res := f }

/-- R375, R376: GATHER and SCATTER. A resumed job starts at the 256-byte unit of its linear side. -/
def runGather (s : State) (sched slot : Nat) (j : Job) (scatter : Bool) : State :=
  match j.rd0, j.rd1 with
  | some r0, some r1 =>
    let z := gatherSize (cardTops j.card 0 2)
    let n := r0.len / 4
    let r := (List.range (n - j.unit)).foldl (fun r _ => if r.res ≠ .ok || r.j.phase = 3 then r
      else gatherOne sched slot scatter r0 r1 j.wr z r) { s := s, j := j.run, res := .ok }
    if r.res = .ok then
      let out := match j.wr with
        | some _ => []
        | none => entriesOf (jobWidth s j) ((List.range (r.j.buf.length / 4)).map (fun k => BitVec.ofNat 32 (leNat (sliceOf r.j.buf (4 * k) 4))))
      let j := if r.j.phase = 3 then r.j else r.j.finish 0
      r.s.setJob sched slot { j with out := out, buf := [] }
    else settle sched slot r (if j.wr.isSome then r.j.unit * z / 256 * 256 / z else r.j.unit)
  | _, _ => s.setJob sched slot (j.run.finish 3)

/-! ## Collectives (R377, R438) -/

/-- R377: the combination of two elements. -/
def collCombine (op a b : Nat) : Nat :=
  if op = 1 then (fAdd Fmt.f32 0 false a b).bits
  else if op = 2 then (fAdd Fmt.f64 0 false a b).bits
  else if op = 3 then (a + b) % 2 ^ 32
  else (fMinMax Fmt.f32 false true true a b).bits

/-- R377: the result of members' buffers in ascending rank. -/
def collResult (op : Nat) : List (List Byte) → List Byte
  | [] => []
  | b :: bs =>
    if op = 0 then b
    else
      let e := collSize op
      bs.foldl (fun acc x => (List.range (b.length / e)).flatMap (fun k =>
        natLe e (collCombine op (leNat (sliceOf acc (e * k) e)) (leNat (sliceOf x (e * k) e))))) b

/-- A group in its PREEMPT or RESTORE entry: its ports stand still (R154). -/
def Group.portsStill (g : Group) : Bool := g.sup && (g.tcause = 0x09 || g.tcause = 0x11)

/-- R152: the first queue register of a group bound to a port. -/
def Group.portReg (g : Group) (port : Nat) : Option Nat := g.queues.findIdx? (fun q => q.port = port)

/-- R377, R154: the collective-out port accepts the entries that the group has pushed, as far as the job needs them for `total` bytes of operands. -/
def acceptOut (s : State) (j : Job) (total : Nat) : State × Job :=
  match jobGroup s j with
  | none => (s, j)
  | some (gid, g) =>
    if g.portsStill then (s, j)
    else match g.portReg 4 with
      | none => (s, j)
      | some q =>
        let r := g.queues.getD q QReg.init
        let need := (total - j.buf.length + 4 * g.width - 1) / (4 * g.width)
        let bs := (r.fifo.take need).flatMap (fun e => (List.range g.width).flatMap (fun i => natLe 4 (SMap.get 0 e i).toNat))
        (s.setGroup gid { g with queues := g.queues.set q { r with fifo := r.fifo.drop need } }, { j with buf := j.buf ++ bs })

/-- R377: COLLECTIVE: reads the buffer (or takes entries), combines it with the other members', and writes the result (or queues it). -/
def runCollective (s : State) (sched slot : Nat) (j : Job) (peers : List CollPeer) : State :=
  match SMap.find? s.colls (cardTops j.card 0 8), j.rd0, j.wr with
  | some c, some r, some w =>
    if c.ctx ≠ j.ctx then s.setJob sched slot (j.run.finish 3)
    else
      let op := cardTops j.card 8 3
      let total := r.len * r.rows
      if j.phase = 0 then
        if cardTops j.card 11 1 = 1 then
          let (s, j) := acceptOut s j.run total
          if total ≤ j.buf.length then s.setJob sched slot { j with buf := j.buf.take total, phase := 1 } else s.setJob sched slot j
        else readPhase sched slot s j r (fun s j => (s, j))
      else if j.phase = 1 then
        let others := (List.range c.members.length).filter (fun k => k ≠ c.rank)
        let mine : CollPeer := { rank := c.rank, n := total / collSize op, data := j.buf }
        let all := (List.range c.members.length).map (fun k =>
          if k = c.rank then some mine else peers.find? (fun p => p.rank = k))
        if others.any (fun k => !peers.any (fun p => p.rank = k)) then s.setJob sched slot j.run
        else
          let ms := all.filterMap id
          if ms.any (fun p => p.n ≠ mine.n || p.data.length ≠ j.buf.length) then s.setJob sched slot (j.run.finish 1)
          else
            let res := collResult op (ms.map (·.data))
            if cardTops j.card 12 1 = 1 then
              s.setJob sched slot { j.run.finish 0 with
                out := entriesOf (jobWidth s j) ((List.range (res.length / 4)).map (fun k => BitVec.ofNat 32 (leNat (sliceOf res (4 * k) 4)))) }
            else s.setJob sched slot { j.run with phase := 2, unit := 0, buf := res }
      else writePhase sched slot (jobActor s sched slot j) s j w (sliceOf j.buf) 3
  | _, _, _ => s.setJob sched slot (j.run.finish 3)

/-! ## Completion as a release (R147) -/

/-- R147, R161: every write of the job has been performed: none waits at a home or at the switch. -/
def jobWritesDone (s : State) (sched slot : Nat) : Bool :=
  !s.homeQ.any (fun r => r.src = .job sched slot) && !s.reps.any (fun r => r.gid = jobGid sched slot && r.write)

/-- R77, R129, R147: a completion at dev or sys first drains the shadow reductions of the job's die; at sys every CXL and replica write must then have been acknowledged (R120). -/
def jobReleased (s : State) (j : Job) : Bool × State :=
  if j.scope < 4 then (true, s)
  else
    let s := if j.cluster < 72 then mergeShadows s j.cluster (fun _ => true) else s
    ((72 ≤ j.cluster || shadowsDone s (16 * j.cluster)) && (j.scope < 5 || sysDone s), s)

/-! ## Gates (R159) -/

/-- R159: GATE: reads through the issuing context, writes through the destination's, then adds 1 to the counter as a release at dev. -/
def runGate (s : State) (sched slot : Nat) (j : Job) : State :=
  match (s.ctxOf? j.ctx).bind (fun c => gateOk s c j.card), j.rd0 with
  | some d, some r =>
    let dead := s.ctxs.any (fun e => e.2.dead && (some e.2.world = (s.ctxOf? j.ctx).map (·.world)) &&
      (e.2.ckey.toNat = d.skey || e.2.ckey.toNat = d.dkey))
    if dead then s.setJob sched slot (j.run.finish 1)
    else if j.phase = 0 then readPhase sched slot s j r (fun s j => (s, j))
    else
      let who := { jobActor s sched slot j with ctx := d.dctxn, key := some (BitVec.ofNat 8 d.dkey), self := noAlias }
      if j.phase = 1 then writePhase sched slot who s j { r with base := d.dbase.toNat + cardTops j.card 0 40 } (sliceOf j.buf) 2
      else gateNotify s sched slot j who d.naddr.toNat
  | _, _ => s.setJob sched slot (j.run.finish 3)
where
  gateNotify (s : State) (sched slot : Nat) (j : Job) (who : Actor) (naddr : Nat) : State :=
    let add : AtomOp := .rmw { op := 0, ty := 3 } 1
    match if s.homeQ.any (fun r => r.src = .job sched slot) then (false, s) else jobReleased s j with
    | (false, s) => s.setJob sched slot j.run
    | (true, s) => match jobTarget s who naddr 8 .atomic (naddr, 8) with
      | (.ok, some a, s) => match repFault s who.id a with
        | some s => s.setJob sched slot (j.run.finish 1)
        | none =>
          if a.rep.isSome then match repAtomic s who.id who.ctx a 8 add with
            | (some _, s) => s.setJob sched slot (j.run.finish 0)
            | (none, s) => s.setJob sched slot j.run
          else match cxlRead s a.addr false with
            | (false, s) => s.setJob sched slot j.run
            | (true, s) => (performWrite s who.id a (natLe 8 ((add.value (s.num a.addr 8)).getD 0))).setJob sched slot (j.run.finish 0)
      | (f, _, s) => settle sched slot { s := s, j := j.run, res := f } j.unit

/-! ## Sealed pages (R84-R86) -/

/-- The compartment of a context, as one number. -/
def compartment (c : Ctx) : Nat := 256 * c.world.toNat + c.ckey.toNat
/-- R84: the image of a page: a 64-byte header with address, version and tag, then the ciphertext (DESIGN CHOICE, log entry 8). -/
def sealImage (comp page v : Nat) : List Byte :=
  natLe 8 page ++ natLe 8 v ++ (List.range 16).map (fun i => Config.sealByte comp page v i) ++
    (List.range 32).map (fun i => Config.sealHeader comp page v i) ++
    (List.range 65536).map (fun i => Config.sealByte comp page v (16 + i))

/-- The plaintext of a page as sparse data: bytes that are not 0. -/
def plainOf (bs : List Byte) : SMap Byte :=
  (List.zip (List.range bs.length) bs).filter (fun e => e.2 != 0)

/-- R84: SEAL: takes the next version, records it, and writes the image. -/
def runSeal (s : State) (sched slot : Nat) (j : Job) : State :=
  match j.rd0, j.wr, s.ctxOf? j.ctx with
  | some r, some w, some c =>
    if j.phase = 0 then readPhase sched slot s j r (fun s j =>
      let comp := compartment c
      let stack := r.base / 65536 % 72
      let old := s.versions.filter (fun x => x.world = c.world && x.key = c.ckey && x.page.toNat = r.base)
      let kept := s.versions.filter (fun x => !(x.world = c.world && x.key = c.ckey && x.page.toNat = r.base))
      if old.isEmpty && 2 ^ 20 ≤ (s.versions.filter (fun x => x.stack = stack)).length then (s, j.finish 1)
      else
        let v := SMap.get 0 s.evict comp + 1
        ({ s with evict := SMap.put s.evict comp v,
                  versions := kept ++ [{ world := c.world, key := c.ckey, page := BitVec.ofNat 64 r.base, v := BitVec.ofNat 64 v,
                                         stack := stack, plain := plainOf j.buf }] },
         { j with buf := sealImage comp r.base v }))
    else writePhase sched slot (jobActor s sched slot j) s j w (sliceOf j.buf) 3
  | _, _, _ => s.setJob sched slot (j.run.finish 3)

/-- R39, R86: every context of a compartment is terminated, with cause INTEGRITY raised in it. -/
def terminate (s : State) (c : Ctx) : State :=
  { s with ctxs := s.ctxs.map (fun (e : Nat × Ctx) =>
      (e.1, if e.2.world = c.world && e.2.ckey = c.ckey then { e.2 with dead := true, raised := 0x10 } else e.2)) }

/-- R85: the three checks of an image: the address and the version of its header, and its tag, which verifies over one ciphertext alone. The rest of the header is in none of them. -/
def sealChecks (image : List Byte) (comp page v : Nat) : Bool :=
  let right := sealImage comp page v
  image.take 32 = right.take 32 && image.drop 64 = right.drop 64

/-- R85: what an unseal writes, block by block: the page, or zeros when a check has failed; the checks, once. The version is deleted; a failure terminates the compartment's contexts, and the host's status word tells which it was (R86). -/
def unsealCheck (s : State) (j : Job) (c : Ctx) : State × Job :=
  let page := cardTops j.card 32 56
  let mine (x : Version) : Bool := x.world = c.world && x.key = c.ckey && x.page.toNat = page
  match s.versions.find? (fun x => mine x && sealChecks j.buf (compartment c) page x.v.toNat) with
  | some x => ({ s with versions := s.versions.filter (fun y => !mine y), unseals := s.unseals ++ [0] },
      { j with phase := 2, unit := 0, status := 0, buf := (List.range 65536).map (SMap.get 0 x.plain) })
  | none => ({ terminate s c with unseals := s.unseals ++ [1] },
      { j with phase := 2, unit := 0, status := 1, buf := List.replicate 65536 0 })

/-- R53, R59, R68, R69, R85: an unseal writes the blocks of its frame, or clears them, in turn at their homes. -/
def unsealWrite (sched slot : Nat) (f : Nat) (s : State) (j : Job) : JRun :=
  let who := jobActor s sched slot j
  (List.range (128 - j.unit)).foldl (fun r _ => if r.res ≠ .ok then r
    else
      let at_ := 65536 * f + 512 * r.j.unit
      let d := r.s.dirOf f
      let a : GAddr := { place := .glob, addr := at_, key := d.ktag, gc := d.fmt, cp := 1, rep := none, va := 0, ctx := r.j.ctx }
      match actorHome (reach r.s r.j.ctx who.cl at_) who 0 a 512 .store 0 [(at_, 512)] with
      | (.ok, some _, s) =>
        { r with s := storeFrame s who.id at_ (sliceOf r.j.buf (512 * r.j.unit) 512), j := { r.j with unit := r.j.unit + 1 } }
      | (f, _, s) => { r with s := s, res := f }) { s := s, j := j, res := .ok }

/-- R85, R86: UNSEAL: when address, version and tag agree the frame receives the page and the version is deleted; otherwise the frame is cleared and the compartment's contexts are terminated. The manual gives the integrity error no number of its own: it is status ERROR, as for a destination that is not allocated with the compartment's key (DESIGN CHOICE, log entry 8). -/
def runUnseal (s : State) (sched slot : Nat) (j : Job) : State :=
  match j.rd0, s.ctxOf? j.ctx with
  | some r, some c =>
    let f := cardTops j.card 0 30
    let d := s.dirOf f
    if j.phase = 0 then readPhase sched slot s j r (fun s j => (s, j))
    else if d.state = 0 || d.ktag ≠ c.ckey then s.setJob sched slot (j.run.finish 1)
    else
      let x := if j.phase = 1 then unsealCheck s j.run c else (s, j.run)
      let w := unsealWrite sched slot f x.1 x.2
      match w.res with
      | .ok => w.s.setJob sched slot (w.j.finish w.j.status)
      | .wait => w.s.setJob sched slot w.j
      | _ => w.s.setJob sched slot (w.j.finish 1)
  | _, _ => s.setJob sched slot (j.run.finish 3)

end Sys2Proof.Machine
end

