-- ==== Sys2Proof/Machine/Fetch.lean ====
section
/-! DEFINITION. Fetching a clause: its words from memory, the faults of a fetch, and the checks of header and positions (11_isa_conventions R243, R244; 09_traps_faults R199, R215, R216; 01_address_spaces R15, R24; 12_opcode_map R258-R264). -/

namespace Sys2Proof.Machine

/-- What the fetch of a clause came to. -/
inductive FetchRes where
  | ok (hdr : Word) (words : List Word)
  | wait
  /-- R215: cause, level, entry, frame tag and format; VADDR, PC, STRADDLE. -/
  | fault (cause level : Nat) (entry : DWord) (ftag : BitVec 8) (ffmt : BitVec 3) (va pc : Nat) (straddle : Bool)
  deriving DecidableEq, Repr

/-- R215: a word's fault, where an instruction at `x` has a word at `a` and the clause's header stands at `h`. -/
def fetchFault (h x a cause level : Nat) (entry : DWord) (ftag : BitVec 8) (ffmt : BitVec 3) : FetchRes :=
  if a = h then .fault cause level entry ftag ffmt h h false
  else if a / 65536 = h / 65536 then .fault cause level entry ftag ffmt a h false
  else .fault cause level entry ftag ffmt (a / 65536 * 65536) x true

/-- Fetches `n` instructions from address `x` on. -/
def fetchInsns (s : State) (gid : Nat) (g : Group) (ctx : Ctx) (h : Nat) : Nat → Nat → List Word → FetchRes × State
  | 0, _, acc => (.ok 0 acc, s)
  | n + 1, x, acc =>
    match fetchWord s gid g ctx x with
    | (.wait, s) => (.wait, s)
    | (.fault cause level e tag fmt, s) => (fetchFault h x x cause level e tag fmt, s)
    | (.ok w, s) =>
      if w.getLsbD 31 then
        match fetchWord s gid g ctx (x + 4) with
        | (.wait, s) => (.wait, s)
        | (.fault cause level e tag fmt, s) => (fetchFault h x (x + 4) cause level e tag fmt, s)
        | (.ok w1, s) => fetchInsns s gid g ctx h n (x + 8) (acc ++ [w, w1])
      else fetchInsns s gid g ctx h n (x + 4) (acc ++ [w])

/-- R215: fetches the clause at `h`: its header and, when the header stands, its instructions. -/
def fetchClause (s : State) (gid : Nat) (g : Group) (ctx : Ctx) (h : Nat) : FetchRes × State :=
  match fetchWord s gid g ctx h with
  | (.wait, s) => (.wait, s)
  | (.fault cause level e tag fmt, s) => (fetchFault h h h cause level e tag fmt, s)
  | (.ok w, s) =>
    if hdrIll w then (.ok w [], s)
    else match fetchInsns s gid g ctx h (hdrCount w) (h + 4) [] with
      | (.ok _ ws, s) => (.ok w ws, s)
      | r => r

/-! ## The checks of a clause (R199, R216) -/

/-- The first words of the instructions of a clause. -/
def firstWords : List Word → List (Word × Word)
  | [] => []
  | [w] => [(w, 0)]
  | w :: w1 :: ws => if w.getLsbD 31 then (w, w1) :: firstWords ws else (w, 0) :: firstWords (w1 :: ws)

/-- R258-R264: the engine class of an instruction by its opcode; none for an opcode that is unassigned, 8 for nop, which every class has. -/
def opClass (w : Word) : Option Nat :=
  if w.getLsbD 31 then
    let op := fieldNat w 22 9
    if op < 0x022 then some 0
    else if 0x040 ≤ op && op < 0x057 then some (if 0x046 ≤ op && op ≤ 0x04D then 5 else 1)
    else if 0x080 ≤ op && op < 0x088 then some 1
    else if 0x0A0 ≤ op && op < 0x0AD then some (if op = 0x0A7 || 0x0AB ≤ op then 3 else 0)
    else if 0x0C0 ≤ op && op < 0x0CC then some 0
    else if 0x0E0 ≤ op && op < 0x0E7 then some 3
    else if op = 0x0FB then some 8
    else if 0x0F0 ≤ op && op < 0x0FD then some 3
    else if 0x110 ≤ op && op < 0x11E then some 2
    else if 0x150 ≤ op && op < 0x15B then some 3
    else if (0x170 ≤ op && op < 0x17B) || op = 0x190 || op = 0x191 then some 4
    else if 0x1B0 ≤ op && op < 0x1BA then some 6
    else none
  else
    let op := fieldNat w 25 6
    if op = 0 then some 8
    else if op < 0x15 || op = 0x28 then some 0
    else if 0x18 ≤ op && op < 0x24 then some 1
    else if 0x30 ≤ op && op < 0x38 then some 2
    else none

/-- R199: an instruction that stands only last in its clause. -/
def lastOnly (w w1 : Word) : Bool :=
  w.getLsbD 31 &&
    (let op := fieldNat w 22 9
     (0x114 ≤ op && op ≤ 0x116) || op = 0x118 || (0x170 ≤ op && op ≤ 0x175) || op = 0x1B6 ||
       (op = 0x17A && fieldNat w1 16 8 = 2) || (0x157 ≤ op && op ≤ 0x159) || op = 0x150 || op = 0x152 || op = 0x155 ||
       op = 0x153 || op = 0x0AC || (0x0F0 ≤ op && op < 0x0FD && op ≠ 0x0FB))

/-- R199, R216: the clause raises ILLCLAUSE. -/
def clauseIll (hdr : Word) (words : List Word) : Bool :=
  hdrIll hdr ||
    (let is := firstWords words
     is.any (fun x => match opClass x.1 with
       | some c => c ≠ 8 && c ≠ hdrClass hdr
       | none => false) ||
     is.dropLast.any (fun x => lastOnly x.1 x.2) ||
     (1 < is.length && is.any (fun x => x.1.getLsbD 31 && fieldNat x.1 22 9 = 0x0E6)))

/-- The address of instruction n of a clause that starts at `h`. -/
def insnAddr (h : DWord) (words : List Word) (n : Nat) : DWord :=
  ((firstWords words).take n).foldl (fun a x => a + (if x.1.getLsbD 31 then 8 else 4)) (h + 4)

/-- The address of instruction `idx` of the clause at `pc`, as the group's fetch sees it now; the header's where it cannot be fetched. -/
def insnAddrAt (s : State) (gid : Nat) (g : Group) (pc : DWord) (idx : Nat) : DWord :=
  match s.ctxOf? g.ctx with
  | some ctx => match (fetchClause s gid g ctx pc.toNat).1 with
    | .ok _ ws => insnAddr pc ws idx
    | _ => pc
  | none => pc

end Sys2Proof.Machine
end

