-- ==== Sys2Proof/Machine/Data.lean ====
section
/-! DEFINITION. Moves, index registers, the region buffer, predicates, scalar instructions and group-wide operations (15_isa_data_group_control R314-R322, R325-R330). -/

namespace Sys2Proof.Machine

open Form

/-! ## Moves and index registers -/

/-- MOV_SHORT, R317. -/
def execMovShort (o : SOps) (s : State) : Out := shortOp1 s o (fun a => a)
/-- MOV, R317. -/
def execMov (o : Ops) (s : State) : Out :=
  let w := t64 o.var
  if o.sB then intOp s o [.ss w o.b] w (fun g _ _ => sca g w o.b)
  else intOp s o [.vs w o.a] w (fun g c i => vec g c i w o.a)
/-- MOVI, R317. -/
def execMovi (o : Ops) (s : State) : Out := intOp s o [] false (fun _ _ _ => o.w1.setWidth 64)
/-- MOVH, R317. -/
def execMovh (o : Ops) (s : State) : Out :=
  intOp s o [] true (fun g c i => o.w1 ++ (field (vec g c i true o.d) 0 32 : Word))
/-- S2V, R318. -/
def execS2v (o : Ops) (s : State) : Out :=
  let w := t64 o.var
  intOp s o [.ss w o.a, .ss w o.b] w
    (fun g _ i => wrap w (asInt w false (sca g w o.a) + i * asInt w false (sca g w o.b)))

/-- R319, R330: a lane number that names a live lane of the group. -/
def laneOf (g : Group) (n : Nat) : Option Nat := if n < g.width && g.lmask.getLsbD n then some n else none
/-- R251, R319, R330: the REGBOUNDS of an operand that one lane supplies. -/
def laneBounds (g : Group) (act : DWord) (l : Option Nat) (w64 : Bool) (code : BitVec 8) : Option OpTrap :=
  match l with
  | some n => if act = 0 then none else (vecBounds g (BitVec.twoPow 64 n) w64 code).map (fun m => ⟨0x04, 0, 0, m⟩)
  | none => none
/-- R319: the lane number of v2s. -/
def v2sLane (g : Group) (o : Ops) : Option Nat := laneOf g (if o.li then fieldNat o.w1 8 6 else (sca32 g o.b).toNat)
/-- R319, R94: the register of a lane; a latch has no stated value in a lane outside the fragment. -/
def laneVal (s : State) (g : Group) (c : Clause) (n : Nat) (w64 : Bool) (code : BitVec 8) : DWord :=
  if 0xF0 ≤ code.toNat && code.toNat ≤ 0xF3 && !g.fmask.getLsbD n then Config.latchFree s.clock n
  else vec g c n w64 code
/-- V2S, R319. -/
def execV2s (o : Ops) (s : State) : Out :=
  checked s (fun g c => active g c o)
    ([.sd false o.d, .vs false o.a] ++ (if o.li then [] else [.ss false o.b])) (fun gid g c =>
    match laneBounds g (active g c o) (v2sLane g o) false o.a with
    | some t => opTrapHere s gid g c t
    | none =>
      let x : Word := match v2sLane g o with
        | some n => field (laneVal s g c n false o.a) 0 32
        | none => 0
      .next (retire s gid (if active g c o = 0 then g else g.setS o.d.toNat x) c none))

/-- R320: writes an index register in the active lanes. -/
def idxOp (s : State) (o : Ops) (os : List Opd) (f : Group → Clause → Nat → Word) : Out :=
  checked s (fun g c => active g c o) os (fun gid g c =>
    .next (retire s gid ((lanesOf (active g c o)).foldl (fun g' i => g'.setX i o.d.toNat (f g c i)) g) c none))
/-- IDXSET, R320. -/
def execIdxset (o : Ops) (s : State) : Out := idxOp s o [] (fun _ _ _ => o.w1)
/-- IDXADD, R320. -/
def execIdxadd (o : Ops) (s : State) : Out :=
  idxOp s o [.vs false o.a] (fun g c i =>
    let x := g.x i o.d.toNat
    let idx := (fieldNat x 16 8 + fieldNat x 24 8 + (vec32 g c i o.a).toNat % 256) % 256
    (field x 24 8 : Byte) ++ BitVec.ofNat 8 idx ++ (field x 0 16 : BitVec 16))

/-- R93, R321: the registers that rgn names, below the declared count. -/
def rgnRegs (g : Group) (o : Ops) : List Nat :=
  (((List.range (fieldNat o.w1 8 5)).map (fun j => fieldNat o.w1 0 8 + j)) ++
    ((List.range (fieldNat o.w1 24 5)).map (fun j => fieldNat o.w1 16 8 + j))).filter (fun r => r < g.regs)
/-- RGN, R321: fills the region buffer, which changes no value that an instruction reads. -/
def execRgn (o : Ops) (s : State) : Out :=
  withClause s (fun gid g c => .next (retire s gid { g with region := rgnRegs g o } c none))

/-! ## Predicates -/

/-- PLOG, R322. -/
def execPlog (o : Ops) (s : State) : Out :=
  predOp s (fun g c => active g c o) [] o.d.toNat (fun g _ i =>
    let bit (n : BitVec 8) : Nat := ((g.p n.toNat).getLsbD i).toNat
    (o.e.getLsbD (4 * bit o.a + 2 * bit o.b + bit o.c), 0))
/-- PMOV, R322. -/
def execPmov (o : Ops) (s : State) : Out :=
  predOp s (fun g c => active g c o) [.vs false o.a] o.d.toNat (fun g c i => ((vec32 g c i o.a).getLsbD o.b.toNat, 0))
/-- PMASK, R322. -/
def execPmask (o : Ops) (s : State) : Out :=
  predOp s (fun g c => active g c o) [.ss true o.a] o.d.toNat (fun g _ i => ((sca g true o.a).getLsbD i, 0))

/-! ## Scalar instructions (R325) -/

/-- R325: operand b of a scalar form. -/
def scaB (g : Group) (o : Ops) (w64 : Bool) : DWord :=
  if o.li then (if w64 then immS o else (o.imm24.signExtend 32).setWidth 64) else sca g w64 o.b
/-- R315: a scalar form of two operands; `wb` is the width of b. -/
def scaOp2 (s : State) (o : Ops) (w64 wb : Bool) (f : DWord → DWord → DWord) : Out :=
  scaOp s o (.ss w64 o.a :: if o.li then [] else [.ss wb o.b]) w64 (fun g _ => f (sca g w64 o.a) (scaB g o wb))

/-- SADD, R325. -/
def execSadd (o : Ops) (s : State) : Out := scaOp2 s o (t64 o.var) (t64 o.var) (fnAdd (t64 o.var))
/-- SSUB, R325. -/
def execSsub (o : Ops) (s : State) : Out := scaOp2 s o (t64 o.var) (t64 o.var) (fnSub (t64 o.var))
/-- SMUL, R325. -/
def execSmul (o : Ops) (s : State) : Out := scaOp2 s o (t64 o.var) (t64 o.var) (fnMul (t64 o.var))
/-- SMIN, R325. -/
def execSmin (o : Ops) (s : State) : Out := scaOp2 s o (t64 o.var) (t64 o.var) (fnMin o.var)
/-- SMAX, R325. -/
def execSmax (o : Ops) (s : State) : Out := scaOp2 s o (t64 o.var) (t64 o.var) (fnMax o.var)
/-- SAND, R325. -/
def execSand (o : Ops) (s : State) : Out := scaOp2 s o (t64 o.var) (t64 o.var) (fnAnd (t64 o.var))
/-- SOR, R325. -/
def execSor (o : Ops) (s : State) : Out := scaOp2 s o (t64 o.var) (t64 o.var) (fnOr (t64 o.var))
/-- SXOR, R325. -/
def execSxor (o : Ops) (s : State) : Out := scaOp2 s o (t64 o.var) (t64 o.var) (fnXor (t64 o.var))
/-- SSHL, R325: the count is 32 bits in every type. -/
def execSshl (o : Ops) (s : State) : Out :=
  scaOp2 s o (t64 o.var) false (fun a b => fnShl (t64 o.var) a b.toNat)
/-- SSHR, R325: arithmetic for T 0 and T 2. -/
def execSshr (o : Ops) (s : State) : Out :=
  scaOp2 s o (t64 o.var) false
    (fun a b => if o.var % 2 = 0 then fnSra (t64 o.var) a b.toNat else fnShr (t64 o.var) a b.toNat)
/-- SCMP, R325: one 32-bit result. -/
def execScmp (o : Ops) (s : State) : Out :=
  let w := t64 o.var
  scaOp s o [.ss w o.a, .ss w o.b] false (fun g _ =>
    if condInt o.c.toNat (tInt o.var (sca g w o.a)) (tInt o.var (sca g w o.b)) then 1 else 0)
/-- SMOVI, R325. -/
def execSmovi (o : Ops) (s : State) : Out := scaOp s o [] false (fun _ _ => o.w1.setWidth 64)

/-! ## Group-wide operations (R326-R330) -/

/-- R10, R174, R326: runs `k` for a converged group of a compute core when no operand traps. Order: ILLINSTR, REGBOUNDS, CONVERGE. -/
def groupWide (s : State) (act : Group → Clause → DWord) (os : List Opd) (k : Nat → Group → Clause → Out) : Out :=
  withClause s (fun gid g c =>
    if isService (coreOfGid gid) then .next (trapFrag s gid g c 0x02)
    else match illOf g c os with
      | some t => opTrapHere s gid g c t
      | none => match boundsOf g (act g c) os with
        | some t => opTrapHere s gid g c t
        | none =>
          if !g.converged then .next (trapFrag s gid g c 0x03)
          else match splitOf g (act g c) os with
            | some t => opTrapHere s gid g c t
            | none => k gid g c)

/-- R326: a group-wide form with a vector result; lanes that `f` gives nothing keep their destination. -/
def groupVec (s : State) (o : Ops) (os : List Opd) (w64 : Bool) (f : Group → Clause → Nat → Option DWord) : Out :=
  groupWide s (fun g c => active g c o) (.vd w64 o.nw o.d :: os) (fun gid g c =>
    finishVec s gid g c w64 o.nw o.d
      ((lanesOf (active g c o)).filterMap (fun i => (f g c i).map (fun x => (i, x)))) 0)

/-- VOTE, R327. -/
def execVote (o : Ops) (s : State) : Out :=
  groupWide s (fun g c => active g c o) (if o.var = 2 then [.sd true o.d] else []) (fun gid g c =>
    let act := active g c o
    let hits := g.p o.a.toNat &&& act
    let g' :=
      if o.var = 2 then g.setS64 o.d.toNat hits
      else g.setP o.d.toNat act (if (if o.var = 0 then hits = act else hits ≠ 0) then act else 0)
    .next (retire s gid g' c none))

/-- R328: the source lane of a mode. -/
def xlaneSource (mode width i b : Nat) : Option Nat :=
  if mode = 0 then some b
  else if mode = 1 then some ((i + b) % width)
  else if mode = 2 then some (i ^^^ b)
  else if 1 ≤ b && b ≤ width then some (i - i % b + (b - 1 - i % b))
  else none
/-- R328: operand b: 7 bits in LI. -/
def xlaneB (g : Group) (c : Clause) (o : Ops) (i : Nat) : Nat :=
  if o.li then fieldNat o.w1 8 7 else (bop g c o i false).toNat
/-- XLANE, R328: all sources are read before any lane is written. -/
def execXlane (o : Ops) (s : State) : Out :=
  groupVec s o (.vs false o.a :: bopd o false) false (fun g c i =>
    match xlaneSource o.var g.width i (xlaneB g c o i) with
    | some j => if j < g.width && (active g c o).getLsbD j then some (vec g c j false o.a) else none
    | none => none)

/-- R329: an operation on 32-bit values, and its identity. -/
def redOp (op : Nat) (a b : Word) : Word :=
  if op = 0 then a + b
  else if op = 1 then (if b.slt a then b else a)
  else if op = 2 then (if a.slt b then b else a)
  else if op = 3 then (if b < a then b else a)
  else if op = 4 then (if a < b then b else a)
  else if op = 5 then a &&& b
  else if op = 6 then a ||| b
  else a ^^^ b
def redId (op : Nat) : Word :=
  if op = 1 then 0x7FFFFFFF else if op = 2 then 0x80000000 else if op = 3 || op = 5 then 0xFFFFFFFF else 0
/-- R329: the operation over the lanes that a test picks, in ascending order. -/
def redOver (g : Group) (c : Clause) (o : Ops) (act : DWord) (pick : Nat → Bool) : DWord :=
  (((lanesOf act).filter pick).foldl (fun x j => redOp (o.var % 8) x (vec32 g c j o.a)) (redId (o.var % 8))).setWidth 64
/-- REDUX, R329. -/
def execRedux (o : Ops) (s : State) : Out :=
  groupVec s o [.vs false o.a] false (fun g c _ => some (redOver g c o (active g c o) (fun _ => true)))
/-- SCAN, R329. -/
def execScan (o : Ops) (s : State) : Out :=
  groupVec s o [.vs false o.a] false (fun g c i =>
    some (redOver g c o (active g c o) (fun j => if 8 ≤ o.var then j < i else j ≤ i)))
/-- MATCH, R330. -/
def execMatchLanes (o : Ops) (s : State) : Out :=
  let w := t64 o.var
  groupVec s o [.vs w o.a] true (fun g c i =>
    some (maskOf ((lanesOf (active g c o)).filter (fun j => vec g c j w o.a == vec g c i w o.a))))
/-- R330: the source lane of bcast. -/
def bcastLane (g : Group) (c : Clause) (o : Ops) : Option Nat :=
  if o.li then laneOf g (fieldNat o.w1 8 6)
  else if o.sB then laneOf g (sca32 g o.b).toNat
  else match lanesOf (active g c o) with
    | [] => none
    | i :: _ => laneOf g (vec32 g c i o.b).toNat
/-- BCAST, R330. -/
def execBcast (o : Ops) (s : State) : Out :=
  let w := t64 o.var
  groupWide s (fun g c => active g c o) (.vd w o.nw o.d :: .vs w o.a :: (if o.li then [] else bopd o false))
    (fun gid g c => match laneBounds g (active g c o) (bcastLane g c o) w o.a with
    | some t => opTrapHere s gid g c t
    | none => finishVec s gid g c w o.nw o.d ((lanesOf (active g c o)).map (fun i =>
        (i, match bcastLane g c o with
          | some n => laneVal s g c n w o.a
          | none => vec g c i w o.a))) 0)

end Sys2Proof.Machine
end

