-- ==== Sys2Proof/Machine/Control.lean ====
section
/-! DEFINITION. Control flow: branches, calls, exit, the software traps, yield and nop (15_isa_data_group_control R335-R340; 09_traps_faults R214). -/

namespace Sys2Proof.Machine

open Form

/-- R335: the clause ends, and each lane of FMASK stands at the address that `tgt` gives it. -/
def branch (s : State) (gid : Nat) (g : Group) (c : Clause) (tgt : Nat → DWord) : State :=
  endClause (restartProgress s (coreOfGid gid)) gid g c
    ((lanesOf (g.fmask &&& g.lmask)).map (fun i => (BitVec.twoPow 64 i, tgt i)))

/-- R335: a relative target, modulo 2^56. -/
def relTarget (c : Clause) (off : Int) : DWord := BitVec.ofInt 64 (((c.ipc.toNat : Int) + 4 * off) % (2 ^ 56 : Nat))
/-- R336: the offset of brc and brs, 21 bits. -/
def off21 (o : Ops) : Int := (field o.w1 8 21 : BitVec 21).toInt

/-- R335: a branch of the active lanes that `taken` picks; the others fall through. -/
def branchOp (s : State) (o : Ops) (os : List Opd) (taken : Group → Clause → Nat → Bool)
    (tgt : Group → Clause → Nat → DWord) : Out :=
  checked s (fun g c => active g c o) os (fun gid g c =>
    .next (branch s gid g c (fun i =>
      if (active g c o).getLsbD i && taken g c i then tgt g c i else c.nextPc)))

/-- BRA, R336. -/
def execBra (o : Ops) (s : State) : Out := branchOp s o [] (fun _ _ _ => true) (fun _ c _ => relTarget c o.w1.toInt)
/-- BRC, R336. -/
def execBrc (o : Ops) (s : State) : Out :=
  branchOp s o [.vs false o.a] (fun g c i => vec32 g c i o.a != 0) (fun _ c _ => relTarget c (off21 o))
/-- BRS, R336. -/
def execBrs (o : Ops) (s : State) : Out :=
  branchOp s o [.ss false o.a] (fun g _ _ => (sca32 g o.a == 0) == (o.var == 0)) (fun _ c _ => relTarget c (off21 o))

/-- R316: the lanes whose indirect target is misaligned. -/
def badTargets (g : Group) (c : Clause) (o : Ops) : DWord :=
  maskOf ((lanesOf (active g c o)).filter (fun i => fieldNat (vec g c i true o.a) 0 2 != 0))

/-- R337: an indirect branch; `link` says that D receives the fall-through address. -/
def indirect (s : State) (o : Ops) (link : Bool) : Out :=
  checked s (fun g c => active g c o) ((if link then [.vd true false o.d] else []) ++ [.vs true o.a]) (fun gid g c =>
    let bad := badTargets g c o
    if bad ≠ 0 then .next (trapHere s gid g c 0x0E 0 0 bad)
    else
      let act := active g c o
      let g' := if link then (lanesOf act).foldl (fun g' i => writeVec g' i true o.d c.nextPc) g else g
      .next (branch s gid g' c (fun i => if act.getLsbD i then vec g c i true o.a else c.nextPc)))

/-- BRX, R337. -/
def execBrx (o : Ops) (s : State) : Out := indirect s o false
/-- CALL, R337. -/
def execCall (o : Ops) (s : State) : Out :=
  checked s (fun g c => active g c o) [.vd true false o.d] (fun gid g c =>
    let act := active g c o
    let g' := (lanesOf act).foldl (fun g' i => writeVec g' i true o.d c.nextPc) g
    .next (branch s gid g' c (fun i => if act.getLsbD i then relTarget c o.w1.toInt else c.nextPc)))
/-- CALLX, R337: targets are read before d is written. -/
def execCallx (o : Ops) (s : State) : Out := indirect s o true
/-- RET, R337. -/
def execRetLanes (o : Ops) (s : State) : Out := indirect s o false

/-- R163, R338: lanes exit. -/
def Group.exit (g : Group) (lanes : DWord) : Group :=
  { g with lmask := g.lmask &&& ~~~lanes, fmask := g.fmask &&& ~~~lanes }

/-- EXIT, R338. -/
def execExitLanes (o : Ops) (s : State) : Out :=
  withClause s (fun gid g c =>
    let g' := g.exit (active g c o)
    .next (if g'.lmask = 0 then endGroup (restartProgress s (coreOfGid gid)) gid g' else branch s gid g' c (fun _ => c.nextPc)))

/-- R339: a software trap, when a lane is active; `next` resumes after it. -/
def softTrap (s : State) (o : Ops) (cause : Nat) (next : Bool) : Out :=
  withClause s (fun gid g c =>
    if active g c o = 0 then .next (retire s gid g c none)
    else .next (takeTrap s gid { cause := cause, reason := 0, info := 0, tmask := g.fmask, cpc := c.pc, ipc := c.ipc,
                                 idx := c.idx, rpc := if next then c.nextPc else c.pc, slot := c.slot,
                                 run := (g.slot c.slot).mask, abandon := false, issues := true }))
/-- TRAP, R339. -/
def execTrapLanes (o : Ops) (s : State) : Out := softTrap s o 0x0B true
/-- BRKPT, R339. -/
def execBrkpt (o : Ops) (s : State) : Out := softTrap s o 0x0C false

/-- SYSCALL, R214, R339: the entry runs for the lowest active lane; sret goes on with the next. -/
def execSyscall (o : Ops) (s : State) : Out :=
  withClause s (fun gid g c =>
    let act := active g c o
    if act = 0 then .next (retire s gid g c none)
    else
      let lane := lowestLane act
      let s := if g.sup then s else s.setGroup gid { g with sysRest := act &&& ~~~lane }
      .next (takeTrap s gid { cause := 0x0A, reason := 0, info := 0, tmask := lane, cpc := c.pc, ipc := c.ipc,
                              idx := c.idx, rpc := c.nextPc, slot := c.slot, run := lane, abandon := false,
                              issues := true }))

/-- YIELD, R340: no architectural effect. -/
def execYieldHint (_o : Ops) (s : State) : Out := withClause s (fun gid g c => .next (retire s gid g c none))
/-- NOP, R340. -/
def execNopLong (_o : Ops) (s : State) : Out := withClause s (fun gid g c => .next (retire s gid g c none))
/-- NOP_SHORT, R245, R340. -/
def execNopShort (s : State) : Out := withClause s (fun gid g c => .next (retire s gid g c none))

end Sys2Proof.Machine
end

