-- ==== Sys2Proof/Machine/Engine.lean ====
section
/-! DEFINITION. Engine instructions: job, tcpy, tsto, tgat, tsct, tcol, gate, fwait, ftest, fcanc, qbind, qstat, mstart, mstat (17_isa_engines_matrix R368-R382; 18_isa_system R402; 06_engines_memory R140-R154). -/

namespace Sys2Proof.Machine

open Form

/-! ## Job issue -/

/-- A scalar result under a counter (R252, R369). -/
def scalarResult (g : Group) (o : Ops) (w64 : Bool) (x : Nat) : Group :=
  g.addPending o.ctr (scalarWrites g (if w64 then 3 else 2) o.d (natLe 8 x))

/-- R371: hands a card to its scheduler, or to the frame-engine request port with handle 0. -/
def issueCard (s : State) (gid : Nat) (g : Group) (c : Clause) (o : Ops) (lane : Nat) (card : BitVec 512) (addr : Nat) (bad gate : Bool) : Out :=
  let ty := cardType card
  if cardPriv ty && !g.sup then .next (trapFrag s gid g c 0x0F)
  else if cardFrame ty then
    let rd := match s.ctxOf? g.ctx with
      | some ctx => if (cardRegion card 0).present then resolveRegion s (coreOfGid gid) ctx g lane (cardRegion card 0) else none
      | none => none
    let j : FeJob := { ty := ty, card := card, addr := BitVec.ofNat 64 addr, ctx := g.ctx, core := coreOfGid gid, rd := rd, sup := g.sup,
                       started := false, mask := 0 }
    let s := { s with feQ := s.feQ ++ [j] }
    .next (retire s gid (scalarResult g o true 0) c none)
  else match s.ctxOf? g.ctx with
    | none => .next s
    | some ctx => match submit s gid g ctx lane c.ipc card bad gate with
      | none => .next s
      | some (h, s) => .next (retire s gid (scalarResult g o true h.toNat) c none)

/-- R117, R131, R252, R369, R371: a job issue: acts once, after every store ordered before it has been performed and when its counter has room. -/
def jobIssue (s : State) (o : Ops) (os : List Opd) (k : Nat → Group → Clause → Nat → Out) : Out :=
  checked s (fun g c => active g c o) (.sd true o.d :: os) (fun gid g c =>
    match lanesOf (active g c o) with
    | [] => .next (retire s gid g c none)
    | lane :: _ => if coreDone s gid g && !g.full o.ctr then k gid g c lane else .next s)

/-- JOB, R371. -/
def execJob (o : Ops) (s : State) : Out :=
  withClause s (fun gid g c =>
    let act := active g c o
    let addr := (sca g true o.a).toNat
    match lanesOf act, illOf g c [.sd true o.d, .ss true o.a] with
    | _, some t => opTrapHere s gid g c t
    | [], none => .next (retire s gid g c none)
    | lane :: _, none =>
      if addr % 64 ≠ 0 then .next (trapFrag s gid g c 0x0E)
      else match splitOf g act [.ss true o.a] with
        | some t => opTrapHere s gid g c t
        | none =>
          if !coreDone s gid g || g.full o.ctr then .next s
          else
            let t := lanesGo s gid g 64 .load false [(lane, addr)]
            match t.bad, t.ok with
            | f :: _, _ => .next (parkFaults t.s gid g c 0 [f] g.fmask)
            | [], x :: _ =>
              if t.stall then .next ((keepAnswers s t.s).setGroup gid g)
              else match loadLane t.s gid g x.2 64 false with
                | (.bytes bs, s) =>
                  issueCard s gid g c o lane (BitVec.ofNat 512 (leNat (readSees s g.alias x.2 64 bs))) addr false false
                | (.wait, s1) => .next ((keepAnswers s s1).setGroup gid g)
            | [], [] => .next ((keepAnswers s t.s).setGroup gid g))

/-- R140: a header. -/
def cardHeader (ty : Nat) (o : Ops) (scope : Nat) (ckey : BitVec 8) (tops : Nat) : BitVec 512 :=
  fld 0 8 ty ||| fld 8 1 (fieldNat o.e 3 1) ||| fld 9 4 (fieldNat o.e 4 4) ||| fld 13 2 scope ||| fld 16 8 ckey.toNat ||| fld 32 96 tops
/-- R141, R372: a region of one row. -/
def cardRow (k base len : Nat) : BitVec 512 :=
  fld (128 + 128 * k) 56 base ||| fld (128 + 128 * k + 56) 24 len ||| fld (128 + 128 * k + 80) 16 1 |||
    fld (128 + 128 * k + 96) 32 len
/-- R372, R142: a base beyond the 56-bit space or a length that the 24-bit field cannot hold, or none at all. -/
def rowBad (base len : Nat) : Bool := 2 ^ 56 ≤ base || 2 ^ 24 ≤ len || len = 0

/-- R372: a direct form: its card is built, with the issuing context's CKEY. -/
def direct (s : State) (o : Ops) (os : List Opd) (f : Group → BitVec 8 → BitVec 512 × Bool) : Out :=
  jobIssue s o os (fun gid g c lane =>
    let ckey := match s.ctxOf? g.ctx with | some x => x.ckey | none => 0
    let x := f g ckey
    issueCard s gid g c o lane x.1 0 x.2 false)

/-- TCPY, R372. -/
def execTcpy (o : Ops) (s : State) : Out :=
  direct s o [.ss true o.a, .ss true o.b, .ss false o.c] (fun g ckey =>
    let dst := (sca g true o.a).toNat
    let src := (sca g true o.b).toNat
    let len := (sca g false o.c).toNat
    (cardHeader 0x01 o 0 ckey 0 ||| cardRow 0 src len ||| cardRow 2 dst len, rowBad dst len || rowBad src len))
/-- TSTO, R372. -/
def execTsto (o : Ops) (s : State) : Out :=
  direct s o [.ss true o.a, .ss false o.b, .ss false o.c] (fun g ckey =>
    let dst := (sca g true o.a).toNat
    let len := (sca g false o.c).toNat
    (cardHeader 0x02 o 0 ckey (sca g false o.b).toNat ||| cardRow 2 dst len, rowBad dst len))

/-- R372: the operands of tgat and tsct. -/
def gatherOpds (o : Ops) : List Opd := [.ss true o.a, .ss true o.b, .ss true o.c, .ss true (o.c + 2)]
/-- R372: the card of tgat (or tsct). TOPS of a scatter takes ESZ alone. -/
def gatherCard (o : Ops) (g : Group) (ckey : BitVec 8) (scatter : Bool) : BitVec 512 × Bool :=
  let dst := (sca g true o.a).toNat
  let src := (sca g true o.b).toNat
  let idx := (sca g true o.c).toNat
  let ctl : Word := sca32 g (o.c + 2)
  let n := fieldNat ctl 0 24
  let z := gatherSize (fieldNat ctl 24 2)
  let q := !scatter && ctl.getLsbD 26
  let m := (sca32 g (o.c + 3)).toNat
  let srcLen := if scatter then z * n else z * m
  let dstLen := if scatter then z * m else z * n
  (cardHeader (if scatter then 0x04 else 0x03) o 0 ckey (fieldNat ctl 24 2 + if q then 4 else 0) |||
      cardRow 0 idx (4 * n) ||| cardRow 1 src srcLen ||| (if q then 0 else cardRow 2 dst dstLen),
    fieldNat ctl 27 5 ≠ 0 || rowBad idx (4 * n) || rowBad src srcLen || (!q && rowBad dst dstLen))
/-- TGAT, R372. -/
def execTgat (o : Ops) (s : State) : Out := direct s o (gatherOpds o) (fun g ckey => gatherCard o g ckey false)
/-- TSCT, R372. -/
def execTsct (o : Ops) (s : State) : Out := direct s o (gatherOpds o) (fun g ckey => gatherCard o g ckey true)

/-- TCOL, R372: scope sys. -/
def execTcol (o : Ops) (s : State) : Out :=
  direct s o [.ss true o.a, .ss false o.b, .ss false o.c] (fun g ckey =>
    let buf := (sca g true o.a).toNat
    let ctl : Word := sca32 g o.c
    let op := fieldNat ctl 24 3
    let len := collSize op * fieldNat ctl 0 24
    let num := (sca g false o.b).toNat
    (cardHeader 0x05 o 2 ckey (num % 256 + 256 * op + 2048 * (fieldNat ctl 27 2)) ||| cardRow 0 buf len ||| cardRow 2 buf len,
      rowBad buf len || 256 ≤ num))

/-- GATE, R402: a card of TYPE 0x06 at scope dev. -/
def execGate (o : Ops) (s : State) : Out :=
  withClause s (fun gid g c =>
    if isService (coreOfGid gid) then .next (trapFrag s gid g c 0x02)
    else jobIssue s o [.ss true o.a, .ss true o.b] (fun gid g c lane =>
      let off := (sca g true o.a).toNat
      let len := (sca g true o.b).toNat
      let ckey := match s.ctxOf? g.ctx with | some x => x.ckey | none => 0
      let card : BitVec 512 := fld 0 8 0x06 ||| fld 13 2 1 ||| fld 16 8 ckey.toNat |||
        fld 32 96 (off % 2 ^ 40 + len % 2 ^ 40 * 2 ^ 40 + o.c.toNat * 2 ^ 80)
      issueCard s gid g c o lane card 0 (2 ^ 40 ≤ off || 2 ^ 40 ≤ len) true))

/-! ## Futures (R378) -/

/-- FWAIT, R378: writes its result when the wait ends. -/
def execFwait (o : Ops) (s : State) : Out :=
  checked s (fun g c => active g c o) [.sd false o.d, .ss true o.a] (fun gid g c =>
    if active g c o = 0 then .next (retire s gid g c none)
    else
      let w := waitOf g c 1 0
      let h := if w.handle ≠ 0 then w.handle else sca g true o.a
      let (code, status, j) := classify s g.ctx h
      if code ≤ 1 then .next (block s gid g c { Wait.none with kind := 1, handle := h })
      else
        let s := futureAcquire s gid g code j
        .next (retire s gid ((clearWait g c 1 0).setS o.d.toNat (futureWord code status)) c none))

/-- FTEST, R378. -/
def execFtest (o : Ops) (s : State) : Out :=
  checked s (fun g c => active g c o) [.sd false o.d, .ss true o.a] (fun gid g c =>
    if active g c o = 0 then .next (retire s gid g c none)
    else if g.full o.ctr then .next s
    else
      let (code, status, j) := classify s g.ctx (sca g true o.a)
      .next (retire (futureAcquire s gid g code j) gid (scalarResult g o false (futureWord code status).toNat) c none))

/-- FCANC, R150, R378. -/
def execFcanc (o : Ops) (s : State) : Out :=
  checked s (fun g c => active g c o) [.sd false o.d, .ss true o.a] (fun gid g c =>
    if active g c o = 0 then .next (retire s gid g c none)
    else if g.full o.ctr then .next s
    else
      let (b, s) := cancelJob s g.ctx (sca g true o.a)
      .next (retire s gid (scalarResult g o false b.toNat) c none))

/-! ## Queue registers (R152, R153, R379) -/

/-- A queue register of a group. -/
def Group.q (g : Group) (n : Nat) : QReg := g.queues.getD n QReg.init
/-- Replaces a queue register. -/
def Group.setQ (g : Group) (n : Nat) (r : QReg) : Group := { g with queues := g.queues.set n r }
/-- R152: ports 4 and 6 are written, 1, 2, 3 and 5 read. -/
def portWrites (p : Nat) : Bool := p = 4 || p = 6
def portReads (p : Nat) : Bool := p = 1 || p = 2 || p = 3 || p = 5

/-- R152 (DESIGN CHOICE, log entry 45): the key of a group's service channels: its context, team and number. -/
def Group.channel (g : Group) : Nat := g.ctx * 2 ^ 39 + g.alias

/-- R152: the first queue register of a group bound to a port, with its number. -/
def Group.port? (g : Group) (port : Nat) : Option (Nat × QReg) := (g.portReg port).map (fun n => (n, g.q n))

/-- R152: the entries pushed to port 6 go on to the resident kernel. -/
def sendService (s : State) (gid : Nat) (g : Group) : State :=
  match g.port? 6 with
  | none => s
  | some (n, r) =>
    ({ s with svcOut := SMap.set [] s.svcOut g.channel (SMap.get [] s.svcOut g.channel ++ r.fifo) }).setGroup gid (g.setQ n { r with fifo := [] })

/-- R152: the entries that the resident kernel has sent to the group come to its register bound to port 5, as far as it has room. -/
def takeService (s : State) (gid : Nat) (g : Group) : State :=
  match g.port? 5 with
  | none => s
  | some (n, r) =>
    let sent := SMap.get [] s.svcIn g.channel
    let room := 32 - r.fifo.length
    ({ s with svcIn := SMap.set [] s.svcIn g.channel (sent.drop room) }).setGroup gid (g.setQ n { r with fifo := r.fifo ++ sent.take room })

/-- R152, R154: the service channels of every group, but for the groups stopped in PREEMPT or RESTORE. -/
def serviceChannels (s : State) : State :=
  let live := s.groups.filter (fun e => !e.2.portsStill && ((e.2.portReg 5).isSome || (e.2.portReg 6).isSome))
  live.foldl (fun s e =>
    let s := sendService s e.1 e.2
    takeService s e.1 (SMap.get e.2 s.groups e.1)) s

/-- QBIND, R379: waits until the earlier binding's pushes have been accepted. -/
def execQbind (o : Ops) (s : State) : Out :=
  onceOrWait s o (fun g => portWrites (g.q o.d.toNat).port && !(g.q o.d.toNat).fifo.isEmpty)
    (fun g => g.setQ o.d.toNat { QReg.init with port := o.mod.toNat })
where
  onceOrWait (s : State) (o : Ops) (busy : Group → Bool) (f : Group → Group) : Out :=
    withClause s (fun gid g c =>
      if active g c o = 0 then .next (retire s gid g c none)
      else if busy g then .next s
      else .next (retire s gid (f g) c none))

/-- QSTAT_STATUS, R379. -/
def execQstatStatus (o : Ops) (s : State) : Out :=
  scaOp s o [] false (fun g _ =>
    let r := g.q o.a.toNat
    if r.port = 0 then 0 else BitVec.ofNat 64 (r.fifo.length % 64 + 64 * r.port))

/-- R153, R212: the key of a pop-buffer entry that a restore has written for the clause's slot (DESIGN CHOICE, log entry 23). -/
def restoredPop (g : Group) (c : Clause) : Nat := 32 * g.sup.toNat + 16 * c.slot + 15

/-- QSTAT_POP, R153, R379: a replay reads the entry that its clause has popped; an empty queue blocks. -/
def execQstatPop (o : Ops) (s : State) : Out :=
  withClause s (fun gid g c =>
    let act := active g c o
    let r := g.q o.a.toNat
    if !portReads r.port then .next (trapFrag s gid g c 0x02)
    else match opTrap g c act [.vd false false o.d] with
      | some t => opTrapHere s gid g c t
      | none =>
        let key := 32 * g.sup.toNat + 16 * c.slot + c.idx
        let give (g : Group) (e : SMap Word) : Out :=
          let g := (lanesOf act).foldl (fun g' i => writeVec g' i false o.d ((SMap.get 0 e i).setWidth 64)) (clearWait g c 6 o.a.toNat)
          -- a pop from port 5 is a mailbox take
          .next (retire (if r.port = 5 then acquire s gid g 4 else s) gid g c none)
        if act = 0 then .next (retire s gid g c none)
        else match SMap.find? r.pop key, SMap.find? r.pop (restoredPop g c), r.fifo with
          | some e, _, _ => give g e
          | none, some e, _ => give (g.setQ o.a.toNat { r with pop := SMap.put (SMap.del r.pop (restoredPop g c)) key e }) e
          | none, none, e :: rest => give (g.setQ o.a.toNat { r with fifo := rest, pop := SMap.put r.pop key e }) e
          | none, none, [] => .next (block s gid g c { Wait.none with kind := 6, target := o.a.toNat }))

/-- QSTAT_PUSH, R153, R379: inactive lanes push zero; a full queue stalls. -/
def execQstatPush (o : Ops) (s : State) : Out :=
  withClause s (fun gid g c =>
    let act := active g c o
    let r := g.q o.a.toNat
    if !portWrites r.port then .next (trapFrag s gid g c 0x02)
    else match opTrap g c act [.vs false o.b] with
      | some t => opTrapHere s gid g c t
      | none =>
        if act = 0 then .next (retire s gid g c none)
        else if 32 ≤ r.fifo.length then .next s
        else
          -- a push to port 6 is a mailbox post: a release at dev
          let s1 := if r.port = 6 && g.sq.isEmpty then relStart s (coreOfGid gid) 4 else s
          if r.port = 6 && !(g.sq.isEmpty && relReady s1 gid g 4) then .next s1
          else
            let e : SMap Word := (List.range g.width).map (fun i => (i, if act.getLsbD i then vec32 g c i o.b else 0))
            .next (retire s1 gid (g.setQ o.a.toNat { r with fifo := r.fifo ++ [e] }) c none))

/-! ## The sequencer from outside (R380-R382) -/

/-- The key of a team's sequencer. -/
def Team.seqKey (t : Team) : Option Nat := t.seq.map (fun n => 4 * t.core + n)
/-- The team of a group and the key of its sequencer. -/
def seqOfGroup (s : State) (g : Group) : Option (Nat × Team × Nat) :=
  match g.team with
  | none => none
  | some t => match SMap.find? s.teams t with
    | none => none
    | some x => x.seqKey.map (fun k => (t, x, k))

/-- R210: MPROG. -/
def Seq.mprog (q : Seq) : DWord :=
  fld 0 16 q.kstep.toNat ||| fld 16 1 q.park.toNat ||| fld 17 1 q.aheld.toNat ||| fld 32 32 q.soff.toNat
/-- R381: MSTATE. -/
def Seq.mstate (q : Seq) : DWord := fld 0 2 q.state.toNat ||| fld 2 1 q.aheld.toNat ||| fld 8 8 q.reason.toNat

/-- MSTART, R370, R382, R393: MPARAM, MPROG, MFLAGS, LACT and WP start anew; accumulators and records stay. -/
def execMstart (o : Ops) (s : State) : Out :=
  withClause s (fun gid g c =>
    let act := active g c o
    let addr := sca g true o.a
    if isService (coreOfGid gid) then .next (trapFrag s gid g c 0x02)
    else match illOf g c [.ss true o.a, .ss false o.b], seqOfGroup s g with
      | some t, _ => opTrapHere s gid g c t
      | none, none => .next (trapFrag s gid g c 0x02)
      | none, some (tid, t, k) =>
        let q := s.seqOf k
        if q.state = 1 || q.state = 2 then .next (trapFrag s gid g c 0x02)
        else if act ≠ 0 && fieldNat addr 0 3 ≠ 0 then .next (trapFrag s gid g c 0x0E)
        else match splitOf g act [.ss true o.a, .ss false o.b] with
          | some e => opTrapHere s gid g c e
          | none =>
            if !g.converged then .next (trapFrag s gid g c 0x03)
            else if act = 0 then .next (retire s gid g c none)
            else
              let q' := { q with team := some tid, gid := gid, mparam := sca32 g o.b, kstep := 0, park := false, aheld := false,
                                 soff := 0, mflags := 0, state := 1, reason := 0, lact0 := false, lact1 := false, wp := 0,
                                 arrm := 0, pseq := 0, sobj := 0, doubt := false, waiting := false }
              .next (retire ((s.setSeq k q').setTeam tid { t with mbase := addr }) gid g c none))

/-- MSTAT, R382. -/
def execMstat (o : Ops) (s : State) : Out :=
  withClause s (fun gid g c =>
    let act := active g c o
    if isService (coreOfGid gid) then .next (trapFrag s gid g c 0x02)
    else match illOf g c [.sd true o.d] with
      | some t => opTrapHere s gid g c t
      | none =>
        if !g.converged then .next (trapFrag s gid g c 0x03)
        else if act = 0 then .next (retire s gid g c none)
        else
          let x : DWord := match seqOfGroup s g with
            | some (_, _, k) =>
              let q := s.seqOf k
              if o.c = 0 then q.mprog else if o.c = 1 then q.mflags.setWidth 64 else q.mstate
            | none => Config.noSequencer s.clock
          .next (retire s gid (g.setS64 o.d.toNat x) c none))

end Sys2Proof.Machine
end

