-- ==== Sys2Proof/Machine/Sync.lean ====
section
/-! DEFINITION. Barrier objects, barrier trees and mailboxes: barr, barw, bwait, btest, bexp, gbar, gbwait, mpost, mtake, mtry, mbind (16_isa_memory_sync R356-R367; 06_engines_memory R155-R157; 04_on_chip_hierarchy R107, R108; 17_isa_engines_matrix R383). -/

namespace Sys2Proof.Machine

open Form

/-! ## Barrier objects -/

/-- R10: the team of a group on a compute core; on a service core the form raises ILLINSTR. -/
def teamOp (s : State) (os : Group → Clause → List Opd) (act : Group → Clause → DWord)
    (k : Nat → Group → Clause → Nat → Team → Out) : Out :=
  withClause s (fun gid g c =>
    match g.team.bind (fun t => (SMap.find? s.teams t).map (fun x => (t, x))) with
    | none => .next (trapFrag s gid g c 0x02)
    | some (t, x) => match opTrap g c (act g c) (os g c) with
      | some e => opTrapHere s gid g c e
      | none => k gid g c t x)

/-- R383: the team's sequencer when it has stopped, until the next mstart or mrest. -/
def stoppedSeq (s : State) (t : Team) : Option Seq :=
  match t.seq with
  | some n => let q := s.seqOf (4 * t.core + n); if q.state = 3 && q.doubt then some q else none
  | none => none

/-- R383: the trap that a stopped sequencer's team takes: cause and INFO. -/
def stopCause (q : Seq) : Nat × Word :=
  if q.reason = 3 then (0x0D, q.pseq) else if q.reason = 4 then (0x06, BitVec.ofNat 32 q.sobj) else (0x02, 0)

/-- R356: operand B's only lane: a vector B supplies the lowest active lane's value. -/
def bLane (g : Group) (c : Clause) (o : Ops) : DWord :=
  if 0xF6 ≤ o.b.toNat then lowestLane (active g c o) else active g c o
/-- R356: the operand B of bwait and bexp as it is checked. -/
def bOpds (o : Ops) : List Opd := if o.li then [] else if o.sB then [.ss false o.b] else [.vs false o.b]
/-- R356: the value of operand B. -/
def bVal (g : Group) (c : Clause) (o : Ops) : Word :=
  if o.sB then sca32 g o.b else match lanesOf (active g c o) with
    | i :: _ => vec32 g c i o.b
    | [] => 0

/-- R357: the phase is complete for the group. -/
def phaseDone (g : Group) (t : Team) (n : Nat) : Bool := (t.obj n).phase != g.wp.getLsbD n

/-- R357, R359, R131: the group observes a completed phase: WP takes the phase, and the wait is an acquire at team. -/
def observe (s : State) (gid : Nat) (g : Group) (c : Clause) (t : Team) (n : Nat) : State × Group :=
  let g := clearWait { g with wp := setBit g.wp n (t.obj n).phase } c 2 n
  (acquire s gid g 2, g)

/-- R108, R358: the arrival that an instruction of a fragment has made at the object has not counted yet: its marker waits in the group's queue, or its cycle has not ended. -/
def arriving (gid : Nat) (g : Group) (t : Team) (n : Nat) (lanes ipc : DWord) : Bool :=
  g.sq.any (fun e => match e with
    | .arrive m mask _ i _ => m == n && i == ipc.toNat && mask &&& lanes != 0
    | _ => false) ||
    (t.obj n).arrs.any (fun e => e.group == some gid && e.ipc == ipc && e.mask &&& lanes != 0)

/-- R358: the arrival enters the store queue. -/
def arrival (g : Group) (c : Clause) (o : Ops) : Group :=
  { g with sq := g.sq ++ [.arrive o.var (active g c o) c.pc.toNat c.ipc.toNat c.idx] }

/-- BARR, R358. -/
def execBarr (o : Ops) (s : State) : Out :=
  teamOp s (fun _ _ => []) (fun g c => active g c o) (fun gid g c _ _ =>
    if active g c o = 0 then .next (retire s gid g c none)
    else if 32 ≤ g.sq.length then .next s
    else .next (retire s gid (arrival g c o) c none))

/-- R190: the clause executes again, and the instruction at hand goes on with its wait. -/
def resumes (g : Group) (c : Clause) (kind target : Nat) : Bool := (waitOf g c kind target).kind != 0

/-- BARW, R358: arrives once, then waits until its arrival has counted and the phase is complete. -/
def execBarw (o : Ops) (s : State) : Out :=
  teamOp s (fun _ _ => []) (fun g c => active g c o) (fun gid g c _ t =>
    if active g c o = 0 then .next (retire s gid g c none)
    else match stoppedSeq s t with
      | some q => .next (trapHere s gid g c (stopCause q).1 0 (stopCause q).2 g.fmask)
      | none =>
        let w : Wait := { Wait.none with kind := 2, target := o.var }
        if resumes g c 2 o.var then
          if phaseDone g t o.var && !arriving gid g t o.var g.fmask c.ipc then
            let (s, g) := observe s gid g c t o.var
            .next (retire s gid g c none)
          else .next (block s gid g c w)
        else if 32 ≤ g.sq.length then .next s
        else .next (block s gid (arrival g c o) c w))

/-- R359: a bounded wait of `t` cycles from the clause's first issue; the predicate says whether the phase completed. A deadline of 0 marks a wait that has expired, which stays so while its clause executes again. -/
def boundedWait (s : State) (o : Ops) (os : List Opd) (t : Group → Clause → Nat) : Out :=
  teamOp s (fun _ _ => os) (fun g c => bLane g c o) (fun gid g c _ team =>
    let act := active g c o
    if act = 0 then .next (retire s gid g c none)
    else match stoppedSeq s team with
      | some q => .next (trapHere s gid g c (stopCause q).1 0 (stopCause q).2 g.fmask)
      | none =>
        let first := ((g.slot c.slot).first).getD s.clock
        let due := (waitOf g c 2 o.var).deadline.getD (first + t g c)
        let expired := (waitOf g c 2 o.var).deadline == some 0
        if phaseDone g team o.var && !expired then
          let (s, g) := observe s gid g c team o.var
          .next (retire s gid (g.setP o.d.toNat act act) c none)
        else if expired || due ≤ s.clock || t g c = 0 then
          let g := if t g c = 0 then g else pastWait g c { Wait.none with kind := 2, target := o.var, deadline := some 0, ended := true }
          .next (retire s gid (g.setP o.d.toNat act 0) c none)
        else .next (block s gid g c { Wait.none with kind := 2, target := o.var, deadline := some due }))

/-- BWAIT, R359. -/
def execBwait (o : Ops) (s : State) : Out :=
  boundedWait s o (bOpds o) (fun g c => if o.li then o.imm24.toNat else (bVal g c o).toNat)
/-- BTEST, R359. -/
def execBtest (o : Ops) (s : State) : Out := boundedWait s o [] (fun _ _ => 0)

/-- BEXP, R108, R360: joins the events of its cycle, whose end applies it before that cycle's arrivals; EXPARR below ARR as the cycle began raises ILLBARRIER and changes nothing. -/
def execBexp (o : Ops) (s : State) : Out :=
  teamOp s (fun _ _ => bOpds o) (fun g c => bLane g c o) (fun gid g c tid t =>
    if active g c o = 0 then .next (retire s gid g c none)
    else
      let b := t.obj o.var
      let bytes : Word := if o.li then o.imm24.signExtend 32 else bVal g c o
      let exp : Option (BitVec 8) := if o.li || o.c = 0 then none else if o.c = 0xF4 then some 0 else some o.c
      if exp.any (fun e => e.toNat < b.arr.toNat) then .next (trapHere s gid g c 0x06 0 (BitVec.ofNat 32 o.var) g.fmask)
      else
        let e : BexpEvent := { gid := gid, bytes := bytes, exparr := exp }
        let s := s.setTeam tid (t.setObj o.var { b with bexps := b.bexps ++ [e], event := some s.clock })
        .next (retire s gid g c none))

/-! ## Barrier trees -/

/-- GBAR, R363: the arrival enters the store queue. -/
def execGbar (o : Ops) (s : State) : Out :=
  withClause s (fun gid g c =>
    if isService (coreOfGid gid) then .next (trapFrag s gid g c 0x02)
    else if active g c o = 0 then .next (retire s gid g c none)
    else if 32 ≤ g.sq.length then .next s
    else .next (retire s gid { g with sq := g.sq ++ [.treeArrive o.var] } c none))

/-- R363: the phase of a tree that a core sees differs from the group's parity. -/
def treeDone (s : State) (core : Nat) (g : Group) (n : Nat) : Bool :=
  (s.coreOf core).seen.getLsbD n != g.tp.getLsbD n

/-- GBWAIT, R363. -/
def execGbwait (o : Ops) (s : State) : Out :=
  withClause s (fun gid g c =>
    if isService (coreOfGid gid) then .next (trapFrag s gid g c 0x02)
    else if active g c o = 0 then .next (retire s gid g c none)
    else if treeDone s (coreOfGid gid) g o.var then
      let g := clearWait { g with tp := setBit g.tp o.var ((s.coreOf (coreOfGid gid)).seen.getLsbD o.var) } c 3 o.var
      .next (retire (acquire s gid g 4) gid g c none)
    else .next (block s gid g c { Wait.none with kind := 3, target := o.var }))

/-! ## Mailboxes -/

/-- R155: the lap of a ticket. -/
def lapOf (logn t : Nat) : Nat := t / 2 ^ logn % 2 ^ (min 31 (32 - logn))
/-- R155: the address of a ticket's slot. -/
def slotVa (hdr logn t : Nat) : Nat := hdr + 64 + 64 * (t % 2 ^ logn)
/-- R155: a slot word. -/
def slotWord (lap : Nat) (full : Bool) : Nat := 2 * lap + full.toNat

/-- What a mailbox step at memory came to: the bytes it read, a retry, or a fault. -/
inductive MGot where
  | ok (bs : List Byte) (s : State)
  | stall (s : State)
  | fault (f : LaneFault) (s : State)
  deriving DecidableEq, Repr

/-- R131, R156: a load of `n` bytes at dev. `s0` is the state before the instruction. -/
def mboxLoad (s0 s : State) (gid : Nat) (g : Group) (lane va n : Nat) : MGot :=
  let t := lanesGo s gid g n .acquire true [(lane, va)]
  match t.bad, t.ok with
  | f :: _, _ => .fault f t.s
  | [], x :: _ =>
    if t.stall || overlaps g x.2 n then .stall (keepAnswers s0 t.s)
    else match loadLane t.s gid g x.2 n true with
      | (.bytes bs, s) => .ok (readSees s g.alias x.2 n bs) s
      | (.wait, s) => .stall (keepAnswers s0 s)
  | [], [] => .stall (keepAnswers s0 t.s)

/-- R124, R129, R156: an atomic update of the word at `va` at dev: what the die's shadow buffer holds for it merges first. -/
def mboxAtom (s0 s : State) (gid : Nat) (g : Group) (lane va : Nat) (f : AtomOp) : MGot :=
  let t := lanesGo s gid g 4 .atomic true [(lane, va)]
  match t.bad, t.ok with
  | e :: _, _ => .fault e t.s
  | [], x :: _ =>
    if t.stall || overlaps g x.2 4 then .stall (keepAnswers s0 t.s)
    else if shadowOver t.s (coreOfGid gid) x.2.addr 4 then .stall (keepAnswers s0 (mergeAt t.s (coreOfGid gid) x.2.addr 4))
    else match atomLane t.s gid g x.2 4 f with
      | (some m, s) => .ok (natLe 4 m) (dropLine s (coreOfGid gid) x.2)
      | (none, s) => .stall (keepAnswers s0 { t.s with cxl := s.cxl, reps := s.reps })
  | [], [] => .stall (keepAnswers s0 t.s)

/-- R156: the stores of a slot: its payload, then its word as a release at dev. They enter the queue together. -/
def mboxStore (s0 s : State) (gid : Nat) (g : Group) (lane va : Nat) (pc : DWord) (payload : Option (List Byte)) (word : Nat) :
    Except LaneFault Group × Bool × State :=
  let t := lanesGo s gid g 64 .store true [(lane, va)]
  match t.bad, t.ok with
  | f :: _, _ => (.error f, false, t.s)
  | [], x :: _ =>
    if t.stall || 31 ≤ g.sq.length then (.ok g, true, keepAnswers s0 t.s)
    else
      let at60 : GAddr := { x.2 with addr := x.2.addr + 60, va := x.2.va + 60 }
      let body : List QEntry := match payload with
        | some bs => [.store [{ lane := lane, dst := x.2, data := bs }] 0 pc.toNat]
        | none => []
      (.ok { g with sq := g.sq ++ body ++ [.store [{ lane := lane, dst := at60, data := natLe 4 word }] 4 pc.toNat] }, false, t.s)
  | [], [] => (.ok g, true, keepAnswers s0 t.s)

/-- R366: the record of a post or take, kept while the instruction is tried again or parked. -/
def keepWait (g : Group) (c : Clause) (w : Wait) : Group := setWait g c { w with ended := true }

/-- R366: a step of a post or take did not complete: the instruction is tried again from it, or the group parks there. -/
def mboxAgain (s : State) (gid : Nat) (g : Group) (c : Clause) (w : Wait) : Out := .next (s.setGroup gid (keepWait g c w))
def mboxPark (s : State) (gid : Nat) (g : Group) (c : Clause) (w : Wait) (akind : Nat) (f : LaneFault) : Out :=
  .next (parkFaults s gid (keepWait g c w) c akind [f] g.fmask)

/-- R364: the header that operand A names, with the bound LOGN. -/
def mboxName (g : Group) (o : Ops) : Option (Nat × Option Nat) :=
  if o.a = 0xF4 then g.bound.map (fun b => (b.1.toNat, some b.2)) else some ((sca g true o.a).toNat, none)

/-- R366: what a post or take has recorded: with its ticket (`kind` 4 or 5), or before it has one (19). -/
def mboxRecord (g : Group) (c : Clause) (kind : Nat) : Wait :=
  let w := waitOf g c kind 0
  if w.kind ≠ 0 then w else waitOf g c 19 0

/-- R155, R364, R366: the header of a post or take: named and checked at the first issue, and again only when its read faulted. `k` runs with the record and, when the header has just been read, its bytes. -/
def mboxHeader (s : State) (gid : Nat) (g : Group) (c : Clause) (o : Ops) (lane : Nat) (w : Wait)
    (k : Wait → List Byte → State → Out) : Out :=
  if w.stage ≠ 0 then k w [] s
  else match (if w.hdr ≠ 0 then some (w.hdr, none) else mboxName g o) with
    | none => .next (trapFrag s gid g c 0x07)
    | some (hdr, logn) =>
      if hdr % 64 ≠ 0 || winRegion ≤ hdr then .next (trapFrag s gid g c 0x07)
      else match mboxLoad s s gid g lane hdr 64 with
        | .stall s => mboxAgain s gid g c w
        | .fault f s => mboxPark s gid g c w 0 f
        | .ok bs s =>
          if 16 ≤ (bs.getD 8 0).toNat || (bs.drop 9).any (· != 0) then .next (trapFrag s gid g c 0x07)
          else k { w with hdr := hdr, logn := logn.getD ((bs.getD 8 0).toNat % 16), stage := 1 } bs s

/-- R155, R364: a mailbox form: its traps at the first issue, and `k` from its header on. `own` are the operands beside the header, `payload` what a post captures (R365). -/
def mboxOp (s : State) (o : Ops) (kind : Nat) (own : Group → Clause → Option OpTrap) (payload : Group → Clause → List Word)
    (k : Nat → Group → Clause → Nat → Wait → List Byte → State → Out) : Out :=
  withClause s (fun gid g c =>
    let act := active g c o
    match lanesOf act with
    | [] => match illOf g c [.ss true o.a] with
      | some t => opTrapHere s gid g c t
      | none => .next (retire s gid g c none)
    | lane :: _ =>
      let w0 := mboxRecord g c kind
      let first := w0.kind = 0 || w0.ipc = 0
      match illOf g c [.ss true o.a], (if first then own g c else none), (if first then splitOf g act [.ss true o.a] else none) with
      | some t, _, _ => opTrapHere s gid g c t
      | none, some t, _ => opTrapHere s gid g c t
      | none, none, some t => opTrapHere s gid g c t
      | none, none, none =>
        let w := if w0.kind = 0 then { Wait.none with kind := 19, payload := payload g c }
          else if w0.ipc = 0 && w0.payload.isEmpty then { w0 with payload := payload g c } else w0
        mboxHeader s gid g c o lane w (fun w bs s => k gid g c lane w bs s))

/-- R365: the lanes whose D supplies the payload. -/
def payloadLanes (g : Group) : DWord := g.lmask &&& 0x7FFF
/-- R365: the payload: lanes 0-14, an exited lane supplying 0. -/
def payloadOf (s : State) (o : Ops) (g : Group) (c : Clause) : List Word :=
  (List.range 15).map (fun i => if g.lmask.getLsbD i then field (laneVal s g c i false o.d) 0 32 else 0)
/-- R92, R251, R365: the traps of a post's payload operand. -/
def payloadTrap (o : Ops) (g : Group) (c : Clause) : Option OpTrap :=
  match illOf g c [.vs false o.d] with
  | some t => some t
  | none => boundsOf g (if 0xF6 ≤ o.d.toNat then payloadLanes g else active g c o) [.vs false o.d]
/-- R365: the traps of a take's destination. -/
def takeTrapOf (o : Ops) (g : Group) (c : Clause) : Option OpTrap := boundsOf g (active g c o) [.vd false false o.d]
/-- A take captures nothing. -/
def noPayload (_ : Group) (_ : Clause) : List Word := []

/-- The payload as bytes. -/
def payloadBytes (p : List Word) : List Byte := p.flatMap (fun w => natLe 4 w.toNat)

/-- R156, R366: the ticket that the record holds, or a new one. `off` is the place of TAIL or HEAD in the header. -/
def mboxTicket (s : State) (gid : Nat) (g : Group) (c : Clause) (lane kind off : Nat) (w : Wait) (k : Wait → State → Out) : Out :=
  if w.ticket.isSome then k { w with stage := max w.stage 2 } s
  else match mboxAtom s s gid g lane (w.hdr + off) (.rmw { op := 0, ty := 1 } 1) with
    | .stall s => mboxAgain s gid g c w
    | .fault f s => mboxPark s gid g c w 2 f
    | .ok bs s => k { w with kind := kind, ticket := some (BitVec.ofNat 32 (leNat bs)), stage := 2 } s

/-- R155: the slot of the record's ticket. -/
def Wait.slotVa (w : Wait) : Nat := Machine.slotVa w.hdr w.logn (w.ticket.getD 0).toNat
/-- R155: the lap of the record's ticket. -/
def Wait.lap (w : Wait) : Nat := lapOf w.logn (w.ticket.getD 0).toNat
/-- R156: the slot word that frees a slot for the next lap. -/
def Wait.freeWord (w : Wait) : Nat := slotWord ((w.lap + 1) % 2 ^ (min 31 (32 - w.logn))) false

/-- R156, R366: waits for the slot of the ticket; `go` runs with the record once the slot is ready, a take's with the slot's words. -/
def mboxWait (s : State) (gid : Nat) (g : Group) (c : Clause) (lane : Nat) (full : Bool) (w : Wait) (go : Wait → State → Out) : Out :=
  if w.stage = 3 then go w s
  else match mboxLoad s s gid g lane w.slotVa 64 with
    | .stall s => mboxAgain s gid g c w
    | .fault f s => mboxPark s gid g c w 0 f
    | .ok bs s =>
      if leNat (bs.drop 60) = slotWord w.lap full then
        go { w with stage := 3, payload := if full then (List.range 15).map (fun i => BitVec.ofNat 32 (leNat (sliceOf bs (4 * i) 4)))
                                           else w.payload } s
      else .next (block s gid g c w)

/-- R156: ends a post or take: the slot's stores enter the queue. -/
def mboxEnd (s : State) (gid : Nat) (g : Group) (c : Clause) (lane : Nat) (w : Wait) (payload : Option (List Byte)) (word : Nat)
    (k : State → Group → Out) : Out :=
  match mboxStore s s gid g lane w.slotVa c.ipc payload word with
  | (.error f, _, s) => mboxPark s gid g c w 1 f
  | (.ok g, true, s) => mboxAgain s gid g c w
  | (.ok g, false, s) => k s g

/-- MPOST, R156, R365, R366. -/
def execMpost (o : Ops) (s : State) : Out :=
  mboxOp s o 4 (payloadTrap o) (payloadOf s o) (fun gid g c lane w _ s1 =>
    mboxTicket s1 gid g c lane 4 0 w (fun w s1 =>
      mboxWait s1 gid g c lane false w (fun w s1 =>
        mboxEnd s1 gid g c lane w (some (payloadBytes w.payload)) (slotWord w.lap true) (fun s1 g =>
          .next (retire s1 gid (clearWait g c 4 0) c none)))))

/-- R365: what a take writes. -/
def takeWrites (g : Group) (c : Clause) (o : Ops) (ws : List Word) : List RegWrite :=
  (lanesOf (active g c o)).map (fun i =>
    let r := if o.d.toNat ≤ 0xEF then o.d.toNat else xReg g i o.d
    .v i r (if i < 15 then ws.getD i 0 else 0))
/-- R365: a success predicate. -/
def okWrites (g : Group) (c : Clause) (o : Ops) (b : Bool) : List RegWrite :=
  (lanesOf (active g c o)).map (fun i => .p i o.c.toNat b)

/-- MTAKE, R156, R365, R366. -/
def execMtake (o : Ops) (s : State) : Out :=
  counted s o (mboxOp s o 5 (takeTrapOf o) noPayload (fun gid g c lane w _ s1 =>
    mboxTicket s1 gid g c lane 5 4 w (fun w s1 =>
      mboxWait s1 gid g c lane true w (fun w s1 =>
        mboxEnd s1 gid g c lane w none w.freeWord (fun s1 g =>
          let g := (clearWait g c 5 0).addPending o.ctr (takeWrites g c o w.payload)
          .next (retire (acquire s1 gid g 4) gid g c none))))))

/-- R156: a non-blocking post or take: it reserves its ticket only when the slot is ready for it; a reservation that another party has made first is tried again from the header. `go` runs with the slot's words. -/
def mboxTry (s : State) (gid : Nat) (g : Group) (c : Clause) (o : Ops) (lane off : Nat) (full : Bool) (w : Wait)
    (payload : Option (List Byte)) (word : Nat) (go : List Word → State → Group → Out) : Out :=
  match mboxLoad s s gid g lane w.slotVa 64 with
  | .stall s => mboxAgain s gid g c w
  | .fault f s => mboxPark s gid g c w 0 f
  | .ok bs s1 =>
    if leNat (bs.drop 60) ≠ slotWord w.lap full then
      .next (retire s1 gid ((clearWait g c 19 0).addPending o.ctr (okWrites g c o false)) c none)
    else match mboxStore s s1 gid g lane w.slotVa c.ipc payload word with
      | (.error f, _, s) => mboxPark s gid g c w 1 f
      | (.ok g, true, s) => mboxAgain s gid g c w
      | (.ok g', false, s1) =>
        let t := (w.ticket.getD 0).toNat
        match mboxAtom s s1 gid g lane (w.hdr + off) (.cas t ((t + 1) % 2 ^ 32)) with
        | .stall s => mboxAgain s gid g c w
        | .fault f s => mboxPark s gid g c w 2 f
        | .ok m s1 =>
          if leNat m = t then
            go ((List.range 15).map (fun i => BitVec.ofNat 32 (leNat (sliceOf bs (4 * i) 4)))) s1 (clearWait g' c 19 0)
          else mboxAgain s1 gid g c { w with stage := 0, ticket := none }

/-- R156: the ticket that a non-blocking form would reserve: the header's TAIL or HEAD as it was read. -/
def Wait.tentative (w : Wait) (bs : List Byte) (off : Nat) : Wait :=
  if w.ticket.isSome then w else { w with ticket := some (BitVec.ofNat 32 (leNat (sliceOf bs off 4))) }

/-- MPOST_NB, R156, R365. -/
def execMpostNb (o : Ops) (s : State) : Out :=
  counted s o (mboxOp s o 19 (payloadTrap o) (payloadOf s o) (fun gid g c lane w bs s1 =>
    let w := w.tentative bs 0
    mboxTry s1 gid g c o lane 0 false w (some (payloadBytes w.payload)) (slotWord w.lap true)
      (fun _ s1 g => .next (retire s1 gid (g.addPending o.ctr (okWrites g c o true)) c none))))

/-- MTRY, R156, R365. -/
def execMtry (o : Ops) (s : State) : Out :=
  counted s o (mboxOp s o 19 (takeTrapOf o) noPayload (fun gid g c lane w bs s1 =>
    let w := w.tentative bs 4
    mboxTry s1 gid g c o lane 4 true w none w.freeWord (fun ws s1 g =>
      let g := g.addPending o.ctr (takeWrites g c o ws ++ okWrites g c o true)
      .next (retire (acquire s1 gid g 4) gid g c none))))

/-- MBIND, R367. -/
def execMbind (o : Ops) (s : State) : Out :=
  withClause s (fun gid g c =>
    if o.a = 0xF4 then .next (retire s gid (if active g c o = 0 then g else { g with bound := none }) c none)
    else mboxOp s o 19 (fun _ _ => none) noPayload (fun gid g c _ w _ s1 =>
      .next (retire s1 gid { clearWait g c 19 0 with bound := some (BitVec.ofNat 64 w.hdr, w.logn) } c none)))

end Sys2Proof.Machine
end

