-- ==== Sys2Proof/Machine/Matrix.lean ====
section
/-! DEFINITION. The matrix sequencer: tiles, records, k-steps, and every matrix-stream word; its parkings and stops (17_isa_engines_matrix R380-R391, R448; 09_traps_faults R209, R210; 10_numbers R231, R235-R238; 12_opcode_map R266). One step performs one word: its remaining k-steps, until one faults or waits. -/

namespace Sys2Proof.Machine

open Form

/-! ## The running sequencer -/

/-- The sequencer that the step executes a word of. -/
def withSeq (s : State) (k : Nat → Seq → Nat → Team → Out) : Out :=
  match s.curSeq with
  | none => .fault .noSequencer
  | some key =>
    let q := s.seqOf key
    match q.team with
    | none => .fault .noSequencer
    | some tid => match SMap.find? s.teams tid with
      | none => .fault .noSequencer
      | some t => if q.state = 1 && q.saving = 0 && !q.arriving then k key q tid t else .fault .noSequencer

/-- The word has been performed: the sequencer stands at the next. -/
def seqNext (s : State) (key : Nat) (q : Seq) : Out := .next (s.setSeq key { q with soff := q.soff + 8, kstep := 0 })

/-- R383: the traps of the groups of a team that wait on a barrier object when their sequencer stops: each waiting fragment holds one. -/
def stopGroups (s : State) (tid : Nat) (q : Seq) : State :=
  let held (x : Slot) : List Held :=
    if x.wait.kind = 2 && !x.wait.ended then
      [{ cause := (stopCause q).1, reason := 0, info := (stopCause q).2, mask := x.mask, cpc := x.pc, ipc := x.wait.ipc,
         idx := x.wait.idx }]
    else []
  { s with groups := s.groups.map (fun (e : Nat × Group) =>
      if e.2.team = some tid then
        (e.1, { e.2 with held := e.2.held ++ (if e.2.sup then held e.2.k0 ++ held e.2.k1 else held e.2.s0 ++ held e.2.s1) })
      else e) }

/-- R266, R383, R393: the sequencer stops. -/
def seqStop (s : State) (key tid : Nat) (q : Seq) (reason obj : Nat) : State :=
  let q := { q with state := 3, reason := BitVec.ofNat 8 reason, park := false, sobj := obj, doubt := true, waiting := false }
  stopGroups (s.setSeq key q) tid q

/-- R383: a malformed word or record. -/
def seqBad (s : State) (key tid : Nat) (q : Seq) : Out := .next (seqStop s key tid q 2 0)

/-- R210, R382: the sequencer parks before a k-step or word; the record names the group that issued mstart. -/
def seqPark (s : State) (key : Nat) (q : Seq) (t : Team) (akind cause va level : Nat) (entry : DWord) (ftag : BitVec 8)
    (ffmt : BitVec 3) : State :=
  let (seq, s) := takeSeq s
  let r : FaultRec := { cause := cause, akind := akind, level := level, straddle := false, sup := false, win := false, ctx := t.ctx,
                        core := coreOfGid q.gid, va := va, pc := (t.mbase + q.soff).toNat, lanes := 0,
                        entry := entry.toNat, ftag := ftag.toNat, ffmt := ffmt.toNat, slot := slotOfGid q.gid, seq := seq.toNat }
  (postFault s r).setSeq key { q with state := 2, park := true, pseq := seq }

/-- R386: rows of a tile: the team's width. -/
def teamWidth (s : State) (tid : Nat) : Nat :=
  match List.find? (fun (e : Nat × Group) => e.2.team = some tid) s.groups with
  | some e => e.2.width
  | none => 64

/-- R177, R383: the live group of an index that feeds the sequencer. -/
def feedGroup (s : State) (tid : Nat) (t : Team) (n : Nat) : Option (Nat × Group) :=
  List.find? (fun (e : Nat × Group) => e.2.team = some tid && e.2.gidx = n && coreOfGid e.1 = t.core && e.2.lmask != 0) s.groups

/-! ## Operand reads (R448) -/

/-- R448: the fault of a shared range that passes the declared size. -/
def sharedFault (t : Team) (off n : Nat) : Option JRes :=
  if off + n ≤ t.sharedBytes then none else some (.fault 2 (winShared + max off t.sharedBytes) 0 0 0 0)

/-- Reads a shared range. -/
def seqShared (t : Team) (off n : Nat) : JRes × List Byte :=
  match sharedFault t off n with
  | some f => (f, [])
  | none => (.ok, readBytes t.shared off n)

/-- R87, R135: the accesses of a team's sequencer: matrix operands, which follow the stores of its core that were ordered before them. -/
def seqActor (key : Nat) (t : Team) : Actor :=
  { id := seqGid key, src := .party (seqGid key), cls := 2, cl := clusterOfCore t.core, ctx := t.ctx, sup := false, self := noAlias,
    core := some t.core }

/-- R448, R210: reads a global range as a matrix operand; uncorrectable data is a fault too. -/
def seqGlobal (s : State) (key : Nat) (t : Team) (va n : Nat) : JRes × List Byte × State :=
  (cut64 va n).foldl (fun r x => if r.1 ≠ .ok then r
    else match jobRead r.2.2 (seqActor key t) .glob x.1 x.2 with
      | (.ok, bs, s) => (.ok, r.2.1 ++ bs, s)
      | (.error, _, s) => (.fault 0x0F x.1 0 0 0 0, [], s)
      | (f, _, s) => (f, [], s)) (.ok, [], s)

/-! ## Records (R387) -/

/-- R385: the bits of an element of a format. -/
def mtxBits (fmt : Nat) : Nat := if fmt = 0 then 64 else if fmt = 1 then 32 else if fmt ≤ 3 then 16 else if fmt = 4 then 8 else 4
/-- R385: K, dense for mmas. -/
def mtxK (afmt : Nat) (sparse : Bool) : Nat :=
  let k := if afmt = 0 then 16 else if afmt = 1 then 32 else if afmt ≤ 3 then 64 else if afmt = 4 then 128 else 256
  if sparse then 2 * k else k
/-- R235: elements of a k-step. -/
def mtxUnit (afmt : Nat) : Nat := if afmt = 0 then 1 else if afmt ≤ 3 then 8 else 32

/-- R387: the fields of a record. -/
def recKind (r : BitVec 512) : Nat := fieldNat r 0 8
def recSpace (r : BitVec 512) : Nat := fieldNat r 8 3
def recFmt (r : BitVec 512) : Nat := fieldNat r 11 3
/-- R387: BASE of a kind 1 record. -/
def recBase (r : BitVec 512) : Nat := fieldNat r 64 64
def recCstride (r : BitVec 512) : Nat := fieldNat r 128 32
def recSbase (r : BitVec 512) : Nat := fieldNat r 192 20

/-- R387: a kind 1 record within its limits; the least K that its format can meet bounds CSTRIDE here, the word's K does at use. -/
def recOk1 (r : BitVec 512) : Bool :=
  let fmt := recFmt r
  (recSpace r = 1 || recSpace r = 2) && fmt ≤ 5 && fieldNat r 14 50 = 0 && (recSpace r = 1 || fieldNat r 84 44 = 0) &&
    recCstride r % 16 = 0 && mtxK (min fmt 4) false * mtxBits fmt / 8 ≤ recCstride r && fieldNat r 212 12 = 0 &&
    fieldNat r 256 256 = 0
/-- R387: a kind 2 record within its limits. -/
def recOk2 (r : BitVec 512) : Bool :=
  let pos (lo w : Nat) : Bool := fieldNat r lo w != 0
  (recSpace r = 1 || recSpace r = 2) && recFmt r ≤ 4 && fieldNat r 14 2 = 0 && fieldNat r 24 8 = 0 && pos 32 16 && pos 48 16 &&
    pos 64 16 && pos 80 16 && pos 96 16 && pos 128 4 && pos 132 4 && pos 136 4 && pos 140 4 && pos 144 4 && pos 148 4 &&
    fieldNat r 152 8 = 0 && fieldNat r 288 32 = 0 && (recSpace r = 1 || fieldNat r 340 44 = 0) && fieldNat r 448 64 = 0
/-- R387: a record that mshp accepts. -/
def recOk (r : BitVec 512) : Bool := if recKind r = 1 then recOk1 r else if recKind r = 2 then recOk2 r else false

/-- Replaces a field of a record. -/
def recSet (r : BitVec 512) (lo w : Nat) (x : Nat) : BitVec 512 :=
  (r &&& ~~~(fld lo w (2 ^ w - 1))) ||| fld lo w x
/-- A signed 32-bit field. -/
def recInt (r : BitVec 512) (lo : Nat) : Int := (field r lo 32 : BitVec 32).toInt
/-- R387: ADV: the next use of the record. -/
def recAdvance (r : BitVec 512) (k : Nat) : BitVec 512 :=
  if recKind r = 1 then
    let r := recSet r 64 64 ((((recBase r : Nat) : Int) + recInt r 160) % (2 ^ 64 : Nat)).toNat
    recSet r 192 20 ((((recSbase r : Nat) : Int) + recInt r 224) % (2 ^ 20 : Nat)).toNat
  else recSet r 224 32 (fieldNat r 224 32 + k)

/-! ## The elements of B (R387, R388) -/

/-- One element of B: its code, or the exact zero of R388. -/
inductive BElem where
  | code (x : Nat)
  | zero
  deriving DecidableEq, Repr

/-- An element of `bits` bits from the bytes of a run. -/
def elemOf (bs : List Byte) (bits k : Nat) : Nat :=
  leNat (sliceOf bs (k * bits / 8) ((bits + 7) / 8)) / 2 ^ (k * bits % 8) % 2 ^ bits

/-- R387: the elements k0 to k0 + u − 1 of column n. -/
def bColumn (s : State) (key : Nat) (t : Team) (r : BitVec 512) (n k0 u : Nat) : JRes × List BElem × State :=
  let bits := mtxBits (recFmt r)
  let a := recBase r + n * recCstride r + k0 * bits / 8
  let len := u * bits / 8
  let get (bs : List Byte) : List BElem := (List.range u).map (fun k => .code (elemOf bs bits k))
  if recSpace r = 2 then
    match seqShared t a len with
    | (.ok, bs) => (.ok, get bs, s)
    | (f, _) => (f, [], s)
  else match seqGlobal s key t (a % 2 ^ 64) len with
    | (.ok, bs, s) => (.ok, get bs, s)
    | (f, _, s) => (f, [], s)

/-- R388: what an element of mconv's B is: an exact zero, the pad element, or the element at an address. -/
inductive ConvElem where
  | zero
  | pad
  | at (a : Nat)
  deriving DecidableEq, Repr

/-- R388: element x of position p. -/
def convElem (r : BitVec 512) (p x : Nat) : ConvElem :=
  let h := fieldNat r 32 16
  let w := fieldNat r 48 16
  let c := fieldNat r 64 16
  let oh := fieldNat r 80 16
  let ow := fieldNat r 96 16
  let kh := fieldNat r 128 4
  let kw := fieldNat r 132 4
  let ch := x % c
  let t := x / c
  let y : Int := (p / ow * fieldNat r 136 4 : Nat) - (fieldNat r 112 8 : Nat) + (t / kw * fieldNat r 144 4 : Nat)
  let z : Int := (p % ow * fieldNat r 140 4 : Nat) - (fieldNat r 120 8 : Nat) + (t % kw * fieldNat r 148 4 : Nat)
  if kh * kw * c ≤ x || oh * ow ≤ p then .zero
  else if y < 0 || (h : Int) ≤ y || z < 0 || (w : Int) ≤ z then .pad
  else .at (fieldNat r 320 64 + y.toNat * fieldNat r 192 32 + z.toNat * fieldNat r 160 32 + ch * (mtxBits (recFmt r) / 8))

/-- R388: the elements k0 to k0 + u − 1 of column n of mconv's B. -/
def convColumn (s : State) (key : Nat) (t : Team) (r : BitVec 512) (n k0 u : Nat) : JRes × List BElem × State :=
  let bits := mtxBits (recFmt r)
  (List.range u).foldl (fun x k => if x.1 ≠ .ok then x
    else match convElem r (fieldNat r 256 32 + n) (fieldNat r 224 32 + k0 + k) with
      | .zero => (.ok, x.2.1 ++ [.zero], x.2.2)
      | .pad => (.ok, x.2.1 ++ [.code (fieldNat r 384 64 % 2 ^ bits)], x.2.2)
      | .at a =>
        if recSpace r = 2 then
          match seqShared t a (bits / 8) with
          | (.ok, bs) => (.ok, x.2.1 ++ [.code (leNat bs)], x.2.2)
          | (f, _) => (f, [], x.2.2)
        else match seqGlobal x.2.2 key t (a % 2 ^ 64) (bits / 8) with
          | (.ok, bs, s) => (.ok, x.2.1 ++ [.code (leNat bs)], s)
          | (f, _, s) => (f, [], s)) (.ok, [], s)

/-- R209: what a k-step needs of B: its 64 columns and, for narrow elements, their scale records. -/
structure BStep where
  cols   : List (List BElem)
  scales : List Nat
  deriving DecidableEq, Repr

/-- R209, R231: fetches and checks every operand of a k-step. -/
def fetchB (s : State) (key : Nat) (t : Team) (r : BitVec 512) (k0 u : Nat) : JRes × BStep × State :=
  let narrow := 4 ≤ recFmt r
  let sc : JRes × List Nat :=
    if !narrow then (.ok, [])
    else if recKind r = 2 then (.ok, List.replicate 64 (fieldNat r 16 8))
    else match seqShared t (recSbase r + k0 / 32 * 64) 64 with
      | (.ok, bs) => (.ok, bs.map (·.toNat))
      | (f, _) => (f, [])
  let c := (List.range 64).foldl (fun (x : JRes × List (List BElem) × State) n => if x.1 ≠ .ok then x
    else match (if recKind r = 2 then convColumn x.2.2 key t r n k0 u else bColumn x.2.2 key t r n k0 u) with
      | (.ok, es, s) => (.ok, x.2.1 ++ [es], s)
      | (f, _, s) => (f, [], s)) (.ok, [], s)
  if sc.1 ≠ .ok then (sc.1, { cols := [], scales := [] }, s)
  else (c.1, { cols := c.2.1, scales := sc.2 }, c.2.2)

/-! ## The rows of A (R385, R389, R395) -/

/-- R385: registers of scale records. -/
def mtxRecs (afmt : Nat) (sparse : Bool) : Nat := (if afmt = 4 then 1 else if afmt = 5 then 2 else 0) * (if sparse then 2 else 1)
/-- R389: registers of sparse indices. -/
def mtxIdx (afmt : Nat) (sparse : Bool) : Nat := if !sparse then 0 else if afmt = 4 then 32 else 64

/-- R395: the held-A registers as a group's rows give them: A in 0-31, records in 32-35, indices in 36-99. An exited lane supplies a row of zeros (R385): zero elements under integer records and rising indices (DEDUCED, log entry 21). -/
def rowImage (g : Group) (o : MmaOps) (sparse : Bool) (reg lane : Nat) : Word :=
  let afmt := o.afmt.toNat
  let live := g.lmask.getLsbD lane
  if reg < 32 then (if live then g.v lane (o.areg.toNat + reg) else 0)
  else if reg < 36 then
    if mtxRecs afmt sparse ≤ reg - 32 then 0
    else if live then g.v lane (o.sreg.toNat + (reg - 32)) else if afmt = 4 then 0x80808080 else 0x40404040
  else if mtxIdx afmt sparse ≤ reg - 36 then 0
  else if live then g.v lane (o.mreg.toNat + (reg - 36))
  else BitVec.ofNat 32 (leNat ((List.range 4).map (fun b => (BitVec.ofNat 8 (((reg - 36) * 4 + b) % 64) : Byte))))

/-- R389: a held operand. -/
def heldImage (q : Seq) (reg lane : Nat) : Word := SMap.get 0 q.heldA (64 * reg + lane)
/-- R389: holds rows. -/
def holdRows (img : Nat → Nat → Word) (w : Nat) : SMap Word :=
  ((List.range 100).flatMap (fun r => (List.range w).map (fun i => (64 * r + i, img r i)))).filter (fun e => e.2 != 0)

/-- R385: element k of a row. -/
def aElem (img : Nat → Nat → Word) (afmt lane k : Nat) : Nat :=
  let bits := mtxBits afmt
  if bits = 64 then (img (2 * k) lane).toNat + 2 ^ 32 * (img (2 * k + 1) lane).toNat
  else (img (k * bits / 32) lane).toNat / 2 ^ (k * bits % 32) % 2 ^ bits
/-- Byte b of the registers from `reg` on. -/
def imgByte (img : Nat → Nat → Word) (reg lane b : Nat) : Nat := (img (reg + b / 4) lane).toNat / 2 ^ (8 * (b % 4)) % 256
/-- R231: the record of block kb of a row. -/
def aRec (img : Nat → Nat → Word) (lane kb : Nat) : Nat := imgByte img 32 lane kb

/-! ## One k-step of one element (R235, R236, R389) -/

/-- R389: kept element e of a sparse row: its dense position, and whether its index is in order. -/
def keptAt (img : Nat → Nat → Word) (lane e : Nat) : Nat × Bool :=
  let x := imgByte img 36 lane e
  (128 * (e / 64) + x % 128, x < 128 && (e % 64 = 0 || imgByte img 36 lane (e - 1) < x))

/-- R230, R231: the products of a block: A's value, B's, each with whether reading it raises invalid. -/
def blockTerms (img : Nat → Nat → Word) (afmt bfmt : Nat) (int sparse : Bool) (lane kb : Nat) (rb : Nat) (col : List BElem) :
    List ((FVal × Bool) × (FVal × Bool)) :=
  let ra := aRec img lane kb
  let b (k : Nat) : FVal × Bool := match col.getD k .zero with
    | .zero => (.fin false 0 0, false)
    | .code x => elemValue (bfmt = 5) int rb x
  if !sparse then (List.range 32).map (fun k => (elemValue (afmt = 5) int ra (aElem img afmt lane (32 * kb + k)), b k))
  else
    let kept := if afmt = 4 then 128 else 256
    ((List.range kept).filter (fun e => (keptAt img lane e).1 / 32 = kb)).map (fun e =>
      let a := if (keptAt img lane e).2 then elemValue (afmt = 5) int ra (aElem img afmt lane e)
        else if int then (.fin false 0 0, true) else (.nan, true)
      (a, b ((keptAt img lane e).1 % 32)))

/-- The exact integer of an integer element. -/
def fvalInt : FVal → Int
  | .fin neg m _ => if neg then -(m : Int) else m
  | _ => 0

/-- R235: one k-step of one accumulator element: its new code and the flags. -/
def kstepElem (img : Nat → Nat → Word) (afmt bfmt : Nat) (int sparse : Bool) (lane k0 : Nat) (rb : Nat) (col : List BElem)
    (acc : Nat) : Nat × Word :=
  if 4 ≤ afmt then
    let ts := blockTerms img afmt bfmt int sparse lane (k0 / 32) rb col
    let nv : Word := if ts.any (fun x => x.1.2 || x.2.2) then flNV else 0
    if int then
      let sum := ts.foldl (fun (x : Int) y => x + fvalInt y.1.1 * fvalInt y.2.1) 0
      ((((acc : Int) + sum) % (2 ^ 32 : Nat)).toNat, nv)
    else
      let scale : Int := ((aRec img lane (k0 / 32) % 64 : Nat) : Int) + ((rb % 64 : Nat) : Int) - 64
      let r := (ts.foldl (fun (x : Sum) y => x.product y.1.1 y.2.1 scale) Sum.zero).close Fmt.f32 0 false acc
      (r.bits, r.fl ||| nv)
  else
    let code (k : Nat) : Nat := match col.getD k .zero with | .zero => 0 | .code x => x
    if afmt = 0 then
      let r := fFma Fmt.f64 0 false (aElem img 0 lane k0) (code 0) acc
      (if fIsNaN Fmt.f64 r.bits then Fmt.f64.dnan else r.bits, r.fl)
    else
      let f := if afmt = 1 then Fmt.f32 else if afmt = 2 then Fmt.bf16 else Fmt.f16
      let ts := (List.range 8).map (fun k => (aElem img afmt lane (k0 + k), code k))
      let nv : Word := if ts.any (fun x => fIsSNaN f x.1 || fIsSNaN f x.2) then flNV else 0
      let r := (ts.foldl (fun (x : Sum) y => x.product (fVal f y.1) (fVal f y.2) 0) Sum.zero).close Fmt.f32 0 false acc
      (r.bits, r.fl ||| nv)

/-! ## Tiles (R386) -/

/-- R386: accumulator slots of a tile of W rows with elements of `n` bytes. -/
def tileSlots (w n : Nat) : Nat := max 1 (w * 64 * n / 8192)
/-- R386: the tile lies in the slots and starts at a multiple of its size. -/
def tileOk (acc w n : Nat) : Bool := acc % tileSlots w n = 0 && acc + tileSlots w n ≤ 8

/-- R238: flags go to MFLAGS. -/
def Seq.flags (q : Seq) (fl : Word) : Seq := { q with mflags := q.mflags ||| (fl >>> 8) }

/-- Computes a tile anew from its elements. -/
def tileMap (q : Seq) (acc w n : Nat) (f : Nat → Nat → Nat → Nat × Word) : Seq :=
  let base := 8192 * acc
  let rs := (List.range (w * 64)).map (fun x => f (x / 64) (x % 64) (readNat q.acc (base + n * x) n))
  ({ q with acc := writeBytes q.acc base (rs.flatMap (fun (r : Nat × Word) => natLe n r.1)) }).flags (rs.foldl (fun (fl : Word) (r : Nat × Word) => fl ||| r.2) 0)

/-! ## mma, mmas, mconv (R389) -/

/-- R385, R387: the record fits the word. -/
def recFits (o : MmaOps) (sparse conv : Bool) (r : BitVec 512) : Bool :=
  let afmt := o.afmt.toNat
  let fmt := recFmt r
  recKind r = (if conv then 2 else 1) && (if 4 ≤ afmt then 4 ≤ fmt else fmt = afmt) && !(sparse && recSpace r ≠ 2) &&
    (conv || mtxK afmt sparse * mtxBits fmt / 8 ≤ recCstride r)

/-- R383, R384, R385, R389: the fields of rows that are read from registers: AREG a multiple of 8, SREG as the records need it, MREG a multiple of 8 in mmas and 0 otherwise, and every run within the group's declared count. -/
def rowsOk (g : Group) (o : MmaOps) (sparse : Bool) : Bool :=
  let n := mtxRecs o.afmt.toNat sparse
  o.areg.toNat % 8 = 0 && o.areg.toNat + 32 ≤ g.regs &&
    (n = 0 || (o.sreg.toNat % n = 0 && o.sreg.toNat + n ≤ g.regs)) &&
    (if sparse then o.mreg.toNat % 8 = 0 && o.mreg.toNat + mtxIdx o.afmt.toNat sparse ≤ g.regs else o.mreg == 0)

/-- R209, R389: performs the k-steps that are left. -/
def runSteps (s : State) (key : Nat) (q : Seq) (t : Team) (o : MmaOps) (sparse : Bool) (w : Nat) (img : Nat → Nat → Word)
    (r : BitVec 512) : JRes × Seq × State :=
  let afmt := o.afmt.toNat
  let u := mtxUnit afmt
  let total := mtxK afmt sparse / u
  (List.range (total - q.kstep.toNat)).foldl (fun (x : JRes × Seq × State) _ => if x.1 ≠ .ok then x
    else
      let k0 := x.2.1.kstep.toNat * u
      match fetchB x.2.2 key t r k0 u with
      | (.ok, b, s) =>
        let q := tileMap x.2.1 o.acc.toNat w (if afmt = 0 then 8 else 4) (fun i n acc =>
          kstepElem img afmt (recFmt r) o.acci sparse i k0 (b.scales.getD n 0) (b.cols.getD n []) acc)
        (.ok, { q with kstep := q.kstep + 1 }, s)
      | (.wait, _, s) => (.wait, x.2.1, keepAnswers x.2.2 s)
      | (f, _, s) => (f, x.2.1, s)) (.ok, q, s)

/-- R389: mma, mmas and mconv. A word with REUSE holds its rows as it reads them, so that one which parks restarts with them (R210). -/
def mmaOp (o : MmaOps) (sparse conv : Bool) (s : State) : Out :=
  withSeq s (fun key q tid t =>
    let w := teamWidth s tid
    let afmt := o.afmt.toNat
    let r := SMap.get 0 q.sh o.bslot.toNat
    if !tileOk o.acc.toNat w (if afmt = 0 then 8 else 4) || !recFits o sparse conv r then seqBad s key tid q
    else
      let img? : Option (Nat → Nat → Word) :=
        if q.aheld then (if q.hfmt = o.afmt && q.hsp == sparse then some (heldImage q) else none)
        else match feedGroup s tid t o.grp.toNat with
          | some (_, g) => if rowsOk g o sparse then some (rowImage g o sparse) else none
          | none => none
      match img? with
      | none => seqBad s key tid q
      | some img =>
        let q := if o.reuse && !q.aheld then
          { q with aheld := true, hfmt := o.afmt, hsp := sparse, hw := BitVec.ofNat 2 (w / 32), heldA := holdRows img w } else q
        match runSteps s key q t o sparse w img r with
        | (.ok, q', s) =>
          let q' := if o.reuse then q' else { q' with aheld := false }
          seqNext s key (if o.adv then { q' with sh := SMap.set 0 q'.sh o.bslot.toNat (recAdvance r (mtxK afmt sparse)) } else q')
        | (.wait, q', s) => .next (s.setSeq key q')
        | (.error, q', s) => .next (seqPark s key q' t 6 0x0F 0 0 0 0 0)
        | (.fault cause va level e tag fmt, q', s) => .next (seqPark s key q' t 6 cause va level e tag fmt))

/-- MNOP, R384. -/
def execMnop (s : State) : Out := withSeq s (fun key q _ _ => seqNext s key q)
/-- MMA, R389. -/
def execMma (o : MmaOps) (s : State) : Out := mmaOp o false false s
/-- MMAS, R389. -/
def execMmas (o : MmaOps) (s : State) : Out := mmaOp o true false s
/-- MCONV, R388, R389. -/
def execMconv (o : MmaOps) (s : State) : Out := mmaOp o false true s

/-- MZERO, R386. -/
def execMzero (acc n1 : BitVec 3) (s : State) : Out :=
  withSeq s (fun key q tid _ =>
    if 8 < acc.toNat + n1.toNat + 1 then seqBad s key tid q
    else seqNext s key { q with acc := zeroBytes q.acc (8192 * acc.toNat) (8192 * (n1.toNat + 1)) })

/-! ## mld, mst, mdrain (R390) -/

/-- R448: parks when a shared range passes the declared size; otherwise goes on. -/
def sharedRange (s : State) (key : Nat) (q : Seq) (t : Team) (off n : Nat) (k : Out) : Out :=
  match sharedFault t off n with
  | some (.fault cause va level e tag fmt) => .next (seqPark s key q t 6 cause va level e tag fmt)
  | _ => k

/-- R384: bytes of an accumulator element. -/
def aszBytes (asz : BitVec 2) : Nat := if asz = 1 then 8 else 4

/-- R105, R390: bytes written to shared memory, counted when CNT asks for it. -/
def sharedWrite (s : State) (tid off : Nat) (bs : List Byte) (cnt : Bool) (obj : Nat) : State :=
  let s := s.modTeam tid (fun t => { t with shared := writeBytes t.shared off bs })
  if cnt then landBytes s tid obj bs.length else s

/-- MLD, R390. -/
def execMld (o : TileOps) (s : State) : Out :=
  withSeq s (fun key q tid t =>
    let w := teamWidth s tid
    let n := aszBytes o.asz
    if !tileOk o.acc.toNat w n then seqBad s key tid q
    else sharedRange s key q t o.off.toNat (64 * w * n)
      (seqNext s key { q with acc := writeBytes q.acc (8192 * o.acc.toNat) (readBytes t.shared o.off.toNat (64 * w * n)) }))

/-- MST, R390. -/
def execMst (o : TileOps) (s : State) : Out :=
  withSeq s (fun key q tid t =>
    let w := teamWidth s tid
    let n := aszBytes o.asz
    if !tileOk o.acc.toNat w n then seqBad s key tid q
    else sharedRange s key q t o.off.toNat (64 * w * n)
      (seqNext (sharedWrite s tid o.off.toNat (readBytes q.acc (8192 * o.acc.toNat) (64 * w * n)) o.cnt o.bobj.toNat) key q))

/-- R390: bytes of a target element. -/
def drainBytes (dfmt : BitVec 3) : Nat := if dfmt = 1 || dfmt = 2 then 2 else if dfmt = 3 then 8 else 4
/-- R224, R390: an element converted to its target, to nearest even; a NaN becomes the target's default NaN. -/
def drainElem (asz : BitVec 2) (dfmt : BitVec 3) (x : Nat) : Nat × Word :=
  let cvt (a b : Fmt) : Nat × Word :=
    let r := fCvt a b 0 false false x
    (if fIsNaN a x then b.dnan else r.bits, r.fl)
  if asz = 0 then (if dfmt = 1 then cvt Fmt.f32 Fmt.f16 else if dfmt = 2 then cvt Fmt.f32 Fmt.bf16 else (x, 0))
  else if asz = 1 then (if dfmt = 0 then cvt Fmt.f64 Fmt.f32 else (x, 0))
  else if dfmt = 0 then let r := fOfInt Fmt.f32 0 false (BitVec.ofNat 32 x).toInt; (r.bits, r.fl)
  else (x, 0)

/-- R390: the converted row of a lane. -/
def drainRow (q : Seq) (o : DrainOps) (i : Nat) : List (Nat × Word) :=
  let n := aszBytes o.asz
  (List.range 64).map (fun c => drainElem o.asz o.dfmt (readNat q.acc (8192 * o.acc.toNat + n * (64 * i + c)) n))

/-- R390: the 32 columns that lane i of a group receives, as register words. -/
def drainWords (q : Seq) (o : DrainOps) (i : Nat) : List Word :=
  let xs := ((drainRow q o i).map (·.1)).drop (if o.ch then 32 else 0)
  let bs := (xs.take 32).flatMap (fun x => natLe (drainBytes o.dfmt) x)
  (List.range (bs.length / 4)).map (fun k => BitVec.ofNat 32 (leNat (sliceOf bs (4 * k) 4)))

/-- MDRAIN, R390. A lane that has exited has no registers to receive its row (R163). -/
def execMdrain (o : DrainOps) (s : State) : Out :=
  withSeq s (fun key q tid t =>
    let w := teamWidth s tid
    let t2 := drainBytes o.dfmt
    let fl (rows : List Nat) : Word :=
      rows.foldl (fun fl i => (drainRow q o i).foldl (fun fl r => fl ||| r.2) fl) 0
    if !tileOk o.acc.toNat w (aszBytes o.asz) then seqBad s key tid q
    else if o.dst then
      match feedGroup s tid t o.grp.toNat with
      | none => seqBad s key tid q
      | some (gid, g) =>
        if g.regs < o.dreg.toNat + 32 * t2 / 4 then seqBad s key tid q
        else
          let lanes := (lanesOf g.lmask).filter (· < w)
          let g' := lanes.foldl (fun g' i => ((drainWords q o i).zipIdx).foldl (fun g' x => g'.setV i (o.dreg.toNat + x.2) x.1) g') g
          seqNext (s.setGroup gid g') key (q.flags (fl (List.range w)))
    else
      sharedRange s key q t o.off.toNat (64 * w * t2)
        (let bs := (List.range w).flatMap (fun i => (drainRow q o i).flatMap (fun r => natLe t2 r.1))
         seqNext (sharedWrite s tid o.off.toNat bs o.cnt o.bobj.toNat) key (q.flags (fl (List.range w)))))

/-- MSHP, R387: loads and checks a record. -/
def execMshp (slot : BitVec 3) (off : BitVec 20) (s : State) : Out :=
  withSeq s (fun key q tid t =>
    sharedRange s key q t off.toNat 64
      (let r : BitVec 512 := BitVec.ofNat 512 (leNat (readBytes t.shared off.toNat 64))
       if recOk r then seqNext s key { q with sh := SMap.set 0 q.sh slot.toNat r } else seqBad s key tid q))

/-! ## mbar, mbwt and flow (R391) -/

/-- MBAR, R108, R391: the sequencer arrives; the end of the cycle counts its arrival, after the groups', or stops the stream. -/
def execMbar (obj : BitVec 4) (s : State) : Out :=
  withSeq s (fun key q tid t =>
    let e : ArriveEvent := { key := seqGid key, group := none, seq := true, mask := 0, cpc := 0, ipc := 0, idx := 0 }
    .next ((s.setTeam tid (t.setObj obj.toNat ((t.obj obj.toNat).arrive s.clock e))).setSeq key { q with arriving := true }))

/-- R108, R391: what the sequencer's arrival does to it at the end of its cycle. -/
def seqArrived (obj : Nat) (phase : Bool) (s : State) (tid : Nat) (e : ArriveEvent) (counted : Bool) : State :=
  let key := e.key - seqGid 0
  let q := s.seqOf key
  if !q.arriving || q.team ≠ some tid then s
  else if counted then
    s.setSeq key { q with arriving := false, soff := q.soff + 8, kstep := 0, wp := setBit q.wp obj phase,
                          arrm := q.arrm ||| BitVec.twoPow 16 obj }
  else seqStop s key tid { q with arriving := false } 4 obj

/-- R108: the end of the cycle of a team's object. -/
def closeObj (s : State) (tid : Nat) (t : Team) (n : Nat) : State :=
  let o := t.obj n
  let (o', rs) := o.close
  rs.foldl (fun s r => if r.1.seq then seqArrived n o.phase s tid r.1 r.2 else arrivalResult n o.phase s tid r.1 r.2)
    (s.modTeam tid (fun t => t.setObj n o'))

/-- R108: a cycle ends when the step was no event of the object, or when the next step belongs to another cycle (DESIGN CHOICE, log entry 46). -/
def cycleEnds (s : State) (o : BarObj) : Bool :=
  match o.event with
  | none => false
  | some c => c ≠ s.clock || Config.cycleEnds s.clock
/-- R108: ends the cycles that end with this step. -/
def closeCycles (s : State) : State :=
  s.teams.foldl (fun s (e : Nat × Team) => (List.range 16).foldl (fun s n =>
    if cycleEnds s (e.2.obj n) then closeObj s e.1 e.2 n else s) s) s

/-- MBWT, R357, R391: waits until the phase is complete for the sequencer. -/
def execMbwt (obj : BitVec 4) (s : State) : Out :=
  withSeq s (fun key q _ t =>
    let o := t.obj obj.toNat
    if o.phase != q.wp.getLsbD obj.toNat then seqNext s key { q with wp := setBit q.wp obj.toNat o.phase, waiting := false }
    else .next (s.setSeq key { q with waiting := true }))

/-- R391: a jump of `off` words, signed, from the word itself. -/
def jumpTo (q : Seq) (off : BitVec 32) : DWord := q.soff + 8 * off.signExtend 64

/-- MLOOP, R391. -/
def execMloop (o : LoopOps) (s : State) : Out :=
  withSeq s (fun key q _ _ =>
    let lc := if o.ctr then q.lc1 else q.lc0
    let on := if o.ctr then q.lact1 else q.lact0
    let count : BitVec 16 := if o.usep then field q.mparam 0 16 else o.count
    let lc := if on then lc else if count = 0 then 0 else count - 1
    let put (q : Seq) (lc : BitVec 16) (on : Bool) : Seq :=
      if o.ctr then { q with lc1 := lc, lact1 := on } else { q with lc0 := lc, lact0 := on }
    if lc ≠ 0 then .next (s.setSeq key { put q (lc - 1) true with soff := jumpTo q o.off, kstep := 0 })
    else seqNext s key (put q lc false))

/-- MJMP, R391. -/
def execMjmp (off : BitVec 32) (s : State) : Out :=
  withSeq s (fun key q _ _ => .next (s.setSeq key { q with soff := jumpTo q off, kstep := 0 }))

/-- MEND, R391: releases a held A and goes idle. -/
def execMend (s : State) : Out :=
  withSeq s (fun key q _ _ => .next (s.setSeq key { q with aheld := false, state := 0, waiting := false }))

/-- MSTREAM_UNASSIGNED_WORD, R266: the stream stops before the word with REASON 1. -/
def execMstreamUnassignedWord (_w : BitVec 64) (s : State) : Out :=
  withSeq s (fun key q tid _ => .next (seqStop s key tid q 1 0))

end Sys2Proof.Machine
end

