-- ==== Sys2Proof/Machine/Sys.lean ====
section
/-! DEFINITION. Supervisor instructions: sret, tlbinv, pfrep, pfcan, msave, mrest, ctxld, wfi, sipi (18_isa_system R392-R404; 09_traps_faults R205-R214; 01_address_spaces R12, R13, R36, R37). -/

namespace Sys2Proof.Machine

open Form

/-! ## Who may issue a form (R392) -/

/-- R392: a supervisor form: on a core kind that its table row excludes it raises ILLINSTR, and so does a reserved operand; in user mode it then raises PRIV. -/
def privOp (s : State) (kind : Nat → Bool) (os : Group → List Opd) (k : Nat → Group → Clause → Out) : Out :=
  withClause s (fun gid g c =>
    if !kind (coreOfGid gid) then .next (trapFrag s gid g c 0x02)
    else match illOf g c (os g) with
      | some t => opTrapHere s gid g c t
      | none => if !g.sup then .next (trapFrag s gid g c 0x0F) else k gid g c)

/-- R392, R315: a form that acts once, when a lane is active. -/
def onceSys (s : State) (o : Ops) (kind : Nat → Bool) (os : List Opd) (k : Nat → Group → Clause → Nat → Out) : Out :=
  privOp s kind (fun _ => os) (fun gid g c => match lanesOf (active g c o) with
    | [] => .next (retire s gid g c none)
    | lane :: _ => k gid g c lane)

/-- R252, R399, R401, R404: a form of the service cores whose status arrives on a counter, which has room. -/
def onceStatus (s : State) (o : Ops) (os : List Opd) (k : Nat → Group → Clause → Nat → Out) : Out :=
  onceSys s o isService os (fun gid g c lane => if g.full o.ctr then .next s else k gid g c lane)

/-- A compute core. -/
def isCompute (core : Nat) : Bool := !isService core
/-- Any core. -/
def anyCore (_ : Nat) : Bool := true

/-- The issuing group as the state holds it now, with its wait for a shootdown over. -/
def groupNow (s : State) (gid : Nat) (g : Group) (c : Clause) : Group := clearWait ((SMap.find? s.groups gid).getD g) c 17 0

/-- R252, R399, R401, R404: the instruction retires, and its status is on its way. -/
def retireStatus (s : State) (gid : Nat) (g : Group) (c : Clause) (o : Ops) (status : Nat) : Out :=
  .next (retire s gid (scalarResult (groupNow s gid g c) o false status) c none)

/-! ## sret (R397, R208) -/

/-- R208: the recorded resolution of a SEQ. -/
def resolutionOf (ctx : Ctx) (seq : Word) : Option Bool :=
  (ctx.resolutions.find? (fun e => e.1 = seq)).map (·.2)
/-- R208: a resolution has been applied. -/
def dropResolution (s : State) (n : Nat) (seq : Word) : State :=
  s.modCtx n (fun c => { c with resolutions := c.resolutions.filter (fun e => e.1 != seq) })

/-- R207: the MEMFATAL that a cancelled parking holds for its fragment. -/
def fatalOf (p : Park) : Held :=
  { cause := 0x0D, reason := 0, info := p.seq, mask := p.mask, cpc := p.pc, ipc := p.ipc, idx := p.idx.toNat }

/-- R208, R396: after RESTORE, a restored parking meets its recorded resolution. -/
def applySlot (s : State) (gid k : Nat) : State :=
  match SMap.find? s.groups gid with
  | none => s
  | some g =>
    let x := g.slot k
    if !x.park.active then s
    else
      let x := { x with park := { x.park with ipc := insnAddrAt s gid g x.park.pc x.park.idx.toNat } }
      let g := g.setSlot k x
      match (s.ctxOf? g.ctx).bind (fun c => resolutionOf c x.park.seq) with
      | none => s.setGroup gid g
      | some true => dropResolution (s.setGroup gid (g.setSlot k { x with park := { x.park with replay := true } })) g.ctx x.park.seq
      | some false => dropResolution (s.setGroup gid { g with held := g.held ++ [fatalOf x.park] }) g.ctx x.park.seq

/-- R393, R396: a parked sequencer goes on at KSTEP, or stops. -/
def resolveSeq (s : State) (key : Nat) (replay : Bool) : State :=
  let q := s.seqOf key
  if replay then s.setSeq key { q with state := 1, park := false }
  else match q.team with
    | some t => seqStop s key t q 3 0
    | none => s.setSeq key { q with state := 3, reason := 3, park := false, doubt := true }

/-- R396: the recorded resolution of the team's restored sequencer. -/
def applySeq (s : State) (g : Group) : State :=
  match seqOfGroup s g with
  | none => s
  | some (_, _, key) =>
    let q := s.seqOf key
    if q.state ≠ 2 then s
    else match (s.ctxOf? g.ctx).bind (fun c => resolutionOf c q.pseq) with
      | none => s
      | some b => dropResolution (resolveSeq s key b) g.ctx q.pseq

/-- R397: leaves the handler with the entries read. -/
def leaveHandler (s : State) (gid : Nat) (g : Group) (sp : List Frag) : State :=
  let s := restartProgress s (coreOfGid gid)
  let restore := g.tcause = 0x11
  let s := s.setGroup gid { resumeBoundary g (reinstate g sp s.clock) s.clock with seqs := [] }
  if restore then applySeq (applySlot (applySlot s gid 0) gid 1) g else s

/-- SRET, R397: whatever lanes are active. -/
def execSret (_o : Ops) (s : State) : Out :=
  privOp s anyCore (fun _ => []) (fun gid g c =>
    if g.fmask ≠ g.entryMask then .next (trapFrag s gid g c 0x03)
    else if g.tcause = 0x09 then .next (trapFrag s gid g c 0x02)
    else if g.tcause = 0x0A && g.sysRest ≠ 0 then
      let lane := lowestLane g.sysRest
      let sv := match s.ctxOf? g.ctx with | some x => x.svbase | none => 0
      let trec := (g.trec &&& ~~~(fld 256 64 (2 ^ 64 - 1))) ||| fld 256 64 lane.toNat
      let g := { g.dropPops c.slot with
        trec := trec, sysRest := g.sysRest &&& ~~~lane, entryMask := lane, fmask := lane, region := [], clause := none,
        s0 := { Slot.empty with mask := lane, pc := sv + BitVec.ofNat 64 0xA00, since := s.clock }, s1 := Slot.empty, spill := [],
        rotc := 0, pass := 0, pslot := 0 }
      .next ((restartProgress s (coreOfGid gid)).setGroup gid g)
    else
      let g := g.dropPops c.slot
      match frontier s gid g .load (min 62 (statSpill g.cstat)) with
      | (.wait, s1) => .next (keepAnswers s s1)
      | (.fault va f tag fmt, s1) =>
        let (seq, s1) := takeSeq s1
        .next (park (postFault s1 (frontierRec gid g 0 va f tag fmt c.pc seq)) gid g c 0 seq)
      | (.ok addrs, s1) => match frontierRead s1 gid g addrs with
        | (none, s2) => .next (keepAnswers s s2)
        | (some sp, s2) =>
          if sretOk g sp then .next (leaveHandler s2 gid g sp) else .next (trapFrag s2 gid g c 0x03))

/-! ## tlbinv (R36, R37, R400) -/

/-- R36, R400: a cached leaf that a form removes. -/
def TlbInv.hits (t : TlbInv) (e : TlbEntry) : Bool :=
  if t.kind = 2 then e.leaf.getLsbD 5
  else e.ctx = t.ctx && !e.leaf.getLsbD 5 && (t.kind = 1 || (t.kind = 0 && e.page = t.va.toNat / pageBytes e.level * pageBytes e.level))
/-- R36, R400: a cached table entry that a form removes. -/
def TlbInv.hitsWalk (t : TlbInv) (w : WalkEntry) : Bool :=
  t.kind < 2 && w.ctx = t.ctx && (t.kind = 1 || w.pfx = vaPrefix t.va.toNat w.level)

/-- R36: removes translations across the module. -/
def removeLeaves (s : State) (t : TlbInv) : State :=
  { s with
    cores := (s.cores.map (fun (e : Nat × CoreSt) => (e.1, { e.2 with tlb := e.2.tlb.filter (fun x => !t.hits x) }))).filter
      (fun e => e.2 != CoreSt.init),
    clusters := (s.clusters.map (fun (e : Nat × Cluster) =>
      (e.1, { e.2 with tlb := e.2.tlb.filter (fun x => !t.hits x), walkc := e.2.walkc.filter (fun w => !t.hitsWalk w) }))).filter
      (fun e => e.2 != Cluster.init) }

/-- R36: every die's shadow reductions, which were translated before, go to their homes. -/
def mergeAll (s : State) : State := s.clusters.foldl (fun s (e : Nat × Cluster) => mergeShadows s e.1 (fun _ => true)) s

/-- R36, R400: starts a shootdown and blocks the issuing fragment. -/
def startInv (s : State) (gid : Nat) (g : Group) (c : Clause) (t : TlbInv) (payload : List Word) : Out :=
  let s := removeLeaves s t
  let s := mergeAll { s with tlbinvs := s.tlbinvs ++ [t] }
  .next (block s gid g c { Wait.none with kind := 17, payload := payload })

/-- R400: a form of tlbinv. -/
def tlbinvOp (s : State) (o : Ops) (kind : Nat) (os : List Opd) : Out :=
  onceSys s o isService os (fun gid g c _ =>
    if (waitOf g c 17 0).kind ≠ 0 then .next (retire s gid (clearWait g c 17 0) c none)
    else
      let ctx := if kind = 2 then 0 else fieldNat (sca32 g o.a) 0 16
      let va := if kind = 0 then sca g true o.b else 0
      let live := kind = 2 || ((s.ctxOf? ctx).isSome && fieldNat va 56 8 = 0)
      startInv s gid g c { gid := gid, kind := if live then kind else 3, ctx := ctx, va := va } [])

/-- TLBINV_PAGE, R400. -/
def execTlbinvPage (o : Ops) (s : State) : Out := tlbinvOp s o 0 [.ss false o.a, .ss true o.b]
/-- TLBINV_CTX, R400. -/
def execTlbinvCtx (o : Ops) (s : State) : Out := tlbinvOp s o 1 [.ss false o.a]
/-- TLBINV_GLOBAL, R400. -/
def execTlbinvGlobal (o : Ops) (s : State) : Out := tlbinvOp s o 2 []

/-! ## Parked faults (R399, R207, R208, R446) -/

/-- What a pending SEQ names. -/
inductive Parking where
  /-- A live or suspended slot of a group. -/
  | slot (gid k : Nat) (suspended : Bool)
  | frontier (gid : Nat)
  | job (sched slot : Nat)
  | sequencer (key : Nat)
  /-- A saved group or sequencer of a context. -/
  | saved (ctx : Nat)
  deriving DecidableEq, Repr

/-- A cancelled parking waits for its MEMFATAL. -/
def Group.cancelled (g : Group) (seq : Word) : Bool := g.held.any (fun h => h.cause = 0x0D && h.info = seq)
/-- R206: a slot's pending parking of a SEQ. -/
def Slot.pends (x : Slot) (seq : Word) : Bool := x.park.active && !x.park.replay && x.park.seq = seq

/-- R208: a group in its PREEMPT or RESTORE entry counts as saved. -/
def Group.parking (g : Group) (gid : Nat) (seq : Word) : Option Parking :=
  if g.cancelled seq then none
  else if g.fpark = some seq then some (.frontier gid)
  else if g.s0.pends seq then some (.slot gid 0 false)
  else if g.s1.pends seq then some (.slot gid 1 false)
  else if g.seqs.contains seq then some (.saved g.ctx)
  else if g.sup && (g.k0.pends seq || g.k1.pends seq) then
    (if g.tcause = 0x09 then some (.saved g.ctx) else some (.slot gid (if g.k0.pends seq then 0 else 1) true))
  else none

/-- R208: the saved parkings of a team. -/
def SavedTeam.seqs (t : SavedTeam) : List Word := t.groups.flatMap (·.seqs) ++ t.mseq.toList
/-- R208: the parkings of the groups of a resident team that have left, and of its saved sequencer. -/
def Team.savedSeqs (t : Team) : List Word := t.left.flatMap (·.seqs) ++ t.mseq.toList

/-- R399: the pending parking of a SEQ. -/
def findParking (s : State) (seq : Word) : Option Parking :=
  match s.groups.findSome? (fun (e : Nat × Group) => e.2.parking e.1 seq) with
  | some p => some p
  | none => match s.jobs.find? (fun e => e.2.2.state == .parked && !e.2.2.resume && e.2.2.pseq = seq) with
    | some e => some (.job e.1 e.2.1)
    | none => match List.find? (fun (e : Nat × Seq) => e.2.state = 2 && e.2.pseq = seq) s.seqs with
      | some e => some (.sequencer e.1)
      | none => match List.find? (fun (e : Nat × Team) => e.2.savedSeqs.contains seq) s.teams with
        | some e => some (.saved e.2.ctx)
        | none => match List.find? (fun (e : Nat × Ctx) =>
            e.2.kernels.any (fun k => k.2.saved.any (fun t => t.seqs.contains seq))) s.ctxs with
          | some e => some (.saved e.1)
          | none => none

/-- R399: records a resolution in its context's list of 1,024; a SEQ already resolved is pending no more. -/
def recordResolution (s : State) (ctx : Nat) (seq : Word) (replay : Bool) : Nat × State :=
  match s.ctxOf? ctx with
  | none => (0, s)
  | some c =>
    if c.resolutions.any (fun e => e.1 = seq) then (0, s)
    else if c.resolutions.length < 1024 then (2, s.setCtx ctx { c with resolutions := c.resolutions ++ [(seq, replay)] })
    else (3, s)

/-- R446: the frontier entries are written again from the core's copy: the answer of pfrep, or none while that must be tried again. -/
def rewriteFrontier (s : State) (gid : Nat) (g : Group) : Option Nat × State :=
  match frontierWrite s gid { g with fpark := none } (g.kslot g.trapSlot).pc with
  | (none, s) => (none, s)
  | (some g, s) => (some 1, s.setGroup gid (if g.fpark.isSome then g else { g with spill := if g.sup then [] else g.spill }))

/-- R205, R446: a group halts and the double-trap event is posted. -/
def haltGroup (s : State) (gid : Nat) (g : Group) : State :=
  postDouble (s.setGroup gid { g with halted := true, clause := none }) gid g.ctx

/-- R207: the MEMFATAL of a cancelled parking: taken at once at a clause boundary, otherwise held until one. -/
def cancelSlot (s : State) (gid : Nat) (g : Group) (k : Nat) (suspended : Bool) : State :=
  let x := if suspended then g.kslot k else g.slot k
  let hold := s.setGroup gid { g with held := g.held ++ [fatalOf x.park] }
  if suspended || (g.clause.isSome && !g.sup) then hold
  else
    let s' := takeTrap s gid { cause := 0x0D, reason := 0, info := x.park.seq, tmask := x.park.mask, cpc := x.park.pc, ipc := x.park.ipc,
                               idx := x.park.idx.toNat, rpc := x.park.pc, slot := k, run := x.mask, abandon := false }
    orRetry hold s s'

/-- R207: replays or cancels a parking: the result, or none while a frontier write must be tried again. -/
def resolveParking (s : State) (seq : Word) (replay : Bool) : Option Nat × State :=
  match findParking s seq with
  | none => (some 0, s)
  | some (.slot gid k suspended) => match SMap.find? s.groups gid with
    | none => (some 0, s)
    | some g =>
      if !replay then (some 1, cancelSlot s gid g k suspended)
      else
        let on (x : Slot) : Slot := { x with park := { x.park with replay := true }, since := s.clock }
        (some 1, s.setGroup gid (if suspended then g.setKslot k (on (g.kslot k)) else g.setSlot k (on (g.slot k))))
  | some (.frontier gid) => match SMap.find? s.groups gid with
    | none => (some 0, s)
    | some g => if replay then rewriteFrontier s gid g else (some 1, haltGroup s gid { g with fpark := none })
  | some (.job sched slot) =>
    let j := s.job sched slot
    (some 1, s.setJob sched slot (if replay then { j with resume := true } else { j.finish 1 with state := .running }))
  | some (.sequencer key) => (some 1, resolveSeq s key replay)
  | some (.saved ctx) => let r := recordResolution s ctx seq replay; (some r.1, r.2)

/-- R399: pfrep and pfcan. -/
def resolveOp (s : State) (o : Ops) (replay : Bool) : Out :=
  onceStatus s o [.sd false o.d, .ss false o.a] (fun gid g c _ => match resolveParking s (sca32 g o.a) replay with
    | (none, s) => .next s
    | (some r, s) => retireStatus s gid g c o r)

/-- PFREP, R207, R399. -/
def execPfrep (o : Ops) (s : State) : Out := resolveOp s o true
/-- PFCAN, R207, R399. -/
def execPfcan (o : Ops) (s : State) : Out := resolveOp s o false

/-! ## msave and mrest (R393-R396) -/

/-- R395: the width code of a group. -/
def widthCode (w : Nat) : BitVec 2 := if w = 16 then 0 else if w = 32 then 1 else 2

/-- R395: the header of the image. -/
def imageHeader (q : Seq) : BitVec 512 :=
  fld 0 64 q.mprog.toNat ||| fld 64 32 q.mflags.toNat ||| fld 96 32 q.mstate.toNat ||| fld 128 32 q.mparam.toNat |||
    fld 160 16 q.lc0.toNat ||| fld 176 16 q.lc1.toNat ||| fld 192 1 q.lact0.toNat ||| fld 193 1 q.lact1.toNat |||
    fld 208 16 q.wp.toNat ||| fld 224 16 q.arrm.toNat ||| fld 240 3 q.hfmt.toNat ||| fld 243 1 q.hsp.toNat ||| fld 244 2 q.hw.toNat

/-- R395: the bytes of the image. -/
def imageBytes (q : Seq) : List Byte :=
  natLe 64 (imageHeader q).toNat ++ (List.range 8).flatMap (fun k => natLe 64 (SMap.get 0 q.sh k : BitVec 512).toNat) ++
    List.replicate 448 0 ++ readBytes q.acc 0 65536 ++
    (List.range 6400).flatMap (fun k => natLe 4 (SMap.get 0 q.heldA k : Word).toNat)

/-- R395: the pieces of 64 bytes of an image at an address. -/
def imagePieces (lane addr : Nat) : List (Nat × Nat) := (List.range 1440).map (fun i => (lane, addr + 64 * i))

/-- R394: a group is the compute-core group of a team with a sequencer; otherwise the form raises ILLINSTR. -/
def seqForm (s : State) (o : Ops) (k : Nat → Group → Clause → Nat → Team → Nat → Out) : Out :=
  privOp s isCompute (fun _ => [.ss true o.a]) (fun gid g c => match seqOfGroup s g with
    | none => .next (trapFrag s gid g c 0x02)
    | some (tid, t, key) => k gid g c tid t key)

/-- R394: every byte that the group has sent has been performed. -/
def sentDone (s : State) (gid : Nat) (g : Group) : Bool := storesDone s gid g && !s.reps.any (fun r => r.gid = gid && r.write)

/-- MSAVE, R394: pauses the sequencer, sends the image, and is over when every byte has been performed at its home. -/
def execMsave (o : Ops) (s : State) : Out :=
  seqForm s o (fun gid g c tid t key =>
    let q := s.seqOf key
    let addr := (sca g true o.a).toNat
    match lanesOf (active g c o) with
    | [] => .next (retire s gid g c none)
    | lane :: _ =>
      if addr % 64 ≠ 0 then .next (trapFrag s gid g c 0x0E)
      else if q.arriving then .next s
      else if q.saving = 2 then
        if sentDone s gid g then
          let s := s.setSeq key { q with state := 0, saving := 0, waiting := false, park := false }
          .next (retire (s.setTeam tid { t with mseq := if q.state = 2 then some q.pseq else none }) gid g c none)
        else .next s
      else if !g.sq.isEmpty then .next (s.setSeq key { q with saving := 1 })
      else
        let s := s.setSeq key { q with saving := 1 }
        let r := lanesGo s gid g 64 .store false (imagePieces lane addr)
        if r.stall then .next ((keepAnswers s r.s).setGroup gid g)
        else if !r.bad.isEmpty then .next (parkFaults r.s gid g c 1 r.bad g.fmask)
        else
          let bs := imageBytes q
          let s := (r.ok.zip (List.range 1440)).foldl (fun s x => drainLane gid c.ipc.toNat s
            { lane := lane, dst := x.1.2, data := sliceOf bs (64 * x.2) 64 }) r.s
          .next (s.setSeq key { s.seqOf key with saving := 2 }))

/-- R395: an image that mrest accepts for a width. -/
def imageOk (h : BitVec 512) (bs : List Byte) (w : Nat) : Bool :=
  fieldNat h 194 14 = 0 && fieldNat h 246 266 = 0 && (sliceOf bs 0x240 448).all (· == 0) && fieldNat h 18 14 = 0 &&
    fieldNat h 69 27 = 0 && fieldNat h 99 5 = 0 && fieldNat h 112 16 = 0 &&
    !(fieldNat h 104 8 ≠ 0 && fieldNat h 96 2 ≠ 3) &&
    !(h.getLsbD 17 && ((field h 244 2 : BitVec 2) ≠ widthCode w || 6 ≤ fieldNat h 240 3))

/-- R395, R396: the sequencer that an image holds. -/
def imageSeq (q : Seq) (h : BitVec 512) (bs : List Byte) : Seq :=
  { q with
    kstep := field h 0 16, park := h.getLsbD 16, aheld := h.getLsbD 17, soff := (field h 32 32 : Word).setWidth 64, mflags := field h 64 32,
    state := field h 96 2, reason := field h 104 8, mparam := field h 128 32, lc0 := field h 160 16, lc1 := field h 176 16,
    lact0 := h.getLsbD 192, lact1 := h.getLsbD 193, wp := field h 208 16, arrm := field h 224 16, hfmt := field h 240 3,
    hsp := h.getLsbD 243, hw := field h 244 2, waiting := false, arriving := false, saving := 0, sobj := 0, doubt := false,
    sh := ((List.range 8).map (fun k => (k, BitVec.ofNat 512 (leNat (sliceOf bs (64 + 64 * k) 64))))).filter (fun e => e.2 != 0),
    acc := plainOf (sliceOf bs 0x400 65536),
    heldA := ((List.range 6400).map (fun k => (k, BitVec.ofNat 32 (leNat (sliceOf bs (0x10400 + 4 * k) 4))))).filter (fun e => e.2 != 0) }

/-- MREST, R394-R396: whatever lanes are active; reads the image whole before it changes anything. -/
def execMrest (o : Ops) (s : State) : Out :=
  seqForm s o (fun gid g c tid t key =>
    let q := s.seqOf key
    let addr := (sca g true o.a).toNat
    if q.state ≠ 0 then .next (trapFrag s gid g c 0x02)
    else if addr % 64 ≠ 0 then .next (trapFrag s gid g c 0x0E)
    else
      let r := lanesGo s gid g 64 .load false (imagePieces ((lanesOf g.fmask).headD 0) addr)
      if r.stall then .next ((keepAnswers s r.s).setGroup gid g)
      else if !r.bad.isEmpty then .next (parkFaults r.s gid g c 0 r.bad g.fmask)
      else
        let x := r.ok.foldl (fun (x : Bool × List Byte × State) a => match loadLane x.2.2 gid g a.2 64 false with
          | (.bytes bs, s) => (x.1, x.2.1 ++ bs, s)
          | (.wait, s) => (true, x.2.1, s)) (false, [], r.s)
        if x.1 then .next ((keepAnswers s x.2.2).setGroup gid g)
        else
          let h : BitVec 512 := BitVec.ofNat 512 (leNat (x.2.1.take 64))
          if !imageOk h x.2.1 g.width then .next (trapFrag x.2.2 gid g c 0x02)
          else
            let q' := { imageSeq q h x.2.1 with team := some tid, gid := gid, pseq := t.mseq.getD 0 }
            .next (retire ((x.2.2.setSeq key q').setTeam tid { t with mseq := none }) gid g c none))

/-! ## ctxld (R12, R13, R401) -/

/-- R13: the context that a descriptor describes, newly loaded. -/
def ctxOfDesc (d : BitVec 512) (old : Ctx) : Ctx :=
  { old with
    ckey := field d 16 8, world := field d 24 8, kind := field d 32 2, rootFn := field d 64 30, rootSlot := field d 94 3,
    privBase := field d 128 64, spillBase := field d 192 64, sstFn := field d 256 30, sstOff := field d 286 7 }
/-- A context that has never been loaded. -/
def Ctx.empty : Ctx :=
  { ckey := 0, world := 0, kind := 0, rootFn := 0, rootSlot := 0, privBase := 0, spillBase := 0, sstFn := 0, sstOff := 0, touched := 0,
    svbase := 0, rsetbase := 0, kinst0 := 0, kinst1 := 0, kernels := [], resolutions := [], dead := false, raised := 0 }

/-- R401: CKEY, WORLD and KIND agree with each other and with the live worlds. -/
def keyOk (s : State) (ckey world kind : Nat) : Bool :=
  if ckey = 0 then kind = 0 && world = 0
  else kind ≠ 0 && world ≠ 0 &&
    (match SMap.find? s.worlds world with
     | some w => (kind = 1 && ckey = w.modelKey) || (kind = 2 && ckey = w.dataKey)
     | none => false)

/-- R401: a descriptor that is not rejected. -/
def descOk (s : State) (d : BitVec 512) : Bool :=
  let kind := fieldNat d 32 2
  fieldNat d 34 30 = 0 && fieldNat d 97 31 = 0 && fieldNat d 293 219 = 0 && kind ≠ 3 && fieldNat d 0 16 ≠ 0 &&
    keyOk s (fieldNat d 16 8) (fieldNat d 24 8) kind && fieldNat d 128 24 = 0 && fieldNat d 184 8 = 0 && fieldNat d 192 24 = 0 &&
    fieldNat d 248 8 = 0 &&
    (match s.ctxOf? (fieldNat d 0 16) with
     | some c => c.ckey = (field d 16 8 : BitVec 8) && c.world = (field d 24 8 : BitVec 8) && c.kind = (field d 32 2 : BitVec 2)
     | none => true)

/-- A descriptor as the words a waiting ctxld keeps, and back. -/
def descWords (d : BitVec 512) : List Word := (List.range 16).map (fun k => field d (32 * k) 32)
def wordsDesc (ws : List Word) : BitVec 512 :=
  BitVec.ofNat 512 (leNat (ws.flatMap (fun w => natLe 4 w.toNat)))

/-- R401: takes a descriptor read. -/
def takeDesc (s : State) (gid : Nat) (g : Group) (c : Clause) (o : Ops) (d : BitVec 512) : Out :=
  let n := fieldNat d 0 16
  if !descOk s d then retireStatus s gid g c o 2
  else match s.ctxOf? n with
    | some _ => startInv s gid g c { gid := gid, kind := 1, ctx := n, va := 0 } (descWords d)
    | none =>
      if 4095 ≤ (s.ctxs.filter (fun e => e.1 ≠ 0)).length then retireStatus s gid g c o 3
      else retireStatus (s.setCtx n (ctxOfDesc d .empty)) gid g c o 0

/-- CTXLD_LOAD, R401. -/
def execCtxldLoad (o : Ops) (s : State) : Out :=
  onceStatus s o [.sd false o.d, .ss true o.a] (fun gid g c lane =>
    let addr := (sca g true o.a).toNat
    if (waitOf g c 17 0).kind ≠ 0 then
      let d := wordsDesc (waitOf g c 17 0).payload
      retireStatus (s.modCtx (fieldNat d 0 16) (ctxOfDesc d)) gid g c o 1
    else if addr % 64 ≠ 0 then .next (trapFrag s gid g c 0x0E)
    else if !storesDone s gid g then .next s
    else
      let t := lanesGo s gid g 64 .load false [(lane, addr)]
      match t.bad, t.ok with
      | f :: _, _ => .next (parkFaults t.s gid g c 0 [f] g.fmask)
      | [], x :: _ =>
        if t.stall then .next ((keepAnswers s t.s).setGroup gid g)
        else match loadLane t.s gid g x.2 64 false with
          | (.bytes bs, s) => takeDesc s gid g c o (BitVec.ofNat 512 (leNat bs))
          | (.wait, s1) => .next ((keepAnswers s s1).setGroup gid g)
      | [], [] => .next ((keepAnswers s t.s).setGroup gid g))

/-- R401: a job of a context that is torn down: CANCELLED if it has not started, otherwise it ends with ERROR. -/
def tornJob (n : Nat) (j : Job) : Job :=
  if j.ctx ≠ n then j else if j.pending then j.end 4 else if j.live then { j.finish 1 with state := .running, out := [] } else j

/-- R401: steps 1 to 4 of a teardown: groups cease, kernels are removed, jobs are cancelled or end with ERROR, SEQs are pending no more. -/
def teardown (s : State) (n : Nat) : State :=
  let gone := s.groups.filter (fun (e : Nat × Group) => e.2.ctx = n)
  let teams := s.teams.filter (fun (e : Nat × Team) => e.2.ctx = n)
  let s := { s with
    groups := s.groups.filter (fun (e : Nat × Group) => e.2.ctx ≠ n),
    teams := s.teams.filter (fun (e : Nat × Team) => e.2.ctx ≠ n),
    orphans := s.orphans ++ (gone.filter (fun e => !e.2.sq.isEmpty)).map (fun e =>
      { gid := e.1, team := e.2.team, ctx := e.2.ctx, sq := e.2.sq }) }
  let s := teams.foldl (fun s e =>
    let s := restartWindow s e.2
    match e.2.seqKey with
    | some k => s.setSeq k { s.seqOf k with team := none, state := 0, waiting := false, saving := 0, park := false }
    | none => s) s
  let s := gone.foldl (fun s e => clearPointer s (coreOfGid e.1)) s
  let s := { s with scheds := s.scheds.map (fun (e : Nat × SMap Job) => (e.1, e.2.map (fun (x : Nat × Job) => (x.1, tornJob n x.2)))) }
  s.modCtx n (fun c => { c with kernels := [], resolutions := [] })

/-- CTXLD_TEARDOWN, R401. -/
def execCtxldTeardown (o : Ops) (s : State) : Out :=
  onceStatus s o [.sd false o.d, .ss false o.b] (fun gid g c _ =>
    let n := fieldNat (sca32 g o.b) 0 16
    if (waitOf g c 17 0).kind ≠ 0 then retireStatus { s with ctxs := SMap.del s.ctxs n } gid g c o 4
    else if n = 0 then retireStatus s gid g c o 6
    else if (s.ctxOf? n).isNone then retireStatus s gid g c o 5
    else startInv (teardown s n) gid g c { gid := gid, kind := 1, ctx := n, va := 0 } [])

/-! ## wfi (R403) -/

/-- R403: what ends a wfi: a ring with entries, or the core's wake flag. -/
def wfiReady (s : State) (core : Nat) : Bool :=
  s.fr.head != s.fr.tail || s.hfq.head != s.hfq.tail || s.evq.head != s.evq.tail || (s.coreOf core).wake
/-- R403: the wake flag is cleared. -/
def clearWake (s : State) (core : Nat) : State := s.setCore core { s.coreOf core with wake := false }

/-- WFI, R403. -/
def execWfi (o : Ops) (s : State) : Out :=
  onceSys s o isService [] (fun gid g c _ =>
    let core := coreOfGid gid
    if wfiReady s core || (waitOf g c 18 0).kind ≠ 0 then .next (retire (clearWake s core) gid (clearWait g c 18 0) c none)
    else
      let due := if o.w1 = 0 then none else some (s.clock + 1024 * o.w1.toNat)
      .next (block s gid g c { Wait.none with kind := 18, deadline := due }))

/-! ## sipi (R404) -/

/-- R404: a sipi action of a core on a target core of a kind: status 0 when it took effect, 1 when the target is no enabled core of that kind. -/
def sipiOp (s : State) (o : Ops) (service : Bool) (act : State → Nat → Nat → Word → State) : Out :=
  onceStatus s o [.sd false o.d, .ss false o.a, .ss false o.b] (fun gid g c _ =>
    let core := fieldNat (sca32 g o.a) 0 11
    if isService core == service && s.coreEnabled core then retireStatus (act s (coreOfGid gid) core (sca32 g o.b)) gid g c o 0
    else retireStatus s gid g c o 1)

/-- R221, R404: a message (sender, sequence number) reaches a service core, whose wake flag it sets; one that the core has already taken from that sender is discarded. -/
def takeMessage (s : State) (core : Nat) (m : Nat × Nat) : State :=
  let x := s.coreOf core
  if m.2 ≤ SMap.get 0 x.msg.taken m.1 then s
  else s.setCore core { x with wake := true, msg := { x.msg with taken := SMap.put x.msg.taken m.1 m.2 } }

/-- R221, R404: a core sends a wake to a service core; the base die keeps what is addressed to a die kernel. -/
def sendWake (s : State) (sender core : Nat) : State :=
  let x := s.coreOf sender
  let m := (sender, x.msg.sent + 1)
  let s := s.setCore sender { x with msg := { x.msg with sent := m.2 } }
  let s := if core < 1280 then s else
    let k := SMap.get DieKernel.init s.dieKernels (core - 1280)
    { s with dieKernels := SMap.put s.dieKernels (core - 1280) { k with msgs := k.msgs ++ [m] } }
  takeMessage s core m

/-- SIPI_WAKE, R404. -/
def execSipiWake (o : Ops) (s : State) : Out :=
  sipiOp s o true (fun s sender core _ => sendWake s sender core)

/-- The cores of a team. -/
def Team.onCore (t : Team) (core : Nat) : Bool := t.core = core || (t.paired && t.core + 1 = core)
/-- SIPI_PREEMPT, R211, R404. -/
def execSipiPreempt (o : Ops) (s : State) : Out :=
  sipiOp s o false (fun s _ core arg =>
    { s with teams := s.teams.map (fun (e : Nat × Team) =>
        (e.1, if e.2.ctx = fieldNat arg 0 16 && e.2.onCore core then { e.2 with preempt := true } else e.2)) })

/-- SIPI_JOIN, R361, R404: a core that joins sees the tree's phase. -/
def execSipiJoin (o : Ops) (s : State) : Out :=
  sipiOp s o false (fun s _ core arg =>
    let n := fieldNat arg 0 4
    let x := s.coreOf core
    if x.part.getLsbD n then s
    else s.setCore core { x with part := setBit x.part n true, seen := setBit x.seen n (s.trees.getLsbD n) })
/-- SIPI_LEAVE, R362, R404. -/
def execSipiLeave (o : Ops) (s : State) : Out :=
  sipiOp s o false (fun s _ core arg =>
    let n := fieldNat arg 0 4
    let x := s.coreOf core
    if x.part.getLsbD n then treeTest (s.setCore core { x with part := setBit x.part n false }) n else s)

/-- R184, R187: a core of the kernel's clusters that is enabled and not retired. -/
def placeable (s : State) (k : Kernel) : Bool :=
  (List.range 72).any (fun c => k.desc.getLsbD (256 + c) &&
    (List.range 16).any (fun i => s.coreEnabled (16 * c + i) && !(s.coreOf (16 * c + i)).retired))

/-- R187: kernels with waiting teams whose clusters hold no usable core post kernel-unplaceable, once for as long as that lasts. -/
def checkPlaceable (s : State) : State :=
  s.ctxs.foldl (fun s (e : Nat × Ctx) => e.2.kernels.foldl (fun s k =>
    let ok := placeable s k.2 || (k.2.waiting.isEmpty && k.2.saved.isEmpty)
    let s' := s.modCtx e.1 (fun c => { c with kernels := SMap.put c.kernels k.1 { k.2 with unplaceable := !ok } })
    if !ok && !k.2.unplaceable then postEvent s' 0x03 (e.1 + 65536 * k.1) 0 else s') s) s

/-- SIPI_RETIRE, R184, R404. -/
def execSipiRetire (o : Ops) (s : State) : Out :=
  sipiOp s o false (fun s _ core _ => checkPlaceable (s.setCore core { s.coreOf core with retired := true }))
/-- SIPI_UNRETIRE, R404. -/
def execSipiUnretire (o : Ops) (s : State) : Out :=
  sipiOp s o false (fun s _ core _ => checkPlaceable (s.setCore core { s.coreOf core with retired := false }))

end Sys2Proof.Machine
end

