-- ==== Sys2Proof/Machine/Admit.lean ====
section
/-! DEFINITION. Kernels and teams: the kernel descriptor and its checks, placement, admission and restoring, leaving after a save, the progress swap, pre-emption (07_execution_model R176-R180; 08_scheduling R184-R192; 09_traps_faults R208, R211-R213). -/

namespace Sys2Proof.Machine

/-! ## Kernel descriptors (R178) -/

/-- R178: ENTRY. -/
def Kernel.entry (d : BitVec 512) : Nat := fieldNat d 0 56
/-- R178: PARAM. -/
def Kernel.param (d : BitVec 512) : Nat := fieldNat d 64 56
/-- R178: TEAMS. -/
def Kernel.teamsOf (d : BitVec 512) : Nat := fieldNat d 128 16
/-- R178: GPT. -/
def Kernel.gpt (d : BitVec 512) : Nat := fieldNat d 144 8
/-- R178: WIDTH. -/
def Kernel.width (d : BitVec 512) : Nat := if fieldNat d 152 2 = 0 then 16 else if fieldNat d 152 2 = 1 then 32 else 64
/-- R178: PAIR. -/
def Kernel.paired (d : BitVec 512) : Bool := d.getLsbD 154
/-- R178: PRIO. -/
def Kernel.prio (d : BitVec 512) : Nat := fieldNat d 155 2
/-- R178: MSEQ. -/
def Kernel.mseq (d : BitVec 512) : Bool := d.getLsbD 157
/-- REGS, in units of 8 registers. -/
def Kernel.regs8 (d : BitVec 512) : Nat := fieldNat d 160 8
/-- R178: SHARED. -/
def Kernel.sharedKib (d : BitVec 512) : Nat := fieldNat d 168 11
/-- R178: SPILL. -/
def Kernel.spill16 (d : BitVec 512) : Nat := fieldNat d 192 20
/-- R178: KID. -/
def Kernel.kid (d : BitVec 512) : Nat := fieldNat d 220 4
/-- R178: CLUSTERS. -/
def Kernel.onCluster (d : BitVec 512) (c : Nat) : Bool := c < 72 && d.getLsbD (256 + c)

/-! ## Placement (R185, R186) -/

/-- R186: what a partition has left: slots and slices. -/
abbrev Room := Nat × Nat

/-- R186: the partition that takes the next group: most free slots among those with enough slices, ties to the lower number. -/
def pickPart (need : Nat) (rooms : List Room) : Option Nat :=
  (List.range rooms.length).foldl (fun best p =>
    let r := rooms.getD p (0, 0)
    if r.1 = 0 || r.2 < need then best
    else match best with
      | none => some p
      | some b => if (rooms.getD b (0, 0)).1 < r.1 then some p else best) none

/-- R186: places groups one after another; group g of a paired team goes to core g mod 2 of the pair. It answers the core of the pair and the partition of each group. -/
def placeGroups (need : Nat) (paired : Bool) : Nat → Nat → List Room → List Room → Option (List (Nat × Nat))
  | 0, _, _, _ => some []
  | n + 1, g, even, odd =>
    let odds := paired && g % 2 = 1
    let rooms := if odds then odd else even
    match pickPart need rooms with
    | none => none
    | some p =>
      let r := rooms.getD p (0, 0)
      let rooms' := rooms.set p (r.1 - 1, r.2 - need)
      (placeGroups need paired n (g + 1) (if odds then even else rooms') (if odds then rooms' else odd)).map
        (fun l => ((if odds then 1 else 0), p) :: l)

/-- An empty core's rooms. -/
def emptyRooms : List Room := [(16, 1024), (16, 1024), (16, 1024), (16, 1024)]
/-- R89: slices of a group of a kernel. -/
def sliceNeed (d : BitVec 512) : Nat := Kernel.width d / 8 * Kernel.regs8 d

/-- R178, R187: the limits of a descriptor: reserved bits, ranges, an unused KID, and a team that fits an empty core or pair. -/
def kernelOk (kernels : SMap Kernel) (d : BitVec 512) : Bool :=
  Kernel.entry d % 4 = 0 && fieldNat d 56 8 = 0 && fieldNat d 120 8 = 0 && Kernel.teamsOf d ≠ 0 &&
    (if Kernel.paired d then 2 ≤ Kernel.gpt d && Kernel.gpt d ≤ 128 && Kernel.gpt d % 2 = 0
     else 1 ≤ Kernel.gpt d && Kernel.gpt d ≤ 64) &&
    fieldNat d 152 2 ≠ 3 && fieldNat d 158 2 = 0 && 1 ≤ Kernel.regs8 d && Kernel.regs8 d ≤ 30 &&
    (if Kernel.paired d then Kernel.sharedKib d ≤ 1024 && Kernel.sharedKib d % 2 = 0 else Kernel.sharedKib d ≤ 512) &&
    fieldNat d 179 13 = 0 && Kernel.spill16 d ≤ 1048512 && fieldNat d 212 8 = 0 &&
    (SMap.find? kernels (Kernel.kid d)).isNone && fieldNat d 224 32 = 0 && fieldNat d 256 72 ≠ 0 && fieldNat d 328 184 = 0 &&
    (placeGroups (sliceNeed d) (Kernel.paired d) (Kernel.gpt d) 0 emptyRooms emptyRooms).isSome

/-- R178: installs a kernel; its teams wait. -/
def installKernel (s : State) (n : Nat) (d : BitVec 512) : State :=
  let k : Kernel :=
    { desc := d, order := s.clock, waiting := List.range (Kernel.teamsOf d), saved := [], ended := 0, unplaceable := false }
  checkPlaceable (s.modCtx n (fun c => { c with kernels := SMap.put c.kernels (Kernel.kid d) k }))

/-! ## Room on a core -/

/-- R91: lane octets of a group that still hold slices. -/
def liveOctets (m : DWord) : Nat := ((List.range 8).filter (fun o => fieldNat m (8 * o) 8 ≠ 0)).length

/-- R91: the slices that a group holds. -/
def Group.slices (g : Group) : Nat := liveOctets g.lmask * (g.regs / 8)

/-- R192: the groups of resident teams that have left after their save, and whose slots and slices their teams still hold, but for the team `less`. -/
def leftGroups (s : State) (less : Option Nat) : List SavedGroup :=
  s.teams.flatMap (fun (e : Nat × Team) => if less = some e.1 then [] else e.2.left)

/-- R185, R192: the room of a core, not counting the groups of the team `less`. -/
def coreRooms (s : State) (core : Nat) (less : Option Nat) : List Room :=
  let left := leftGroups s less
  (List.range 4).map (fun p =>
    let gs := s.groups.filter (fun (e : Nat × Group) => e.1 / 16 = 4 * core + p && (less.isNone || e.2.team ≠ less))
    let ls := left.filter (fun e => e.gid / 16 = 4 * core + p)
    (16 - gs.length - ls.length, 1024 - (gs.map (fun e => e.2.slices) ++ ls.map (·.slices)).foldl (· + ·) 0))

/-- R97, R98: bytes of a core's shared memory that resident teams hold. -/
def sharedUsed (s : State) (core : Nat) (less : Option Nat) : Nat :=
  ((s.teams.filter (fun (e : Nat × Team) => e.2.onCore core && some e.1 ≠ less)).map (fun e =>
    if e.2.paired then e.2.sharedBytes / 2 else e.2.sharedBytes)).foldl (· + ·) 0

/-- R185: the lowest free sequencer of a core. -/
def freeSeq (s : State) (core : Nat) (less : Option Nat) : Option Nat :=
  (List.range 4).find? (fun n => !s.teams.any (fun e => e.2.core = core && e.2.seq = some n && some e.1 ≠ less))

/-- R184: the dispatcher may use a core. -/
def usable (s : State) (core : Nat) : Bool := s.coreEnabled core && !(s.coreOf core).retired

/-- R185: whether a team of a kernel fits on a core (or a pair from its even core on) once the team `less` has left: the place of each group. -/
def fits (s : State) (d : BitVec 512) (core : Nat) (less : Option Nat) : Option (List (Nat × Nat)) :=
  let pair := Kernel.paired d
  let bytes := 1024 * Kernel.sharedKib d
  let share := if pair then bytes / 2 else bytes
  if !usable s core || (pair && !usable s (core + 1)) then none
  else if 524288 < sharedUsed s core less + share || (pair && 524288 < sharedUsed s (core + 1) less + share) then none
  else if Kernel.mseq d && (freeSeq s core less).isNone then none
  else placeGroups (sliceNeed d) pair (Kernel.gpt d) 0 (coreRooms s core less) (if pair then coreRooms s (core + 1) less else [])

/-! ## Waiting teams (R184) -/

/-- A waiting team: priority, installation order, team index, context, kernel, and its saved state when it was swapped out. -/
structure Waiting where
  prio  : Nat
  order : Nat
  tidx  : Nat
  ctx   : Nat
  kid   : Nat
  desc  : BitVec 512
  saved : Option SavedTeam
  deriving DecidableEq, Repr

/-- R184: `a` comes before `b`. -/
def Waiting.before (a b : Waiting) : Bool :=
  b.prio < a.prio || (a.prio = b.prio && (a.order < b.order || (a.order = b.order && a.tidx < b.tidx)))

/-- Puts a waiting team into its place. -/
def Waiting.insert : List Waiting → Waiting → List Waiting
  | [], x => [x]
  | y :: l, x => if x.before y then x :: y :: l else y :: Waiting.insert l x

/-- R184: the waiting teams of a cluster in the dispatcher's order. -/
def waitingTeams (s : State) (cluster : Nat) : List Waiting :=
  let all := s.ctxs.flatMap (fun (e : Nat × Ctx) =>
    if e.2.dead then []
    else e.2.kernels.flatMap (fun (k : Nat × Kernel) =>
      if !Kernel.onCluster k.2.desc cluster then []
      else
        let mk (t : Nat) (sv : Option SavedTeam) : Waiting :=
          { prio := Kernel.prio k.2.desc, order := k.2.order, tidx := t, ctx := e.1, kid := k.1, desc := k.2.desc, saved := sv }
        k.2.waiting.map (fun t => mk t none) ++ k.2.saved.map (fun t => mk t.tidx (some t))))
  all.foldl Waiting.insert []

/-- The key of a team. -/
def teamKey (ctx kid tidx : Nat) : Nat := (16 * ctx + kid) * 65536 + tidx

/-- R186: the first core of a cluster (or first even core of a pair) on which a team fits. -/
def admitPlace (s : State) (cluster : Nat) (w : Waiting) : Option (Nat × List (Nat × Nat)) :=
  if s.orphans.any (fun o => o.team = some (teamKey w.ctx w.kid w.tidx)) then none
  else ((List.range 16).filter (fun i => !Kernel.paired w.desc || i % 2 = 0)).findSome? (fun i =>
    (fits s w.desc (16 * cluster + i) none).map (fun p => (16 * cluster + i, p)))

/-- R178, R179: the group of a team before its first clause. -/
def newGroup (s : State) (w : Waiting) (gidx : Nat) : Group :=
  let g := Group.init w.ctx (Kernel.width w.desc) (8 * Kernel.regs8 w.desc) (BitVec.ofNat 64 (Kernel.entry w.desc))
  let p : DWord := BitVec.ofNat 64 (Kernel.param w.desc)
  let regs : List (Nat × Word) := [(0, field p 0 32), (1, field p 32 32), (2, BitVec.ofNat 32 w.tidx), (3, BitVec.ofNat 32 gidx),
    (4, BitVec.ofNat 32 (Kernel.teamsOf w.desc)), (5, BitVec.ofNat 32 (Kernel.gpt w.desc))]
  { g with
    kid := w.kid, team := some (teamKey w.ctx w.kid w.tidx), gidx := gidx, tidx := w.tidx, prio := w.prio,
    spillBytes := 16 * Kernel.spill16 w.desc, sregs := regs.filter (fun e => e.2 != 0),
    s0 := { g.s0 with since := s.clock } }

/-- R208, R213: the group of a team that is admitted again: it starts at RESTORE, with the pointer in k0:k1 and the traps that it held. -/
def restoredGroup (s : State) (g : Group) (svbase : DWord) (sv : SavedGroup) : Group :=
  let ks : List (Nat × Word) := [(0, field sv.gsavep 0 32), (1, field sv.gsavep 32 32)]
  { g with
    sregs := [], kregs := ks.filter (fun e => e.2 != 0), sup := true, entryMask := g.lmask, seqs := sv.seqs, kept := sv.kept, held := sv.held,
    trec := fld 0 8 0x11 ||| fld 256 64 g.lmask.toNat,
    s0 := { Slot.empty with mask := g.lmask, pc := svbase + 0x1100, since := s.clock } }

/-- R186, R192: the lowest free slot of a partition. -/
def freeSlot (s : State) (core part : Nat) : Option Nat :=
  let left := leftGroups s none
  ((List.range 16).map (fun i => 64 * core + 16 * part + i)).find? (fun gid =>
    (SMap.find? s.groups gid).isNone && !left.any (fun e => e.gid = gid))

/-- R178-R180: takes a team off its kernel's waiting lists. -/
def unwait (s : State) (w : Waiting) : State :=
  s.modCtx w.ctx (fun c => { c with kernels := SMap.alter c.kernels w.kid (fun k =>
    if w.saved.isSome then { k with saved := k.saved.filter (fun t => t.tidx ≠ w.tidx) }
    else { k with waiting := k.waiting.erase w.tidx }) })

/-- R176, R185, R213: admits a team at its place. -/
def admitTeam (s : State) (w : Waiting) (core : Nat) (place : List (Nat × Nat)) : State :=
  let tid := teamKey w.ctx w.kid w.tidx
  let pair := Kernel.paired w.desc
  let seq := if Kernel.mseq w.desc then freeSeq s core none else none
  let t : Team :=
    { ctx := w.ctx, kid := w.kid, tidx := w.tidx, core := core, paired := pair, gpt := Kernel.gpt w.desc, prio := w.prio, order := w.order,
      admitted := s.clock, landing := [], sharedBytes := 1024 * Kernel.sharedKib w.desc, shared := [],
      objs := List.replicate 16 (BarObj.init (Kernel.gpt w.desc)), bosel := 0, seq := seq, preempt := false, left := [],
      mbase := (w.saved.map (·.mbase)).getD 0, mseq := w.saved.bind (·.mseq) }
  let s := (unwait s w).setTeam tid t
  let s := match seq with
    | some n => s.setSeq (4 * core + n) { Seq.init with team := some tid }
    | none => s
  let svbase := match s.ctxOf? w.ctx with | some c => c.svbase | none => 0
  let s := (place.zip (List.range place.length)).foldl (fun s x =>
    match freeSlot s (core + x.1.1) x.1.2 with
    | none => s
    | some gid =>
      let g := newGroup s w x.2
      match w.saved with
      | none => s.setGroup gid g
      | some sv => match sv.groups.find? (fun e => e.idx = x.2) with
        | some e => s.setGroup gid (restoredGroup s g svbase e)
        | none => s) s
  let s := s.modCtx w.ctx (fun c => { c with touched := c.touched ||| BitVec.twoPow 144 (core / 16) })
  let s := restartProgress s core
  if pair then restartProgress s (core + 1) else s

/-- TEAM_ADMIT, R184-R186: one team of a cluster in one cycle: the first in the dispatcher's order that fits. -/
def execTeamAdmit (cluster : Nat) (s : State) : Out :=
  if 72 ≤ cluster || s.resetting then .next s
  else match (waitingTeams s cluster).findSome? (fun w => (admitPlace s cluster w).map (fun p => (w, p))) with
    | some (w, p) => .next (admitTeam s w p.1 p.2)
    | none => .next s

/-! ## Leaving after a save (R212) -/

/-- R208, R212, R366: what stays of a group that leaves. A group that leaves before its RESTORE entry has ended stands as it was saved before. -/
def Group.saved (g : Group) (gid : Nat) : SavedGroup :=
  let pending (x : Slot) : List Word := if x.park.active && !x.park.replay && !g.cancelled x.park.seq then [x.park.seq] else []
  { idx := g.gidx, gid := gid, slices := g.slices, gsavep := g.gsavep, seqs := g.seqs ++ pending g.k0 ++ pending g.k1,
    kept := if g.kept.isEmpty then [g.k0, g.k1] else g.kept, held := g.held }

/-- R212: the group leaves its slot; its team keeps what a restore needs. -/
def leaveSlot (s : State) (gid : Nat) (g : Group) : State :=
  let s := { s with groups := SMap.del s.groups gid }
  let s := match g.team with
    | some tid => s.modTeam tid (fun t => { t with left := t.left ++ [g.saved gid] })
    | none => s
  clearPointer s (coreOfGid gid)

/-- R212: a group that has written GSAVE leaves once its queue is empty. -/
def maybeLeave (s : State) (gid : Nat) : State :=
  match SMap.find? s.groups gid with
  | some g => if g.leaving && g.sq.isEmpty && g.team.isSome then leaveSlot s gid g else s
  | none => s

/-- R212: every job or ldsh of the team that writes its shared memory or counts into its objects is over. -/
def teamQuiet (s : State) (tid : Nat) (t : Team) : Bool :=
  t.landing.isEmpty && t.objs.all (fun o => o.event.isNone) && !s.orphans.any (fun o => o.team = some tid) &&
    !s.jobs.any (fun e => e.2.2.live && e.2.2.team = some tid &&
      (cardField e.2.2.card 8 1 = 1 || (match e.2.2.wr with | some r => r.place = .shared tid | none => false)))

/-- TEAM_SAVE_COMPLETE, R192, R212: the saved team returns its resources and waits again. -/
def execTeamSaveComplete (team : Nat) (s : State) : Out :=
  match SMap.find? s.teams team with
  | none => .next s
  | some t =>
    if t.left.isEmpty || s.groups.any (fun e => e.2.team = some team) || !teamQuiet s team t then .next s
    else
      let s := { s with teams := SMap.del s.teams team }
      let s := match t.seqKey with
        | some k => s.setSeq k Seq.init
        | none => s
      let sv : SavedTeam := { tidx := t.tidx, groups := t.left, mbase := t.mbase, mseq := t.mseq }
      let s := s.modCtx t.ctx (fun c => { c with kernels := SMap.alter c.kernels t.kid (fun k => { k with saved := k.saved ++ [sv] }) })
      .next (checkPlaceable (restartWindow s t))

/-! ## The progress swap and pre-emption (R191, R192, R211) -/

/-- R193, R195: EXP and EN of PROGWIN and PROGFAULT. -/
def progLimit (x : Word) : Nat := 2 ^ fieldNat x 0 6
def progOn (x : Word) : Bool := x.getLsbD 6

/-- R191: the core on which a team of a kernel is placed when a given core is looked at. -/
def swapCore (d : BitVec 512) (core : Nat) : Nat := if Kernel.paired d then core / 2 * 2 else core

/-- R191: the resident team that the dispatcher pre-empts: the lowest priority, and among equals the one admitted last. -/
def swapVictim (s : State) (core : Nat) : Option Nat :=
  let ws := waitingTeams s (core / 16)
  let ok (e : Nat × Team) : Bool := e.2.onCore core && !e.2.preempt &&
    ws.any (fun w => e.2.prio ≤ w.prio && (fits s w.desc (swapCore w.desc core) (some e.1)).isSome)
  let cs := s.teams.filter ok
  (cs.foldl (fun (b : Option (Nat × Team)) e => match b with
    | none => some e
    | some x => if e.2.prio < x.2.prio || (e.2.prio = x.2.prio && x.2.admitted < e.2.admitted) then some e else b) none).map (·.1)

/-- PROGRESS_SWAP, R191: the window counter has reached its limit. -/
def execProgressSwap (core : Nat) (s : State) : Out :=
  let x := s.coreOf core
  if isService core || !progOn x.progwin || s.clock < x.wincnt + progLimit x.progwin then .next s
  else
    let s' := s.setCore core { x with wincnt := s.clock }
    .next (match swapVictim s core with
      | some tid => s'.modTeam tid (fun t => { t with preempt := true })
      | none => s')


/-- The live slot that names a group-wide trap: slot 0 unless it is empty. -/
def Group.lead (g : Group) : Nat := if g.s0.mask = 0 then 1 else 0

/-- R201, R211, R219: a trap of the whole group, at a clause boundary or at once for a waiting or parked group. -/
def takeGroupTrap (s : State) (gid : Nat) (g : Group) (cause reason : Nat) (info : Word) : State :=
  let k := g.lead
  takeTrap s gid { cause := cause, reason := reason, info := info, tmask := g.lmask, cpc := (g.slot k).pc, ipc := (g.slot k).pc, idx := 0,
                   rpc := (g.slot k).pc, slot := k, run := g.lmask, abandon := false }

/-- R203, R205, R211: a halted group is pre-empted as it stands: the fragment state that its handler's entry captured stays captured, and the record is that of the captured fragments (DESIGN CHOICE, log entry 32). -/
def preemptHalted (s : State) (gid : Nat) (g : Group) : State :=
  let sv := match s.ctxOf? g.ctx with | some c => c.svbase | none => 0
  let at_ := { g with s0 := g.k0, s1 := g.k1, spill := List.replicate (statSpill g.cstat) (0, 0) }
  let pc := (at_.slot at_.lead).pc
  let t : TrapReq := { cause := 0x09, reason := 0, info := 0, tmask := g.lmask, cpc := pc, ipc := pc, idx := 0, rpc := pc,
                       slot := at_.lead, run := g.lmask, abandon := false }
  s.setGroup gid { g with
    halted := false, clause := none, trec := trecWord t at_, entryMask := g.lmask, fmask := g.lmask,
    s0 := { Slot.empty with mask := g.lmask, pc := sv + 0x900, since := s.clock }, s1 := Slot.empty, spill := [], rotc := 0, pass := 0,
    pslot := 0, region := [] }

/-- PREEMPT_ENTRY, R205, R211, R446: a group of a chosen team takes PREEMPT at its next clause boundary, after a DIELOSS that it holds and the traps that are due at a live slot; the others go with its saved state. A handler is finished first. -/
def execPreemptEntry (core slot : Nat) (s : State) : Out :=
  let gid := 64 * core + slot
  match SMap.find? s.groups gid with
  | none => .next s
  | some g =>
    let chosen := match g.team.bind (fun t => SMap.find? s.teams t) with | some t => t.preempt | none => false
    if !chosen || g.clause.isSome then .next s
    else if g.halted then .next (preemptHalted s gid g)
    else if g.sup || g.fpark.isSome || g.held.any (fun h => h.cause = 0x10 || (g.dueSlot h).isSome) then .next s
    else .next (takeGroupTrap s gid g 0x09 0 0)

end Sys2Proof.Machine
end

