-- ==== Sys2Proof/Machine/Fp.lean ====
section
/-! DEFINITION. Floating-point and narrow-format instructions (14_isa_float_narrow R289-R312): operand reading, the shared forms, and one meaning for each instruction. The operations on codes stand in Machine/Flags.lean and Machine/Float.lean. -/

namespace Sys2Proof.Machine

open Form

/-! ## The environment and operands -/

/-- R225: the rounding mode in force. -/
def Group.rm (g : Group) : Nat := fieldNat g.fpcsr 0 3
/-- R226: whether operands and results of a format code flush. -/
def Group.fz (g : Group) (F : Nat) : Bool := if F = 0 then g.fpcsr.getLsbD 3 else if F = 1 then false else g.fpcsr.getLsbD 4
/-- R265: the mode a rounding selector names. -/
def Group.rmSel (g : Group) (sel : BitVec 8) : Nat := if sel = 7 then g.rm else sel.toNat
/-- R223: a paired format. -/
def paired (F : Nat) : Bool := F == 4 || F == 5
/-- R223, R290: the raw code of half `h` of an operand. -/
def rawOf (F h : Nat) (x : DWord) : Nat :=
  if F = 1 then x.toNat else if F = 0 then fieldNat x 0 32 else if paired F then fieldNat x (16 * h) 16 else fieldNat x 0 16
/-- R223, R291: the register value of one or two result codes. -/
def packF (F lo hi : Nat) : DWord := BitVec.ofNat 64 (if paired F then lo + 65536 * hi else lo)
/-- R290: flushes, then clears the sign, then inverts it. -/
def modified (f : Fmt) (fz abs neg : Bool) (x : Nat) : Nat :=
  let x := fFlushIn f fz x
  let x := if abs then fAbs f x else x
  if neg then fNegate f x else x
/-- R262, R290: the LI immediate as a code of binary32 or, widened exactly, of binary64. -/
def immF (F : Nat) (o : Ops) : Nat :=
  let x := o.imm24.toNat * 256
  if F ≠ 1 then x
  else if fIsNaN Fmt.f32 x then
    (if fNeg Fmt.f32 x then Fmt.f64.signBit else 0) + Fmt.f64.infCode + x % 2 ^ 23 * 2 ^ 29
  else (fCvt Fmt.f32 Fmt.f64 0 false false x).bits
/-- R290: operand a of half `h` in a lane. -/
def opA (g : Group) (c : Clause) (o : Ops) (F i h : Nat) : Nat :=
  if o.li && o.a == 0xFF then fFlushIn (Fmt.ofCode F) (g.fz F) (immF F o)
  else modified (Fmt.ofCode F) (g.fz F) (!o.li && o.e.getLsbD 6) (!o.li && o.e.getLsbD 7) (rawOf F h (vec g c i (f64 F) o.a))
/-- R290: operand b. -/
def opB (g : Group) (c : Clause) (o : Ops) (F i h : Nat) : Nat :=
  if o.li then fFlushIn (Fmt.ofCode F) (g.fz F) (immF F o)
  else modified (Fmt.ofCode F) (g.fz F) (o.e.getLsbD 4) (o.e.getLsbD 5) (rawOf F h (bop g c o i (f64 F)))
/-- R290: operand c, which has no absolute-value modifier. -/
def opC (g : Group) (c : Clause) (o : Ops) (F i h : Nat) : Nat :=
  modified (Fmt.ofCode F) (g.fz F) false (o.e.getLsbD 3) (rawOf F h (vec g c i (f64 F) o.c))
/-- R291: the halves are computed independently and their flags are ORed. -/
def halves (F : Nat) (f : Nat → FRes) : DWord × Word :=
  if paired F then (packF F (f 0).bits (f 1).bits, (f 0).fl ||| (f 1).fl) else (packF F (f 0).bits 0, (f 0).fl)

/-- R295: a − b; the NaN of a NaN operand keeps its own sign. -/
def fSub (f : Fmt) (rm : Nat) (fz : Bool) (a b : Nat) : FRes :=
  match fNaNs f [a, b] with
  | some r => r
  | none => fAdd f rm fz a (fNegate f b)

/-! ## Shared forms -/

/-- R295, R297: a long form of two operands of one format. -/
def fltOp2 (s : State) (o : Ops) (f : Fmt → Nat → Bool → Nat → Nat → FRes) : Out :=
  let F := o.var % 8
  vecOp s (fun g c => active g c o) (.vs (f64 F) o.a :: bopd o (f64 F)) (f64 F) o.nw o.d
    (fun g c i => halves F (fun h => f (Fmt.ofCode F) g.rm (g.fz F) (opA g c o F i h) (opB g c o F i h)))

/-- R293: a short form of two operands of one format. -/
def shortFlt2 (s : State) (o : SOps) (F : Nat) (f : Fmt → Nat → Bool → Nat → Nat → FRes) : Out :=
  vecOp s shortAct [.vs (f64 F) o.a, .vs (f64 F) o.b] (f64 F) o.nw o.d
    (fun g c i => halves F (fun h => f (Fmt.ofCode F) g.rm (g.fz F) (rawOf F h (vec g c i (f64 F) o.a))
      (rawOf F h (vec g c i (f64 F) o.b))))

/-- A lane's vector destination as writes that are yet to arrive. -/
def vecWrites (g : Group) (lane : Nat) (w64 : Bool) (code : BitVec 8) (x : DWord) : List RegWrite :=
  let r := if code.toNat ≤ 0xEF then code.toNat else xReg g lane code
  if w64 then [.v lane r (field x 0 32), .v lane (r + 1) (field x 32 32)] else [.v lane r (field x 0 32)]

/-- R292, R252: an sfu form: computed under FPCSR as it issues; results and flags arrive later, on the counter in E[2:0]. -/
def sfuOp (s : State) (o : Ops) (src : List Opd) (f : Group → Clause → Nat → FRes) : Out :=
  let F := o.var
  checked s (fun g c => active g c o) (.vd (f64 F) false o.d :: src) (fun gid g c =>
    let rs := (lanesOf (active g c o)).map (fun i => (i, f g c i))
    let ws := rs.flatMap (fun e => vecWrites g e.1 (f64 F) o.d (packF F e.2.bits 0))
    if g.full (fieldNat o.e 0 3) then .next s
    else .next (retire s gid (g.addPending (fieldNat o.e 0 3) (ws ++ [.flags (rs.foldl (fun fl e => fl ||| e.2.fl) 0)])) c none))

/-- R298, R299: an sfu form of one operand. -/
def sfuOp1 (s : State) (o : Ops) (f : Fmt → Nat → Bool → Nat → FRes) : Out :=
  sfuOp s o [.vs (f64 o.var) o.a] (fun g c i => f (Fmt.ofCode o.var) g.rm (g.fz o.var) (opA g c o o.var i 0))

/-- R301-R306: an fp form of one operand in format `Fs`, with a result of its own width. -/
def fltOp1 (s : State) (o : Ops) (Fs : Nat) (w64 : Bool) (f : Group → Nat → DWord × Word) : Out :=
  vecOp s (fun g c => active g c o) [.vs (f64 Fs) o.a] w64 o.nw o.d (fun g c i => f g (opA g c o Fs i 0))

/-! ## Short forms (R293) -/

/-- FADD_F32_SHORT, R293, R295. -/
def execFaddF32Short (o : SOps) (s : State) : Out := shortFlt2 s o 0 fAdd
/-- FSUB_F32_SHORT, R293, R295. -/
def execFsubF32Short (o : SOps) (s : State) : Out := shortFlt2 s o 0 fSub
/-- FMUL_F32_SHORT, R293, R295. -/
def execFmulF32Short (o : SOps) (s : State) : Out := shortFlt2 s o 0 fMul
/-- FMIN_F32_SHORT, R293, R297. -/
def execFminF32Short (o : SOps) (s : State) : Out := shortFlt2 s o 0 (fun f _ fz => fMinMax f fz false false)
/-- FMAX_F32_SHORT, R293, R297. -/
def execFmaxF32Short (o : SOps) (s : State) : Out := shortFlt2 s o 0 (fun f _ fz => fMinMax f fz true false)
/-- FADD_F64_SHORT, R293, R295. -/
def execFaddF64Short (o : SOps) (s : State) : Out := shortFlt2 s o 1 fAdd
/-- FSUB_F64_SHORT, R293, R295. -/
def execFsubF64Short (o : SOps) (s : State) : Out := shortFlt2 s o 1 fSub
/-- FMUL_F64_SHORT, R293, R295. -/
def execFmulF64Short (o : SOps) (s : State) : Out := shortFlt2 s o 1 fMul
/-- FADD_F16X2_SHORT, R293, R295. -/
def execFaddF16x2Short (o : SOps) (s : State) : Out := shortFlt2 s o 4 fAdd
/-- FMUL_F16X2_SHORT, R293, R295. -/
def execFmulF16x2Short (o : SOps) (s : State) : Out := shortFlt2 s o 4 fMul
/-- FADD_BF16X2_SHORT, R293, R295. -/
def execFaddBf16x2Short (o : SOps) (s : State) : Out := shortFlt2 s o 5 fAdd
/-- FMUL_BF16X2_SHORT, R293, R295. -/
def execFmulBf16x2Short (o : SOps) (s : State) : Out := shortFlt2 s o 5 fMul

/-! ## Arithmetic -/

/-- FADD, R295. -/
def execFadd (o : Ops) (s : State) : Out := fltOp2 s o fAdd
/-- FSUB, R295. -/
def execFsub (o : Ops) (s : State) : Out := fltOp2 s o fSub
/-- FMUL, R295. -/
def execFmul (o : Ops) (s : State) : Out := fltOp2 s o fMul
/-- FFMA, R296. -/
def execFfma (o : Ops) (s : State) : Out :=
  let F := o.var
  vecOp s (fun g c => active g c o) (.vs (f64 F) o.a :: bopd o (f64 F) ++ [.vs (f64 F) o.c]) (f64 F) o.nw o.d
    (fun g c i => halves F (fun h =>
      fFma (Fmt.ofCode F) g.rm (g.fz F) (opA g c o F i h) (opB g c o F i h) (opC g c o F i h)))
/-- FMIN, R297. -/
def execFmin (o : Ops) (s : State) : Out := fltOp2 s o (fun f _ fz => fMinMax f fz false (o.var / 8 == 1))
/-- FMAX, R297. -/
def execFmax (o : Ops) (s : State) : Out := fltOp2 s o (fun f _ fz => fMinMax f fz true (o.var / 8 == 1))
/-- FDIV, R298. -/
def execFdiv (o : Ops) (s : State) : Out :=
  sfuOp s o (.vs (f64 o.var) o.a :: bopd o (f64 o.var)) (fun g c i =>
    fDiv (Fmt.ofCode o.var) g.rm (g.fz o.var) (opA g c o o.var i 0) (opB g c o o.var i 0))
/-- FSQRT, R298. -/
def execFsqrt (o : Ops) (s : State) : Out := sfuOp1 s o fSqrt
/-- R298: the code of 1. -/
def fOne (f : Fmt) : Nat := f.bias * 2 ^ f.mb
/-- FRCP, R298: 1 / a. -/
def execFrcp (o : Ops) (s : State) : Out := sfuOp1 s o (fun f rm fz a => fDiv f rm fz (fOne f) a)
/-- FRSQ, R298. -/
def execFrsq (o : Ops) (s : State) : Out := sfuOp1 s o fRsq
/-- FEX2, R299. -/
def execFex2 (o : Ops) (s : State) : Out := sfuOp1 s o (fun _ rm fz a => fEx2 rm fz a)
/-- FLG2, R299. -/
def execFlg2 (o : Ops) (s : State) : Out := sfuOp1 s o (fun _ rm fz a => fLg2 rm fz a)
/-- FSIN, R299. -/
def execFsin (o : Ops) (s : State) : Out := sfuOp1 s o (fun _ rm fz a => fSinCos false rm fz a)
/-- FCOS, R299. -/
def execFcos (o : Ops) (s : State) : Out := sfuOp1 s o (fun _ rm fz a => fSinCos true rm fz a)

/-! ## Comparison, classification, conversion -/

/-- FCMP, R300: element 1 of a paired format goes to the next predicate. -/
def execFcmp (o : Ops) (s : State) : Out :=
  let F := o.var
  checked s (fun g c => active g c o) (.vs (f64 F) o.a :: bopd o (f64 F)) (fun gid g c =>
    let rel (h i : Nat) : Bool × Word := fCmp (Fmt.ofCode F) (g.fz F) o.c.toNat (opA g c o F i h) (opB g c o F i h)
    let ls := lanesOf (active g c o)
    let bits (h : Nat) : DWord := maskOf (ls.filter (fun i => (rel h i).1))
    let fl (h : Nat) : Word := ls.foldl (fun fl i => fl ||| (rel h i).2) 0
    let g' := g.setP o.d.toNat (active g c o) (bits 0)
    let g' := if paired F then g'.setP (o.d.toNat + 1) (active g c o) (bits 1) else g'
    .next (retire s gid { g' with fpcsr := g'.fpcsr ||| fl 0 ||| (if paired F then fl 1 else 0) } c none))
/-- FCLASS, R301. -/
def execFclass (o : Ops) (s : State) : Out :=
  fltOp1 s o o.var false (fun g a => ((fClass (Fmt.ofCode o.var) (g.fz o.var) a).setWidth 64, 0))
/-- FGEXP, R302. -/
def execFgexp (o : Ops) (s : State) : Out :=
  fltOp1 s o o.var false (fun g a =>
    let r := fGexp (Fmt.ofCode o.var) (g.fz o.var) a
    (r.1.setWidth 64, r.2))
/-- FSIGN, R303. -/
def execFsign (o : Ops) (s : State) : Out := fltOp2 s o (fun f _ fz a b => ⟨fSign f fz a b, 0⟩)
/-- FRND, R304. -/
def execFrnd (o : Ops) (s : State) : Out :=
  fltOp1 s o o.var (f64 o.var) (fun g a =>
    let r := fRnd (Fmt.ofCode o.var) (g.rmSel o.b) (g.fz o.var) a
    (packF o.var r.bits 0, r.fl))
/-- FCVT, R305. -/
def execFcvt (o : Ops) (s : State) : Out :=
  fltOp1 s o o.c.toNat (f64 o.var) (fun g a =>
    let r := fCvt (Fmt.ofCode o.c.toNat) (Fmt.ofCode o.var) (g.rmSel o.b) (g.fz o.c.toNat) (g.fz o.var) a
    (packF o.var r.bits 0, r.fl))
/-- F2I, R306. -/
def execF2i (o : Ops) (s : State) : Out :=
  fltOp1 s o o.c.toNat (t64 o.var) (fun g a =>
    let r := fToInt (Fmt.ofCode o.c.toNat) o.var (g.rmSel o.b) (g.fz o.c.toNat) a
    (if t64 o.var then BitVec.ofInt 64 r.1 else (BitVec.ofInt 32 r.1).setWidth 64, r.2))
/-- R260, R306: an integer operand in its type. -/
def intIn (t : Nat) (x : DWord) : Int :=
  if t64 t then (if tSigned t then x.toInt else x.toNat)
  else (if tSigned t then (field x 0 32 : Word).toInt else (field x 0 32 : Word).toNat)
/-- I2F, R306. -/
def execI2f (o : Ops) (s : State) : Out :=
  vecOp s (fun g c => active g c o) [.vs (t64 o.c.toNat) o.a] (f64 o.var) o.nw o.d (fun g c i =>
    let r := fOfInt (Fmt.ofCode o.var) (g.rmSel o.b) (g.fz o.var) (intIn o.c.toNat (vec g c i (t64 o.c.toNat) o.a))
    (packF o.var r.bits 0, r.fl))
/-- FSCAL, R307. -/
def execFscal (o : Ops) (s : State) : Out :=
  vecOp s (fun g c => active g c o) (.vs (f64 o.var) o.a :: bopd o false) (f64 o.var) o.nw o.d (fun g c i =>
    let r := fScal (Fmt.ofCode o.var) g.rm (g.fz o.var) (opA g c o o.var i 0) (field (bop g c o i false) 0 32 : Word).toInt
    (packF o.var r.bits 0, r.fl))

/-! ## Narrow formats -/

/-- R227: element `j` of a packed register. -/
def elemAt (four : Bool) (x : Word) (j : Nat) : Nat := if four then fieldNat x (4 * j) 4 else fieldNat x (8 * j) 8
/-- R227: elements of a register. -/
def elemsPer (four : Bool) : Nat := if four then 8 else 4
/-- R231: the record bytes that ka and kb pick. -/
def recA (o : Ops) (x : Word) : Nat := fieldNat x (8 * fieldNat o.e 0 2) 8
def recB (o : Ops) (x : Word) : Nat := fieldNat x (8 * fieldNat o.e 2 2) 8

/-- R308: the exact sum of a lane's products under both scales. -/
def dotSum (four int : Bool) (a b : Word) (ra rb : Nat) : Sum :=
  (List.range (elemsPer four)).foldl (fun s j =>
    let x := elemValue four int ra (elemAt four a j)
    let y := elemValue four int rb (elemAt four b j)
    let scale : Int := if int then 0 else (Int.ofNat (ra % 64) - 32) + (Int.ofNat (rb % 64) - 32)
    let s := s.product x.1 y.1 scale
    { s with fl := s.fl ||| (if x.2 || y.2 then flNV else 0) }) Sum.zero

/-- R308, R236: the binary32 dot product; the addend is a term of the one exact sum. -/
def dotF (four : Bool) (rm : Nat) (fz : Bool) (a b : Word) (ra rb : Nat) (acc : Word) : DWord × Word :=
  let t := dotSum four false a b ra rb
  let r := t.close Fmt.f32 rm fz acc.toNat
  let opp := (t.pos && acc.toNat == fInf Fmt.f32 true) || (t.neg && acc.toNat == fInf Fmt.f32 false)
  (BitVec.ofNat 64 r.bits, r.fl ||| (if opp then flNV else 0))
/-- R308: the integer dot product. -/
def dotI (four : Bool) (a b : Word) (ra rb : Nat) (acc : Word) : DWord × Word :=
  let t := dotSum four true a b ra rb
  ((BitVec.ofInt 32 (t.fin.n * (2 ^ t.fin.e.toNat : Nat) + acc.toInt)).setWidth 64, t.fl)

/-- R308: a dot product; D is the addend, zero under NW. -/
def dotOp (s : State) (o : Ops) (f : Group → Word → Word → Nat → Nat → Word → DWord × Word) : Out :=
  vecOp s (fun g c => active g c o) [.vs false o.a, .vs false o.b, .vs false o.c] false o.nw o.d (fun g c i =>
    let r := vec32 g c i o.c
    f g (vec32 g c i o.a) (vec32 g c i o.b) (recA o r) (recB o r) (if o.nw then 0 else vec32 g c i o.d))

/-- VDOT8, R308. -/
def execVdot8 (o : Ops) (s : State) : Out := dotOp s o (fun g => dotF false g.rm (g.fz 0))
/-- VDOT4, R308. -/
def execVdot4 (o : Ops) (s : State) : Out := dotOp s o (fun g => dotF true g.rm (g.fz 0))
/-- VDOT8I, R308. -/
def execVdot8i (o : Ops) (s : State) : Out := dotOp s o (fun _ => dotI false)
/-- VDOT4I, R308. -/
def execVdot4i (o : Ops) (s : State) : Out := dotOp s o (fun _ => dotI true)

/-- R234: a lane's generator; one that has not been written since SRSEED is the seed's. -/
def Group.gen (g : Group) (lane : Nat) : Word := (SMap.find? g.srstate lane).getD (seedState g.srseed lane)

/-- R309: packs the elements from `j` on: the code, the flags and the generator afterwards. -/
def packFrom (v rm : Nat) (sr fz : Bool) : List Nat → Word → List Nat × Word × Word
  | [], st => ([], 0, st)
  | x :: xs, st =>
    let st := if sr then draw st else st
    let r := roundNarrow v rm (if sr then some st else none) fz x
    let (cs, fl, st) := packFrom v rm sr fz xs st
    (r.1 :: cs, r.2 ||| fl, st)

/-- R227: codes packed low-first. -/
def packCodes (bits : Nat) : List Nat → Nat
  | [] => 0
  | x :: xs => x + 2 ^ bits * packCodes bits xs

/-- VPACK, R309. -/
def execVpack (o : Ops) (s : State) : Out :=
  let v := o.var % 8
  let n := narrowN o.var
  checked s (fun g c => active g c o) [.vd false o.nw o.d, .run n o.a] (fun gid g c =>
    let rs := (lanesOf (active g c o)).map (fun i =>
      (i, packFrom v g.rm (o.var / 8 == 1) (g.fz 0) ((List.range n).map (fun j => (g.v i (o.a.toNat + j)).toNat)) (g.gen i)))
    let g' := if o.var / 8 = 1 then { g with srstate := rs.foldl (fun m e => SMap.put m e.1 e.2.2.2) g.srstate } else g
    finishVec s gid g' c false o.nw o.d (rs.map (fun e => (e.1, BitVec.ofNat 64 (packCodes (narrowBits v) e.2.1))))
      (rs.foldl (fun fl e => fl ||| e.2.2.1) 0))

/-- VUNPK, R310: n results from v(d) on; the latch takes that of v(d). -/
def execVunpk (o : Ops) (s : State) : Out :=
  let n := narrowN o.var
  checked s (fun g c => active g c o) [.run n o.d, .vs false o.a] (fun gid g c =>
    let val (i j : Nat) : Nat × Word := unpackNarrow o.var (elemAt (n == 8) (vec32 g c i o.a) j)
    let ls := lanesOf (active g c o)
    let lat := latchOf s.clock g false false o.d (ls.map (fun i => (i, BitVec.ofNat 64 (val i 0).1)))
    let g' := ls.foldl (fun g i => (List.range n).foldl (fun g j => g.setV i (o.d.toNat + j) (BitVec.ofNat 32 (val i j).1)) g) g
    let fl := ls.foldl (fun fl i => (List.range n).foldl (fun fl j => fl ||| (val i j).2) fl) 0
    .next (retire s gid { g' with fpcsr := g'.fpcsr ||| fl } c (some lat)))

/-- R311: the absolute maximum of binary32 codes. -/
def absMax (fz : Bool) (xs : List Nat) : Nat × Word :=
  let f := Fmt.f32
  match xs.find? (fIsNaN f) with
  | some x => (fAbs f (fQuiet f f x), if xs.any (fIsSNaN f) then flNV else 0)
  | none => (xs.foldl (fun m x => max m (fAbs f (fFlushIn f fz x))) 0, 0)

/-- VAMAX, R311. -/
def execVamax (o : Ops) (s : State) : Out :=
  vecOp s (fun g c => active g c o) [.run o.b.toNat o.a] false o.nw o.d (fun g _ i =>
    let r := absMax (g.fz 0) ((List.range o.b.toNat).map (fun j => (g.v i (o.a.toNat + j)).toNat))
    (BitVec.ofNat 64 r.1, r.2))

/-- R312: two block scales applied to a binary32 code. -/
def scaleTwo (rm : Nat) (fz : Bool) (ra rb c : Nat) : FRes :=
  if ra % 64 = 63 || rb % 64 = 63 then fInvalid Fmt.f32
  else fScal Fmt.f32 rm fz c ((Int.ofNat (ra % 64) - 32) + (Int.ofNat (rb % 64) - 32))

/-- VSCAL, R312. -/
def execVscal (o : Ops) (s : State) : Out :=
  vecOp s (fun g c => active g c o) [.vs false o.a, .vs false o.b, .vs false o.c] false o.nw o.d (fun g c i =>
    let r := scaleTwo g.rm (g.fz 0) (recA o (vec32 g c i o.a)) (recB o (vec32 g c i o.b)) (vec32 g c i o.c).toNat
    (BitVec.ofNat 64 r.bits, r.fl))

end Sys2Proof.Machine
end

