-- ==== Sys2Proof/Machine/Csr.lean ====
section
/-! DEFINITION. Control registers: csrr, csrw, and the rows whose writes have rules of their own (11_isa_conventions R240-R242; 15_isa_data_group_control R323, R324; and the register's own rule). -/

namespace Sys2Proof.Machine

open Form

/-! ## The numbers (R241) -/

/-- R241: the register is held per lane. -/
def csrLane (n : Nat) : Bool := n = 0x138 || (0x140 ≤ n && n ≤ 0x144) || n = 0x147 || n = 0x14A
/-- R241: the register is held per module and belongs to the supervisor. -/
def csrModule (n : Nat) : Bool := (0x200 ≤ n && n ≤ 0x205) || (0x208 ≤ n && n ≤ 0x20D)
/-- R241: the register is held per team. -/
def csrTeam (n : Nat) : Bool := 0x130 ≤ n && n ≤ 0x134
/-- R241: the number is assigned. -/
def csrAssigned (n : Nat) : Bool :=
  n ≤ 0x00A || n = 0x010 || (0x020 ≤ n && n ≤ 0x043) || (0x100 ≤ n && n ≤ 0x108) || n = 0x10A || n = 0x10B ||
    (0x110 ≤ n && n ≤ 0x125) || (0x128 ≤ n && n ≤ 0x12A) || n = 0x12C || n = 0x12D || csrTeam n || csrLane n ||
    (0x145 ≤ n && n ≤ 0x14A) || (0x180 ≤ n && n ≤ 0x183) || (0x1C0 ≤ n && n ≤ 0x1C2) || n = 0x1C4 || n = 0x1C5 || n = 0x1C8 ||
    n = 0x1C9 || n = 0x1CC || n = 0x1CD || csrModule n
/-- R240, R241: the word is read only. RPC is the writable part of the trap record. -/
def csrReadOnly (n : Nat) : Bool :=
  (0x004 ≤ n && n ≤ 0x043) || (0x110 ≤ n && n ≤ 0x11F && n ≠ 0x116 && n ≠ 0x117) || n = 0x208 || n = 0x20A || n = 0x20C
/-- R241: user code may read the register (and write FPCSR and SRSEED). -/
def csrUser (n : Nat) : Bool := n < 0x100 || n = 0x10A || n = 0x10B

/-- R240, R213, R217: the trap that an access raises: ILLINSTR, then PRIV. GSAVE has no read access, and the registers of a team or of a service core do not exist where there is none (DEDUCED, log entry 22). -/
def csrTrap (g : Group) (core n : Nat) (write : Bool) : Option Nat :=
  if !csrAssigned n || (write && csrReadOnly n) || (!write && n = 0x12A) then some 0x02
  else if (csrModule n || n = 0x1CC || n = 0x1CD) && !isService core then some 0x02
  else if csrTeam n && g.team.isNone then some 0x02
  else if write && (n = 0x002 || n = 0x003) && !(g.sup && g.tcause = 0x11) then some 0x02
  else if write && (n = 0x10A || n = 0x10B) && !g.sup then some 0x02
  else if !csrUser n && !g.sup then some 0x0F
  else none

/-- A 32-bit word of a register. -/
def wordAt {n : Nat} (x : BitVec n) (k : Nat) : Word := field x (32 * k) 32
/-- R240: writes one word of a 64-bit register. -/
def setWord (x : DWord) (k : Nat) (v : Word) : DWord :=
  if k = 0 then (field x 32 32 : Word) ++ v else v ++ (field x 0 32 : Word)

/-! ## Targets (R242) -/

/-- R242: the access named a target that does not exist. -/
def setMiss (s : State) (core : Nat) : State :=
  let x := s.coreOf core
  s.setCore core { x with tgtsel := x.tgtsel ||| BitVec.twoPow 64 31 }

/-- R242: the context, cluster and core that an access acts on. -/
def ctxTarget (s : State) (g : Group) (core : Nat) : Option Nat :=
  if !isService core then some g.ctx
  else
    let n := fieldNat (s.coreOf core).tgtsel 0 16
    if isRing core && (s.ctxOf? n).isSome then some n else none
def clusterTarget (s : State) (core : Nat) : Option Nat :=
  match isService core, clusterOfCore core with
  | false, c => c
  | true, own =>
    let n := fieldNat (s.coreOf core).tgtsel 16 7
    if n < 72 && (own.isNone || own = some n) then some n else none
def coreTarget (s : State) (core : Nat) : Option Nat :=
  if !isService core then some core
  else
    let n := fieldNat (s.coreOf core).tgtsel 32 11
    let mine := match clusterOfCore core with | some cl => n / 16 = cl | none => true
    if n < 1152 && s.coreEnabled n && mine then some n else none

/-! ## Reads -/

/-- R398: a word of WAITST. -/
def waitstWord (s : State) (g : Group) (k : Nat) : Word :=
  let view := fieldNat g.waitst 0 3
  let w := (g.cslot (fieldNat g.waitst 3 1)).wait
  if k = 0 then fld 0 4 (fieldNat g.waitst 0 4) ||| fld 4 4 w.code ||| fld 8 4 (if w.code = 0 then 0 else w.target)
  else if view = 0 then
    if w.kind = 4 || w.kind = 5 then w.ticket.getD 0
    else match w.deadline with
      | some d => BitVec.ofNat 32 (min (2 ^ 32 - 1) (d - s.clock))
      | none => 0
  else if view = 1 then g.tp ++ g.wp
  else
    let hdr := match g.bound with | some (h, _) => h | none => g.bhdr
    if view = 2 then wordAt hdr 0
    else if view = 3 then
      (field hdr 32 24 : BitVec 24).setWidth 32 ||| fld 24 4 (match g.bound with | some (_, n) => n | none => g.blogn) |||
        fld 31 1 g.bound.isSome.toNat
    else 0

/-- R107, R241: a word of the object that BOSEL selects. -/
def bodataWord (t : Team) (k : Nat) : Word :=
  let o := t.obj t.bosel
  if k = 0 then fld 0 8 o.exparr.toNat ||| fld 8 8 o.arr.toNat ||| fld 16 1 o.phase.toNat
  else if k = 1 then o.expb else if k = 2 then o.landb else 0

/-- The team of a group. -/
def teamOfGroup (s : State) (g : Group) : Option (Nat × Team) :=
  g.team.bind (fun t => (SMap.find? s.teams t).map (fun x => (t, x)))

/-- R241: registers held per group, and the module's core map. -/
def groupCsr (s : State) (gid : Nat) (g : Group) (n : Nat) : Word :=
  if n = 0x000 then g.fpcsr
  else if n = 0x001 then g.srseed
  else if n < 0x004 then wordAt g.lmask (n - 2)
  else if n < 0x006 then wordAt g.fmask (n - 4)
  else if n = 0x010 then BitVec.ofNat 32 (coreOfGid gid)
  else if n < 0x044 then wordAt Config.enabledCores (n - 0x20)
  else if n < 0x102 then wordAt g.c0.mask (n - 0x100)
  else if n < 0x104 then wordAt g.c1.mask (n - 0x102)
  else if n < 0x106 then wordAt g.c0.pc (n - 0x104)
  else if n < 0x108 then wordAt g.c1.pc (n - 0x106)
  else if n = 0x108 then g.cstat
  else if n < 0x110 then wordAt g.ssplit (n - 0x10A)
  else if n < 0x120 then wordAt g.trec (n - 0x110)
  else
    let p := (g.cslot (fieldNat g.waitst 3 1)).park
    if n < 0x122 then wordAt p.mask (n - 0x120)
    else if n < 0x124 then wordAt p.pc (n - 0x122)
    else if n = 0x124 then p.idx
    else if n = 0x125 then p.seq
    else if n < 0x12A then waitstWord s g (n - 0x128)
    else if n < 0x12E then wordAt g.gsavep (n - 0x12C)
    else match teamOfGroup s g with
      | some (_, t) =>
        if n = 0x130 then BitVec.ofNat 32 t.bosel
        else if n < 0x135 then bodataWord t (n - 0x131)
        else groupQ g n
      | none => groupQ g n
where
  /-- R152-R154: the queue registers' part. -/
  groupQ (g : Group) (n : Nat) : Word :=
    if n = 0x145 then BitVec.ofNat 32 ((List.range 8).foldl (fun x k => x + (g.q k).port * 2 ^ (3 * k)) 0)
    else if n = 0x146 then BitVec.ofNat 32 g.qpopsel
    else if n = 0x148 then BitVec.ofNat 32 (g.q g.qpopsel).fifo.length
    else if n = 0x149 then BitVec.ofNat 32 g.qentsel
    else 0

/-- R241: a register held per context. -/
def ctxCsr (c : Ctx) (n : Nat) : Word :=
  if n < 0x00B then wordAt c.touched (n - 6)
  else if n < 0x182 then wordAt c.svbase (n - 0x180)
  else if n < 0x184 then wordAt c.rsetbase (n - 0x182)
  else if n = 0x1C8 then c.kinst0 else c.kinst1
/-- R241: a register held per cluster. -/
def clusterCsr (c : Cluster) (n : Nat) : Word :=
  if n = 0x1C2 then c.sppsel else wordAt (SMap.get 0 c.spp (fieldNat c.sppsel 0 4) : DWord) (n - 0x1C4)
/-- R241: the ring that a number belongs to. -/
def ringOf (n : Nat) : Ring :=
  if n ≤ 0x201 || n = 0x208 || n = 0x209 then .fr else if n ≤ 0x203 || n = 0x20A || n = 0x20B then .hfq else .evq
/-- R241: a ring register. -/
def ringCsr (r : RingSt) (n : Nat) : Word :=
  if n < 0x206 then wordAt r.ptr (n % 2) else if n % 2 = 0 then r.head else r.tail

/-- R323, R242: the word that csrr reads, and the state with MISS where its target does not exist. A user-mode read of TOUCHED or CORENUM, which is no supervisor csrr, is of the executing group's context or core. -/
def csrRead (s : State) (gid : Nat) (g : Group) (n : Nat) : Word × State :=
  let core := coreOfGid gid
  let viaCtx : Word × State := match ctxTarget s g core with
    | some x => ((s.ctxOf? x).elim 0 (fun c => ctxCsr c n), s)
    | none => (0, setMiss s core)
  if 0x006 ≤ n && n ≤ 0x00A then (if g.sup then viaCtx else ((s.ctxOf? g.ctx).elim 0 (fun c => ctxCsr c n), s))
  else if n = 0x010 && g.sup then
    match coreTarget s core with
    | some x => (BitVec.ofNat 32 x, s)
    | none => (0, setMiss s core)
  else if (0x180 ≤ n && n ≤ 0x183) || n = 0x1C8 || n = 0x1C9 then viaCtx
  else if n = 0x1C0 || n = 0x1C1 then
    match coreTarget s core with
    | some x => (if n = 0x1C0 then (s.coreOf x).progwin else (s.coreOf x).progfault, s)
    | none => (0, setMiss s core)
  else if n = 0x1C2 || n = 0x1C4 || n = 0x1C5 then
    match clusterTarget s core with
    | some x => (clusterCsr (s.clusterOf x) n, s)
    | none => (0, setMiss s core)
  else if n = 0x1CC || n = 0x1CD then (wordAt (s.coreOf core).tgtsel (n - 0x1CC), s)
  else if csrModule n then (ringCsr (s.ring (ringOf n)) n, s)
  else (groupCsr s gid g n, s)

/-- R153: the pop-buffer entry of the selected queue that a suspended clause has popped. -/
def popEntry (g : Group) : Option (SMap Word) := (List.find? (fun (e : Nat × SMap Word) => e.1 < 32) (g.q g.qpopsel).pop).map (·.2)

/-- R241: a register held per lane. -/
def laneCsr (g : Group) (n lane : Nat) : Word :=
  if n = 0x138 then g.gen lane
  else if n < 0x144 then g.x lane (n - 0x140)
  else if n = 0x144 then BitVec.ofNat 32 ((List.range 32).foldl (fun x k => x + (if (g.p k).getLsbD lane then 2 ^ k else 0)) 0)
  else if n = 0x147 then (popEntry g).elim 0 (fun e => SMap.get 0 e lane)
  else ((g.q g.qpopsel).fifo[g.qentsel]?).elim 0 (fun e => SMap.get 0 e lane)

/-- R323: the destination that a register allows: a vector register with a counter for a register held per lane, a scalar without one otherwise. -/
def csrDestOk (o : Ops) : Bool :=
  if csrLane o.csr then vdst o.nw false o.d else sdst false o.d && !o.nw && o.csrCtr = 0

/-- R323: csrr of a register that is not held per lane, with what the read does besides. -/
def csrrOp (s : State) (o : Ops) (eff : State → Nat → Group → State) : Out :=
  withClause s (fun gid g c => match csrTrap g (coreOfGid gid) o.csr false with
    | some 0x02 => .next (trapFrag s gid g c 0x02)
    | t =>
      if !csrDestOk o then .next (trapFrag s gid g c 0x02)
      else match illOf g c (if csrLane o.csr then [] else [.sd false o.d]), t with
        | some e, _ => opTrapHere s gid g c e
        | none, some cause => .next (trapFrag s gid g c cause)
        | none, none =>
          let act := active g c o
          if csrLane o.csr then match boundsOf g act [.vd false o.nw o.d] with
            | some e => opTrapHere s gid g c e
            | none =>
              let ws := if o.nw then [] else (lanesOf act).flatMap (fun i => loadWrites g i 2 o.d (natLe 4 (laneCsr g o.csr i).toNat))
              if g.full o.csrCtr then .next s else .next (retire s gid (g.addPending o.csrCtr ws) c none)
          else if act = 0 then .next (retire s gid g c none)
          else
            let (v, s) := csrRead s gid g o.csr
            .next (retire (eff s gid g) gid (g.setS o.d.toNat v) c none))

/-- CSRR, R323. -/
def execCsrr (o : Ops) (s : State) : Out := csrrOp s o (fun s _ _ => s)
/-- RING_HEAD_READ, R418: an acquire at dev. -/
def execRingHeadRead (o : Ops) (s : State) : Out := csrrOp s o (fun s gid g => acquire s gid g 4)

/-! ## Writes -/

/-- R324: csrw: its traps, then `lane` for a register held per lane, or `k` with the word written, once. -/
def csrwOp (s : State) (o : Ops) (lane : Nat → Group → Clause → DWord → Out) (k : Nat → Group → Clause → Word → Out) : Out :=
  withClause s (fun gid g c =>
    let act := active g c o
    let opd : Opd := if csrLane o.csr then .vs false o.a else .ss false o.a
    match csrTrap g (coreOfGid gid) o.csr true with
    | some 0x02 => .next (trapFrag s gid g c 0x02)
    | t =>
      if !(if csrLane o.csr then vsrc false o.a else ssrc false o.a) then .next (trapFrag s gid g c 0x02)
      else match illOf g c [opd], t with
        | some e, _ => opTrapHere s gid g c e
        | none, some cause => .next (trapFrag s gid g c cause)
        | none, none => match boundsOf g act [opd], splitOf g act [opd] with
          | some e, _ => opTrapHere s gid g c e
          | none, some e => opTrapHere s gid g c e
          | none, none =>
            if act = 0 then .next (retire s gid g c none)
            else if csrLane o.csr then lane gid g c act
            else k gid g c (sca32 g o.a))

/-- A row's write of a register that is not held per lane. -/
def csrwOnce (s : State) (o : Ops) (k : Nat → Group → Clause → Word → Out) : Out :=
  csrwOp s o (fun gid g c _ => .next (retire s gid g c none)) k

/-- R153, R154, R241: what a lane's value does to a register held per lane. -/
def laneCsrSet (g : Group) (n lane : Nat) (v : Word) : Group :=
  if n = 0x138 then { g with srstate := SMap.put g.srstate lane v }
  else if n < 0x144 then g.setX lane (n - 0x140) v
  else if n = 0x144 then (List.range 32).foldl (fun g k => g.setPLane k lane (v.getLsbD k)) g
  else
    let r := g.q g.qpopsel
    if n = 0x147 then
      let key := match List.find? (fun (e : Nat × SMap Word) => e.1 < 32) r.pop with
        | some e => e.1
        | none => 16 * fieldNat g.waitst 3 1 + 15
      g.setQ g.qpopsel { r with pop := SMap.put r.pop key (SMap.put (SMap.get [] r.pop key) lane v) }
    else match r.fifo[g.qentsel]? with
      | some e => g.setQ g.qpopsel { r with fifo := r.fifo.set g.qentsel (SMap.put e lane v) }
      | none => g.setQ g.qpopsel { r with staged := SMap.put r.staged g.qentsel (SMap.put (SMap.get [] r.staged g.qentsel) lane v) }

/-- R398: the write of WAITST's word 1 in the selected view. -/
def waitstData (s : State) (g : Group) (v : Word) : Group :=
  let view := fieldNat g.waitst 0 3
  let k := fieldNat g.waitst 3 1
  let x := g.cslot k
  if view = 0 then
    let w := if x.wait.kind = 4 || x.wait.kind = 5 then { x.wait with ticket := some v }
      else { x.wait with deadline := some (s.clock + v.toNat) }
    g.setCslot k { x with wait := w }
  else if view = 1 then { g with wp := field v 0 16, tp := field v 16 16 }
  else
    let hdr := match g.bound with | some (h, _) => h | none => g.bhdr
    if view = 2 then
      let h := setWord hdr 0 v
      { g with bhdr := h, bound := g.bound.map (fun b => (h, b.2)) }
    else if view = 3 then
      let h : DWord := (field v 0 24 : BitVec 24).setWidth 64 <<< 32 ||| (field hdr 0 32 : Word).setWidth 64
      { g with bhdr := h, blogn := fieldNat v 24 4, bound := if v.getLsbD 31 then some (h, fieldNat v 24 4) else none }
    else g

/-- R241: the write of a register held per group that has no row of its own. -/
def groupCsrSet (s : State) (g : Group) (n : Nat) (v : Word) : Group :=
  if n < 0x102 then { g with c0 := { g.c0 with mask := setWord g.c0.mask (n - 0x100) v } }
  else if n < 0x104 then { g with c1 := { g.c1 with mask := setWord g.c1.mask (n - 0x102) v } }
  else if n < 0x106 then { g with c0 := { g.c0 with pc := setWord g.c0.pc (n - 0x104) v } }
  else if n < 0x108 then { g with c1 := { g.c1 with pc := setWord g.c1.pc (n - 0x106) v } }
  else if n = 0x108 then { g with cstat := v }
  else if n < 0x10C then { g with ssplit := setWord g.ssplit (n - 0x10A) v }
  else if n < 0x118 then
    let rpc := setWord g.rpc (n - 0x116) v
    { g with trec := (g.trec &&& ~~~(fld 192 64 (2 ^ 64 - 1))) ||| fld 192 64 rpc.toNat }
  else if n < 0x126 then
    let k := fieldNat g.waitst 3 1
    let x := g.cslot k
    let p := x.park
    let p := if n < 0x122 then { p with mask := setWord p.mask (n - 0x120) v }
      else if n < 0x124 then { p with pc := setWord p.pc (n - 0x122) v }
      else if n = 0x124 then { p with idx := v } else { p with seq := v }
    g.setCslot k { x with park := p }
  else if n = 0x129 then waitstData s g v
  else if n < 0x12E then { g with gsavep := setWord g.gsavep (n - 0x12C) v }
  else if n = 0x145 then { g with queues := g.queues.mapIdx (fun k r => { r with port := if fieldNat v (3 * k) 3 = 7 then r.port else fieldNat v (3 * k) 3 }) }
  else if n = 0x146 then { g with qpopsel := fieldNat v 0 3 }
  else if n = 0x149 then { g with qentsel := fieldNat v 0 5 }
  else g

/-- R107, R241: the write of a word of the selected object; the test follows at the end of its cycle (R108). -/
def bodataSet (t : Team) (k : Nat) (v : Word) (clock : Nat) : Team :=
  let o := t.obj t.bosel
  let o := if k = 0 then { o with exparr := field v 0 8, arr := field v 8 8, phase := v.getLsbD 16 }
    else if k = 1 then { o with expb := v } else if k = 2 then { o with landb := v } else o
  t.setObj t.bosel { o with event := some clock }

/-- R160, R178, R203, R241: the write of a register held per context. -/
def ctxCsrSet (c : Ctx) (n : Nat) (v : Word) : Ctx :=
  if n < 0x182 then { c with svbase := setWord c.svbase (n - 0x180) v &&& 0x00FFFFFFFFFFE000 }
  else if n < 0x184 then { c with rsetbase := setWord c.rsetbase (n - 0x182) v }
  else { c with kinst1 := v }

/-- Applies a write to a target, or sets MISS (R242). -/
def onTarget (s : State) (core : Nat) (t : Option Nat) (f : Nat → State) : State :=
  match t with
  | some x => f x
  | none => setMiss s core

/-- CSRW, R324. -/
def execCsrw (o : Ops) (s : State) : Out :=
  let n := o.csr
  csrwOp s o
    (fun gid g c act => .next (retire s gid ((lanesOf act).foldl (fun g' i => laneCsrSet g' n i (vec32 g c i o.a)) g) c none))
    (fun gid g c v =>
      let core := coreOfGid gid
      if (0x180 ≤ n && n ≤ 0x183) || n = 0x1C9 then
        .next (retire (onTarget s core (ctxTarget s g core) (fun x => s.modCtx x (fun c => ctxCsrSet c n v))) gid g c none)
      else if n = 0x1C2 then
        .next (retire (onTarget s core (clusterTarget s core) (fun x =>
          let k := s.clusterOf x
          s.setCluster x { k with sppsel := (k.sppsel &&& BitVec.twoPow 32 31) ||| (field v 0 4 : BitVec 4).setWidth 32 })) gid g c none)
      else match teamOfGroup s g with
        | some (tid, t) =>
          if n = 0x130 then .next (retire (s.setTeam tid { t with bosel := fieldNat v 0 4 }) gid g c none)
          else if 0x131 ≤ n && n ≤ 0x134 then .next (retire (s.setTeam tid (bodataSet t (n - 0x131) v s.clock)) gid g c none)
          else .next (retire s gid (groupCsrSet s g n v) c none)
        | none => .next (retire s gid (groupCsrSet s g n v) c none))

/-- FPCSR_WRITE, R225. -/
def execFpcsrWrite (o : Ops) (s : State) : Out :=
  csrwOnce s o (fun gid g c v =>
    let rm := if fieldNat v 0 3 ≤ 4 then v &&& 7 else g.fpcsr &&& 7
    .next (retire s gid { g with fpcsr := (v &&& 0x1F18) ||| rm } c none))

/-- SRSEED_WRITE, R234: every lane's state starts anew from the seed. -/
def execSrseedWrite (o : Ops) (s : State) : Out :=
  csrwOnce s o (fun gid g c v => .next (retire s gid { g with srseed := v, srstate := [] } c none))

/-- QLEVEL_WRITE, R154: an entry that the count comes to cover holds what QENTDATA has written there, or zero; one from the new count up reads as zero until it is written. -/
def execQlevelWrite (o : Ops) (s : State) : Out :=
  csrwOnce s o (fun gid g c v =>
    let r := g.q g.qpopsel
    let n := v.toNat
    let more := (List.range (n - r.fifo.length)).map (fun i => SMap.get [] r.staged (r.fifo.length + i))
    .next (retire s gid (if n ≤ 32 then g.setQ g.qpopsel { r with fifo := r.fifo.take n ++ more, staged := [] } else g) c none))

/-- WAITST_VIEW_WRITE, R398: VIEW and WSLOT, and KIND and TARGET of the slot shown. A write that selects the other slot changes neither slot's wait, so that its wait can be read (DESIGN CHOICE, log entry 47). -/
def execWaitstViewWrite (o : Ops) (s : State) : Out :=
  csrwOnce s o (fun gid g c v =>
    let k := fieldNat v 3 1
    let x := g.cslot k
    let g' := { g with waitst := v &&& 0xF }
    let keep := k ≠ fieldNat g.waitst 3 1 || (x.wait.code = fieldNat v 4 4 && (x.wait.code = 0 || x.wait.target = fieldNat v 8 4))
    .next (retire s gid (if keep then g'
      else g'.setCslot k { x with wait := { x.wait with kind := fieldNat v 4 4, target := fieldNat v 8 4 } }) c none))

/-- LMASK_WRITE, R213: cleared lanes exit; a bit that LMASK lacks stays clear. -/
def execLmaskWrite (o : Ops) (s : State) : Out :=
  csrwOnce s o (fun gid g c v =>
    let gone := g.lmask &&& ~~~(setWord g.lmask (o.csr - 2) v)
    let g' := g.exit gone
    let cut (x : Slot) : Slot := { x with mask := x.mask &&& ~~~gone }
    let g' := { g' with entryMask := g.entryMask &&& ~~~gone, s0 := cut g.s0, s1 := cut g.s1 }
    .next (if g'.lmask = 0 then endGroup (restartProgress s (coreOfGid gid)) gid g' else retire s gid g' c none))

/-- GSAVE_WRITE, R212: after a 1 the group leaves once its queue is empty. A group of no team has no slot to leave (DEDUCED, log entry 22). -/
def execGsaveWrite (o : Ops) (s : State) : Out :=
  csrwOnce s o (fun gid g c v =>
    .next (maybeLeave (retire s gid (if v = 1 then { g with leaving := true } else g) c none) gid))

/-- TGTSEL_WRITE, R242. -/
def execTgtselWrite (o : Ops) (s : State) : Out :=
  csrwOnce s o (fun gid g c v =>
    let core := coreOfGid gid
    let x := s.coreOf core
    let t := if o.csr = 0x1CC then setWord x.tgtsel 0 (v &&& 0x7FFFFF) else setWord x.tgtsel 1 (v &&& 0x7FF)
    .next (retire (s.setCore core { x with tgtsel := t }) gid g c none))

/-- R193, R195: EXP 10-40, or the field stays; EN. -/
def progSet (old v : Word) : Word :=
  (if 10 ≤ fieldNat v 0 6 && fieldNat v 0 6 ≤ 40 then v &&& 0x3F else old &&& 0x3F) ||| (v &&& 0x40)
/-- PROGWIN_WRITE, R193. -/
def execProgwinWrite (o : Ops) (s : State) : Out :=
  csrwOnce s o (fun gid g c v =>
    let core := coreOfGid gid
    .next (retire (onTarget s core (coreTarget s core) (fun x =>
      s.setCore x { s.coreOf x with progwin := progSet (s.coreOf x).progwin v })) gid g c none))
/-- PROGFAULT_WRITE, R195. -/
def execProgfaultWrite (o : Ops) (s : State) : Out :=
  csrwOnce s o (fun gid g c v =>
    let core := coreOfGid gid
    .next (retire (onTarget s core (coreTarget s core) (fun x =>
      s.setCore x { s.coreOf x with progfault := progSet (s.coreOf x).progfault v })) gid g c none))

/-! ### The scratchpad partition (R101) -/

/-- R101: the range of an entry, in 64 KiB units. -/
def sppBase (e : DWord) : Nat := fieldNat e 16 10
def sppSize (e : DWord) : Nat := fieldNat e 26 11
/-- R101: a valid entry that the table accepts at a place. -/
def sppOk (c : Cluster) (k : Nat) (e : DWord) : Bool :=
  sppBase e + sppSize e ≤ 1024 && sppSize e ≠ 0 && fieldNat e 37 26 = 0 &&
    c.spp.all (fun x => x.1 = k || !x.2.getLsbD 63 ||
      (fieldNat x.2 0 16 ≠ fieldNat e 0 16 && (sppBase x.2 + sppSize x.2 ≤ sppBase e || sppBase e + sppSize e ≤ sppBase x.2)))

/-- R101: writes an entry: it is checked when V is set, and a change of owner or range zeroes the range. The manual does not say against which old state a change is measured: an entry that was not valid counts as changed, whatever CTXN, BASE and SIZE it held (DESIGN CHOICE, log entry 52). -/
def sppWrite (c : Cluster) (w : Nat) (v : Word) : Cluster :=
  let k := fieldNat c.sppsel 0 4
  let old : DWord := SMap.get 0 c.spp k
  let e := setWord old w v
  let sel := c.sppsel &&& 0xF
  if !e.getLsbD 63 then { c with spp := SMap.set 0 c.spp k (e &&& 0x0000001FFFFFFFFF), sppsel := sel }
  else if !sppOk c k e then { c with sppsel := sel ||| BitVec.twoPow 32 31 }
  else
    let same := old.getLsbD 63 && fieldNat old 0 37 = fieldNat e 0 37
    { c with spp := SMap.set 0 c.spp k e, sppsel := sel,
             scratch := if same then c.scratch else zeroBytes c.scratch (65536 * sppBase e) (65536 * sppSize e) }

/-- SPPDATA_WRITE, R101. -/
def execSppdataWrite (o : Ops) (s : State) : Out :=
  csrwOnce s o (fun gid g c v =>
    let core := coreOfGid gid
    .next (retire (onTarget s core (clusterTarget s core) (fun x =>
      s.setCluster x (sppWrite (s.clusterOf x) (o.csr - 0x1C4) v))) gid g c none))

/-! ### Rings (R241) -/

/-- R241: a ring pointer after a write of one of its words: a count outside 4-20 or a base beyond frame space leaves it. -/
def ringPtrSet (old : DWord) (k : Nat) (v : Word) : DWord :=
  let x := setWord old k v
  if (k = 0 && !(4 ≤ fieldNat v 0 5 && fieldNat v 0 5 ≤ 20)) || fieldNat x 46 10 ≠ 0 then old else x &&& 0x00FFFFFFFFFFF01F
/-- RING_POINTER_WRITE, R241. -/
def execRingPointerWrite (o : Ops) (s : State) : Out :=
  csrwOnce s o (fun gid g c v =>
    let k := ringOf o.csr
    let r := s.ring k
    .next (retire (s.setRing k { r with ptr := ringPtrSet r.ptr (o.csr % 2) v }) gid g c none))
/-- RING_TAIL_WRITE, R241. -/
def execRingTailWrite (o : Ops) (s : State) : Out :=
  csrwOnce s o (fun gid g c v =>
    let k := ringOf o.csr
    .next (retire (s.setRing k { s.ring k with tail := v }) gid g c none))

/-! ### KINST (R178) -/

/-- R178: the 64 bytes of a descriptor as the writing group reads them: none while it waits; some none where they cannot be read. -/
def readDesc (s : State) (gid : Nat) (g : Group) (lane addr : Nat) : Option (Option (BitVec 512)) × State :=
  if addr % 64 ≠ 0 || 2 ^ 56 ≤ addr then (some none, s)
  else
    let t := lanesGo s gid g 64 .load false [(lane, addr)]
    match t.bad, t.ok with
    | _ :: _, _ => (some none, t.s)
    | [], x :: _ =>
      if t.stall then (none, keepAnswers s t.s)
      else match loadLane t.s gid g x.2 64 false with
        | (.bytes bs, s) => (some (some (BitVec.ofNat 512 (leNat bs))), s)
        | (.wait, s1) => (none, keepAnswers s s1)
    | [], [] => (none, keepAnswers s t.s)

/-- KINST_INSTALL, R178: reads the descriptor after the group's earlier stores, installs the kernel or rejects it. -/
def execKinstInstall (o : Ops) (s : State) : Out :=
  csrwOnce s o (fun gid g c v =>
    let core := coreOfGid gid
    match ctxTarget s g core with
    | none => .next (retire (setMiss s core) gid g c none)
    | some n => match s.ctxOf? n with
      | none => .next (retire (setMiss s core) gid g c none)
      | some x =>
        if !storesDone s gid g then .next s
        else match readDesc s gid g ((lanesOf (active g c o)).headD 0) (x.kinst1 ++ v).toNat with
          | (none, s) => .next (s.setGroup gid g)
          | (some (some d), s) =>
            if kernelOk x.kernels d then
              .next (retire (installKernel (s.modCtx n (fun x => { x with kinst0 := 0 })) n d) gid g c none)
            else .next (retire (s.modCtx n (fun x => { x with kinst0 := 1 })) gid g c none)
          | (some none, s) => .next (retire (s.modCtx n (fun x => { x with kinst0 := 1 })) gid g c none))

end Sys2Proof.Machine
end

