-- ==== Sys2Proof/Machine/Run.lean ====
section
/-! DEFINITION. What a core does by itself: issuing clauses, draining store queues, delivering held traps, ending waits, walking for prefetches, completing shootdowns, the progress fault, die loss at a group (07_execution_model R166; 08_scheduling R188-R195; 09_traps_faults R205-R219; 04_on_chip_hierarchy R107, R108; 05_consistency R115-R120; 16_isa_memory_sync R356-R363; 01_address_spaces R31-R37). Each definition is one row of the opcode table; where the row's condition does not hold, nothing changes. -/

namespace Sys2Proof.Machine

/-- R186: the key of a core's slot. -/
def gidOf (core slot : Nat) : Option Nat := if slot < 64 then some (64 * core + slot) else none

/-! ## Traps that a group holds (R108, R205, R207, R383) -/

/-- R108: a held trap concerns nobody any more: every lane of it has exited, or its post no longer waits (R194). -/
def Group.stale (g : Group) (h : Held) : Bool :=
  h.cause != 0x10 && !g.sup &&
    (h.mask &&& g.lmask == 0 ||
      (h.cause = 0x08 && (match g.dueSlot h with | some k => (g.slot k).wait.kind != 4 | none => false)))

/-- R108, R194, R205, R207, R383: the trap of a held event, for the fragment of a live slot. -/
def heldTrap (g : Group) (h : Held) (k : Nat) : TrapReq :=
  let x := g.slot k
  let parking := x.park.active && h.cause = 0x0D
  { cause := h.cause, reason := h.reason, info := h.info, tmask := if parking then h.mask else x.mask, cpc := h.cpc, ipc := h.ipc,
    idx := h.idx, rpc := x.pc, slot := k, run := x.mask, abandon := h.cause ≠ 0x08 && x.wait.kind ≠ 0 && !x.wait.ended }

/-- ILLBARRIER_DELIVERY, R108, R205, R383: a held trap is taken at the clause boundary of its fragment, or at once by a fragment that waits. -/
def execIllbarrierDelivery (core slot : Nat) (s : State) : Out :=
  match gidOf core slot with
  | none => .next s
  | some gid => match SMap.find? s.groups gid with
    | none => .next s
    | some g =>
      if g.clause.isSome || g.sup || g.halted then .next s
      else if g.held.any g.stale then .next (s.setGroup gid { g with held := g.held.filter (fun h => !g.stale h) })
      else match g.held.findSome? (fun h => (g.dueSlot h).map (fun k => (h, k))) with
        | none => .next s
        | some (h, k) =>
          let s1 := s.setGroup gid { g with held := g.held.erase h }
          let s2 := takeTrap s1 gid (heldTrap g h k)
          .next (orRetry s s1 s2)

/-- R446: a group in a frontier parking as it stood before the handler's entry. -/
def Group.unenter (g : Group) : Group :=
  { g with
    fpark := none, sup := false, s0 := g.k0, s1 := g.k1, k0 := .empty, k1 := .empty, rotc := statRotc g.cstat,
    pass := statPass g.cstat, pslot := statPslot g.cstat }

/-- DIELOSS_ENTRY, R205, R219, R446: the whole group takes DIELOSS at its clause boundary, and at once when it waits, is parked, or is in a frontier parking. A handler is finished first. -/
def execDielossEntry (core slot : Nat) (s : State) : Out :=
  match gidOf core slot with
  | none => .next s
  | some gid => match SMap.find? s.groups gid with
    | none => .next s
    | some g => match g.held.find? (fun h => h.cause = 0x10) with
      | none => .next s
      | some h =>
        if g.clause.isSome || g.halted || (g.sup && g.fpark.isNone) then .next s
        else
          let g1 := { (if g.fpark.isSome then g.unenter else g) with held := g.held.erase h }
          let s1 := s.setGroup gid g1
          let s2 := takeGroupTrap s1 gid g1 0x10 h.reason h.info
          .next (orRetry s s1 s2)

/-! ## Clause issue (R166, R188-R190) -/

/-- R188: a group of the partition has a clause in the issue slot. -/
def issueBusy (s : State) (core part islot : Nat) : Bool :=
  s.groups.any (fun e => e.1 / 16 = 4 * core + part && (match e.2.clause with
    | some c => issueSlotOf (hdrClass c.hdr) = islot
    | none => false))

/-- R188, R205, R211, R212, R219, R446: the group may issue a next clause. -/
def Group.mayIssue (s : State) (g : Group) : Bool :=
  g.clause.isNone && !g.halted && g.fpark.isNone && !g.leaving &&
    (g.sup || (!g.held.any (fun h => h.cause = 0x10) &&
      !(match g.team.bind (fun t => SMap.find? s.teams t) with | some t => t.preempt | none => false)))

/-- R166: which of two eligible fragments stands lower; PCs are equal only while one of them waits (DESIGN CHOICE, log entry 1). -/
def lowerSlot (s : State) (gid : Nat) (g : Group) : Nat :=
  if g.s0.pc < g.s1.pc then 0 else if g.s1.pc < g.s0.pc then 1 else Config.memOrder s.clock gid % 2

/-- R166, R172: the choice of a fragment: the live slot, its issue slot, and PASS and PSLOT after it. -/
structure Choice where
  k     : Nat
  islot : Nat
  pass  : Nat
  pslot : Nat
  deriving DecidableEq, Repr

/-- R166: chooses the fragment that issues next. -/
def chooseFrag (s : State) (gid : Nat) (g : Group) (ctx : Ctx) : Option Choice :=
  match slotEligible s gid g ctx 0, slotEligible s gid g ctx 1 with
  | none, none => none
  | some i, none => some { k := 0, islot := i, pass := 0, pslot := g.pslot }
  | none, some i => some { k := 1, islot := i, pass := 0, pslot := g.pslot }
  | some i0, some i1 =>
    let low := lowerSlot s gid g
    let other := 1 - low
    let at_ (k : Nat) : Nat := if k = 0 then i0 else i1
    if g.pslot = other && 16 ≤ g.pass then some { k := other, islot := at_ other, pass := 0, pslot := other }
    else some { k := low, islot := at_ low, pass := if g.pslot = other then g.pass + 1 else 1, pslot := other }

/-- R189: a group that an issue slot may take. -/
structure Candidate where
  gid    : Nat
  g      : Group
  ctx    : Ctx
  choice : Choice
  deriving DecidableEq, Repr

/-- R188: the candidates of an issue slot. -/
def candidates (s : State) (core part islot : Nat) : List Candidate :=
  s.groups.filterMap (fun (e : Nat × Group) =>
    if e.1 / 16 ≠ 4 * core + part || !e.2.mayIssue s then none
    else match s.ctxOf? e.2.ctx with
      | none => none
      | some ctx =>
        if ctx.dead then none
        else match chooseFrag s e.1 e.2 ctx with
          | some ch => if ch.islot = islot then some { gid := e.1, g := e.2, ctx := ctx, choice := ch } else none
          | none => none)

/-- R189: `a` is taken before `b`: priority, then age, then round robin from the pointer. -/
def Candidate.before (rr : Nat) (a b : Candidate) : Bool :=
  let age (x : Candidate) : Nat := (x.g.slot x.choice.k).since
  let turn (x : Candidate) : Nat := (x.gid % 16 + 16 - rr) % 16
  b.g.prio < a.g.prio || (a.g.prio = b.g.prio && (age a < age b || (age a = age b && turn a < turn b)))

/-- R189: the group that an issue slot takes. -/
def pickCandidate (rr : Nat) (l : List Candidate) : Option Candidate :=
  l.foldl (fun b x => match b with
    | none => some x
    | some y => if x.before rr y then some x else b) none

/-- R215: the fetch fault of a fragment: it parks at its clause header; the other fragment may become eligible. -/
def parkFetch (s : State) (gid : Nat) (g : Group) (k cause level : Nat) (entry : DWord) (ftag : BitVec 8) (ffmt : BitVec 3)
    (va pc : Nat) (straddle : Bool) : State :=
  let x := g.slot k
  let (seq, s) := takeSeq s
  let r : FaultRec := { cause := cause, akind := 3, level := level, straddle := straddle, sup := g.sup, win := false, ctx := g.ctx,
                        core := coreOfGid gid, va := va, pc := pc, lanes := x.mask, entry := entry.toNat, ftag := ftag.toNat,
                        ffmt := ffmt.toNat, slot := slotOfGid gid, seq := seq.toNat }
  let p : Park := { active := true, mask := x.mask, pc := x.pc, idx := 0, seq := seq, ipc := x.pc, replay := false }
  refreshAge ((postFault s r).setGroup gid (g.flush.setSlot k { x with park := p })) s gid

/-- R234: the generators that a clause starts from: kept at its first issue, restored at every later one. -/
def startRng (g : Group) (x : Slot) : Group × Slot :=
  if x.first.isSome then
    ({ g with srstate := x.rng.foldl (fun (m : SMap Word) e => SMap.put m e.1 e.2) g.srstate }, x)
  else (g, { x with rng := (lanesOf x.mask).map (fun i => (i, g.gen i)) })

/-- R441: the counter of a context: the clauses that its groups have issued (DESIGN CHOICE, log entry 28). -/
def countClause (s : State) (ctx : Nat) : State :=
  { s with mgmt := { s.mgmt with counters := SMap.put s.mgmt.counters ctx (SMap.get 0 s.mgmt.counters ctx + 1) } }

/-- R188, R171, R207: the clause of a live slot is in issue; ROTC counts it while the spill area holds entries. -/
def issueClause (s : State) (gid : Nat) (g : Group) (k : Nat) (hdr : Word) (words : List Word) : State :=
  let x := g.slot k
  let (g, x) := startRng g x
  let c : Clause := { pc := x.pc, hdr := hdr, words := words, idx := 0, ipc := x.pc + 4, slot := k, lats := [],
                      replay := if x.park.active then some (x.park.idx.toNat, x.park.mask) else none }
  let x := { x with park := { x.park with active := false, replay := false }, first := some (x.first.getD s.clock) }
  (countClause s g.ctx).setGroup gid { g.setSlot k x with
    fmask := x.mask &&& g.lmask, rotc := if g.spill.isEmpty then 0 else g.rotc + 1, clause := some c }

/-- R215, R216: fetches the chosen fragment's clause, and issues it, parks, waits or raises ILLCLAUSE. -/
def startClause (s : State) (gid : Nat) (g : Group) (ctx : Ctx) (k : Nat) : State :=
  let x := g.slot k
  match fetchClause s gid g ctx x.pc.toNat with
  | (.wait, s) => s
  | (.fault cause level e tag fmt va pc straddle, s) => parkFetch s gid g k cause level e tag fmt va pc straddle
  | (.ok hdr ws, s) =>
    if clauseIll hdr ws then
      takeTrap (s.setGroup gid g) gid { cause := 0x01, reason := 0, info := 0, tmask := x.mask, cpc := x.pc, ipc := x.pc, idx := 0,
                                        rpc := x.pc, slot := k, run := x.mask, abandon := false }
    else issueClause s gid g k hdr ws

/-- CLAUSE_ISSUE, R188, R189: a free issue slot takes a clause of the group that comes first. -/
def execClauseIssue (core part islot : Nat) (s : State) : Out :=
  if 4 ≤ part || 4 ≤ islot || s.resetting || !s.coreEnabled core || issueBusy s core part islot then .next s
  else
    let x := s.coreOf core
    match pickCandidate (x.rr.getD part 0) (candidates s core part islot) with
    | none => .next s
    | some y =>
      let s := s.setCore core { x with rr := x.rr.set part ((y.gid % 16 + 1) % 16) }
      .next (startClause s y.gid { y.g with pass := y.choice.pass, pslot := y.choice.pslot } y.ctx y.choice.k)

/-- VARIABLE_LATENCY_RESULT, R252, R253: the n-th outstanding result of a group is written and its counter goes down. -/
def execVariableLatencyResult (core slot n : Nat) (s : State) : Out :=
  match gidOf core slot with
  | none => .next s
  | some gid => match SMap.find? s.groups gid with
    | none => .next s
    | some g => match g.pending[n]? with
      | none => .next s
      | some p =>
        .next (refreshAge (s.setGroup gid { g.applyPending p with pending := g.pending.eraseIdx n }) s gid)

/-! ## Store queues (R115, R117, R120) -/

/-- R424: the queue that drains at a group's slot: what a group that has ended still holds comes first. -/
def drainQueue (s : State) (gid : Nat) : Option (Bool × Group) :=
  match s.orphans.find? (fun o => o.gid = gid) with
  | some o => some (true, { Group.init o.ctx 16 0 0 with team := o.team, sq := o.sq })
  | none => (SMap.find? s.groups gid).map (fun g => (false, g))

/-- Removes the head of the first queue of an ended group. -/
def dropOrphan (gid : Nat) : List Orphan → List Orphan
  | [] => []
  | o :: os =>
    if o.gid = gid then (if o.sq.tail.isEmpty then os else { o with sq := o.sq.tail } :: os) else o :: dropOrphan gid os

/-- R212: the head of a queue has left it; a group that has been saved leaves once its queue is empty. -/
def popQueue (s : State) (gid : Nat) (orphan : Bool) : State :=
  if orphan then { s with orphans := dropOrphan gid s.orphans }
  else maybeLeave (s.modGroup gid (fun g => { g with sq := g.sq.tail })) gid

/-- R127: one lane of a queued reduction is performed at its home, or in shared memory or the scratchpad. -/
def drainRed (gid : Nat) (f : Rmw) (pc : Nat) (s : State) (l : LaneStore) : State :=
  match l.dst.place with
  | .glob =>
    let s := dropLine s (coreOfGid gid) l.dst
    { s with homeQ := s.homeQ ++ [{ cls := classOf gid, arrival := s.clock, src := .group gid, dst := l.dst, op := .rmw f l.data,
                                    pc := pc, aged := false }] }
  | p =>
    let m := leNat (readPlace s p l.dst.addr l.data.length)
    writePlace s p l.dst.addr (natLe l.data.length (rmwVal f.op f.ty m (leNat l.data)).1)

/-- STORE_QUEUE_DRAIN, R104, R115, R117, R120: the store or reduction at the head leaves the queue; a release waits there for its scope. -/
def execStoreQueueDrain (core slot : Nat) (s : State) : Out :=
  match (gidOf core slot).bind (fun gid => (drainQueue s gid).map (fun q => (gid, q))) with
  | none => .next s
  | some (gid, orphan, g) => match g.sq with
    | .store lanes rel pc :: _ =>
      let s := relStart s core rel
      if relReady s gid g rel then .next (popQueue (lanes.foldl (drainLane gid pc) s) gid orphan) else .next s
    | .red lanes f pc :: _ => .next (popQueue (lanes.foldl (drainRed gid f pc) s) gid orphan)
    | _ => .next s

/-- BARRIER_ARRIVAL, R108, R117, R358, R424: the arrival marker at the head leaves the queue and joins the cycle, whose end counts it. An ended group's counts at the object alone. -/
def execBarrierArrival (core slot : Nat) (s : State) : Out :=
  match (gidOf core slot).bind (fun gid => (drainQueue s gid).map (fun q => (gid, q))) with
  | none => .next s
  | some (gid, orphan, g) => match g.sq with
    | .arrive obj mask cpc ipc idx :: _ =>
      if !relReady s gid g 2 then .next s
      else match g.team with
        | none => .next (popQueue s gid orphan)
        | some t =>
          let e : ArriveEvent := { key := gid, group := if orphan then none else some gid, seq := false, mask := mask,
                                   cpc := BitVec.ofNat 64 cpc, ipc := BitVec.ofNat 64 ipc, idx := idx }
          .next (popQueue (s.modTeam t (fun x => x.setObj obj ((x.obj obj).arrive s.clock e))) gid orphan)
    | _ => .next s

/-- TREE_ARRIVAL, R117, R363, R429: the tree marker at the head leaves the queue once its release at dev is done and it can count. -/
def execTreeArrival (core slot : Nat) (s : State) : Out :=
  match (gidOf core slot).bind (fun gid => (drainQueue s gid).map (fun q => (gid, q))) with
  | none => .next s
  | some (gid, orphan, g) => match g.sq with
    | .treeArrive tree :: _ =>
      let s := relStart s core 4
      if relReady s gid g 4 && treeReady s core tree then
        let s1 := treeArrive s gid core tree
        .next (popQueue (if orphan then { s1 with groups := s.groups } else s1) gid orphan)
      else .next s
    | _ => .next s

/-- TREE_RELEASE_SEEN, R361, R363: a release reaches a core. -/
def execTreeReleaseSeen (tree core : Nat) (s : State) : Out :=
  if 16 ≤ tree || 1152 ≤ core then .next s
  else
    let x := s.coreOf core
    .next (s.setCore core { x with seen := setBit x.seen tree (s.trees.getLsbD tree) })

/-! ## Waits (R190) -/

/-- R156: a post or take waits. -/
def Wait.mbox (w : Wait) : Bool := w.kind == 4 || w.kind == 5

/-- R156, R366: a look at the slot that a post or take waits for: whether its word has come, whether it cannot be read (the instruction itself then parks), and the state with what the look has asked for. -/
def mboxLook (s : State) (gid : Nat) (g : Group) (w : Wait) : Bool × Bool × State :=
  match mboxLoad s s gid g 0 w.slotVa 64 with
  | .ok bs s' => (leNat (bs.drop 60) = slotWord w.lap (w.kind = 5), false, s')
  | .stall s' => (false, false, s')
  | .fault _ _ => (false, true, s)

/-- R190: what a live slot waits for has come about. -/
def waitOver (s : State) (gid : Nat) (g : Group) (k : Nat) : Bool :=
  let w := (g.slot k).wait
  if w.kind = 1 then 2 ≤ (classify s g.ctx w.handle).1
  else if w.kind = 2 then
    match g.team.bind (fun t => SMap.find? s.teams t) with
    | some t => phaseDone g t w.target && !arriving gid g t w.target (g.slot k).mask w.ipc
    | none => false
  else if w.kind = 3 then treeDone s (coreOfGid gid) g w.target
  else if w.mbox then (mboxLook s gid g w).1
  else if w.kind = 6 then !(g.q w.target).fifo.isEmpty
  else if w.kind = 18 then wfiReady s (coreOfGid gid)
  else false

/-- A wait is over: its fragment becomes eligible, and its clause executes again. -/
def endWait (s : State) (gid : Nat) (g : Group) (k : Nat) (w : Wait) : State :=
  s.setGroup gid (g.setSlot k { g.slot k with wait := { w with ended := true }, since := s.clock })

/-- The live slot of a resident group, when it waits. -/
def waiting (s : State) (core slot live : Nat) (kind : Nat → Bool) : Option (Nat × Group × Wait) :=
  match gidOf core slot with
  | none => none
  | some gid => match SMap.find? s.groups gid with
    | none => none
    | some g =>
      let x := g.slot live
      if live < 2 && x.mask != 0 && !x.wait.ended && kind x.wait.kind then some (gid, g, x.wait) else none

/-- WAIT_END, R190, R194: the wait of a live slot ends; a slot that cannot be read ends it too, for the instruction to fault. A blocking post that completes its wait restarts the progress-fault counter. -/
def execWaitEnd (core slot live : Nat) (s : State) : Out :=
  match waiting s core slot live (fun k => k ≠ 0) with
  | none => .next s
  | some (gid, g, w) =>
    if w.mbox then
      let look := mboxLook s gid g w
      let s := look.2.2
      if look.1 then .next (endWait (if w.kind = 4 then s.setCore core { s.coreOf core with faultcnt := s.clock } else s) gid g live w)
      else if look.2.1 then .next (endWait s gid g live w)
      else .next s
    else if waitOver s gid g live then .next (endWait s gid g live w)
    else .next s

/-- BWAIT_TIMEOUT, R218, R359: a bounded wait expires; a completion in the same cycle wins. -/
def execBwaitTimeout (core slot live : Nat) (s : State) : Out :=
  match waiting s core slot live (fun k => k = 2) with
  | none => .next s
  | some (gid, g, w) => match w.deadline with
    | none => .next s
    | some d =>
      if s.clock < d then .next s
      else if waitOver s gid g live then .next (endWait s gid g live w)
      else .next (endWait s gid g live { w with deadline := some 0 })

/-- WFI_TIMEOUT, R403. -/
def execWfiTimeout (core : Nat) (s : State) : Out :=
  match waiting s core 0 0 (fun k => k = 18) with
  | none => .next s
  | some (gid, g, w) => match w.deadline with
    | none => .next s
    | some d => if s.clock < d then .next s else .next (endWait s gid g 0 w)

/-! ## The progress fault (R194) -/

/-- R194: the live slot of a group that waits in a blocking post whose slot is not free. -/
def postWaits (s : State) (gid : Nat) (g : Group) : Option Nat :=
  let on (k : Nat) : Bool := (g.slot k).mask != 0 && (g.slot k).wait.kind = 4 && !(g.slot k).wait.ended && !waitOver s gid g k
  if g.halted then none else if on 0 then some 0 else if on 1 then some 1 else none

/-- R194: a group waiting in a blocking post takes PROGRESS; it keeps its ticket and its wait. While its other fragment has a clause in issue it holds the trap. -/
def progressTrap (s : State) (gid : Nat) : State :=
  match SMap.find? s.groups gid with
  | none => s
  | some g => match postWaits s gid g with
    | none => s
    | some k =>
      let x := g.slot k
      let h : Held := { cause := 0x08, reason := 0, info := 0, mask := x.mask, cpc := x.pc, ipc := x.wait.ipc, idx := x.wait.idx }
      let hold := s.setGroup gid { g with held := g.held ++ [h] }
      if g.clause.isSome && !g.sup then hold
      else
        orRetry hold s (takeTrap s gid (heldTrap g h k))

/-- PROGRESS_FAULT, R194, R195: the progress-fault counter of a compute core has reached its limit. -/
def execProgressFault (core : Nat) (s : State) : Out :=
  let x := s.coreOf core
  if isService core || !progOn x.progfault || s.clock < x.faultcnt + progLimit x.progfault then .next s
  else
    let gs := s.groups.filter (fun (e : Nat × Group) => coreOfGid e.1 = core && (postWaits s e.1 e.2).isSome)
    if gs.isEmpty then .next s
    else .next (gs.foldl (fun s e => progressTrap s e.1) (s.setCore core { x with faultcnt := s.clock }))

/-! ## Translation (R31-R37) -/

/-- TRANSLATION_WALK, R31, R32, R34, R37: one of the cluster's 64 walkers serves a page of its walks, once everything that it reads is there; a walk that fails leaves nothing behind. -/
def execTranslationWalk (cluster ctx : Nat) (va : BitVec 64) (s : State) : Out :=
  let page := va.toNat / 65536
  if !(s.clusterOf cluster).walks.contains (ctx, page) then .next s
  else match s.ctxOf? ctx with
    | none => .next (walkLeave s (some cluster) ctx page)
    | some c =>
      if shootdown s ctx (c.kind == 0) then .next s
      else match walkReady (askAgain s (.walker cluster ctx page)) (some cluster) ctx c (65536 * page) with
        | (false, s) => .next s
        | (true, s) =>
          let w := walk s (s.walkCache (some cluster)) ctx c (65536 * page)
          let s := walkLeave s (some cluster) ctx page
          match w with
          | .error _ => .next s
          | .ok (level, e, met) =>
            let s := walkInstall s (some cluster) met
            if field e 19 8 = c.ckey then .next (tlbInstall s none (some cluster) ctx (65536 * page) level e) else .next s

/-- R36: an access of a context to an address may have used a translation that the shootdown removes. -/
def TlbInv.concerns (s : State) (t : TlbInv) (ctx : Nat) (va : DWord) : Bool :=
  if t.kind = 2 then (match s.ctxOf? ctx with | some c => c.kind = 0 | none => true)
  else t.kind < 2 && ctx = t.ctx && (t.kind = 1 || va.toNat / 2 ^ 36 = t.va.toNat / 2 ^ 36)

/-- A queue entry holds a store or reduction to global memory that the shootdown concerns. -/
def TlbInv.queued (s : State) (t : TlbInv) : QEntry → Bool
  | .store lanes _ _ | .red lanes _ _ => lanes.any (fun l => l.dst.place = .glob && t.concerns s l.dst.ctx l.dst.va)
  | _ => false

/-- R36: an access translated with a removed translation is still on its way. -/
def TlbInv.inFlight (s : State) (t : TlbInv) : Bool :=
  s.groups.any (fun (e : Nat × Group) => e.2.sq.any (t.queued s)) || s.orphans.any (fun o => o.sq.any (t.queued s)) ||
    s.homeQ.any (fun r => !r.looks && (match r.src with
      | .host _ => false
      | _ => t.concerns s r.dst.ctx r.dst.va)) ||
    s.reps.any (fun r => r.write && t.concerns s r.ctx r.va) ||
    s.clusters.any (fun (e : Nat × Cluster) => e.2.shadow.any (fun x => t.concerns s x.dst.ctx x.dst.va))

/-- R36: no structure holds a removed translation and no walk that began before is in progress. -/
def TlbInv.clear (s : State) (t : TlbInv) : Bool :=
  s.cores.all (fun (e : Nat × CoreSt) => !e.2.tlb.any t.hits) &&
    s.clusters.all (fun (e : Nat × Cluster) => !e.2.tlb.any t.hits && !e.2.walkc.any t.hitsWalk)

/-- R36: the issuing group's release at dev is done. -/
def invReleased (s : State) (gid : Nat) : Bool :=
  match SMap.find? s.groups gid with
  | some g => g.sq.isEmpty && relReady s gid g 4
  | none => true

/-- TLBINV_COMPLETE, R36, R37, R400: a shootdown is over, and its issuer goes on. -/
def execTlbinvComplete (core slot : Nat) (s : State) : Out :=
  match (gidOf core slot).bind (fun gid => s.tlbinvs.find? (fun t => t.gid = gid)) with
  | none => .next s
  | some t =>
    let s := mergeAll s
    if !t.clear s || t.inFlight s || !invReleased s t.gid then .next s
    else
      let s := { s with tlbinvs := s.tlbinvs.erase t }
      let wake (x : Slot) : Slot := if x.wait.kind = 17 then { x with wait := { x.wait with ended := true }, since := s.clock } else x
      .next (s.modGroup t.gid (fun g => { g with s0 := wake g.s0, s1 := wake g.s1 }))

end Sys2Proof.Machine
end

