-- ==== Sys2Proof/Machine/Home.lean ====
section
/-! DEFINITION. The homes: requests performed at a base die, the RETRY rule, thaws, banks, priority aging, the rings, the CXL ports, and the answers of the switch to replica accesses (02_frames_granules R52, R56-R61; 03_tiers_and_host R69-R80, R87, R88; 06_engines_memory R161; 11_isa_conventions R241; 24_module_links R433, R435). Each exec definition is one row of the opcode table; where the row's condition does not hold, nothing changes. -/

namespace Sys2Proof.Machine

/-! ## Free sub-frames, completions -/

/-- R72, R439: the low-space event is posted once while FREE stays below LOWMARK and the event is enabled. -/
def lowSpace (s : State) (stack : Nat) : State :=
  let x := s.stackOf stack
  if x.freeSub < x.lowmark.toNat && x.lowev then
    if x.lowPosted then s else postEvent (s.setStack stack { x with lowPosted := true }) 0x07 stack 0
  else s.setStack stack { x with lowPosted := false }

/-- R72: FREE of a stack takes a new value. -/
def setFree (s : State) (stack n : Nat) : State := lowSpace (s.setStack stack { s.stackOf stack with freeSub := n }) stack

/-- R433: a completion leaves its port, and its tag is free again. -/
def complete (s : State) (port : Nat) (tag : BitVec 16) (status : Nat) (data : List Byte) : State :=
  let p := s.portOf port
  { s.setPort port { p with tags := p.tags.erase tag } with
    sent := s.sent ++ [{ port := port, tag := tag, status := status, data := data }] }

/-! ## Accesses of the module itself -/

/-- R52: the bytes that a request of the module writes without reading: a read-modify-write covers none. -/
def HomeReq.covers (r : HomeReq) : Nat × Nat := (r.dst.addr, match r.op with | .write d => d.length | _ => 0)

/-- R127, R348: a request of the module is performed, with what else is written together with it. -/
def performReq (whole : List (Nat × Nat)) (s : State) (r : HomeReq) : State :=
  match r.op with
  | .write data => performWhole s r.src.gid r.dst data whole
  | .rmw f data =>
    performWhole s r.src.gid r.dst (natLe data.length (rmwVal f.op f.ty (s.num r.dst.addr data.length) (leNat data)).1) whole
  | _ => s

/-- R38: the record of a store or reduction that its home refuses after it has left its queue: it names no lane. -/
def homeRec (s : State) (gid : Nat) (r : HomeReq) (cause : Nat) (ftag : BitVec 8) (ffmt : BitVec 3) (seq : Word) : FaultRec :=
  { cause := cause, akind := match r.op with | .rmw .. => 2 | _ => 1, level := 0, straddle := false,
    sup := match SMap.find? s.groups gid with | some g => g.sup | none => false,
    win := false, ctx := r.dst.ctx, core := coreOfGid gid, va := r.dst.va.toNat, pc := r.pc, lanes := 0, entry := 0,
    ftag := ftag.toNat, ffmt := ffmt.toNat, slot := slotOfGid gid, seq := seq.toNat }

/-- R25, R26, R56: a request whose home refuses it is not performed; a group's leaves a fault record, a job's ends the job with ERROR. -/
def refuseReq (s : State) (r : HomeReq) (cause : Nat) (ftag : BitVec 8) (ffmt : BitVec 3) : State :=
  match r.src with
  | .group gid => let (seq, s) := takeSeq s; postFault s (homeRec s gid r cause ftag ffmt seq)
  | .job sched slot =>
    let j := s.job sched slot
    if j.live then s.setJob sched slot { j.finish 1 with state := .running } else s
  | _ => s

/-- R38: of the requests that a home refuses, one for each cause leaves a record: they lie in one page. -/
def refuseAll (s : State) (refused : List (HomeReq × Verdict)) : State :=
  refused.zipIdx.foldl (fun s e => match e.1.2 with
    | .fault cause tag fmt => if (refused.take e.2).any (fun x => x.2 = e.1.2) then s else refuseReq s e.1.1 cause tag fmt
    | _ => s) s

/-- R74: the reads of CXL lines that a batch of read-modify-writes needs. -/
def cxlBatch (s : State) (rs : List HomeReq) : Bool × State :=
  let need := rs.filter (fun r => r.dst.rep.isNone && (match r.op with | .rmw .. => true | _ => false))
  let lines := (need.map (fun r => r.dst.addr / 64 * 64)).eraseDups
  lines.foldl (fun b a => let x := cxlRead b.2 a false; (b.1 && x.1, x.2)) (true, s)

/-- R52, R56, R59, R69, R113, R161: the requests of one instruction to a line are performed together, once each of them has its turn, or wait together; a replica page's go to the switch as one. -/
def serveCore (s : State) (r : HomeReq) : State :=
  let mine := s.homeQ.zipIdx.filter (fun x => r.together s x.1)
  let batch := mine.map (·.1)
  let whole := batch.map HomeReq.covers
  let s1 := batch.foldl (fun s x => sense s x.dst.addr x.bytes whole) s
  let all := batch.map (fun x => (x, homeCheck s1 x.dst x.bytes whole))
  let good := (all.filter (fun e => e.2 = .ok)).map (·.1)
  let off (s : State) : State := { s with homeQ := s.homeQ.filter (fun x => !r.together s x) }
  if mine.any (fun x => (homeTurn s x.2).isNone) then s
  else if all.any (fun e => e.2 = .wait) then startThaw s1 r.dst.addr false
  else match r.dst.rep, cxlBatch s1 good with
    | some d, _ =>
      let s2 := refuseAll (off s1) all
      if good.isEmpty then s2 else repSend s2 r.src.gid r.dst.ctx d r.dst true good none
    | none, (false, s2) => keepAnswers s1 s2
    | none, (true, s2) => good.foldl (performReq whole) (refuseAll (off s2) all)

/-! ## Accesses of hosts and peers (R30, R79, R80, R433, R435) -/

/-- The maximal runs of a byte mask: offset and length. -/
def maskRuns (m : DWord) : List (Nat × Nat) :=
  (List.range 64).foldr (fun i acc => if !m.getLsbD i then acc
    else match acc with
      | (o, n) :: rest => if o = i + 1 then (i, n + 1) :: rest else (i, 1) :: acc
      | [] => [(i, 1)]) []

/-- R433: the word that an atomic's payload names, and its new value. -/
def hostAtomicVal (p : List Byte) (old : Nat) : Nat :=
  let kind := (p.getD 0 0).toNat
  let a := leNat ((p.drop 8).take 8)
  if kind = 0 then (old + a) % 2 ^ 64 else if kind = 1 then a
  else if old = a then leNat ((p.drop 16).take 8) else old
/-- R433: the offset of that word. -/
def hostAtomicOff (p : List Byte) : Nat := 8 * ((p.getD 1 0).toNat % 8)

/-- R52: the byte ranges that a host request writes: none for a read. -/
def HomeReq.writes (r : HomeReq) : List (Nat × Nat) :=
  match r.op with
  | .hostWrite m _ => maskRuns m
  | .hostAtomic p => [(hostAtomicOff p, 8)]
  | _ => []

/-- R52, R56: what a host write covers without reading; an atomic covers nothing. -/
def HomeReq.whole (r : HomeReq) : List (Nat × Nat) :=
  match r.op with
  | .hostWrite .. => r.writes.map (fun w => (r.dst.addr + w.1, w.2))
  | _ => []

/-- What the home says of a host request. -/
inductive HostVerdict where
  | ok
  /-- R71, R80: a read of a frost sub-frame is decoded and does not wait; the image may be uncorrectable. -/
  | frostRead
  | frostBad
  /-- R59, R69: it waits for a thaw, or for the block being copied. -/
  | thaw
  | copying
  | fail (status : Nat)
  deriving DecidableEq, Repr

/-- R30, R56, R57, R59, R80, R220, R435: the home's checks of a host or peer request. -/
def hostVerdict (s : State) (h : HostReq) (r : HomeReq) : HostVerdict :=
  let d := s.dirOf (r.dst.addr / 65536)
  let frost := d.frost.getLsbD (r.dst.addr / 4096 % 16)
  if d.state = 0 || d.ktag ≠ r.dst.key then .fail 2
  else if !h.peer && r.dst.gc ≠ d.fmt && !(d.pv && r.dst.gc = d.prevfmt) then .fail 2
  else if s.lost.getLsbD (72 + s.homeStack r.dst.addr) then .fail 3
  else match r.op with
    | .hostRead =>
      if frost then (if poisoned s r.dst.addr 64 || (imageDecode s r.dst.addr).isNone then .frostBad else .frostRead)
      else if poisoned s r.dst.addr 64 then .fail 3
      else .ok
    | _ =>
      if frost then .thaw
      else if d.state = 2 && d.cursor.toNat = r.dst.addr % 65536 / 512 then .copying
      else if r.writes.any (fun w => poisonStops s (r.dst.addr + w.1) w.2 r.whole) then .fail 3
      else .ok

/-- R78: the home service time of a request, in ns. -/
def serviceNs (s : State) (v : HostVerdict) (r : HomeReq) : Nat :=
  match v with
  | .frostRead | .frostBad => 297
  | .thaw => 700
  | .copying => 974
  | _ => if r.forwarded then 360 else if (frameCxl s r.dst.addr).isSome then 160 else 250

/-- R79, R445: the request would exceed 1,500 ns: its elapsed time, its home service and its return of 140 ns. -/
def tooLate (s : State) (v : HostVerdict) (r : HomeReq) : Bool :=
  (1500 - 140 - serviceNs s v r) * 9 < (s.clock - r.arrival) * 4

/-- R79: a host request of a port to a line. -/
def HomeReq.onLine (x : HomeReq) (port line : Nat) : Bool :=
  match x.src with
  | .host h => h.port = port && x.dst.addr / 64 = line
  | _ => false

/-- R79: the request completes with RETRY, and so do the others of its port to its line that wait behind it; the line's window opens. -/
def retryReq (s : State) (h : HostReq) (r : HomeReq) : State :=
  let line := r.dst.addr / 64
  let mine := s.homeQ.filter (fun x => x.onLine h.port line)
  let s := { s with homeQ := s.homeQ.filter (fun x => !x.onLine h.port line) }
  let s := mine.foldl (fun s x => match x.src with | .host h => complete s h.port h.tag 5 [] | _ => s) s
  let p := s.portOf h.port
  s.setPort h.port { p with retry := p.retry ++ [(line, h.tag)] }

/-- R439: KIND 0x09, the host frame number. -/
def mismatchEvent (s : State) (h : HostReq) : State := if h.peer then s else postEvent s 0x09 (h.addr.toNat / 65536) 0

/-- R52, R433: a host request is performed, and completes. -/
def performHost (s : State) (h : HostReq) (r : HomeReq) : State :=
  match r.op with
  | .hostWrite m data =>
    complete ((maskRuns m).foldl (fun s w => storeWhole s hostGid (r.dst.addr + w.1) ((data.drop w.1).take w.2) r.whole) s) h.port h.tag 0 []
  | .hostAtomic p =>
    let a := r.dst.addr + hostAtomicOff p
    let old := s.num a 8
    complete (storeWhole s hostGid a (natLe 8 (hostAtomicVal p old)) []) h.port h.tag 0 (natLe 64 old)
  | _ => complete (openRow s r.dst.addr 64) h.port h.tag 0 (s.bytes r.dst.addr 64)

/-- R52, R56: what a host request reads of its granules is decoded. -/
def senseHost (s : State) (r : HomeReq) : State :=
  if (s.dirOf (r.dst.addr / 65536)).frost.getLsbD (r.dst.addr / 4096 % 16) then s
  else match r.op with
    | .hostRead => sense s r.dst.addr 64 []
    | _ => r.writes.foldl (fun s w => sense s (r.dst.addr + w.1) w.2 r.whole) s

/-- R56, R79, R80: a host request at the head of its queue. -/
def serveHost (s : State) (n : Nat) (h : HostReq) (r : HomeReq) : State :=
  let s := senseHost s r
  let v := hostVerdict s h r
  let off := { s with homeQ := s.homeQ.eraseIdx n }
  let wait (s : State) : State := { s with homeQ := s.homeQ.set n { r with decided := true } }
  if !r.decided && tooLate s v r then retryReq s h r
  else match v with
    | .fail st => let x := complete off h.port h.tag st []; if st = 2 then mismatchEvent x h else x
    | .thaw => startThaw (wait s) r.dst.addr true
    | .copying => wait s
    | .frostRead => startThaw (complete (openRow off r.dst.addr 64) h.port h.tag 0 (frostData s r.dst.addr 64)) r.dst.addr true
    | .frostBad => startThaw (complete off h.port h.tag 3 []) r.dst.addr true
    | .ok =>
      let reads := match r.op with | .hostWrite .. => false | _ => true
      if !reads then performHost off h r
      else match cxlRead s r.dst.addr false with
        | (false, s') => wait s'
        | (true, s') => performHost { s' with homeQ := s'.homeQ.eraseIdx n } h r

/-- R79: a request arrives at its home: one of a line in its RETRY window completes with RETRY, unless it is the request that opened the window, reissued. -/
def homeArrive (s : State) (h : HostReq) (r : HomeReq) : State :=
  let line := r.dst.addr / 64
  let p := s.portOf h.port
  let push (s : State) : State := { s with homeQ := s.homeQ ++ [r] }
  if p.retry.contains (line, h.tag) then push (s.setPort h.port { p with retry := p.retry.erase (line, h.tag) })
  else if p.retry.any (fun e => e.1 = line) then complete s h.port h.tag 5 []
  else push s

/-- HOME_ACCESS, R52, R56, R59, R69, R78, R87, R113: the n-th request that waits at the homes, when it is its turn. A place is its issuer's to use; one that nobody asks for any more is given up. -/
def execHomeAccess (n : Nat) (s : State) : Out :=
  match homeTurn s n with
  | none => .next s
  | some r =>
    if r.looks then .next (if r.gone s then { s with homeQ := s.homeQ.eraseIdx n } else s)
    else match r.src with
      | .host h => .next (serveHost s n h r)
      | _ => .next (serveCore s r)

/-! ## Thaws (R69-R72) -/

/-- R70: the thaws of a stack in the order in which its 8 engines take them: host-triggered ones first. -/
def thawOrder (s : State) (stack : Nat) : List Thaw :=
  let mine := s.thaws.filter (fun t => s.homeStack (65536 * t.frame + 4096 * t.sub) = stack)
  mine.filter (fun t => t.host) ++ mine.filter (fun t => !t.host)

/-- R69, R71: a thaw is done: the image is decoded and the data stored anew; one directory update clears the FROST bit and frees the image. -/
def thawed (s : State) (t : Thaw) : State :=
  let start := 65536 * t.frame + 4096 * t.sub
  let data := frostData s start 4096
  let bad := poisoned s start 4096 || (imageDecode s start).isNone
  let s := sense s start (512 * SMap.get 0 s.images (subKey t.frame t.sub)) []
  let s := if s.upsets.isEmpty then s else freshen { s with mem := writeBytes s.mem start data } start 4096
  let s := if bad then poisonGranule s start 4096 else s
  let d := s.dirOf t.frame
  let stack := s.homeStack start
  let s := { s.setDir t.frame { d with frost := d.frost &&& ~~~(BitVec.twoPow 16 t.sub) } with
             images := SMap.del s.images (subKey t.frame t.sub), thaws := s.thaws.erase t }
  setFree s stack ((s.stackOf stack).freeSub - 1)

/-- R87: the class of a thaw's accesses: 0 for a host, 4 for a frame-engine job, 3 otherwise. -/
def Thaw.cls (t : Thaw) : Nat := if t.host then 0 else if t.bg then 4 else 3

/-- R87: a frame engine or a thaw engine asks for its turn at the homes of `n` bytes; a request that waits rises to a higher class. -/
def engineAsk (s : State) (id cls addr n : Nat) : Bool × State :=
  let raised := { s with homeQ := s.homeQ.map (fun x => if x.looks && x.src = .party id then { x with cls := min x.cls cls } else x) }
  match homeAsk raised (.party id) cls { place := .glob, addr := addr, key := 0, gc := 0, cp := 1, rep := none, va := 0, ctx := 0 } n 0 with
  | (true, s) => (true, openRow (dropLooks s (.party id)) addr n)
  | (false, s) => (false, s)

/-- THAW_COMPLETE, R69, R70, R72, R87: a thaw that an engine has taken finishes, when it is its turn; one that finds FREE at 0 waits. -/
def execThawComplete (frame sub : Nat) (s : State) : Out :=
  let stack := s.homeStack (65536 * frame + 4096 * sub)
  match ((thawOrder s stack).take 8).find? (fun t => t.frame = frame && t.sub = sub) with
  | none => .next s
  | some t =>
    if (s.stackOf stack).freeSub = 0 then .next s
    else match engineAsk s (thawParty (subKey frame sub)) t.cls (65536 * frame + 4096 * sub) 4096 with
      | (true, s) => .next (thawed s t)
      | (false, s) => .next s

/-! ## Banks and the controller's classes (R61, R87, R88) -/

/-- R61: a request that hits the open row of a bank is queued. -/
def hitQueued (s : State) (stack bank row : Nat) : Bool :=
  s.homeQ.any (fun r => s.homeStack r.dst.addr = stack && (r.banks s).contains bank && s.placeOf r.dst.addr Config.placeRow = row)

/-- BANK_IDLE_EXPIRY, R61: an idle timer reaches zero and the bank precharges, unless a hit is queued. -/
def execBankIdleExpiry (stack bank : Nat) (s : State) : Out :=
  let x := s.stackOf stack
  match SMap.find? x.banks bank with
  | none => .next s
  | some (row, at_) =>
    if s.clock < at_ || hitQueued s stack bank row then .next s
    else .next (s.setStack stack { x with banks := SMap.del x.banks bank })

/-- R88: the banks of a stack at which a class-0 request is queued. -/
def hostBanks (s : State) (stack : Nat) : List Nat :=
  ((s.homeQ.filter (fun r => r.cls = 0 && s.homeStack r.dst.addr = stack && !r.idle s)).flatMap (HomeReq.banks s)).eraseDups

/-- REFRESH, R61, R88: every bank that the refresh covers is precharged; a bank at which a class-0 request is queued is left out, up to 8 times. -/
def execRefresh (stack first count : Nat) (s : State) : Out :=
  let x := s.stackOf stack
  let held := (hostBanks s stack).filter (fun b => first ≤ b && b < first + count && SMap.get 0 x.postponed b < 8)
  .next (s.setStack stack { x with
    banks := x.banks.filter (fun e => !(first ≤ e.1 && e.1 < first + count) || held.contains e.1)
    postponed := held.foldl (fun m b => SMap.put m b (SMap.get 0 x.postponed b + 1)) (SMap.delRange x.postponed first count) })

/-- BACKGROUND_AGING, R87, R445: a background request that has waited 50 µs, 112,500 cycles, is served as normal. -/
def execBackgroundAging (n : Nat) (s : State) : Out :=
  match s.homeQ[n]? with
  | none => .next s
  | some r =>
    if r.cls = 4 && r.arrival + 112500 ≤ s.clock then .next { s with homeQ := s.homeQ.set n { r with cls := 3, aged := true } }
    else .next s

/-! ## Rings (R241) -/

/-- R81, R241: bytes of a ring's entry. -/
def ringBytes : Ring → Nat
  | .hfq => 32
  | _ => 64

/-- RING_WRITE_RESUME, R241: the oldest record or event that waits is written once its ring can take it; a slot in a frost sub-frame is thawed. -/
def execRingWriteResume (k : Ring) (s : State) : Out :=
  let r := s.ring k
  match r.waiting with
  | [] => .next s
  | x :: rest =>
    if ringReady s r (ringBytes k) then .next (ringWrite (s.setRing k { r with waiting := rest }) k (natLe (ringBytes k) x.toNat))
    else .next (startThaw s (r.slotAddr (ringBytes k)) false)

/-! ## CXL ports (R73-R77) -/

/-- CXL_LINK_TRAINING, R73, R440: a port in CONFIG_OPEN trains. A device that offers CXL.cache is trained as CXL.io only and logged; other than a Type 3 device none is supported. -/
def execCxlLinkTraining (port : Nat) (d : CxlDevice) (s : State) : Out :=
  if 8 ≤ port || s.mgmt.life.getD (16 + port) 0 ≠ 0 then .next s
  else if d.cache then .next (postEvent (s.setCxl port { CxlPort.init with ioOnly := true }) 0x0B port 0)
  else if !d.type3 then .next (s.setCxl port { CxlPort.init with ioOnly := true })
  else .next (s.setCxl port { CxlPort.init with trained := true, hdmDb := d.hdmDb })

/-- R74, R77: what the expanders still owe: port, whether it is a read, line. -/
def cxlOwed (s : State) : List (Nat × Bool × Nat) :=
  s.cxl.flatMap (fun (e : Nat × CxlPort) => e.2.asked.map (fun l => (e.1, true, l.line)) ++ e.2.unacked.map (fun u => (e.1, false, u.line)))

/-- R53, R74: the bytes of a line as its expander holds them, deciphered under the frame's key, or its poison (R56). -/
def cxlLine (s : State) (line : Nat) (poisoned : Bool) (data : List Byte) : State :=
  let key := (s.dirOf (line / 1024)).ktag
  if poisoned then { s with poison := SMap.put (SMap.put s.poison (2 * line) ()) (2 * line + 1) () }
  else { s with mem := writeBytes s.mem (64 * line) ((plainText key (2 * line) (data.map (·.toNat))).map (BitVec.ofNat 8)) }

/-- CXL_COMPLETION, R74, R76, R77: the n-th thing owed comes: data for a MemRd, or the acknowledgement of a write. A read that a write of the module has overtaken keeps the module's bytes; one that a snoop has met is ordered after it, and its data come once the snoop is answered. -/
def execCxlCompletion (n : Nat) (poisoned : Bool) (data : List Byte) (s : State) : Out :=
  match (cxlOwed s)[n]? with
  | none => .next s
  | some (p, true, line) =>
    let x := s.cxlOf p
    match x.asked.find? (fun r => r.line = line && !r.conflict) with
    | none => .next s
    | some r =>
      if data.length ≠ 64 && !poisoned then .next s
      else
        let s1 := if x.unacked.any (fun u => u.line = line) then s else cxlLine s line poisoned data
        .next (s1.setCxl p { x with asked := x.asked.erase r, ready := x.ready ++ [line] })
  | some (p, false, line) =>
    let x := s.cxlOf p
    match x.unacked.find? (fun u => u.line = line) with
    | some u => .next (s.setCxl p { x with unacked := x.unacked.erase u })
    | none => .next s

/-- BISNP, R76: all three snoops alike: the line leaves every L1, pending shadow reductions for it merge, what the module had read of it is read again, and a read of it on its way is ordered after the snoop; BIRspI follows once the merges have completed. -/
def execBisnp (port line _kind : Nat) (s : State) : Out :=
  let x := s.cxlOf port
  if !x.hdmDb then .next s
  else
    let s := s.setCxl port { x with
      asked := x.asked.map (fun r => if r.line = line then { r with conflict := true } else r)
      ready := x.ready.filter (fun l => l ≠ line), snoops := x.snoops ++ [line], filter := SMap.del x.filter line }
    .next (mergeLine (l1DropAll s (line / 2)) line)

/-- R76: the merges into a line have completed: none waits at its home, and the expander has acknowledged them. -/
def snoopDone (s : State) (x : CxlPort) (line : Nat) : Bool :=
  !s.homeQ.any (fun r => r.dst.addr / 64 = line && (match r.src with | .shadow _ => true | _ => false)) &&
    !x.unacked.any (fun u => u.line = line && shadowGid 0 ≤ u.gid && u.gid < hostGid)
/-- R76: BIRspI is sent for the snoops whose merges have completed; the reads that they met may be answered. -/
def answerSnoops (s : State) (port : Nat) : State :=
  let x := s.cxlOf port
  let done := x.snoops.filter (snoopDone s x)
  if done.isEmpty then s
  else s.setCxl port { x with
    snoops := x.snoops.filter (fun l => !done.contains l)
    asked := x.asked.map (fun r => if done.contains r.line then { r with conflict := false } else r) }

/-! ## Replica pages (R161) -/

/-- R161: what an atomic that the switch has performed writes, from the old bytes of its answer. -/
def RepReq.atomReq (r : RepReq) (data : List Byte) : List HomeReq :=
  match r.atom with
  | none => []
  | some (a, f, n) => match f.value (leNat (sliceOf data (a.addr % 64) n)) with
    | some x => [{ cls := 3, arrival := 0, src := sourceOf r.gid, dst := a, op := .write (natLe n x), pc := 0, aged := false }]
    | none => []

/-- R114, R161: the answer of the switch to a request: what it has applied everywhere is applied at the replica on this module, in the order of the answers; a read, an atomic or a job's write takes the answer. -/
def repAnswer (s : State) (r : RepReq) (status : Nat) (data : List Byte) : State :=
  let asked := !r.write || r.atom.isSome || jobGid 0 0 ≤ r.gid
  let s := { s with reps := if asked then s.reps.map (fun x => if x = r then { x with got := some (status, data) } else x) else s.reps.erase r }
  let here (q : HomeReq) : HomeReq := { q with cls := 3, arrival := s.clock, dst := { q.dst with rep := none } }
  if status = 0 then { s with homeQ := s.homeQ ++ ((r.reqs ++ r.atomReq data).filter (fun q => q.dst.addr < remoteBase)).map here }
  else if asked then s
  else match r.reqs with
    | q :: _ => refuseReq s q 0x0F 0 0
    | [] => s

/-- FEZAL_COMPLETION, R161, R433: a completion for an outstanding request to the switch. -/
def execFezalCompletion (port : Nat) (tag : BitVec 16) (status : Nat) (data : List Byte) (s : State) : Out :=
  match s.reps.find? (fun r => r.port = port && r.tag = tag && r.got.isNone) with
  | none => .next s
  | some r => .next (repAnswer s r status data)

/-- REPLICA_ACK_TIMEOUT, R161, R439: a request not acknowledged within 100 µs, 225,000 cycles, faults with UNCORR, and the event is logged. -/
def execReplicaAckTimeout (n : Nat) (s : State) : Out :=
  match s.reps[n]? with
  | none => .next s
  | some r =>
    if r.got.isSome || s.clock < r.since + 225000 then .next s
    else .next (postEvent (repAnswer s r 3 []) 0x0D r.desc r.va.toNat)

end Sys2Proof.Machine
end

