-- ==== Sys2Proof/Machine/Frames.lean ====
section
/-! DEFINITION. The frame engines: their cards and their jobs, migration and cutover, frost, the host-map write, and the base-die registers (02_frames_granules R40-R47, R56-R65; 03_tiers_and_host R66-R72; 01_address_spaces R27-R29; 17_isa_engines_matrix R374; 21_program_host_migration R416, R417). Each exec definition is one row of the opcode table; where the row's condition does not hold, nothing changes. -/

namespace Sys2Proof.Machine

/-! ## Directory entries and placement -/

/-- R43: a holder of a frame's entry gives it up: a cluster's remap cache, or a stack's host path. -/
def dropHolder (f : Nat) (s : State) (h : Nat) : State :=
  if h < 72 then
    let c := s.clusterOf h
    s.setCluster h { c with remap := c.remap.filter (fun x => x ≠ f) }
  else
    let x := s.stackOf (h - 72)
    s.setStack (h - 72) { x with hostRemap := x.hostRemap.filter (fun y => y ≠ f) }
/-- R43: the directory stack of a frame has every copy that it has recorded invalidated. -/
def dropRemap (s : State) (f : Nat) : State :=
  let s := (SMap.get [] (s.stackOf (dirStack f)).holders f).foldl (dropHolder f) s
  let x := s.stackOf (dirStack f)
  s.setStack (dirStack f) { x with holders := SMap.set [] x.holders f [] }

/-- R43: an entry changes in one of the fields that remap caches rely on. -/
def changeDir (s : State) (f : Nat) (d : DirEntry) : State := (dropRemap s f).setDir f d

/-- R42: the 256 bits of an entry. -/
def DirEntry.word (d : DirEntry) : BitVec 256 :=
  fld 0 2 d.state.toNat ||| fld 2 3 d.fmt.toNat ||| fld 5 3 d.prevfmt.toNat ||| fld 8 1 d.pv.toNat ||| fld 9 8 d.ktag.toNat |||
    fld 17 2 d.skind.toNat ||| fld 19 7 d.snum.toNat ||| fld 26 16 d.smask.toNat ||| fld 42 16 d.frost.toNat |||
    fld 64 2 d.dkind.toNat ||| fld 66 7 d.dnum.toNat ||| fld 73 16 d.dmask.toNat ||| fld 89 3 d.dfmt.toNat |||
    fld 92 8 d.cursor.toNat

/-- A physical stack set: kind, number, mask. -/
abbrev PhysSet := BitVec 2 × BitVec 7 × BitVec 16

/-- R47: the stacks that hold a frame's 16 sub-frames. -/
def frameStacks (p : PhysSet) (f : Nat) : List Nat := (List.range 16).map (fun j => stackOfSet p.1 p.2.1 p.2.2 f j)

/-- R72: sub-frames that a stack can still give an allocation; a lost stack has none. -/
def roomOf (s : State) (stack : Nat) : Nat :=
  if s.lost.getLsbD (72 + stack) then 0 else (s.stackOf stack).freeSub - (s.stackOf stack).thawres.toNat

/-- R73: frames that a CXL port already serves; its 2 TiB hold 2^25. -/
def cxlFrames (s : State) (stack : Nat) : Nat :=
  (s.dir.filter (fun (e : Nat × DirEntry) => e.2.state ≠ 0 && e.2.fmt = 5 && e.2.snum.toNat = stack)).length

/-- R64, R72: the destination can hold a frame. -/
def hasRoom (s : State) (fmt : BitVec 3) (p : PhysSet) (f : Nat) : Bool :=
  if fmt = 5 then cxlFrames s p.2.1.toNat < 2 ^ 25
  else (frameStacks p f).all (fun st => ((frameStacks p f).filter (fun x => x = st)).length ≤ roomOf s st)

/-- R72: sub-frames are taken from their stacks, or returned. -/
def takeSubs (s : State) (l : List Nat) : State := l.foldl (fun s st => setFree s st ((s.stackOf st).freeSub - 1)) s
def giveSubs (s : State) (l : List Nat) : State := l.foldl (fun s st => setFree s st ((s.stackOf st).freeSub + 1)) s

/-- R42, R74: a set that a format can be placed on: a CXL frame's is the one stack next to a trained port. -/
def setFits (s : State) (fmt : BitVec 3) (p : PhysSet) : Bool :=
  fmt != 5 || (p.1 == 2 && [0, 3, 17, 53, 67, 70, 18, 54].contains p.2.1.toNat && (s.cxlOf (cxlPortOf p.2.1.toNat)).trained)

/-! ## Cards (R63, R374) -/

/-- R374: a field of the card's TOPS. -/
def FeJob.tops (j : FeJob) (lo w : Nat) : Nat := cardTops j.card lo w
/-- R374: FRAME. -/
def FeJob.frame (j : FeJob) : Nat := j.tops 0 30
/-- R374: RANGE. -/
def FeJob.range (j : FeJob) : Bool := j.tops 95 1 == 1
/-- R374: STACK and REG. -/
def FeJob.stack (j : FeJob) : Nat := j.tops 80 7
def FeJob.reg (j : FeJob) : Nat := j.tops 87 8
/-- R374: HMWRITE's host and host frame number. -/
def FeJob.host (j : FeJob) : Nat := j.tops 0 6
def FeJob.hfn (j : FeJob) : Nat := j.tops 6 36

/-- R416: OBJECT of the job's record. -/
def FeJob.object (j : FeJob) : Nat :=
  if j.ty = 0x28 then j.hfn else if j.ty = 0x29 || ((j.ty = 0x2A || j.ty = 0x27) && j.range) then j.stack else j.frame

/-- R65: what a job works on: a frame, a host map entry, or a stack. The manual orders the jobs of one frame; those of one stack and of one host map entry also run one at a time, in the order of their arrival (DESIGN CHOICE, log entry 51). -/
def FeJob.target (j : FeJob) : Nat × Nat :=
  if j.ty = 0x28 then (1, 2 ^ 36 * j.host + j.hfn) else if j.ty = 0x29 || ((j.ty = 0x2A || j.ty = 0x27) && j.range) then (2, j.stack)
  else (0, j.frame)

/-- R140, R142, R373: what every frame-engine card must satisfy: reserved bits 0, no barrier target, SCOPE not reserved, COMP the issuing context's, regions well formed and only those that the type names (DEDUCED, log entry 24). -/
def feHeader (s : State) (j : FeJob) : Bool :=
  let reads := j.ty = 0x28 || j.ty = 0x29
  let r0 := cardRegion j.card 0
  cardField j.card 8 5 == 0 && cardField j.card 13 2 != 3 && cardField j.card 15 1 == 0 && cardField j.card 24 8 == 0 &&
    (match s.ctxOf? j.ctx with | some c => cardField j.card 16 8 == c.ckey.toNat | none => false) &&
    r0.ok && (cardRegion j.card 1).len == 0 && (cardRegion j.card 1).rows == 0 && (cardRegion j.card 2).len == 0 &&
    (cardRegion j.card 2).rows == 0 && (r0.present == reads)

/-- R374: fields that the job does not use are 0. -/
def feUnused (j : FeJob) : Bool :=
  let z (lo w : Nat) : Bool := j.tops lo w == 0
  if j.ty = 0x20 then z 64 32 && (j.tops 33 1 == 0 || z 40 10)
  else if j.ty = 0x21 || j.ty = 0x24 then z 30 66
  else if j.ty = 0x22 then z 30 26 && z 64 32
  else if j.ty = 0x23 then z 56 40 && (j.tops 33 1 == 0 || z 40 10)
  else if j.ty = 0x25 || j.ty = 0x26 then z 30 34 && z 80 16
  else if j.ty = 0x27 then if j.range then z 30 34 && z 87 8 && j.stack < 72 else z 30 66
  else if j.ty = 0x28 then z 42 54
  else if j.ty = 0x29 then z 0 80 && z 95 1 && j.stack < 72
  else if j.range then z 0 80 && j.stack < 72 else z 30 66

/-- R374: the card breaks no limit. -/
def feOk (s : State) (j : FeJob) : Bool := feHeader s j && feUnused j

/-- R45, R374: the stack set that a card names; none when the entry is not valid. -/
def feSet (s : State) (j : FeJob) : Option PhysSet :=
  let idx := j.tops 50 6
  if j.tops 33 1 = 1 then sstEntry (SMap.get 0 (s.hostOf (j.tops 34 6)).sst idx)
  else match s.ctxOf? (j.tops 34 16) with
    | some c => sstEntry (BitVec.ofNat 64 (s.num (c.sstFn.toNat * 65536 + c.sstOff.toNat * 512 + 8 * idx) 8))
    | none => none

/-- R65, R83: the n-th job of the frame engines, when it may start or go on: no earlier job works on the same object, and no new job starts during a compute-side reset. -/
def feTurn (s : State) (n : Nat) (ty : Nat) : Option FeJob :=
  match s.feQ[n]? with
  | none => none
  | some j =>
    if j.ty ≠ ty || (s.resetting && !j.started) || (s.feQ.take n).any (fun x => x.target = j.target) then none else some j

/-- The number that stands for a frame-engine job where a group's would stand. -/
def FeJob.party (j : FeJob) : Nat := feParty (2 ^ 50 * j.target.1 + j.target.2)

/-- R63, R416: the job is over, and its completion record is posted. -/
def feDone (s : State) (n : Nat) (j : FeJob) (status mask data : Nat) : State :=
  postFe (dropLooks { s with feQ := s.feQ.eraseIdx n } (.party j.party)) status mask j.addr.toNat j.object data

/-- R63: a job whose operands are valid runs; another completes with status 3. -/
def feRun (s : State) (n ty : Nat) (k : FeJob → State) : Out :=
  match feTurn s n ty with
  | none => .next s
  | some j => .next (if feOk s j then k j else feDone s n j 3 0 0)

/-! ## Allocation, clearing (R64) -/

/-- R56, R74: the contents of a frame become 0 and its poison records go; frost sub-frames keep images of 0 units (R67); a CXL frame's lines are written at its expander. -/
def clearFrame (s : State) (f : Nat) : State :=
  let s := { s with mem := zeroBytes s.mem (65536 * f) 65536, poison := SMap.delRange s.poison (2048 * f) 2048,
                    images := (List.range 16).foldl (fun m j => SMap.alter m (subKey f j) (fun _ => 0)) s.images }
  cxlWrite (freshen s (65536 * f) 65536) engineGid (65536 * f) 65536

/-- FALLOC, R64, R72. -/
def execFalloc (n : Nat) (s : State) : Out :=
  feRun s n 0x20 (fun j =>
    let f := j.frame
    let fmt : BitVec 3 := BitVec.ofNat 3 (j.tops 30 3)
    match feSet s j with
    | none => feDone s n j 3 0 0
    | some p =>
      if 6 ≤ fmt.toNat || !setFits s fmt p then feDone s n j 3 0 0
      else if (s.dirOf f).state ≠ 0 then feDone s n j 1 0 0
      else if !hasRoom s fmt p f then feDone s n j 2 0 0
      else
        let d := { DirEntry.free with state := 1, fmt := fmt, ktag := BitVec.ofNat 8 (j.tops 56 8), skind := p.1, snum := p.2.1, smask := p.2.2 }
        let s := clearFrame (changeDir s f d) f
        feDone (if fmt = 5 then s else takeSubs s (frameStacks p f)) n j 0 0 0)

/-- R64, R72: what a frame holds of its stacks: one sub-frame for each that is not frost. -/
def heldSubs (d : DirEntry) (f : Nat) : List Nat :=
  if d.fmt = 5 then []
  else ((List.range 16).filter (fun j => !d.frost.getLsbD j)).map (fun j => stackOfSet d.skind d.snum d.smask f j)

/-- FFREE, R64. -/
def execFfree (n : Nat) (s : State) : Out :=
  feRun s n 0x21 (fun j =>
    let f := j.frame
    let d := s.dirOf f
    if d.state ≠ 1 then feDone s n j 1 0 0
    else
      let s := changeDir (clearFrame s f) f DirEntry.free
      let s := { s with images := SMap.delRange s.images (16 * f) 16, thaws := s.thaws.filter (fun t => t.frame ≠ f) }
      feDone (giveSubs s (heldSubs d f)) n j 0 0 0)

/-- FCLEAR, R64. -/
def execFclear (n : Nat) (s : State) : Out :=
  feRun s n 0x22 (fun j =>
    let f := j.frame
    if (s.dirOf f).state = 0 then feDone s n j 1 0 0
    else
      let s := clearFrame s f
      feDone (s.setDir f { s.dirOf f with ktag := BitVec.ofNat 8 (j.tops 56 8) }) n j 0 0 0)

/-! ## Migration (R58-R60) -/

/-- R56, R220: the copy of a range would meet uncorrectable data. -/
def badSource (s : State) (addr n : Nat) : Bool :=
  poisoned s addr n || ((List.range ((n + 4095) / 4096)).any (fun i => s.lost.getLsbD (72 + s.homeStack (addr + 4096 * i))))

/-- FMIGR, R59, R64, R65, R83: checks the job, thaws the frame's frost sub-frames (it then runs), and starts the copy: the destination's space is taken, STATE becomes migrating and CURSOR 0. -/
def execFmigr (n : Nat) (s : State) : Out :=
  feRun s n 0x23 (fun j =>
    let f := j.frame
    let d := s.dirOf f
    let fmt : BitVec 3 := BitVec.ofNat 3 (j.tops 30 3)
    if d.state = 2 then s
    else match feSet s j with
      | none => feDone s n j 3 0 0
      | some p =>
        if 6 ≤ fmt.toNat || !setFits s fmt p then feDone s n j 3 0 0
        else if d.state ≠ 1 then feDone s n j 1 0 0
        else if badSource s (65536 * f) 65536 then feDone s n j 5 0 0
        else if !hasRoom s fmt p f then feDone s n j 2 0 0
        else if d.frost ≠ 0 then
          (List.range 16).foldl (fun s i => startThawFor s (65536 * f + 4096 * i) false true) { s with feQ := s.feQ.set n { j with started := true } }
        else
          let d := { d with state := 2, dkind := p.1, dnum := p.2.1, dmask := p.2.2, dfmt := fmt, cursor := 0 }
          let s := changeDir { s with feQ := s.feQ.set n { j with started := true } } f d
          if fmt = 5 then s else takeSubs s (frameStacks p f))

/-- The job that migrates or frosts a frame. -/
def feOf (s : State) (ty f : Nat) : Option (Nat × FeJob) :=
  (s.feQ.zipIdx.find? (fun x => x.1.ty = ty && x.1.started && x.1.frame = f)).map (fun x => (x.2, x.1))

/-- R64: a migration that meets uncorrectable data ends; the frame stays resident at the source. -/
def abortMigration (s : State) (f : Nat) : State :=
  let d := s.dirOf f
  let s := changeDir s f { d with state := 1, dkind := 0, dnum := 0, dmask := 0, dfmt := 0, cursor := 0 }
  let s := if d.dfmt = 5 then s else giveSubs s (frameStacks (d.dkind, d.dnum, d.dmask) f)
  match feOf s 0x23 f with
  | some (n, j) => feDone s n j 5 0 0
  | none => s

/-- R74: the eight lines of a copy block of a CXL frame are read from the expander. -/
def readBlock (s : State) (addr : Nat) : Bool × State :=
  (List.range 8).foldl (fun b i => let x := cxlRead b.2 (addr + 64 * i) false; (b.1 && x.1, x.2)) (true, s)

/-- R74: the eight lines of a copy block go to the destination's expander. -/
def writeBlock (s : State) (d : DirEntry) (addr : Nat) : State :=
  if d.dfmt = 5 then (List.range 8).foldl (fun s i => cxlSend s (cxlPortOf d.dnum.toNat) engineGid (addr + 64 * i) 64) s else s

/-- R87: the class of a copy block: a host's when a host write waits for it. -/
def blockClass (s : State) (addr : Nat) : Nat :=
  if s.homeQ.any (fun r => r.cls = 0 && r.dst.addr / 512 = addr / 512 && (match r.op with | .hostRead => false | _ => true)) then 0 else 4

/-- COPY_BLOCK_COMPLETE, R52, R59, R43, R87: the block at CURSOR has been read in its turn and copied; writes that waited for it may proceed. -/
def execCopyBlockComplete (frame : Nat) (s : State) : Out :=
  let d := s.dirOf frame
  let a := 65536 * frame + 512 * d.cursor.toNat
  if d.state ≠ 2 || 128 ≤ d.cursor.toNat then .next s
  else match engineAsk s (feParty frame) (blockClass s a) a 512 with
    | (false, s) => .next s
    | (true, s) =>
      let s := sense s a 512 []
      if badSource s a 512 then .next (abortMigration s frame)
      else match readBlock s a with
        | (false, s') => .next (keepAnswers s s')
        | (true, s') => .next (writeBlock (changeDir s' frame { d with cursor := d.cursor + 1 }) d a)

/-- R60: every write mirrored to the destination has completed. -/
def mirrored (s : State) (d : DirEntry) (f : Nat) : Bool :=
  d.dfmt ≠ 5 || !(s.cxlOf (cxlPortOf d.dnum.toNat)).unacked.any (fun u => u.line / 1024 = f)

/-- R60, R78: the requests that wait for a frame when it cuts over have been sent to its source, which forwards them. -/
def forwardReqs (s : State) (frame : Nat) : State :=
  { s with homeQ := s.homeQ.map (fun r => if r.dst.addr / 65536 = frame && !r.looks then { r with forwarded := true } else r) }

/-- CUTOVER, R52, R58, R60: the destination, which was encoded anew, becomes the only home. D* and CURSOR keep their values (DEDUCED, log entry 25). -/
def execCutover (frame : Nat) (s : State) : Out :=
  let d := s.dirOf frame
  match feOf s 0x23 frame with
  | none => .next s
  | some (n, j) =>
    if d.state ≠ 2 || d.cursor ≠ 128 || !mirrored s d frame then .next s
    else
      let d' := { d with state := 1, skind := d.dkind, snum := d.dnum, smask := d.dmask, fmt := d.dfmt,
                         prevfmt := if d.dfmt = d.fmt then d.prevfmt else d.fmt, pv := if d.dfmt = d.fmt then d.pv else true }
      let old := SMap.get [] s.releases frame ++ heldSubs d frame
      let s := changeDir (reencode s (65536 * frame) 65536) frame d'
      .next (feDone (forwardReqs { s with releases := SMap.put s.releases frame old } frame) n j 0 0 0)

/-- SOURCE_RELEASE, R60: no copy of the old entry is left and no request is in flight: the source's DRAM is released. -/
def execSourceRelease (frame : Nat) (s : State) : Out :=
  match SMap.find? s.releases frame with
  | none => .next s
  | some l =>
    if s.homeQ.any (fun r => r.dst.addr / 65536 = frame && r.forwarded) then .next s
    else .next (giveSubs { s with releases := SMap.del s.releases frame } l)

/-- FSETTLE, R58, R64. -/
def execFsettle (n : Nat) (s : State) : Out :=
  feRun s n 0x24 (fun j =>
    let d := s.dirOf j.frame
    if d.state ≠ 1 then feDone s n j 1 0 0
    else feDone (changeDir s j.frame { d with pv := false }) n j 0 0 0)

/-! ## Frost (R66-R69) -/

/-- R67: units of the image of a sub-frame; an all-zero one needs none. -/
def imageUnits (s : State) (f j : Nat) : Nat :=
  let a := 65536 * f + 4096 * j
  if (s.mem.any (fun e => a ≤ e.1 && e.1 < a + 4096)) then Config.frostUnits (subKey f j) (s.bytes a 4096) else 0

/-- R67, R68: a named sub-frame that FFROST frosts, unless a write cancels it. -/
def frostable (s : State) (d : DirEntry) (f j : Nat) : Bool :=
  !d.frost.getLsbD j && !badSource s (65536 * f + 4096 * j) 4096 && imageUnits s f j ≤ 7

/-- R56, R68: the named sub-frames that are not frost are read. -/
def frostRead (s : State) (d : DirEntry) (f mask : Nat) : State :=
  (List.range 16).foldl (fun s i => if mask.testBit i && !d.frost.getLsbD i then sense s (65536 * f + 4096 * i) 4096 [] else s) s

/-- FFROST, R66-R68, R87: reads the named sub-frames in its turn and starts their images; its record follows the last. -/
def execFfrost (n : Nat) (s : State) : Out :=
  feRun s n 0x25 (fun j =>
    let f := j.frame
    let d := s.dirOf f
    if j.started then s
    else if d.state ≠ 1 then feDone s n j 1 0 0
    else if d.fmt = 5 then feDone s n j 3 0 0
    else match engineAsk s j.party 4 (65536 * f) 65536 with
      | (false, s) => s
      | (true, s) =>
        let s := frostRead s d f (j.tops 64 16)
        let subs := (List.range 16).filter (fun i => j.tops (64 + i) 1 == 1 && frostable s d f i)
        if subs.isEmpty then feDone s n j 0 0 0
        else { s with feQ := s.feQ.set n { j with started := true },
                      frosting := s.frosting ++ subs.map (fun i => { frame := f, sub := i, units := imageUnits s f i, cancelled := false }) })

/-- R68: FFROST's record is posted when no sub-frame of the frame is being frosted. -/
def frostEnd (s : State) (f : Nat) : State :=
  match feOf s 0x25 f with
  | none => s
  | some (n, j) => if s.frosting.any (fun x => x.frame = f) then s else feDone s n j 0 j.mask.toNat 0

/-- SUBFRAME_FROSTED, R68, R72: one directory update sets the FROST bit and releases the uncompressed copy; a cancelled image is discarded. -/
def execSubframeFrosted (frame sub : Nat) (s : State) : Out :=
  match s.frosting.find? (fun x => x.frame = frame && x.sub = sub) with
  | none => .next s
  | some x =>
    let s := { s with frosting := s.frosting.erase x }
    if x.cancelled then .next (frostEnd s frame)
    else
      let d := s.dirOf frame
      let stack := s.homeStack (65536 * frame + 4096 * sub)
      let bit := BitVec.twoPow 16 sub
      let s := reencode s (65536 * frame + 4096 * sub) 4096
      let s := { s.setDir frame { d with frost := d.frost ||| bit } with
                 images := SMap.put s.images (subKey frame sub) x.units,
                 feQ := s.feQ.map (fun j => if j.ty = 0x25 && j.started && j.frame = frame then { j with mask := j.mask ||| bit } else j) }
      .next (frostEnd (setFree s stack ((s.stackOf stack).freeSub + 1)) frame)

/-- FTHAW, R64, R68, R69: starts the thaws of the named frost sub-frames; its record follows the last. -/
def execFthaw (n : Nat) (s : State) : Out :=
  feRun s n 0x26 (fun j =>
    let f := j.frame
    let d := s.dirOf f
    if j.started then (if d.frost &&& j.mask = 0 then feDone s n j 0 j.mask.toNat 0 else s)
    else if d.state = 0 then feDone s n j 1 0 0
    else
      let m := BitVec.ofNat 16 (j.tops 64 16) &&& d.frost
      if m = 0 then feDone s n j 0 0 0
      else (List.range 16).foldl (fun s i => if m.getLsbD i then startThawFor s (65536 * f + 4096 * i) false true else s)
        { s with feQ := s.feQ.set n { j with started := true, mask := m } })

/-! ## Scrubbing (R56, R64) -/

/-- R56, R64, R69: one granule is read: a corrected one is rewritten, an uncorrectable one is logged (R439) and left. A frost sub-frame's image is checked, not thawed. -/
def scrubGranule (g : Nat) (s : State) (a : Nat) : State :=
  let frost := (s.dirOf (a / 65536)).frost.getLsbD (a / 4096 % 16)
  let image := a % 4096 < 512 * SMap.get 0 s.images (a / 4096)
  let log (s : State) : State := postEvent s 0x0E (a / 65536) (a / 4096 % 16 + 16 * (a % 4096 / g))
  if frost && !image then s
  else match s.decodeGranule a with
    | none => log (if frost then s else sense s a g [])
    | some (_, k) =>
      let s := if poisoned s a g then log s else s
      if k = 0 || frost then s else reencode (sense s a g []) a g

/-- R64: the granules of a range of frame space are read. -/
def scrubRange (s : State) (addr n : Nat) : State :=
  if s.upsets.isEmpty && s.poison.isEmpty then s
  else (granulesOf (granuleBytes (s.fmtAt addr)) addr n).foldl (scrubGranule (granuleBytes (s.fmtAt addr))) s

/-- FSCRUB, R64, R87: reads the granules of a frame, or of sub-frames of a stack (DESIGN CHOICE, log entry 5), in its turn. -/
def execFscrub (n : Nat) (s : State) : Out :=
  feRun s n 0x27 (fun j =>
    let subs := if j.range then (List.range (j.tops 64 16)).map (fun i => (4096 * (Config.placeIndex j.stack (j.frame + i) % 2 ^ 34), 4096))
      else [(65536 * j.frame, 65536)]
    if subs.all (fun x => homeClear s 4 x.1 x.2) then feDone (subs.foldl (fun s x => scrubRange s x.1 x.2) s) n j 0 0 0 else s)

/-! ## The host map (R27-R29) -/

/-- R374: reads read region 0 of a card as a copy job would. -/
def feRead (s : State) (j : FeJob) : JRes × List Byte × State :=
  let who : Actor := { id := j.party, src := .party j.party, cls := 3, cl := clusterOfCore j.core, ctx := j.ctx, sup := j.sup, self := noAlias }
  match j.rd.bind (startRegion s j.ctx) with
  | none => (.fault 3 0 0 0 0 0, [], s)
  | some r =>
    if (s.ctxOf? j.ctx).isNone then (.fault 3 0 0 0 0 0, [], s)
    else r.pieces.foldl (fun x p => if x.1 ≠ .ok then x
      else match jobRead x.2.2 who r.place p.1 p.2 with
        | (.ok, bs, s) => (.ok, x.2.1 ++ bs, s)
        | (f, _, s) => (f, [], s)) (.ok, [], s)

/-- R374: a job that needs a value runs with it: a fault of the read is status 3, uncorrectable data status 5; a read that waits is tried again. -/
def feWith (s : State) (n : Nat) (j : FeJob) (k : List Byte → State → State) : State :=
  match feRead s j with
  | (.ok, bs, s') => k bs s'
  | (.wait, _, s') => keepAnswers s s'
  | (.error, _, s') => feDone s' n j 5 0 0
  | (_, _, s') => feDone s' n j 3 0 0

/-- R12, R28: the key of the compartment that a host is bound to. -/
def hostKey (s : State) (host : Nat) : Option Nat :=
  s.worlds.findSome? (fun (e : Nat × WorldDesc) =>
    if e.2.modelHost = some host then some e.2.modelKey else if e.2.dataHost = some host then some e.2.dataKey else none)

/-- R28: an entry that the job accepts. -/
def hmEntryOk (s : State) (host : Nat) (e : DWord) : Bool :=
  fieldNat e 22 5 == 0 && fieldNat e 57 7 == 0 && !(e.getLsbD 2 && !e.getLsbD 1) && fieldNat e 12 3 < 6 &&
    (if e.getLsbD 3 then hostKey s host == some (fieldNat e 4 8) else fieldNat e 4 8 == 0)

/-- HMWRITE, R28, R29, R64: reads and checks the entry; the write of the replicas begins. -/
def execHmwrite (n : Nat) (s : State) : Out :=
  feRun s n 0x28 (fun j =>
    if j.started then s
    else if (cardRegion j.card 0).bytes ≠ 8 then feDone s n j 3 0 0
    else feWith s n j (fun bs s =>
      let e : DWord := BitVec.ofNat 64 (leNat bs)
      if !hmEntryOk s j.host e then feDone s n j 4 0 0
      else { s with feQ := s.feQ.set n { j with started := true },
                    hmWrites := s.hmWrites ++ [{ host := j.host, hfn := j.hfn, entry := e, addr := j.addr, done := [] }] }))

/-- HMWRITE_COMPLETE, R9, R29: the replicas of all 72 stacks come to hold the entry; the write is over when every access translated with the old one has completed. -/
def execHmwriteComplete (host hfn : Nat) (s : State) : Out :=
  match s.hmWrites.find? (fun w => w.host = host && w.hfn = hfn) with
  | none => .next s
  | some w =>
    let busy := s.homeQ.any (fun r => match r.src with
      | .host h => !h.peer && h.host = host && h.addr.toNat / 65536 = hfn
      | _ => false)
    if w.done.length < 72 then .next { s with hmWrites := s.hmWrites.map (fun x => if x = w then { w with done := List.range 72 } else x) }
    else if busy then .next s
    else
      let m := s.hostOf host
      let s := { s.setHost host { m with map := SMap.set 0 m.map hfn w.entry } with hmWrites := s.hmWrites.erase w }
      .next (match s.feQ.zipIdx.find? (fun x => x.1.ty = 0x28 && x.1.started && x.1.host = host && x.1.hfn = hfn) with
        | some x => feDone s x.2 x.1 0 0 0
        | none => s)

/-! ## Base-die registers (R62, R64, R72) -/

/-- R72: FROSTCTL. -/
def Stack.frostctl (x : Stack) : DWord :=
  fld 0 16 x.thawres.toNat ||| fld 16 16 x.lowmark.toNat ||| fld 32 1 x.lowev.toNat ||| fld 39 25 x.freeSub

/-- R64, R374: an SREGW of a register of a width in bytes. -/
def sregw (s : State) (n width : Nat) (mine : Nat → Bool) (k : FeJob → DWord → State → State) : Out :=
  match feTurn s n 0x29 with
  | none => .next s
  | some j =>
    if !mine j.reg then .next s
    else if !feOk s j || 1 < j.reg || (cardRegion j.card 0).bytes < width then .next (feDone s n j 3 0 0)
    else .next (feWith s n j (fun bs s => feDone (k j (BitVec.ofNat 64 (leNat (bs.take width))) s) n j 0 0 0))

/-- SREGW_MCIDLE, R62, R64: reserved bits stay 0. A register number that names none completes with status 3 here. -/
def execSregwMcidle (n : Nat) (s : State) : Out :=
  sregw s n 4 (fun r => r ≠ 1) (fun j v s => s.setStack j.stack { s.stackOf j.stack with mcidle := BitVec.ofNat 32 (fieldNat v 0 8) })

/-- SREGW_FROSTCTL, R64, R72: FREE and reserved bits ignore the write. The manual posts the low-space event when FREE falls below LOWMARK; the model posts it also when a write leaves FREE below a raised LOWMARK, or enables the event while it is below (DESIGN CHOICE, log entry 51). -/
def execSregwFrostctl (n : Nat) (s : State) : Out :=
  sregw s n 8 (fun r => r = 1) (fun j v s =>
    let x := { s.stackOf j.stack with thawres := field v 0 16, lowmark := field v 16 16, lowev := v.getLsbD 32 }
    lowSpace (s.setStack j.stack x) j.stack)

/-- FREAD, R64, R416: a directory entry, or a register in DATA's low 64 bits. -/
def execFread (n : Nat) (s : State) : Out :=
  feRun s n 0x2A (fun j =>
    if !j.range then feDone s n j 0 0 (s.dirOf j.frame).word.toNat
    else if j.reg = 0 then feDone s n j 0 0 (s.stackOf j.stack).mcidle.toNat
    else if j.reg = 1 then feDone s n j 0 0 (s.stackOf j.stack).frostctl.toNat
    else feDone s n j 3 0 0)

end Sys2Proof.Machine
end

