-- ==== Sys2Proof/Machine/HostPath.lean ====
section
/-! DEFINITION. The host path: transactions of hosts and peers as their ports receive them, host misses, windows and link training (01_address_spaces R27-R30; 03_tiers_and_host R78-R83; 24_module_links R432-R435, R440). Each exec definition is one row of the opcode table; where the row's condition does not hold, nothing changes. -/

namespace Sys2Proof.Machine

/-- R439: KIND 0x0A, the port. -/
def linkEvent (s : State) (port : Nat) : State := postEvent s 0x0A port 0

/-- R433: what a transaction asks its home to do. -/
def hostOp (k : HostKind) (r : HostReq) : HomeOp :=
  match k with
  | .read => .hostRead
  | .write => .hostWrite (BitVec.allOnes 64) r.data
  | .partialWrite => .hostWrite r.mask r.data
  | .atomic => .hostAtomic r.data

/-- R433: the payload of an atomic keeps its form. -/
def hostAtomicOk (p : List Byte) : Bool :=
  let kind := (p.getD 0 0).toNat
  let zero (lo n : Nat) : Bool := ((p.drop lo).take n).all (· == 0)
  kind ≤ 2 && (p.getD 1 0).toNat < 8 && zero 2 6 && (kind = 2 || zero 16 8) && zero 24 40

/-- R432: the translating stack of a Fezal port. -/
def portStack (port : Nat) : Nat := [0, 1, 3, 4, 5, 17, 41, 65, 65, 70, 68, 66, 66, 42, 18, 6].getD port 0

/-- R29: during a host-map write the replica of a stack may come to hold the new entry, and keeps it. -/
def takeReplica (s : State) (stack host hfn : Nat) : State :=
  { s with hmWrites := s.hmWrites.map (fun w =>
      if w.host = host && w.hfn = hfn && !w.done.contains stack && Config.replicaNew s.clock then { w with done := w.done ++ [stack] } else w) }

/-- R9, R29: the entry that the replica of a stack holds. -/
def hostEntry (s : State) (stack host hfn : Nat) : DWord :=
  let old := SMap.get 0 (s.hostOf host).map hfn
  match s.hmWrites.find? (fun w => w.host = host && w.hfn = hfn) with
  | some w => if w.done.contains stack then w.entry else old
  | none => old

/-- R27: the entry of a host frame that is mapped, in the replica of a stack. -/
def hostMapped (s : State) (stack host hfn : Nat) : Option DWord :=
  let m := s.hostOf host
  let e := hostEntry s stack host hfn
  if m.hmbase ≤ hfn && hfn < m.hmbase + m.hmcount && e.getLsbD 0 then some e else none

/-- R30: the entry permits the access. -/
def hostPermits (k : HostKind) (e : DWord) : Bool :=
  match k with
  | .read => e.getLsbD 1
  | .write | .partialWrite => e.getLsbD 2
  | .atomic => e.getLsbD 1 && e.getLsbD 2

/-- R43: the host path of a stack holds a frame's directory entry. -/
def hostRemapFill (s : State) (stack f : Nat) : State :=
  let x := s.stackOf stack
  if x.hostRemap.contains f then s else recordHolder (s.setStack stack { x with hostRemap := x.hostRemap ++ [f] }) f (72 + stack)

/-- R29, R30, R43, R78: a mapped host access is checked, translated, and sent to its home. -/
def hostGo (s : State) (k : HostKind) (h : HostReq) (arrival : Nat) (e : DWord) : State :=
  if !hostPermits k e then mismatchEvent (complete s h.port h.tag 2 []) h
  else
    let a : GAddr := { place := .glob, addr := fieldNat e 27 30 * 65536 + h.addr.toNat % 65536 / 64 * 64, key := field e 4 8,
                       gc := field e 12 3, cp := 1, rep := none, va := 0, ctx := 0 }
    homeArrive (hostRemapFill s (portStack h.port) (a.addr / 65536)) h
      { cls := 0, arrival := arrival, src := .host h, dst := a, op := hostOp k h, pc := 0, aged := false }

/-! ## Misses (R81) -/

/-- R81: KIND of a ring entry. -/
def missKind : HostKind → Nat
  | .read => 0
  | .write | .partialWrite => 1
  | .atomic => 2

/-- R81: a ring entry. -/
def missWord (k : HostKind) (h : HostReq) (joined arrival : Nat) : BitVec 512 :=
  fld 0 6 h.host ||| fld 6 2 (missKind k) ||| fld 8 4 h.port ||| fld 16 16 h.tag.toNat ||| fld 32 16 joined |||
    fld 64 52 h.addr.toNat ||| fld 128 64 arrival ||| fld 192 64 (arrival + 1800)

/-- R81, R241: the host-fault queue can take another entry: a valid ring with room, its slot in an allocated frame tagged 0. -/
def hfqOpen (s : State) : Bool :=
  let r := s.hfq
  let d := s.dirOf (r.slotAddr 32 / 65536)
  4 ≤ r.logn && r.logn ≤ 20 && r.used + r.waiting.length < 2 ^ r.logn && d.state != 0 && d.ktag == 0

/-- R81, R241: posts an entry of 32 bytes; a slot in a frost sub-frame waits for its thaw. -/
def hfqPost (s : State) (x : BitVec 512) : State :=
  let r := s.hfq
  if r.waiting.isEmpty && ringReady s r 32 then ringWrite s .hfq (natLe 32 x.toNat)
  else startThaw { s with hfq := { r with waiting := r.waiting ++ [x] } } (r.slotAddr 32) false

/-- R81: JOINED of an entry that software has not consumed. -/
def hfqJoined (s : State) (m : HostMiss) (n : Nat) : State :=
  let r := s.hfq
  let behind := (m.index - r.tail).toNat
  if r.used ≤ behind then
    let i := (m.index - r.head).toNat
    { s with hfq := { r with waiting := r.waiting.mapIdx (fun k x => if k = i then (x &&& ~~~(fld 32 16 65535)) ||| fld 32 16 n else x) } }
  else storeFrame s kernelGid (r.base + 32 * (m.index.toNat % 2 ^ r.logn) + 4) (natLe 2 n)

/-- R81, R83: a host access that misses: RESET during a compute-side reset; it joins the pending entry of its frame, posts one, or completes with UNMAPPED. -/
def hostMiss (s : State) (k : HostKind) (h : HostReq) : State :=
  let hfn := h.addr.toNat / 65536
  if s.resetting then complete s h.port h.tag 4 []
  else match s.misses.find? (fun m => m.host = h.host && m.hfn = hfn) with
    | some m =>
      let n := min 65535 (m.joined + 1)
      let m' := { m with joined := n, heldReqs := m.heldReqs ++ [(k, h, s.clock)] }
      hfqJoined { s with misses := s.misses.map (fun x => if x = m then m' else x) } m n
    | none =>
      if !hfqOpen s then postEvent (complete s h.port h.tag 1 []) 0x06 hfn 0
      else
        let m : HostMiss := { host := h.host, hfn := hfn, arrival := s.clock, deadline := s.clock + 1800, joined := 0,
                              index := s.hfq.head + BitVec.ofNat 32 s.hfq.waiting.length, heldReqs := [(k, h, s.clock)] }
        hfqPost { s with misses := s.misses ++ [m] } (missWord k h 0 s.clock)

/-- R29, R30, R81: translates a host access. -/
def hostTranslate (s : State) (k : HostKind) (h : HostReq) : State :=
  let stack := portStack h.port
  let s := takeReplica s stack h.host (h.addr.toNat / 65536)
  match hostMapped s stack h.host (h.addr.toNat / 65536) with
  | some e => hostGo s k h s.clock e
  | none => hostMiss s k h

/-- R435: a peer's access: its address is a frame-space address of this module, its key its own. -/
def peerGo (s : State) (k : HostKind) (h : HostReq) : State :=
  if 2 ^ 46 ≤ h.addr.toNat then complete s h.port h.tag 2 []
  else
    let a : GAddr := { place := .glob, addr := h.addr.toNat / 64 * 64, key := h.key, gc := 0, cp := 1, rep := none, va := 0, ctx := 0 }
    homeArrive (hostRemapFill s (portStack h.port) (a.addr / 65536)) h
      { cls := 3, arrival := s.clock, src := .host h, dst := a, op := hostOp k h, pc := 0, aged := false }

/-- R434: the tag is of the request's kind, free, and below its window. -/
def tagOk (p : Port) (k : HostKind) (tag : BitVec 16) : Bool :=
  let read := match k with | .read => true | _ => false
  tag.getLsbD 15 == !read && fieldNat tag 0 15 < (if read then p.rdwin else p.wrwin) && !p.tags.contains tag

/-- R433-R435, R440: a transaction arrives at a port. Only a port in RUN carries traffic. One that breaks a window is not performed and gets no completion; a malformed atomic completes with MAPERR; both log a link event. -/
def hostIn (k : HostKind) (h : HostReq) (s : State) : Out :=
  let p := s.portOf h.port
  if 16 ≤ h.port || s.mgmt.life.getD h.port 0 ≠ 2 then .next s
  else if !tagOk p k h.tag then .next (linkEvent s h.port)
  else
    let s := s.setPort h.port { p with tags := p.tags ++ [h.tag] }
    let bad := match k with | .atomic => !hostAtomicOk h.data | _ => false
    if bad then .next (linkEvent (complete s h.port h.tag 2 []) h.port)
    else if h.peer then .next (peerGo s k h)
    else .next (hostTranslate s k h)

/-- HOST_READ, R78. -/
def execHostRead (r : HostReq) (s : State) : Out := hostIn .read r s
/-- HOST_WRITE, R78. -/
def execHostWrite (r : HostReq) (s : State) : Out := hostIn .write r s
/-- HOST_PARTIAL_WRITE, R433. -/
def execHostPartialWrite (r : HostReq) (s : State) : Out := hostIn .partialWrite r s
/-- HOST_ATOMIC, R433. -/
def execHostAtomic (r : HostReq) (s : State) : Out := hostIn .atomic r s

/-- R81: the held requests of a miss for which the replica at their receiving stack holds a valid entry are translated again and go on; those that stay held. -/
def releaseMiss (s : State) (m : HostMiss) : State × List (HostKind × HostReq × Nat) :=
  let s := m.heldReqs.foldl (fun s x => takeReplica s (portStack x.2.1.port) m.host m.hfn) s
  let entry (x : HostKind × HostReq × Nat) : Option DWord := hostMapped s (portStack x.2.1.port) m.host m.hfn
  let rest := m.heldReqs.filter (fun x => (entry x).isNone)
  let misses := if rest.isEmpty then s.misses.erase m else s.misses.map (fun x => if x = m then { m with heldReqs := rest } else x)
  (m.heldReqs.foldl (fun s' x => match entry x with
    | some e => hostGo s' x.1 x.2.1 x.2.2 e
    | none => s') { s with misses := misses }, rest)

/-- HELD_MISS_RETRANSLATE, R81: some replica holds a valid entry. -/
def execHeldMissRetranslate (host hfn : Nat) (s : State) : Out :=
  match s.misses.find? (fun m => m.host = host && m.hfn = hfn) with
  | none => .next s
  | some m => .next (releaseMiss s m).1

/-- HOST_FAULT_DEADLINE, R81, R439: at DEADLINE what is still held completes with UNMAPPED; an entry that has become valid wins. -/
def execHostFaultDeadline (host hfn : Nat) (s : State) : Out :=
  match s.misses.find? (fun m => m.host = host && m.hfn = hfn) with
  | none => .next s
  | some m =>
    if s.clock < m.deadline then .next s
    else
      let (s, rest) := releaseMiss s m
      if rest.isEmpty then .next s
      else
        let s := { s with misses := s.misses.filter (fun x => !(x.host = host && x.hfn = hfn)) }
        .next (postEvent (rest.foldl (fun s x => complete s x.2.1.port x.2.1.tag 1 []) s) 0x05 hfn 0)

/-! ## Windows (R434) -/

/-- WINDOW_UPDATE, R434, R440: a message of a port that carries traffic; tags outstanding above a lowered window stay. -/
def execWindowUpdate (port : Nat) (rd wr : BitVec 16) (s : State) : Out :=
  if 16 ≤ port || s.mgmt.life.getD port 0 ≠ 2 || 32768 < rd.toNat || 32768 < wr.toNat then .next s
  else .next (s.setPort port { s.portOf port with rdwin := rd.toNat, wrwin := wr.toNat })

/-- LINK_TRAINING, R434, R439, R440: a port in CONFIG_OPEN trains and its windows are granted; a retraining changes no window and logs a link event. -/
def execLinkTraining (port : Nat) (rd wr : BitVec 16) (s : State) : Out :=
  if 16 ≤ port then .next s
  else if (s.portOf port).trained then .next (linkEvent s port)
  else if s.mgmt.life.getD port 0 ≠ 0 || 32768 < rd.toNat || 32768 < wr.toNat then .next s
  else .next (s.setPort port { s.portOf port with trained := true, rdwin := rd.toNat, wrwin := wr.toNat })

end Sys2Proof.Machine
end

