-- ==== Sys2Proof/Machine/JobRun.lean ====
section
/-! DEFINITION. What a task scheduler does by itself: jobs start, go on and complete, and deliver queue entries (06_engines_memory R143-R151, R159; 17_isa_engines_matrix R375-R377; 03_tiers_and_host R84, R85). Each exec definition is one row of the opcode table; where the row's condition does not hold, nothing changes. -/

namespace Sys2Proof.Machine

/-- R102: a region of a card, present or not, as its job starts. -/
def startPart (s : State) (ctx : Nat) : Option Region → Option (Option Region)
  | none => some none
  | some r => (startRegion s ctx r).map some
/-- R102: a job as it starts: its scratchpad regions are resolved; none when one of them exceeds the context's partition. -/
def startJob (s : State) (j : Job) : Option Job :=
  match startPart s j.ctx j.rd0, startPart s j.ctx j.rd1, startPart s j.ctx j.wr with
  | some a, some b, some w => some { j with rd0 := a, rd1 := b, wr := w }
  | _, _, _ => none

/-- R102, R144, R146: a job of a type starts, or goes on after a wait or pfrep. -/
def jobStep (sched slot ty : Nat) (s : State) (run : State → Job → State) : Out :=
  let j := s.job sched slot
  let s1 := askAgain s (.party (jobGid sched slot))
  if cardType j.card = ty && jobReady s sched slot j then
    match if j.state == .pending then startJob s j else some j with
    | some j => .next (run s1 j)
    | none => .next (s.setJob sched slot (j.run.finish 1))
  else .next s

/-- COPY, R375. -/
def execCopy (sched slot : Nat) (s : State) : Out := jobStep sched slot 0x01 s (fun s => runCopy s sched slot)
/-- FILL, R375. -/
def execFill (sched slot : Nat) (s : State) : Out := jobStep sched slot 0x02 s (fun s => runFill s sched slot)
/-- GATHER, R375. -/
def execGather (sched slot : Nat) (s : State) : Out := jobStep sched slot 0x03 s (fun s j => runGather s sched slot j false)
/-- SCATTER, R375. -/
def execScatter (sched slot : Nat) (s : State) : Out := jobStep sched slot 0x04 s (fun s j => runGather s sched slot j true)
/-- COLLECTIVE, R377, R438: `peers` are the other members' parts that have come. -/
def execCollective (sched slot : Nat) (peers : List CollPeer) (s : State) : Out :=
  jobStep sched slot 0x05 s (fun s j => runCollective s sched slot j peers)
/-- GATE_JOB, R159. -/
def execGateJob (sched slot : Nat) (s : State) : Out := jobStep sched slot 0x06 s (fun s => runGate s sched slot)
/-- SEAL, R84. -/
def execSeal (sched slot : Nat) (s : State) : Out := jobStep sched slot 0x10 s (fun s => runSeal s sched slot)
/-- UNSEAL, R85. -/
def execUnseal (sched slot : Nat) (s : State) : Out := jobStep sched slot 0x11 s (fun s => runUnseal s sched slot)

/-- JOB_READS_PERFORMED, R143: every read of the job has been performed. -/
def execJobReadsPerformed (sched slot : Nat) (s : State) : Out :=
  let j := s.job sched slot
  if j.state == .running && 1 ≤ j.phase && !j.readsDone then .next (s.setJob sched slot { j with readsDone := true }) else .next s


/-- JOB_COMPLETE, R144, R147: the job has made every access and delivered every entry; its completion is a release at its scope. -/
def execJobComplete (sched slot : Nat) (s : State) : Out :=
  let j := s.job sched slot
  if j.state ≠ .running || j.phase ≠ 3 || !j.out.isEmpty || !jobWritesDone s sched slot then .next s
  else match jobReleased s j with
    | (false, s) => .next s
    | (true, s) => .next (s.setJob sched slot (j.end j.status))

/-- R376, R377: the port that takes a job's entries. -/
def jobPort (j : Job) : Nat := if cardType j.card = 0x05 then 3 else if j.engine = 4 then 1 else 2

/-- GATHER_ENTRY_DELIVERY, R154, R376, R377: the oldest held entry goes to the issuing group's register bound to the job's port, when it has room. A group stopped in PREEMPT or RESTORE takes none. -/
def execGatherEntryDelivery (sched slot : Nat) (s : State) : Out :=
  let j := s.job sched slot
  match j.out, jobGroup s j with
  | e :: rest, some (gid, g) =>
    if g.portsStill then .next s
    else match g.portReg (jobPort j) with
      | none => .next s
      | some q =>
        let r := g.queues.getD q QReg.init
        if 32 ≤ r.fifo.length then .next s
        else .next ((s.setGroup gid { g with queues := g.queues.set q { r with fifo := r.fifo ++ [e] } }).setJob sched slot
          { j with out := rest })
  | _, _ => .next s

end Sys2Proof.Machine
end

