-- ==== Sys2Proof/Machine/Lxec.lean ====
section
/-! DEFINITION. lxec: checks lane-computed short words and runs them as classes in lowest-lane order (15_isa_data_group_control R331-R334; 12_opcode_map R268). -/

namespace Sys2Proof.Machine

open Form

/-- R258: the meaning of a short arithmetic word; none for a memory word and for what is no short form. -/
def shortMeaning : Instr → Option (State → Out)
  | .iaddShort o => some (execIaddShort o) | .isubShort o => some (execIsubShort o) | .imulShort o => some (execImulShort o)
  | .imulhShort o => some (execImulhShort o) | .iminShort o => some (execIminShort o) | .imaxShort o => some (execImaxShort o)
  | .andShort o => some (execAndShort o) | .orShort o => some (execOrShort o) | .xorShort o => some (execXorShort o)
  | .andnShort o => some (execAndnShort o) | .shlShort o => some (execShlShort o) | .shrShort o => some (execShrShort o)
  | .sraShort o => some (execSraShort o) | .popcShort o => some (execPopcShort o) | .clzShort o => some (execClzShort o)
  | .brevShort o => some (execBrevShort o) | .iaddImm8Short o => some (execIaddImm8Short o)
  | .shlImmShort o => some (execShlImmShort o) | .shrImmShort o => some (execShrImmShort o)
  | .sraImmShort o => some (execSraImmShort o) | .faddF32Short o => some (execFaddF32Short o)
  | .fsubF32Short o => some (execFsubF32Short o) | .fmulF32Short o => some (execFmulF32Short o)
  | .fminF32Short o => some (execFminF32Short o) | .fmaxF32Short o => some (execFmaxF32Short o)
  | .faddF64Short o => some (execFaddF64Short o) | .fsubF64Short o => some (execFsubF64Short o)
  | .fmulF64Short o => some (execFmulF64Short o) | .faddF16x2Short o => some (execFaddF16x2Short o)
  | .fmulF16x2Short o => some (execFmulF16x2Short o) | .faddBf16x2Short o => some (execFaddBf16x2Short o)
  | .fmulBf16x2Short o => some (execFmulBf16x2Short o) | .movShort o => some (execMovShort o)
  | _ => none

/-- R345: a short memory word: whether it stores, its space and its size code. -/
def shortMemKind : Instr → Option (Bool × Nat × Nat × SOps)
  | .ldGB32Short o => some (false, 1, 2, o) | .ldSB32Short o => some (false, 2, 2, o) | .stGB32Short o => some (true, 1, 2, o)
  | .stSB32Short o => some (true, 2, 2, o) | .ldGB64Short o => some (false, 1, 3, o) | .stGB64Short o => some (true, 1, 3, o)
  | .ldSB64Short o => some (false, 2, 3, o) | .stSB64Short o => some (true, 2, 3, o)
  | _ => none

/-- R258: op6 0x11-0x14 read B as a literal, 0x0E-0x10 and 0x28 do not use it. -/
def bIsVector (op : Nat) : Bool := (1 ≤ op && op ≤ 0x0D) || (0x18 ≤ op && op ≤ 0x23)

/-- A latch code. -/
def isLatch (c : BitVec 8) : Bool := 0xF0 ≤ c.toNat && c.toNat ≤ 0xF3

/-- R268: the instruction a lane's word stands for, when lxec accepts it. -/
def lxAccept (w : Word) : Option Instr :=
  match w.getLsbD 31, decodeShort w with
  | false, .ok i => match i.op6? with
    | some (op, o) =>
      let mem := shortMemKind i
      let load := match mem with | some (st, _) => !st | none => false
      if (o.nw && !load) || isLatch o.d || isLatch o.a || (bIsVector op.toNat && isLatch o.b) then none else some i
    | none => none
  | _, _ => none

/-- R268, R332: the operands whose registers must be in bounds. -/
def lxOpds (i : Instr) : List Opd :=
  match i.op6? with
  | none => []
  | some (op, o) =>
    let f64w := 0x1D ≤ op.toNat && op.toNat ≤ 0x1F
    match shortMemKind i with
    | some (st, sp, z, o) => [zOpd (!st) z o.d, .vs (sp == 1) o.a]
    | none => [.vd f64w false o.d, .vs f64w o.a] ++ (if bIsVector op.toNat then [.vs f64w o.b] else [])

/-- R332: a short load or store whose address in the lane is misaligned. -/
def lxMisaligned (g : Group) (c : Clause) (lane : Nat) (i : Instr) : Bool :=
  match shortMemKind i with
  | some (_, sp, z, o) => misaligned (shortAddrs g c o sp (zBytes z) (BitVec.twoPow 64 lane)) (zBytes z) != 0
  | none => false

/-- R332: the classes: lanes with bit-identical words, in ascending order of their lowest lane. -/
def lxClasses (l : List (Nat × Word)) : List (Word × DWord) :=
  l.foldl (fun acc e =>
    if acc.any (fun k => k.1 = e.2) then acc.map (fun k => if k.1 = e.2 then (k.1, k.2 ||| BitVec.twoPow 64 e.1) else k)
    else acc ++ [(e.2, BitVec.twoPow 64 e.1)]) []

/-- A run of classes: what has been reached, the faults by access kind, and the lanes of classes that must be tried again. -/
structure LxRun where
  s     : State
  bad   : List (Nat × List LaneFault)
  again : DWord
  deriving DecidableEq, Repr

/-- R333, R334: runs one class, unless a class before it waits. -/
def lxClass (gid : Nat) (c : Clause) (r : LxRun) (k : Word × DWord) : LxRun :=
  if r.again ≠ 0 then { r with again := r.again ||| k.2 }
  else match lxAccept k.1, SMap.find? r.s.groups gid with
    | some i, some g =>
      let c' : Clause := { c with words := [k.1, 0], replay := some (c.idx, k.2) }
      match shortMemKind i with
      | some (st, sp, z, o) =>
        let d := if st then shortStore r.s gid g c o sp z k.2 else shortLoad r.s gid g c o sp z k.2
        if d.stall then { r with s := d.s.setGroup gid g, again := k.2 }
        else { r with s := d.s.setGroup gid d.g, bad := if d.bad.isEmpty then r.bad else r.bad ++ [(if st then 1 else 0, d.bad)] }
      | none => match shortMeaning i with
        | some f => match f (r.s.setGroup gid { g with clause := some c' }) with
          | .next s => { r with s := s.modGroup gid (fun g => { g with clause := some c }) }
          | _ => r
        | none => r
    | _, _ => r

/-- LXEC, R331-R334. While a class waits, those that have run are done, and the rest and the faulted lanes are tried again. -/
def execLxec (o : Ops) (s : State) : Out :=
  groupWide s (fun g c => active g c o) [.vs false o.a] (fun gid g c =>
    let ws := (lanesOf (active g c o)).map (fun i => (i, vec32 g c i o.a))
    let trap (cause reason : Nat) (bad : List (Nat × Word)) (info : Word) : Out :=
      .next (trapHere s gid g c cause reason info (maskOf (bad.map (·.1))))
    let ill := ws.filter (fun e => (lxAccept e.2).isNone)
    match ill with
    | e :: _ => trap 0x05 0 ill e.2
    | [] =>
      let out := ws.filter (fun e => match lxAccept e.2 with
        | some i => (boundsOf g (BitVec.twoPow 64 e.1) (lxOpds i)).isSome
        | none => false)
      match out with
      | e :: _ => trap 0x05 1 out e.2
      | [] =>
        let mis := ws.filter (fun e => match lxAccept e.2 with
          | some i => lxMisaligned g c e.1 i
          | none => false)
        if !mis.isEmpty then trap 0x0E 0 mis 0
        else
          let r := (lxClasses ws).foldl (lxClass gid c) { s := s, bad := [], again := 0 }
          let lanes := r.bad.foldl (fun m b => m ||| faultMask b.2) 0
          match SMap.find? r.s.groups gid with
          | none => .next r.s
          | some g =>
            if r.again ≠ 0 then
              .next (r.s.setGroup gid { g with clause := some { c with replay := some (c.idx, r.again ||| lanes) } })
            else if r.bad.isEmpty then .next (retire r.s gid g c none)
            else
              let (seq, s1) := takeSeq r.s
              let s1 := r.bad.foldl (fun s b => postFaults s (faultRecs gid g b.1 c.ipc seq b.2 [])) s1
              .next (park s1 gid g c lanes seq))

end Sys2Proof.Machine
end

