-- ==== Sys2Proof/Machine/Manage.lean ====
section
/-! DEFINITION. The module as a whole: loss and warm reset of a die, resets, management commands, lifecycle, counters, power, tenant worlds (00_scope R7; 01_address_spaces R12; 03_tiers_and_host R83; 06_engines_memory R158; 09_traps_faults R219-R222; 24_module_links R436-R445). Each exec definition is one row of the opcode table; where the row's condition does not hold, nothing changes. -/

namespace Sys2Proof.Machine

/-! ## Loss of a die (R219-R221) -/

/-- R5, R404: a core on compute die d: one of its 16 compute cores or its die service core. -/
def onDie (core d : Nat) : Bool := core / 16 = d && core < 1152 || core = 1280 + d

/-- R219: every group of the contexts that have touched a die holds a DIELOSS. -/
def holdDieloss (s : State) (bit reason : Nat) : State :=
  let hit (c : Nat) : Bool := match s.ctxOf? c with | some x => x.touched.getLsbD bit | none => false
  let h : Held := { cause := 0x10, reason := reason, info := BitVec.ofNat 32 bit, mask := 0, cpc := 0, ipc := 0, idx := 0 }
  { s with groups := s.groups.map (fun (e : Nat × Group) => (e.1, if hit e.2.ctx then { e.2 with held := e.2.held ++ [h] } else e.2)) }

/-- R220: the jobs of a scheduler's slots that a test picks end with a status. -/
def endJobs (s : State) (sched status : Nat) (pick : Job → Bool) : State :=
  { s with scheds := SMap.alter s.scheds sched (fun m => m.map (fun (e : Nat × Job) =>
      (e.1, if e.2.live && pick e.2 then e.2.end status else e.2))) }

/-- R219-R221: what stood on a compute die ceases: groups, teams, queues, sequencers, L1s, TLBs, scratchpad, remap cache, shadow reductions, its scheduler; the tree bits of its cores stay (DESIGN CHOICE, log entry 26). -/
def dropDie (s : State) (d : Nat) : State :=
  let gone (gid : Nat) : Bool := onDie (coreOfGid gid) d
  let keep (e : Nat × CoreSt) : Nat × CoreSt :=
    (e.1, if onDie e.1 d then { CoreSt.init with part := e.2.part, arrived := e.2.arrived, seen := e.2.seen } else e.2)
  let s := { s with
    groups := s.groups.filter (fun (e : Nat × Group) => !gone e.1), orphans := s.orphans.filter (fun o => !gone o.gid),
    teams := s.teams.filter (fun (e : Nat × Team) => e.2.core / 16 ≠ d), seqs := s.seqs.filter (fun (e : Nat × Seq) => e.1 / 64 ≠ d),
    cores := (s.cores.map keep).filter (fun e => e.2 != CoreSt.init), clusters := SMap.del s.clusters d, scheds := SMap.del s.scheds d,
    tlbinvs := s.tlbinvs.filter (fun t => !gone t.gid), reps := s.reps.filter (fun r => r.write && !r.reqs.isEmpty || !gone r.gid) }
  endJobs s 255 1 (fun j => j.cluster = d)

/-- DIE_LOST, R7, R219, R220, R439. -/
def execDieLost (bit : Nat) (s : State) : Out :=
  if 144 ≤ bit || s.lost.getLsbD bit then .next s
  else
    let s := holdDieloss { s with lost := s.lost ||| BitVec.twoPow 144 bit } bit 0
    let s := if bit < 72 then dropDie s bit else s
    .next (checkPlaceable (postEvent s 0x08 bit 0))

/-- R44, R221: the stack that keeps the checkpoint of a die's kernel. -/
def checkpointStack (die : Nat) : Nat := (dieSet die).headD 0

/-- R221: the die kernel comes back from its last checkpoint (from its firmware entry where there is none, or where the stack that kept it is lost), and takes again, in their order, the messages that have come since. -/
def restoreKernel (s : State) (die : Nat) : State :=
  let core := 1280 + die
  let k := SMap.get DieKernel.init s.dieKernels die
  let kept := if s.lost.getLsbD (72 + checkpointStack die) then none else k.checkpoint
  let s := match kept with
    | some (g, m) => (s.setGroup (64 * core) g).setCore core { s.coreOf core with msg := m }
    | none => s.setGroup (64 * core) (Group.service core)
  if kept.isNone then s
  else k.msgs.foldl (fun s m => takeMessage s core m) { s with dieKernels := SMap.put s.dieKernels die { k with replay := k.msgs } }

/-- WARM_RESET, R219, R221: the contexts that have touched the die take DIELOSS with REASON 1; the die starts anew, its die kernel from its checkpoint, with every message since then replayed in order. -/
def execWarmReset (die : Nat) (s : State) : Out :=
  if 72 ≤ die || s.lost.getLsbD die then .next s
  else
    let s := dropDie (holdDieloss s die 1) die
    .next (if s.resetting then s else checkPlaceable (restoreKernel s die))

/-! ## Resets (R83, R222, R440) -/

/-- MODULE_RESET, R3, R440: everything takes its reset value; what has not arrived yet arrives later, and a lost die stays lost. -/
def execModuleReset (s : State) : Out :=
  let on (e : Nat × Group) : Bool := { State.reset with lost := s.lost }.coreEnabled (coreOfGid e.1)
  .next { State.reset with inputs := s.inputs, lost := s.lost, groups := serviceGroups.filter on, ctxs := [(0, Ctx.kernelOn s.lost)] }

/-- R83, R222: a compute-side reset begins: cores, contexts, kernels, TLBs, L1s, scratchpads, shared memory, shadow reductions and jobs are discarded, stores not yet performed are lost, and held misses complete with RESET. The base dies, the hosts' accesses and the frame engines go on. R148 gives the slots' generations a value at module reset alone; here, as when a die is lost or reset, the slots start anew at generation 0 (DESIGN CHOICE, log entry 52). -/
def computeReset (s : State) : State :=
  let host (r : HomeReq) : Bool := r.ofEngine || (match r.src with | .host _ => true | _ => false)
  let s := (s.misses.flatMap (·.heldReqs)).foldl (fun s x => complete s x.2.1.port x.2.1.tag 4 []) { s with misses := [] }
  { s with
    groups := [], orphans := [], teams := [], seqs := [], cores := [], clusters := [], ctxs := [], scheds := [], trees := 0,
    tlbinvs := [], cur := none, curSeq := none, homeQ := s.homeQ.filter host, reps := s.reps.filter (fun r => feParty 0 ≤ r.gid),
    cxl := s.cxl.map (fun (e : Nat × CxlPort) => (e.1, { e.2 with ready := [], filter := [] })), resetting := true }

/-- COMPUTE_RESET_END, R12, R222: the resident kernel restarts from firmware, and context 0 is live again. -/
def execComputeResetEnd (s : State) : Out :=
  if !s.resetting then .next s
  else .next { s with resetting := false, ctxs := [(0, Ctx.kernelOn s.lost)],
                      groups := serviceGroups.filter (fun (e : Nat × Group) => s.coreEnabled (coreOfGid e.1)) }

/-- THERMAL_TRIP, R439, R444: OBJECT names the die or stack as the touched mask does. -/
def execThermalTrip (bit : Nat) (s : State) : Out :=
  if 144 ≤ bit then .next s else .next (postEvent (computeReset s) 0x0C bit 0)

/-! ## Management commands (R436-R444) -/

/-- R436: the answers. -/
def stOk : Nat := 0
def stDenied : Nat := 1
def stInvalid : Nat := 2
def stBusy : Nat := 3

/-- R437: the resident kernel's number among the masters (DESIGN CHOICE, log entry 27). -/
def kernelMaster : Nat := 81

/-- R436: an answer. -/
def State.reply (s : State) (master status : Nat) (data : List Byte) : State :=
  { s with mgmt := { s.mgmt with replies := s.mgmt.replies ++ [{ master := master, status := status, data := data }] } }
/-- R436: a command whose issuer the table does not allow is DENIED and changes nothing. -/
def command (s : State) (master : Nat) (allowed : Bool) (run : State) : Out :=
  if kernelMaster < master then .next s else if allowed then .next run else .next (s.reply master stDenied [])
/-- R437: the master is the owner. -/
def isOwner (s : State) (master : Nat) : Bool := s.mgmt.owner == some master

/-- R442: two bits per interface. -/
def lifeBytes (s : State) : List Byte := natLe 16 (s.mgmt.life.foldr (fun x n => x.toNat + 4 * n) 0)
/-- R442: a free list of bytes, cut to its length. -/
def freeBytes (l : List Byte) (n : Nat) : List Byte := (List.range n).map (fun i => l.getD i 0)
/-- R441: the counters of a context as QUERY returns them: exact in a service context, else the last window's, in units of 2^20. -/
def queryCounter (s : State) (ctx : Nat) : Nat :=
  match s.ctxOf? ctx with
  | some c => if c.kind = 0 then SMap.get 0 s.mgmt.counters ctx else SMap.get 0 s.mgmt.snapshot ctx / 2 ^ 20 * 2 ^ 20
  | none => SMap.get 0 s.mgmt.snapshot ctx / 2 ^ 20 * 2 ^ 20

/-- QUERY, R436, R441: identity, enabled-core map, lifecycle states, and the counter of a context (DESIGN CHOICE, log entry 28). -/
def execQuery (master ctx : Nat) (s : State) : Out :=
  command s master true (s.reply master stOk
    (freeBytes Config.identity 16 ++ natLe 144 Config.enabledCores.toNat ++ lifeBytes s ++ natLe 8 (queryCounter s ctx)))

/-- R442: bytes 0 to 431 of a report. -/
def reportBody (s : State) (nonce : BitVec 384) : List Byte :=
  natLe 48 nonce.toNat ++ freeBytes Config.identity 208 ++ lifeBytes s ++ natLe 160 Config.enabledCores.toNat

/-- MEASURE, R436, R442. -/
def execMeasure (master : Nat) (nonce : BitVec 384) (s : State) : Out :=
  command s master true (s.reply master stOk (reportBody s nonce ++ freeBytes (Config.signature (reportBody s nonce)) 96))

/-- R437: the CLAIM of a master succeeds: nobody owns the module, or the owner has named it within the last second. -/
def mayClaim (s : State) (master : Nat) : Bool :=
  match s.mgmt.owner, s.mgmt.handover with
  | none, _ => true
  | some _, some (m, till) => m = master && s.clock ≤ till
  | some _, none => false

/-- CLAIM, R436, R437. -/
def execClaim (master : Nat) (s : State) : Out :=
  command s master (mayClaim s master) ({ s with mgmt := { s.mgmt with owner := some master, handover := none } }.reply master stOk [])

/-- HANDOVER, R436, R437, R445: one second is 2,250,000,000 cycles. -/
def execHandover (master heir : Nat) (s : State) : Out :=
  command s master (isOwner s master)
    (if 80 < heir then s.reply master stInvalid []
     else { s with mgmt := { s.mgmt with handover := some (heir, s.clock + 2250000000) } }.reply master stOk [])

/-- HANDOVER_EXPIRY, R437: ownership stays where it was. -/
def execHandoverExpiry (s : State) : Out :=
  match s.mgmt.handover with
  | none => .next s
  | some (_, till) => if s.clock ≤ till then .next s else .next { s with mgmt := { s.mgmt with handover := none } }

/-- RECLAIM, R436, R437: the board-management port takes ownership at once. -/
def execReclaim (master : Nat) (s : State) : Out :=
  command s master (master = 0) ({ s with mgmt := { s.mgmt with owner := some 0, handover := none } }.reply master stOk [])

/-- LIFECYCLE, R436, R440: advances one interface; debug accesses in flight are aborted before it completes. -/
def execLifecycle (master iface : Nat) (s : State) : Out :=
  command s master (isOwner s master)
    (match s.mgmt.life[iface]? with
     | none => s.reply master stInvalid []
     | some x =>
       if 2 ≤ x.toNat then s.reply master stInvalid []
       else { s with mgmt := { s.mgmt with life := s.mgmt.life.set iface (x + 1), debug := [] } }.reply master stOk [])

/-- CRESET, R83, R222, R436: BUSY while a compute-side reset is in progress. -/
def execCreset (master : Nat) (s : State) : Out :=
  command s master (isOwner s master || master = kernelMaster)
    (if s.resetting then s.reply master stBusy [] else (computeReset s).reply master stOk [])

/-- R438: a registration within its limits, for a live context. -/
def collOk (s : State) (c : CollGroup) : Bool :=
  c.num < 256 && (s.ctxOf? c.ctx).isSome && 2 ≤ c.members.length && c.members.length ≤ 64 && c.rank < c.members.length && c.port < 16

/-- SETCOLL, R436, R438: registers a group, or removes it and ends its running jobs with ERROR. -/
def execSetcoll (master : Nat) (reg : Bool) (c : CollGroup) (s : State) : Out :=
  command s master (master = kernelMaster)
    (if reg then (if collOk s c then { s with colls := SMap.put s.colls c.num c }.reply master stOk [] else s.reply master stInvalid [])
     else if (SMap.find? s.colls c.num).isNone then s.reply master stInvalid []
     else (endJobs { s with colls := SMap.del s.colls c.num } 255 1
       (fun j => j.state ≠ .pending && cardTops j.card 0 8 = c.num)).reply master stOk [])

/-- POWERCAP, R436, R444. -/
def execPowercap (master watts : Nat) (s : State) : Out :=
  command s master (isOwner s master)
    (if watts < 10000 || 21000 < watts then s.reply master stInvalid []
     else { s with mgmt := { s.mgmt with cap := watts } }.reply master stOk [])

/-- ARITHMETIC_CLOCK_LOWERING, R444: one step of 75 MHz while the power is above the cap; the last of 2.25 GHz is kept. -/
def execArithmeticClockLowering (watts : Nat) (s : State) : Out :=
  if watts ≤ s.mgmt.cap || 29 ≤ s.mgmt.steps then .next s
  else .next { s with mgmt := { s.mgmt with steps := s.mgmt.steps + 1 } }

/-- COUNTER_WINDOW_BOUNDARY, R441. -/
def execCounterWindowBoundary (s : State) : Out := .next { s with mgmt := { s.mgmt with snapshot := s.mgmt.counters } }

/-- DEBUG_ACCESS, R440: taken only while every interface is in CONFIG_OPEN. -/
def execDebugAccess (addr : Nat) (s : State) : Out :=
  if s.mgmt.life.all (· == 0) then .next { s with mgmt := { s.mgmt with debug := s.mgmt.debug ++ [addr] } } else .next s

/-! ## Tenant worlds (R12, R158) -/

/-- R158: a gate descriptor that the base dies accept for a world. -/
def gateAccepted (d : WorldDesc) (g : GateDesc) : Bool :=
  g.signed && g.gid < 16 && g.world = d.num && g.resv = 0 && g.resvHigh = 0 && g.slen.toNat % 64 = 0 && g.dctxn < 65536 &&
    ((g.dir = 1 && g.skey = d.modelKey && g.dkey = d.dataKey) || (g.dir = 2 && g.skey = d.dataKey && g.dkey = d.modelKey))

/-- R158: gates of distinct numbers, as they are accepted. -/
def acceptGates (d : WorldDesc) : List GateDesc :=
  d.gates.foldl (fun l g => if gateAccepted d g && l.all (fun x => x.gid ≠ g.gid) then l ++ [g] else l) []

/-- R12: keys and hosts of a live world. -/
def worldKeys (d : WorldDesc) : List Nat := [d.modelKey, d.dataKey]
def worldHosts (d : WorldDesc) : List Nat := d.modelHost.toList ++ d.dataHost.toList

/-- R12, R28, R440: a world may be created: both owners have signed, every interface is in RUN, its number is free, its keys are two that no live world has, and its hosts are bound to no compartment. -/
def worldOk (s : State) (d : WorldDesc) : Bool :=
  let live (p : WorldDesc → Bool) : Bool := s.worlds.any (fun (e : Nat × WorldDesc) => p e.2)
  d.signed && s.mgmt.life.all (· == 2) && 1 ≤ d.num && d.num < 256 && (SMap.find? s.worlds d.num).isNone &&
    (worldKeys d).all (fun k => 1 ≤ k && k < 256 && !live (fun w => (worldKeys w).contains k)) && d.modelKey ≠ d.dataKey &&
    (worldHosts d).all (fun h => h < 64 && !live (fun w => (worldHosts w).contains h)) && (worldHosts d).Nodup

/-- WORLD_CREATE, R12, R158, R440. -/
def execWorldCreate (d : WorldDesc) (s : State) : Out :=
  if worldOk s d then .next { s with worlds := SMap.put s.worlds d.num { d with gates := acceptGates d } } else .next s

/-- WORLD_END, R12, R28: the bindings of its hosts and its key identifiers are free again; its stored versions go with its eviction keys. -/
def execWorldEnd (world : Nat) (s : State) : Out :=
  .next { s with worlds := SMap.del s.worlds world, evict := SMap.delRange s.evict (256 * world) 256,
                 versions := s.versions.filter (fun v => v.world.toNat ≠ world) }

end Sys2Proof.Machine
end

