-- ==== Sys2Proof/Machine/Dispatch.lean ====
section
/-! DEFINITION. One arm for each instruction: a direct call of its meaning, or a refusal by name. -/

namespace Sys2Proof.Machine

/-- The meaning of an instruction or event in a state. -/
def exec (i : Instr) (s : State) : Host.Outcome State Fault Refusal :=
  match i with
  | .iaddShort o => Sys2Proof.Machine.execIaddShort o s
  | .isubShort o => Sys2Proof.Machine.execIsubShort o s
  | .imulShort o => Sys2Proof.Machine.execImulShort o s
  | .imulhShort o => Sys2Proof.Machine.execImulhShort o s
  | .iminShort o => Sys2Proof.Machine.execIminShort o s
  | .imaxShort o => Sys2Proof.Machine.execImaxShort o s
  | .andShort o => Sys2Proof.Machine.execAndShort o s
  | .orShort o => Sys2Proof.Machine.execOrShort o s
  | .xorShort o => Sys2Proof.Machine.execXorShort o s
  | .andnShort o => Sys2Proof.Machine.execAndnShort o s
  | .shlShort o => Sys2Proof.Machine.execShlShort o s
  | .shrShort o => Sys2Proof.Machine.execShrShort o s
  | .sraShort o => Sys2Proof.Machine.execSraShort o s
  | .popcShort o => Sys2Proof.Machine.execPopcShort o s
  | .clzShort o => Sys2Proof.Machine.execClzShort o s
  | .brevShort o => Sys2Proof.Machine.execBrevShort o s
  | .iaddImm8Short o => Sys2Proof.Machine.execIaddImm8Short o s
  | .shlImmShort o => Sys2Proof.Machine.execShlImmShort o s
  | .shrImmShort o => Sys2Proof.Machine.execShrImmShort o s
  | .sraImmShort o => Sys2Proof.Machine.execSraImmShort o s
  | .faddF32Short o => Sys2Proof.Machine.execFaddF32Short o s
  | .fsubF32Short o => Sys2Proof.Machine.execFsubF32Short o s
  | .fmulF32Short o => Sys2Proof.Machine.execFmulF32Short o s
  | .fminF32Short o => Sys2Proof.Machine.execFminF32Short o s
  | .fmaxF32Short o => Sys2Proof.Machine.execFmaxF32Short o s
  | .faddF64Short o => Sys2Proof.Machine.execFaddF64Short o s
  | .fsubF64Short o => Sys2Proof.Machine.execFsubF64Short o s
  | .fmulF64Short o => Sys2Proof.Machine.execFmulF64Short o s
  | .faddF16x2Short o => Sys2Proof.Machine.execFaddF16x2Short o s
  | .fmulF16x2Short o => Sys2Proof.Machine.execFmulF16x2Short o s
  | .faddBf16x2Short o => Sys2Proof.Machine.execFaddBf16x2Short o s
  | .fmulBf16x2Short o => Sys2Proof.Machine.execFmulBf16x2Short o s
  | .movShort o => Sys2Proof.Machine.execMovShort o s
  | .ldGB32Short o => Sys2Proof.Machine.execLdGB32Short o s
  | .ldSB32Short o => Sys2Proof.Machine.execLdSB32Short o s
  | .stGB32Short o => Sys2Proof.Machine.execStGB32Short o s
  | .stSB32Short o => Sys2Proof.Machine.execStSB32Short o s
  | .ldGB64Short o => Sys2Proof.Machine.execLdGB64Short o s
  | .stGB64Short o => Sys2Proof.Machine.execStGB64Short o s
  | .ldSB64Short o => Sys2Proof.Machine.execLdSB64Short o s
  | .stSB64Short o => Sys2Proof.Machine.execStSB64Short o s
  | .nopShort => Sys2Proof.Machine.execNopShort s
  | .iadd o => Sys2Proof.Machine.execIadd o s
  | .isub o => Sys2Proof.Machine.execIsub o s
  | .ineg o => Sys2Proof.Machine.execIneg o s
  | .iaddc o => Sys2Proof.Machine.execIaddc o s
  | .isubb o => Sys2Proof.Machine.execIsubb o s
  | .iadds o => Sys2Proof.Machine.execIadds o s
  | .isubs o => Sys2Proof.Machine.execIsubs o s
  | .iabs o => Sys2Proof.Machine.execIabs o s
  | .imin o => Sys2Proof.Machine.execImin o s
  | .imax o => Sys2Proof.Machine.execImax o s
  | .imul o => Sys2Proof.Machine.execImul o s
  | .imulh o => Sys2Proof.Machine.execImulh o s
  | .imad o => Sys2Proof.Machine.execImad o s
  | .imadw o => Sys2Proof.Machine.execImadw o s
  | .ilea o => Sys2Proof.Machine.execIlea o s
  | .icmp o => Sys2Proof.Machine.execIcmp o s
  | .isel o => Sys2Proof.Machine.execIsel o s
  | .land o => Sys2Proof.Machine.execLand o s
  | .lor o => Sys2Proof.Machine.execLor o s
  | .lxor o => Sys2Proof.Machine.execLxor o s
  | .landn o => Sys2Proof.Machine.execLandn o s
  | .lorn o => Sys2Proof.Machine.execLorn o s
  | .shl o => Sys2Proof.Machine.execShl o s
  | .shr o => Sys2Proof.Machine.execShr o s
  | .sra o => Sys2Proof.Machine.execSra o s
  | .rotl o => Sys2Proof.Machine.execRotl o s
  | .fshl o => Sys2Proof.Machine.execFshl o s
  | .fshr o => Sys2Proof.Machine.execFshr o s
  | .bfe o => Sys2Proof.Machine.execBfe o s
  | .bfi o => Sys2Proof.Machine.execBfi o s
  | .popc o => Sys2Proof.Machine.execPopc o s
  | .clz o => Sys2Proof.Machine.execClz o s
  | .brev o => Sys2Proof.Machine.execBrev o s
  | .bmix o => Sys2Proof.Machine.execBmix o s
  | .fadd o => Sys2Proof.Machine.execFadd o s
  | .fsub o => Sys2Proof.Machine.execFsub o s
  | .fmul o => Sys2Proof.Machine.execFmul o s
  | .ffma o => Sys2Proof.Machine.execFfma o s
  | .fmin o => Sys2Proof.Machine.execFmin o s
  | .fmax o => Sys2Proof.Machine.execFmax o s
  | .fdiv o => Sys2Proof.Machine.execFdiv o s
  | .fsqrt o => Sys2Proof.Machine.execFsqrt o s
  | .frcp o => Sys2Proof.Machine.execFrcp o s
  | .frsq o => Sys2Proof.Machine.execFrsq o s
  | .fex2 o => Sys2Proof.Machine.execFex2 o s
  | .flg2 o => Sys2Proof.Machine.execFlg2 o s
  | .fsin o => Sys2Proof.Machine.execFsin o s
  | .fcos o => Sys2Proof.Machine.execFcos o s
  | .fcmp o => Sys2Proof.Machine.execFcmp o s
  | .fclass o => Sys2Proof.Machine.execFclass o s
  | .fgexp o => Sys2Proof.Machine.execFgexp o s
  | .fsign o => Sys2Proof.Machine.execFsign o s
  | .frnd o => Sys2Proof.Machine.execFrnd o s
  | .fcvt o => Sys2Proof.Machine.execFcvt o s
  | .f2i o => Sys2Proof.Machine.execF2i o s
  | .i2f o => Sys2Proof.Machine.execI2f o s
  | .fscal o => Sys2Proof.Machine.execFscal o s
  | .vdot8 o => Sys2Proof.Machine.execVdot8 o s
  | .vdot4 o => Sys2Proof.Machine.execVdot4 o s
  | .vdot8i o => Sys2Proof.Machine.execVdot8i o s
  | .vdot4i o => Sys2Proof.Machine.execVdot4i o s
  | .vpack o => Sys2Proof.Machine.execVpack o s
  | .vunpk o => Sys2Proof.Machine.execVunpk o s
  | .vamax o => Sys2Proof.Machine.execVamax o s
  | .vscal o => Sys2Proof.Machine.execVscal o s
  | .mov o => Sys2Proof.Machine.execMov o s
  | .movi o => Sys2Proof.Machine.execMovi o s
  | .movh o => Sys2Proof.Machine.execMovh o s
  | .s2v o => Sys2Proof.Machine.execS2v o s
  | .v2s o => Sys2Proof.Machine.execV2s o s
  | .idxset o => Sys2Proof.Machine.execIdxset o s
  | .idxadd o => Sys2Proof.Machine.execIdxadd o s
  | .rgn o => Sys2Proof.Machine.execRgn o s
  | .plog o => Sys2Proof.Machine.execPlog o s
  | .pmov o => Sys2Proof.Machine.execPmov o s
  | .pmask o => Sys2Proof.Machine.execPmask o s
  | .csrr o => Sys2Proof.Machine.execCsrr o s
  | .csrw o => Sys2Proof.Machine.execCsrw o s
  | .sadd o => Sys2Proof.Machine.execSadd o s
  | .ssub o => Sys2Proof.Machine.execSsub o s
  | .smul o => Sys2Proof.Machine.execSmul o s
  | .smin o => Sys2Proof.Machine.execSmin o s
  | .smax o => Sys2Proof.Machine.execSmax o s
  | .sand o => Sys2Proof.Machine.execSand o s
  | .sor o => Sys2Proof.Machine.execSor o s
  | .sxor o => Sys2Proof.Machine.execSxor o s
  | .sshl o => Sys2Proof.Machine.execSshl o s
  | .sshr o => Sys2Proof.Machine.execSshr o s
  | .scmp o => Sys2Proof.Machine.execScmp o s
  | .smovi o => Sys2Proof.Machine.execSmovi o s
  | .vote o => Sys2Proof.Machine.execVote o s
  | .xlane o => Sys2Proof.Machine.execXlane o s
  | .redux o => Sys2Proof.Machine.execRedux o s
  | .scan o => Sys2Proof.Machine.execScan o s
  | .matchLanes o => Sys2Proof.Machine.execMatchLanes o s
  | .bcast o => Sys2Proof.Machine.execBcast o s
  | .lxec o => Sys2Proof.Machine.execLxec o s
  | .bra o => Sys2Proof.Machine.execBra o s
  | .brc o => Sys2Proof.Machine.execBrc o s
  | .brs o => Sys2Proof.Machine.execBrs o s
  | .brx o => Sys2Proof.Machine.execBrx o s
  | .call o => Sys2Proof.Machine.execCall o s
  | .callx o => Sys2Proof.Machine.execCallx o s
  | .retLanes o => Sys2Proof.Machine.execRetLanes o s
  | .exitLanes o => Sys2Proof.Machine.execExitLanes o s
  | .trapLanes o => Sys2Proof.Machine.execTrapLanes o s
  | .syscall o => Sys2Proof.Machine.execSyscall o s
  | .brkpt o => Sys2Proof.Machine.execBrkpt o s
  | .yieldHint o => Sys2Proof.Machine.execYieldHint o s
  | .nopLong o => Sys2Proof.Machine.execNopLong o s
  | .ld o => Sys2Proof.Machine.execLd o s
  | .st o => Sys2Proof.Machine.execSt o s
  | .lda o => Sys2Proof.Machine.execLda o s
  | .stl o => Sys2Proof.Machine.execStl o s
  | .atom o => Sys2Proof.Machine.execAtom o s
  | .acas o => Sys2Proof.Machine.execAcas o s
  | .red o => Sys2Proof.Machine.execRed o s
  | .fence o => Sys2Proof.Machine.execFence o s
  | .ldsh o => Sys2Proof.Machine.execLdsh o s
  | .pref o => Sys2Proof.Machine.execPref o s
  | .waddr o => Sys2Proof.Machine.execWaddr o s
  | .paddr o => Sys2Proof.Machine.execPaddr o s
  | .sld o => Sys2Proof.Machine.execSld o s
  | .sst o => Sys2Proof.Machine.execSst o s
  | .barr o => Sys2Proof.Machine.execBarr o s
  | .barw o => Sys2Proof.Machine.execBarw o s
  | .bwait o => Sys2Proof.Machine.execBwait o s
  | .btest o => Sys2Proof.Machine.execBtest o s
  | .bexp o => Sys2Proof.Machine.execBexp o s
  | .gbar o => Sys2Proof.Machine.execGbar o s
  | .gbwait o => Sys2Proof.Machine.execGbwait o s
  | .mpost o => Sys2Proof.Machine.execMpost o s
  | .mpostNb o => Sys2Proof.Machine.execMpostNb o s
  | .mtake o => Sys2Proof.Machine.execMtake o s
  | .mtry o => Sys2Proof.Machine.execMtry o s
  | .mbind o => Sys2Proof.Machine.execMbind o s
  | .job o => Sys2Proof.Machine.execJob o s
  | .tcpy o => Sys2Proof.Machine.execTcpy o s
  | .tsto o => Sys2Proof.Machine.execTsto o s
  | .tgat o => Sys2Proof.Machine.execTgat o s
  | .tsct o => Sys2Proof.Machine.execTsct o s
  | .tcol o => Sys2Proof.Machine.execTcol o s
  | .fwait o => Sys2Proof.Machine.execFwait o s
  | .ftest o => Sys2Proof.Machine.execFtest o s
  | .fcanc o => Sys2Proof.Machine.execFcanc o s
  | .qbind o => Sys2Proof.Machine.execQbind o s
  | .qstatStatus o => Sys2Proof.Machine.execQstatStatus o s
  | .qstatPop o => Sys2Proof.Machine.execQstatPop o s
  | .qstatPush o => Sys2Proof.Machine.execQstatPush o s
  | .mstart o => Sys2Proof.Machine.execMstart o s
  | .mstat o => Sys2Proof.Machine.execMstat o s
  | .sret o => Sys2Proof.Machine.execSret o s
  | .tlbinvPage o => Sys2Proof.Machine.execTlbinvPage o s
  | .tlbinvCtx o => Sys2Proof.Machine.execTlbinvCtx o s
  | .tlbinvGlobal o => Sys2Proof.Machine.execTlbinvGlobal o s
  | .pfrep o => Sys2Proof.Machine.execPfrep o s
  | .pfcan o => Sys2Proof.Machine.execPfcan o s
  | .msave o => Sys2Proof.Machine.execMsave o s
  | .mrest o => Sys2Proof.Machine.execMrest o s
  | .gate o => Sys2Proof.Machine.execGate o s
  | .ctxldLoad o => Sys2Proof.Machine.execCtxldLoad o s
  | .ctxldTeardown o => Sys2Proof.Machine.execCtxldTeardown o s
  | .wfi o => Sys2Proof.Machine.execWfi o s
  | .sipiWake o => Sys2Proof.Machine.execSipiWake o s
  | .sipiPreempt o => Sys2Proof.Machine.execSipiPreempt o s
  | .sipiJoin o => Sys2Proof.Machine.execSipiJoin o s
  | .sipiLeave o => Sys2Proof.Machine.execSipiLeave o s
  | .sipiRetire o => Sys2Proof.Machine.execSipiRetire o s
  | .sipiUnretire o => Sys2Proof.Machine.execSipiUnretire o s
  | .mnop => Sys2Proof.Machine.execMnop s
  | .mma o => Sys2Proof.Machine.execMma o s
  | .mmas o => Sys2Proof.Machine.execMmas o s
  | .mconv o => Sys2Proof.Machine.execMconv o s
  | .mzero acc n1 => Sys2Proof.Machine.execMzero acc n1 s
  | .mld o => Sys2Proof.Machine.execMld o s
  | .mst o => Sys2Proof.Machine.execMst o s
  | .mdrain o => Sys2Proof.Machine.execMdrain o s
  | .mshp slot off => Sys2Proof.Machine.execMshp slot off s
  | .mbar obj => Sys2Proof.Machine.execMbar obj s
  | .mbwt obj => Sys2Proof.Machine.execMbwt obj s
  | .mloop o => Sys2Proof.Machine.execMloop o s
  | .mjmp off => Sys2Proof.Machine.execMjmp off s
  | .mend => Sys2Proof.Machine.execMend s
  | .mstreamUnassignedWord w => Sys2Proof.Machine.execMstreamUnassignedWord w s
  | .kinstInstall o => Sys2Proof.Machine.execKinstInstall o s
  | .lmaskWrite o => Sys2Proof.Machine.execLmaskWrite o s
  | .gsaveWrite o => Sys2Proof.Machine.execGsaveWrite o s
  | .sppdataWrite o => Sys2Proof.Machine.execSppdataWrite o s
  | .srseedWrite o => Sys2Proof.Machine.execSrseedWrite o s
  | .fpcsrWrite o => Sys2Proof.Machine.execFpcsrWrite o s
  | .qlevelWrite o => Sys2Proof.Machine.execQlevelWrite o s
  | .ringPointerWrite o => Sys2Proof.Machine.execRingPointerWrite o s
  | .ringTailWrite o => Sys2Proof.Machine.execRingTailWrite o s
  | .ringHeadRead o => Sys2Proof.Machine.execRingHeadRead o s
  | .tgtselWrite o => Sys2Proof.Machine.execTgtselWrite o s
  | .waitstViewWrite o => Sys2Proof.Machine.execWaitstViewWrite o s
  | .progwinWrite o => Sys2Proof.Machine.execProgwinWrite o s
  | .progfaultWrite o => Sys2Proof.Machine.execProgfaultWrite o s
  | .clauseIssue core part islot => Sys2Proof.Machine.execClauseIssue core part islot s
  | .translationWalk cluster ctx va => Sys2Proof.Machine.execTranslationWalk cluster ctx va s
  | .tlbinvComplete core slot => Sys2Proof.Machine.execTlbinvComplete core slot s
  | .storeQueueDrain core slot => Sys2Proof.Machine.execStoreQueueDrain core slot s
  | .barrierArrival core slot => Sys2Proof.Machine.execBarrierArrival core slot s
  | .illbarrierDelivery core slot => Sys2Proof.Machine.execIllbarrierDelivery core slot s
  | .treeArrival core slot => Sys2Proof.Machine.execTreeArrival core slot s
  | .treeReleaseSeen tree core => Sys2Proof.Machine.execTreeReleaseSeen tree core s
  | .waitEnd core slot live => Sys2Proof.Machine.execWaitEnd core slot live s
  | .bwaitTimeout core slot live => Sys2Proof.Machine.execBwaitTimeout core slot live s
  | .wfiTimeout core => Sys2Proof.Machine.execWfiTimeout core s
  | .homeAccess n => Sys2Proof.Machine.execHomeAccess n s
  | .thawComplete frame sub => Sys2Proof.Machine.execThawComplete frame sub s
  | .bankIdleExpiry stack bank => Sys2Proof.Machine.execBankIdleExpiry stack bank s
  | .refresh stack first count => Sys2Proof.Machine.execRefresh stack first count s
  | .backgroundAging n => Sys2Proof.Machine.execBackgroundAging n s
  | .falloc n => Sys2Proof.Machine.execFalloc n s
  | .ffree n => Sys2Proof.Machine.execFfree n s
  | .fclear n => Sys2Proof.Machine.execFclear n s
  | .fmigr n => Sys2Proof.Machine.execFmigr n s
  | .cutover frame => Sys2Proof.Machine.execCutover frame s
  | .sourceRelease frame => Sys2Proof.Machine.execSourceRelease frame s
  | .fsettle n => Sys2Proof.Machine.execFsettle n s
  | .ffrost n => Sys2Proof.Machine.execFfrost n s
  | .fthaw n => Sys2Proof.Machine.execFthaw n s
  | .fscrub n => Sys2Proof.Machine.execFscrub n s
  | .hmwrite n => Sys2Proof.Machine.execHmwrite n s
  | .hmwriteComplete host hfn => Sys2Proof.Machine.execHmwriteComplete host hfn s
  | .sregwMcidle n => Sys2Proof.Machine.execSregwMcidle n s
  | .sregwFrostctl n => Sys2Proof.Machine.execSregwFrostctl n s
  | .fread n => Sys2Proof.Machine.execFread n s
  | .copy sched slot => Sys2Proof.Machine.execCopy sched slot s
  | .fill sched slot => Sys2Proof.Machine.execFill sched slot s
  | .gather sched slot => Sys2Proof.Machine.execGather sched slot s
  | .scatter sched slot => Sys2Proof.Machine.execScatter sched slot s
  | .collective sched slot peers => Sys2Proof.Machine.execCollective sched slot peers s
  | .gateJob sched slot => Sys2Proof.Machine.execGateJob sched slot s
  | .seal sched slot => Sys2Proof.Machine.execSeal sched slot s
  | .unseal sched slot => Sys2Proof.Machine.execUnseal sched slot s
  | .jobComplete sched slot => Sys2Proof.Machine.execJobComplete sched slot s
  | .gatherEntryDelivery sched slot => Sys2Proof.Machine.execGatherEntryDelivery sched slot s
  | .teamAdmit cluster => Sys2Proof.Machine.execTeamAdmit cluster s
  | .progressSwap core => Sys2Proof.Machine.execProgressSwap core s
  | .progressFault core => Sys2Proof.Machine.execProgressFault core s
  | .preemptEntry core slot => Sys2Proof.Machine.execPreemptEntry core slot s
  | .teamSaveComplete team => Sys2Proof.Machine.execTeamSaveComplete team s
  | .dieLost bit => Sys2Proof.Machine.execDieLost bit s
  | .dielossEntry core slot => Sys2Proof.Machine.execDielossEntry core slot s
  | .warmReset die => Sys2Proof.Machine.execWarmReset die s
  | .moduleReset => Sys2Proof.Machine.execModuleReset s
  | .thermalTrip bit => Sys2Proof.Machine.execThermalTrip bit s
  | .hostRead r => Sys2Proof.Machine.execHostRead r s
  | .hostWrite r => Sys2Proof.Machine.execHostWrite r s
  | .hostPartialWrite r => Sys2Proof.Machine.execHostPartialWrite r s
  | .hostAtomic r => Sys2Proof.Machine.execHostAtomic r s
  | .windowUpdate port rd wr => Sys2Proof.Machine.execWindowUpdate port rd wr s
  | .fezalCompletion port tag status data => Sys2Proof.Machine.execFezalCompletion port tag status data s
  | .heldMissRetranslate host hfn => Sys2Proof.Machine.execHeldMissRetranslate host hfn s
  | .hostFaultDeadline host hfn => Sys2Proof.Machine.execHostFaultDeadline host hfn s
  | .linkTraining port rd wr => Sys2Proof.Machine.execLinkTraining port rd wr s
  | .bisnp port line kind => Sys2Proof.Machine.execBisnp port line kind s
  | .replicaAckTimeout n => Sys2Proof.Machine.execReplicaAckTimeout n s
  | .ringWriteResume ring => Sys2Proof.Machine.execRingWriteResume ring s
  | .worldCreate d => Sys2Proof.Machine.execWorldCreate d s
  | .query master ctx => Sys2Proof.Machine.execQuery master ctx s
  | .measure master nonce => Sys2Proof.Machine.execMeasure master nonce s
  | .claim master => Sys2Proof.Machine.execClaim master s
  | .handover master heir => Sys2Proof.Machine.execHandover master heir s
  | .handoverExpiry => Sys2Proof.Machine.execHandoverExpiry s
  | .reclaim master => Sys2Proof.Machine.execReclaim master s
  | .lifecycle master iface => Sys2Proof.Machine.execLifecycle master iface s
  | .creset master => Sys2Proof.Machine.execCreset master s
  | .setcoll master reg c => Sys2Proof.Machine.execSetcoll master reg c s
  | .powercap master watts => Sys2Proof.Machine.execPowercap master watts s
  | .counterWindowBoundary => Sys2Proof.Machine.execCounterWindowBoundary s
  | .copyBlockComplete frame => Sys2Proof.Machine.execCopyBlockComplete frame s
  | .subframeFrosted frame sub => Sys2Proof.Machine.execSubframeFrosted frame sub s
  | .jobReadsPerformed sched slot => Sys2Proof.Machine.execJobReadsPerformed sched slot s
  | .computeResetEnd => Sys2Proof.Machine.execComputeResetEnd s
  | .cxlLinkTraining port d => Sys2Proof.Machine.execCxlLinkTraining port d s
  | .cxlCompletion n poisoned data => Sys2Proof.Machine.execCxlCompletion n poisoned data s
  | .variableLatencyResult core slot n => Sys2Proof.Machine.execVariableLatencyResult core slot n s
  | .arithmeticClockLowering watts => Sys2Proof.Machine.execArithmeticClockLowering watts s
  | .debugAccess addr => Sys2Proof.Machine.execDebugAccess addr s
  | .worldEnd world => Sys2Proof.Machine.execWorldEnd world s

end Sys2Proof.Machine
end

