-- ==== Sys2Proof/Machine/Issue.lean ====
section
/-! DEFINITION. What step calls: the group whose clause goes on and the instruction at hand (R188, R252, R253), the sequencer whose next word is fetched (R382), what the module may do next by itself, and the clock. -/

namespace Sys2Proof.Machine

/-- The decoder's reading of the instruction at hand of a clause. -/
def atHand (c : Clause) : Except DecodeError Instr :=
  match decode c.words with
  | .ok (i, _) => .ok i
  | .error e => .error e

/-- R108, R445 (DESIGN CHOICE, log entry 3): a step of the model is one count of the timebase; nobody is in the middle of an instruction, and the cycles of barrier objects that end with the step have their test. -/
def tick (s : State) : State :=
  let s := serviceChannels (s.cxl.foldl (fun s e => if e.2.snoops.isEmpty then s else answerSnoops s e.1) (closeCycles s))
  { s with clock := s.clock + 1, cur := none, curSeq := none }

/-- The next state with its clock advanced; a stop as it is. -/
def tickOut : Out → Out
  | .next s => .next (tick s)
  | .fault f => .fault f
  | .refused r => .refused r

/-- R217: the words at hand are no instruction: the group takes ILLINSTR. -/
def illWord (s : State) (gid : Nat) (g : Group) (c : Clause) : State := trapFrag s gid g c 0x02

/-- R253: the lane whose choice decides when a write lands: 64 for scalars. -/
def RegWrite.lane : RegWrite → Nat
  | .v lane _ _ => lane
  | .p lane _ _ => lane
  | _ => 64
/-- R237: the write ORs flags into FPCSR. -/
def RegWrite.isFlags : RegWrite → Bool
  | .flags _ => true
  | _ => false

/-- R253, R292: before an instruction issues, outstanding results may land in some lanes; the counters stay until the rest has come (DESIGN CHOICE, log entry 10). Flags come when the result has been written for every lane, never before. -/
def Group.landEarly (g : Group) (clock : Nat) : Group :=
  let early (w : RegWrite) : Bool := !w.isFlags && Config.landsEarly clock w.lane
  let g' := g.pending.foldl (fun g p => (p.writes.filter early).foldl Group.applyWrite g) g
  { g' with pending := g.pending.map (fun p => { p with writes := p.writes.filter (fun w => !early w) }) }

/-- R253: the state in which a group's instruction reads and writes registers. -/
def landed (s : State) (gid : Nat) (g : Group) : State :=
  if g.pending.isEmpty then s else s.setGroup gid (g.landEarly s.clock)

/-- R382: the address of the next word of a sequencer's stream. -/
def streamPc (t : Team) (q : Seq) : Nat := (t.mbase + q.soff).toNat

/-- R15, R24, R382: the next word of a stream, translated for fetch. -/
def fetchStream (s : State) (key : Nat) (t : Team) (va : Nat) : JRes × List Byte × State :=
  match jobTarget s (seqActor key t) va 8 .fetch (va, 8) with
    | (.ok, some a, s) => match repFault s (seqGid key) a with
      | some s => (.error, [], s)
      | none => match homeRead s (seqGid key) t.ctx a 8 with
        | (some bs, s) => (.ok, bs, s)
        | (none, s) => (.wait, [], s)
    | (r, _, s) => (r, [], s)

/-- The running sequencer of a key, and its team. -/
def runningSeq (s : State) (key : Nat) : Option (Seq × Nat × Team) :=
  let q := s.seqOf key
  if q.state = 1 && q.saving = 0 && !q.arriving then
    match q.team with
    | some tid => (SMap.find? s.teams tid).map (fun t => (q, tid, t))
    | none => none
  else none

/-- Words placed as the whole of a clause that live slot 0 of a group issues. -/
def placeClause (g : Group) (words : List Word) : Group :=
  { g with clause := some { pc := g.s0.pc, hdr := 0xE1000000, words := words, idx := 0, ipc := g.s0.pc + 4, slot := 0, lats := [],
                            replay := none } }

/-- The words of an instruction of the opcode table: a second word when bit 31 of the first is set (R246). -/
def tableWords (nbits w : Nat) : List Word :=
  let x := w % 2 ^ nbits
  BitVec.ofNat 32 x :: if x / 2 ^ 31 % 2 = 1 then [BitVec.ofNat 32 (x / 2 ^ 32)] else []

/-! ## What may happen next (DESIGN CHOICE, log entry 1) -/

/-- What the module may do by itself in a step: the rows of the opcode table that its own parts bring about, a group's next instruction, a stream's next word, and ldsh bytes that land. -/
inductive Action where
  | issue (gid : Nat)
  | stream (key : Nat)
  | land (team n : Nat)
  | clauseIssue (core part islot : Nat)
  | result (core slot n : Nat)
  | drain (core slot : Nat)
  | arrive (core slot : Nat)
  | treeArrive (core slot : Nat)
  | treeSeen (tree core : Nat)
  | heldTrap (core slot : Nat)
  | dieloss (core slot : Nat)
  | preempt (core slot : Nat)
  | waitEnd (core slot live : Nat)
  | bwaitOver (core slot live : Nat)
  | wfiOver (core : Nat)
  | progressFault (core : Nat)
  | progressSwap (core : Nat)
  | walk (cluster ctx page : Nat)
  | invDone (core slot : Nat)
  | admission (cluster : Nat)
  | teamSaved (team : Nat)
  | home (n : Nat)
  | age (n : Nat)
  | thaw (frame sub : Nat)
  | idle (stack bank : Nat)
  | frameJob (n ty : Nat)
  | copyBlock (frame : Nat)
  | cutover (frame : Nat)
  | release (frame : Nat)
  | frosted (frame sub : Nat)
  | mapWritten (host hfn : Nat)
  | job (sched slot ty : Nat)
  | jobReads (sched slot : Nat)
  | jobDone (sched slot : Nat)
  | deliver (sched slot : Nat)
  | retranslate (host hfn : Nat)
  | deadline (host hfn : Nat)
  | repTimeout (n : Nat)
  | ring (k : Ring)
  | handoverExpiry
  | window
  | resetEnd
  deriving DecidableEq, Repr

/-- R190: the waits of a live slot that may end. -/
def waitActions (s : State) (core slot live : Nat) (x : Slot) : List Action :=
  if x.mask = 0 || x.wait.kind = 0 || x.wait.ended then []
  else
    let late := match x.wait.deadline with | some d => d ≤ s.clock | none => false
    [.waitEnd core slot live] ++ (if x.wait.kind = 2 && late then [.bwaitOver core slot live] else []) ++
      (if x.wait.kind = 18 && late then [.wfiOver core] else []) ++ (if x.wait.kind = 17 then [.invDone core slot] else [])

/-- R115, R117: what the head of a store queue may do. -/
def queueActions (core slot : Nat) : List QEntry → List Action
  | .store .. :: _ => [.drain core slot]
  | .red .. :: _ => [.drain core slot]
  | .arrive .. :: _ => [.arrive core slot]
  | .treeArrive .. :: _ => [.treeArrive core slot]
  | [] => []

/-- What a resident group may do. -/
def groupActions (s : State) (gid : Nat) (g : Group) : List Action :=
  let core := coreOfGid gid
  let slot := slotOfGid gid
  (if g.clause.isSome then [.issue gid] else []) ++ (List.range g.pending.length).map (fun n => .result core slot n) ++
    queueActions core slot g.sq ++
    (if g.held.isEmpty then [] else [.heldTrap core slot, .dieloss core slot]) ++
    (match g.team.bind (fun t => SMap.find? s.teams t) with
      | some t => if t.preempt then [.preempt core slot] else []
      | none => []) ++
    waitActions s core slot 0 g.s0 ++ waitActions s core slot 1 g.s1

/-- The cores that hold groups. -/
def busyCores (s : State) : List Nat := (s.groups.map (fun e => coreOfGid e.1)).eraseDups

/-- What a core with groups may do: take a clause in any issue slot, see a tree's release, and reach a progress limit. -/
def coreActions (s : State) (core : Nat) : List Action :=
  let x := s.coreOf core
  ((s.groups.filter (fun e => coreOfGid e.1 = core)).map (fun e => e.1 / 16 % 4)).eraseDups.flatMap (fun p =>
      (List.range 4).map (fun i => .clauseIssue core p i)) ++
    ((List.range 16).filter (fun t => x.seen.getLsbD t != s.trees.getLsbD t)).map (fun t => .treeSeen t core) ++
    (if !isService core && progOn x.progwin && x.wincnt + progLimit x.progwin ≤ s.clock then [.progressSwap core] else []) ++
    (if !isService core && progOn x.progfault && x.faultcnt + progLimit x.progfault ≤ s.clock then [.progressFault core] else [])

/-- What a job may do. -/
def jobActions (sched slot : Nat) (j : Job) : List Action :=
  if !j.live then []
  else
    (if j.phase < 3 then [.job sched slot (cardType j.card)] else [.jobDone sched slot]) ++
      (if j.state == .running && 1 ≤ j.phase && !j.readsDone then [.jobReads sched slot] else []) ++
      (if j.out.isEmpty then [] else [.deliver sched slot])

/-- What the base dies and the host path may do. -/
def baseActions (s : State) : List Action :=
  (s.homeQ.zipIdx.filter (fun x => !x.1.looks || x.1.gone s)).map (fun x => .home x.2) ++
    (s.homeQ.zipIdx.filter (fun x => x.1.cls = 4 && x.1.arrival + 112500 ≤ s.clock)).map (fun x => .age x.2) ++
    s.thaws.map (fun t => .thaw t.frame t.sub) ++
    s.memStacks.flatMap (fun (e : Nat × Stack) => (e.2.banks.filter (fun b => b.2.2 ≤ s.clock)).map (fun b => .idle e.1 b.1)) ++
    s.feQ.zipIdx.map (fun x => .frameJob x.2 x.1.ty) ++
    s.dir.flatMap (fun (e : Nat × DirEntry) =>
      if e.2.state = 2 then (if e.2.cursor = 128 then [.cutover e.1] else [.copyBlock e.1]) else []) ++
    s.releases.map (fun e => .release e.1) ++ s.frosting.map (fun f => .frosted f.frame f.sub) ++
    s.hmWrites.map (fun w => .mapWritten w.host w.hfn) ++ s.misses.map (fun m => .retranslate m.host m.hfn) ++
    (s.misses.filter (fun m => m.deadline ≤ s.clock)).map (fun m => .deadline m.host m.hfn) ++
    (s.reps.zipIdx.filter (fun x => x.1.got.isNone && x.1.since + 225000 ≤ s.clock)).map (fun x => .repTimeout x.2) ++
    ([Ring.fr, Ring.hfq, Ring.evq].filter (fun k => !(s.ring k).waiting.isEmpty)).map .ring

/-- What the dispatcher, the sequencers, the walkers and the service dies may do. -/
def otherActions (s : State) : List Action :=
  (s.seqs.filter (fun e => (runningSeq s e.1).isSome)).map (fun e => .stream e.1) ++
    s.teams.flatMap (fun (e : Nat × Team) => (List.range e.2.landing.length).map (fun n => .land e.1 n) ++
      (if e.2.left.isEmpty then [] else [.teamSaved e.1])) ++
    s.clusters.flatMap (fun (e : Nat × Cluster) => e.2.walks.map (fun w => .walk e.1 w.1 w.2)) ++
    (if s.ctxs.any (fun (e : Nat × Ctx) => e.2.kernels.any (fun k => !k.2.waiting.isEmpty || !k.2.saved.isEmpty)) then
      (List.range 72).map .admission else []) ++
    s.jobs.flatMap (fun e => jobActions e.1 e.2.1 e.2.2) ++
    (if s.mgmt.handover.isSome then [.handoverExpiry] else []) ++
    (if s.clock % 225000000 = 0 then [.window] else []) ++ (if s.resetting then [.resetEnd] else [])

/-- Everything that may happen next. -/
def actions (s : State) : List Action :=
  s.groups.flatMap (fun e => groupActions s e.1 e.2) ++
    s.orphans.flatMap (fun o => queueActions (coreOfGid o.gid) (slotOfGid o.gid) o.sq) ++
    (busyCores s).flatMap (coreActions s) ++ baseActions s ++ otherActions s

/-- The one of the possible actions that happens (DESIGN CHOICE, log entry 1). -/
def chooseAction (s : State) : Option Action :=
  let l := actions s
  l[Config.choose s.clock % l.length]?

/-- A frame-engine job of a type goes on. -/
def runFrameJob (n ty : Nat) (s : State) : Out :=
  match ty with
  | 0x20 => execFalloc n s
  | 0x21 => execFfree n s
  | 0x22 => execFclear n s
  | 0x23 => execFmigr n s
  | 0x24 => execFsettle n s
  | 0x25 => execFfrost n s
  | 0x26 => execFthaw n s
  | 0x27 => execFscrub n s
  | 0x28 => execHmwrite n s
  | 0x29 => match s.feQ[n]? with
    | some j => if j.reg = 1 then execSregwFrostctl n s else execSregwMcidle n s
    | none => .next s
  | _ => execFread n s

/-- A job of a type goes on. The parts of other members of a collective come with the COLLECTIVE event. -/
def runJobStep (sched slot ty : Nat) (s : State) : Out :=
  match ty with
  | 0x01 => execCopy sched slot s
  | 0x02 => execFill sched slot s
  | 0x03 => execGather sched slot s
  | 0x04 => execScatter sched slot s
  | 0x05 => execCollective sched slot [] s
  | 0x06 => execGateJob sched slot s
  | 0x10 => execSeal sched slot s
  | _ => execUnseal sched slot s

/-- Events that come from outside the module, or from a choice of it that nothing in the state decides: every row that is neither a word of the instruction set nor a control-register access. Their constructors follow all others. -/
def isEvent (i : Instr) : Bool := 240 ≤ i.ctorIdx

end Sys2Proof.Machine
end

