-- ==== Sys2Proof/Machine/Step.lean ====
section
/-! DEFINITION. One step: what arrives from outside first, then the instruction of a group that is to go on, then one of the actions that are possible. -/

namespace Sys2Proof.Machine

/-- The instruction at hand of a group is executed (R188, R190). -/
def issueNext (s : State) (gid : Nat) : Out :=
  match SMap.find? s.groups gid with
  | none => .next s
  | some g => match g.clause with
    | none => .next s
    | some c => match atHand c with
      | .ok i => exec i { askAgain (landed s gid g) (.group gid) with cur := some gid }
      | .error _ => .next (illWord s gid g c)

/-- The next word of a sequencer's stream is fetched and performed (R382, R383). -/
def streamNext (s : State) (key : Nat) : Out :=
  match runningSeq s key with
  | none => .next s
  | some (q, tid, t) => match fetchStream (askAgain s (.party (seqGid key))) key t (streamPc t q) with
    | (.ok, bs, s) => match decodeMatrix (BitVec.ofNat 64 (leNat bs)) with
      | .ok i => exec i { s with curSeq := some key }
      | .error _ => seqBad s key tid q
    | (.wait, _, s) => .next s
    | (.error, _, s) => .next (seqPark s key q t 3 0x0F (streamPc t q) 0 0 0 0)
    | (.fault cause va level e tag fmt, _, s) => .next (seqPark s key q t 3 cause va level e tag fmt)

/-- One action of the module. -/
def runAction (a : Action) (s : State) : Out :=
  match a with
  | .issue gid => issueNext s gid
  | .stream key => streamNext s key
  | .land team n => .next (landLdsh s team n)
  | .clauseIssue core part islot => execClauseIssue core part islot s
  | .result core slot n => execVariableLatencyResult core slot n s
  | .drain core slot => execStoreQueueDrain core slot s
  | .arrive core slot => execBarrierArrival core slot s
  | .treeArrive core slot => execTreeArrival core slot s
  | .treeSeen tree core => execTreeReleaseSeen tree core s
  | .heldTrap core slot => execIllbarrierDelivery core slot s
  | .dieloss core slot => execDielossEntry core slot s
  | .preempt core slot => execPreemptEntry core slot s
  | .waitEnd core slot live => execWaitEnd core slot live s
  | .bwaitOver core slot live => execBwaitTimeout core slot live s
  | .wfiOver core => execWfiTimeout core s
  | .progressFault core => execProgressFault core s
  | .progressSwap core => execProgressSwap core s
  | .walk cluster ctx page => execTranslationWalk cluster ctx (BitVec.ofNat 64 (65536 * page)) s
  | .invDone core slot => execTlbinvComplete core slot s
  | .admission cluster => execTeamAdmit cluster s
  | .teamSaved team => execTeamSaveComplete team s
  | .home n => execHomeAccess n s
  | .age n => execBackgroundAging n s
  | .thaw frame sub => execThawComplete frame sub s
  | .idle stack bank => execBankIdleExpiry stack bank s
  | .frameJob n ty => runFrameJob n ty s
  | .copyBlock frame => execCopyBlockComplete frame s
  | .cutover frame => execCutover frame s
  | .release frame => execSourceRelease frame s
  | .frosted frame sub => execSubframeFrosted frame sub s
  | .mapWritten host hfn => execHmwriteComplete host hfn s
  | .job sched slot ty => runJobStep sched slot ty s
  | .jobReads sched slot => execJobReadsPerformed sched slot s
  | .jobDone sched slot => execJobComplete sched slot s
  | .deliver sched slot => execGatherEntryDelivery sched slot s
  | .retranslate host hfn => execHeldMissRetranslate host hfn s
  | .deadline host hfn => execHostFaultDeadline host hfn s
  | .repTimeout n => execReplicaAckTimeout n s
  | .ring k => execRingWriteResume k s
  | .handoverExpiry => execHandoverExpiry s
  | .window => execCounterWindowBoundary s
  | .resetEnd => execComputeResetEnd s

/-- What a step does before its clock advances: the oldest arrival; the group named to go on; or the action that is chosen. -/
def stepBody (s : State) : Out :=
  match s.inputs with
  | i :: rest => if isEvent i then exec i { s with inputs := rest } else .next { s with inputs := rest }
  | [] => match s.cur with
    | some gid => issueNext s gid
    | none => match chooseAction s with
      | some a => runAction a s
      | none => .next s

/-- One step of the module. -/
def step (s : State) : Host.Outcome State Fault Refusal := tickOut (stepBody s)

/-- The state with an instruction stored where step fetches its next one: the clause that the group of service core 1152 has in issue (DESIGN CHOICE, log entry 7). -/
def State.withFetchWord (s : State) (nbits w : Nat) : State :=
  let gid := 64 * 1152
  { s with inputs := [], cur := some gid,
           groups := SMap.put s.groups gid (placeClause (SMap.get (Group.service 1152) s.groups gid) (tableWords nbits w)) }

end Sys2Proof.Machine
end

