-- ==== Sys2Proof/Safety.lean ====
section
/-! DEFINITION. The terms that claims use: runs, the group whose instruction a step executes, what it means that an instruction has retired, that a clause has ended, and that a trap has been taken, and the invariant of memory. -/

namespace Sys2Proof.Machine

/-- The module's runs: `t` is reached from `s` in `n` steps, none of which is a fault or a refusal. -/
inductive Runs : State → Nat → State → Prop where
  | here (s : State) : Runs s 0 s
  | step {s u t : State} {n : Nat} (h : Machine.step s = .next u) (r : Runs u n t) : Runs s (n + 1) t

/-- Frame space is in its canonical form. -/
def State.MemWf (s : State) : Prop := Memory.wf s.mem = true

/-- The group whose instruction the step executes, and its clause in issue. -/
structure Issues (s : State) (gid : Nat) (g : Group) (c : Clause) : Prop where
  cur : s.cur = some gid
  grp : SMap.find? s.groups gid = some g
  cls : g.clause = some c

/-- The sequencer whose word the step executes, with its team. -/
structure Streams (s : State) (key : Nat) (q : Seq) (tid : Nat) (t : Team) : Prop where
  cur  : s.curSeq = some key
  seq  : s.seqOf key = q
  team : q.team = some tid
  res  : SMap.find? s.teams tid = some t
  runs : q.state = 1
  free : q.saving = 0
  still : q.arriving = false

/-- `g'` holds everything that `g` holds but for where its fragments stand: slots, spill area, rotation and pass counters, pop buffers of retired clauses, the clause. -/
def SameData (g g' : Group) : Prop :=
  g' = { g with s0 := g'.s0, s1 := g'.s1, spill := g'.spill, rotc := g'.rotc, pass := g'.pass, queues := g'.queues, clause := g'.clause } ∧
    g'.queues.map (fun q => (q.port, q.fifo)) = g.queues.map (fun q => (q.port, q.fifo))

/-- From `s` to `t` only the group `gid` changes, and its core's progress counters restart (R191, R194). -/
structure OnlyGroup (s t : State) (gid : Nat) : Prop where
  rest   : t = { s with groups := t.groups, cores := t.cores }
  others : ∀ n, n ≠ gid → SMap.find? t.groups n = SMap.find? s.groups n
  cores  : ∀ n, n ≠ coreOfGid gid → t.coreOf n = s.coreOf n
  core   : t.coreOf (coreOfGid gid) = { s.coreOf (coreOfGid gid) with wincnt := s.clock, faultcnt := s.clock }

/-- R168: the clause has ended with its lanes at the fragments `frs`; the group holds what `g` holds, and its fragments are what the clause boundary makes of them. -/
structure Ended (s t : State) (gid : Nat) (c : Clause) (g : Group) (frs : List Frag) : Prop where
  only  : OnlyGroup s t gid
  group : ∃ g', SMap.find? t.groups gid = some g' ∧ SameData g g' ∧
    g' = { (g.dropPops c.slot).boundary c.slot s.clock frs with clause := none }

/-- R94, R188: the instruction at hand has retired, the group holds what `g` holds, and `lat` is its latch: the clause goes on with its next instruction, or ends and falls through to the next clause. -/
structure Retired (s t : State) (gid : Nat) (c : Clause) (g : Group) (lat : Option (SMap DWord)) : Prop where
  only   : OnlyGroup s t gid
  data   : ∃ g', SMap.find? t.groups gid = some g' ∧ SameData g g'
  goesOn : c.words.drop c.len ≠ [] → SMap.find? t.groups gid = some
    { g with clause := some { c with words := c.words.drop c.len, idx := c.idx + 1, ipc := c.nextPc, lats := lat :: c.lats } }
  ends   : c.words.drop c.len = [] → Ended s t gid c g [(g.fmask &&& g.lmask, c.nextPc)]

/-- R202, R203: group `gid` of `s`, which held `g` in user mode, stands in the handler of the trap `r` in `t`; every outstanding result has been written, and the rest of the state is as it was, but that an instruction that has issued restarts its core's progress counters (R191, R194). -/
structure Trapped (s t : State) (gid : Nat) (g : Group) (r : TrapReq) : Prop where
  rest   : t = { s with groups := t.groups, cores := t.cores }
  others : ∀ n, n ≠ gid → SMap.find? t.groups n = SMap.find? s.groups n
  cores  : ∀ n, n ≠ coreOfGid gid ∨ r.issues = false → t.coreOf n = s.coreOf n
  core   : r.issues = true →
    t.coreOf (coreOfGid gid) = { s.coreOf (coreOfGid gid) with wincnt := s.clock, faultcnt := s.clock }
  group  : ∃ g' ctx, SMap.find? t.groups gid = some g' ∧ s.ctxOf? g.ctx = some ctx ∧ g'.sup = true ∧ g'.clause = none ∧
    g'.trec = trecWord r g.flush ∧ g'.entryMask = r.run ∧ g'.fmask = r.run ∧
    g'.s0 = { Slot.empty with mask := r.run, pc := ctx.svbase + BitVec.ofNat 64 (0x100 * r.cause), since := s.clock } ∧
    g'.s1 = Slot.empty ∧ g'.spill = [] ∧ g'.c0.mask = g.s0.mask ∧ g'.c0.pc = g.s0.pc ∧ g'.c1.mask = g.s1.mask ∧
    g'.c1.pc = g.s1.pc ∧ g'.cstat = g.frstat ∧ g'.pending = [] ∧ g'.lmask = g.lmask ∧ g'.sq = g.sq ∧ g'.ssplit = g.flush.ssplit ∧
    (∀ lane reg, g'.v lane reg = g.flush.v lane reg) ∧ (∀ n, g'.p n = g.flush.p n) ∧ (∀ n, g'.s n = g.flush.s n)

/-- R249, R251: the register that a vector destination code names in a lane. -/
def destReg (g : Group) (lane : Nat) (code : BitVec 8) : Nat := if code.toNat ≤ 0xEF then code.toNat else xReg g lane code

/-- R248, R272: in `g'` each lane of `act` holds `x lane` at the destination (nothing under NW), and every other vector register is as in `g`. -/
def Wrote (g g' : Group) (act : DWord) (w64 nw : Bool) (code : BitVec 8) (x : Nat → DWord) : Prop :=
  ∀ lane reg, reg < 240 → g'.v lane reg =
    if nw = false ∧ act.getLsbD lane ∧ reg = destReg g lane code then field (x lane) 0 32
    else if nw = false ∧ w64 ∧ act.getLsbD lane ∧ reg = destReg g lane code + 1 then field (x lane) 32 32
    else g.v lane reg

/-- R237: the flags of the active lanes, ORed. -/
def laneFlags (act : DWord) (fl : Nat → Word) : Word := (lanesOf act).foldl (fun m i => m ||| fl i) 0

/-- R94: the latch of a vector instruction: its result in a lane of `act`; elsewhere in the fragment zero under NW, and otherwise what the destination holds (a free value where v[xN] names no register there, DESIGN CHOICE, log entry 10). -/
def Latched (g g' : Group) (act : DWord) (w64 nw : Bool) (code : BitVec 8) (x : Nat → DWord) (lat : SMap DWord) : Prop :=
  ∀ lane, g.fmask.getLsbD lane →
    (act.getLsbD lane → SMap.get 0 lat lane = x lane) ∧
    (act.getLsbD lane = false → nw = true → SMap.get 0 lat lane = 0) ∧
    (act.getLsbD lane = false → nw = false → (code.toNat ≤ 0xEF ∨ xOk g lane code w64) → SMap.get 0 lat lane =
      if w64 then g'.v64 lane (destReg g lane code) else (g'.v lane (destReg g lane code)).setWidth 64)

/-- R94, R237, R248: a vector instruction is done: it has retired with its results in the lanes of `act` and in the latch, `fl` joins FPCSR, and the group holds everything else as before. -/
def VecDone (s t : State) (gid : Nat) (g : Group) (c : Clause) (act : DWord) (w64 nw : Bool) (code : BitVec 8) (x : Nat → DWord)
    (fl : Word) : Prop :=
  ∃ g' lat, Retired s t gid c g' (some lat) ∧ g' = { g with vregs := g'.vregs, fpcsr := g.fpcsr ||| fl } ∧
    Wrote g g' act w64 nw code x ∧ Latched g g' act w64 nw code x lat

/-- A predicate instruction is done: it has retired without a latch, predicate `pd` holds `x` in the active lanes, and `fl` joins FPCSR. -/
def PredDone (s t : State) (gid : Nat) (g : Group) (c : Clause) (act : DWord) (pd : Nat) (x : Nat → Bool) (fl : Word) : Prop :=
  ∃ g', Retired s t gid c g' none ∧ g' = { g with preds := g'.preds, fpcsr := g.fpcsr ||| fl } ∧
    (∀ n, n ≠ pd → g'.p n = g.p n) ∧
    ∀ lane, (g'.p pd).getLsbD lane = if act.getLsbD lane then x lane else (g.p pd).getLsbD lane

/-- A scalar instruction is done (R175, R315): when it is performed (`on`), the registers of `code` hold `x`, and the split bit of each says whether the fragment is all live lanes; otherwise nothing is written. -/
def ScaDone (s t : State) (gid : Nat) (g : Group) (c : Clause) (on w64 : Bool) (code : BitVec 8) (x : DWord) : Prop :=
  ∃ g', Retired s t gid c g' none ∧ g' = { g with sregs := g'.sregs, kregs := g'.kregs, ssplit := g'.ssplit } ∧
    (∀ n, g'.s n = if on ∧ n = code.toNat then field x 0 32
      else if on ∧ w64 ∧ n = code.toNat + 1 then field x 32 32 else g.s n) ∧
    ∀ n, n < 64 → g'.ssplit.getLsbD n =
      if on ∧ (n = code.toNat ∨ (w64 ∧ n = code.toNat + 1)) then decide (g.fmask ≠ g.lmask) else g.ssplit.getLsbD n

/-- R117, R252: an instruction with a variable-latency result has retired: its writes are outstanding on a counter. -/
def ResultDue (s t : State) (gid : Nat) (g : Group) (c : Clause) (ctr : Nat) (ws : List RegWrite) : Prop :=
  Retired s t gid c (g.addPending ctr ws) none

end Sys2Proof.Machine
end

