-- ==== Sys2Proof/Certificates/Slice0/Obligations.lean ====
section
/-! DEFINITION. The statements for the provers. First the words they are written in (namespace Sys2Proof.Claims): results in the terms of the manual, as arithmetic on bit vectors, and what it means that a form is done. Then one definition for each statement. -/

namespace Sys2Proof.Claims

open Machine Form

/-! ## Forms -/

/-- A group's instruction is executed, and none of its operands traps in the lanes `act` (R273, R294, R316). -/
structure Ready (s : State) (gid : Nat) (g : Group) (c : Clause) (act : DWord) (os : List Opd) : Prop where
  issues : Issues s gid g c
  quiet  : opTrap g c act os = none

/-- A long form with a vector result: with operands that do not trap, it is done with `f` in each active lane, and changes no flag. `w` is the width of its destination. -/
def LongVec (i : Ops → Instr) (os : Ops → List Opd) (w : Ops → Bool) (f : Group → Clause → Ops → Nat → DWord) : Prop :=
  ∀ s gid g c o, Ready s gid g c (active g c o) (.vd (w o) o.nw o.d :: os o) →
    ∃ t, exec (i o) s = .next t ∧ VecDone s t gid g c (active g c o) (w o) o.nw o.d (f g c o) 0

/-- A short form with a vector result: it has no guard (R245). -/
def ShortVec (i : SOps → Instr) (os : SOps → List Opd) (w : Bool) (f : Group → Clause → SOps → Nat → DWord) : Prop :=
  ∀ s gid g c o, Ready s gid g c (c.lanes g) (.vd w o.nw o.d :: os o) →
    ∃ t, exec (i o) s = .next t ∧ VecDone s t gid g c (c.lanes g) w o.nw o.d (f g c o) 0

/-- A long form with a predicate result. -/
def LongPred (i : Ops → Instr) (os : Ops → List Opd) (f : Group → Clause → Ops → Nat → Bool) : Prop :=
  ∀ s gid g c o, Ready s gid g c (active g c o) (os o) →
    ∃ t, exec (i o) s = .next t ∧ PredDone s t gid g c (active g c o) o.d.toNat (f g c o) 0

/-- A long form with a scalar result. -/
def LongSca (i : Ops → Instr) (os : Ops → List Opd) (w : Ops → Bool) (f : Group → Ops → DWord) : Prop :=
  ∀ s gid g c o, Ready s gid g c (active g c o) (.sd (w o) o.d :: os o) →
    ∃ t, exec (i o) s = .next t ∧ ScaDone s t gid g c (decide (active g c o ≠ 0)) (w o) o.d (f g o)

/-! ## Integer results (R275-R288): functions of a type code and of operand values; a 32-bit value stands zero-extended -/

/-- The low 32 bits. -/
def low (x : DWord) : Word := x.setWidth 32
/-- A 32-bit value, zero-extended. -/
def wide (x : Word) : DWord := x.setWidth 64
/-- R260, R271: an operation on 32-bit or on 64-bit operands. -/
def by2 (t : Nat) (f : Word → Word → Word) (h : DWord → DWord → DWord) (a b : DWord) : DWord :=
  if t64 t then h a b else wide (f (low a) (low b))
/-- R260, R271: an operation on one operand. -/
def by1 (t : Nat) (f : Word → Word) (h : DWord → DWord) (a : DWord) : DWord := if t64 t then h a else wide (f (low a))
/-- R271: T 0 and T 2 are signed. -/
def signed (t : Nat) : Bool := t % 2 == 0

/-- R275. -/
def addT (t : Nat) : DWord → DWord → DWord := by2 t (· + ·) (· + ·)
def subT (t : Nat) : DWord → DWord → DWord := by2 t (· - ·) (· - ·)
def negT (t : Nat) : DWord → DWord := by1 t (fun a => -a) (fun a => -a)
/-- R277: the exact value, clamped to the type's range. -/
def clampT (t : Nat) (n : Int) : DWord :=
  wide (BitVec.ofInt 32 (if t = 0 then max (-2 ^ 31) (min (2 ^ 31 - 1) n) else max 0 (min (2 ^ 32 - 1) n)))
def val32 (t : Nat) (a : DWord) : Int := if signed t then (low a).toInt else (low a).toNat
def addsT (t : Nat) (a b : DWord) : DWord := clampT t (val32 t a + val32 t b)
def subsT (t : Nat) (a b : DWord) : DWord := clampT t (val32 t a - val32 t b)
/-- R278. -/
def absT (t : Nat) : DWord → DWord := by1 t BitVec.abs BitVec.abs
/-- R279, R285: a below b in the type. -/
def belowT (t : Nat) (a b : DWord) : Bool :=
  if t64 t then (if signed t then a.slt b else a.ult b)
  else (if signed t then (low a).slt (low b) else (low a).ult (low b))
def minT (t : Nat) (a b : DWord) : DWord := by1 t id id (if belowT t b a then b else a)
def maxT (t : Nat) (a b : DWord) : DWord := by1 t id id (if belowT t a b then b else a)
/-- R280. -/
def mulT (t : Nat) : DWord → DWord → DWord := by2 t (· * ·) (· * ·)
def mulhT (t : Nat) : DWord → DWord → DWord :=
  by2 t (fun a b => if signed t then (a.signExtend 64 * b.signExtend 64).extractLsb' 32 32 else (a.setWidth 64 * b.setWidth 64).extractLsb' 32 32)
    (fun a b => if signed t then (a.signExtend 128 * b.signExtend 128).extractLsb' 64 64 else (a.setWidth 128 * b.setWidth 128).extractLsb' 64 64)
def madT (t : Nat) (a b c : DWord) : DWord := addT t (mulT t a b) c
def madwT (t : Nat) (a b c : DWord) : DWord :=
  if signed t then (low a).signExtend 64 * (low b).signExtend 64 + c else wide (low a) * wide (low b) + c
/-- R281: the index is zero-extended under .z. -/
def leaT (z : Bool) (sh : Nat) (a b : DWord) : DWord := a + ((if z then wide (low b) else (low b).signExtend 64) <<< sh)
/-- R282: the count is not reduced. -/
def shlT (t : Nat) (a : DWord) (n : Nat) : DWord := by1 t (· <<< n) (· <<< n) a
def shrT (t : Nat) (a : DWord) (n : Nat) : DWord := by1 t (· >>> n) (· >>> n) a
def sraT (t : Nat) (a : DWord) (n : Nat) : DWord := by1 t (fun a => a.sshiftRight n) (fun a => a.sshiftRight n) a
/-- R283. -/
def rotl32 (a : DWord) (n : Nat) : DWord := wide ((low a).rotateLeft (n % 32))
def fshl32 (a b : DWord) (n : Nat) : DWord := wide (((low a ++ low b : DWord) <<< (n % 32)).extractLsb' 32 32)
def fshr32 (a b : DWord) (n : Nat) : DWord := wide (low ((low a ++ low b : DWord) >>> (n % 32)))
/-- R284. -/
def landT (t : Nat) : DWord → DWord → DWord := by2 t (· &&& ·) (· &&& ·)
def lorT (t : Nat) : DWord → DWord → DWord := by2 t (· ||| ·) (· ||| ·)
def lxorT (t : Nat) : DWord → DWord → DWord := by2 t (· ^^^ ·) (· ^^^ ·)
def landnT (t : Nat) : DWord → DWord → DWord := by2 t (fun a b => a &&& ~~~b) (fun a b => a &&& ~~~b)
def lornT (t : Nat) : DWord → DWord → DWord := by2 t (fun a b => a ||| ~~~b) (fun a b => a ||| ~~~b)
/-- R265, R285: eq, ne, lt, le, gt, ge. -/
def condT (k t : Nat) (a b : DWord) : Bool :=
  let same := if t64 t then a == b else low a == low b
  match k with
  | 0 => same
  | 1 => !same
  | 2 => belowT t a b
  | 3 => !belowT t b a
  | 4 => belowT t b a
  | _ => !belowT t a b
/-- R286: 288 bits hold the extended value as far as any field reaches. -/
def bfeT (t : Nat) (a : DWord) (pos len : Nat) : DWord :=
  let x : BitVec 288 := if t = 0 then (low a).signExtend 288 else (low a).setWidth 288
  let f : BitVec (min len 32) := x.extractLsb' pos (min len 32)
  wide (if t = 0 then f.signExtend 32 else f.setWidth 32)
def bfi32 (a base : DWord) (pos len : Nat) : DWord :=
  let m : Word := ((BitVec.allOnes (min len 32)).setWidth 32 : Word) <<< pos
  wide ((low base &&& ~~~m) ||| (low a <<< pos &&& m))
/-- R287. -/
def popcT (t : Nat) (a : DWord) : DWord := if t64 t then a.cpop else wide (low a).cpop
def clzT (t : Nat) (a : DWord) : DWord := if t64 t then a.clz else wide (low a).clz
def brevT (t : Nat) : DWord → DWord := by1 t BitVec.reverse BitVec.reverse
/-- R288: result byte k. -/
def mixed (a b : Word) (q : BitVec 6) : BitVec 8 :=
  if q.getLsbD 3 then 0
  else
    let x : BitVec 8 := (b ++ a : DWord).extractLsb' (8 * (q.extractLsb' 0 3).toNat) 8
    let x := if q.getLsbD 4 then x.reverse else x
    if q.getLsbD 5 then x ^^^ 0xFF else x
def bmix32 (a b : Word) (q : Nat → BitVec 6) : DWord :=
  wide (mixed a b (q 3) ++ mixed a b (q 2) ++ mixed a b (q 1) ++ mixed a b (q 0) : BitVec 32)

/-- R270, R271: a form of operands a and b of its type. -/
def Int2 (i : Ops → Instr) (f : Nat → DWord → DWord → DWord) : Prop :=
  LongVec i (fun o => .vs (t64 o.var) o.a :: bopd o (t64 o.var)) (fun o => t64 o.var)
    (fun g c o n => f o.var (src g c o n (t64 o.var) o.a) (bop g c o n (t64 o.var)))
/-- R270, R271: a form of operands a and b of 32 bits. -/
def Int2w (i : Ops → Instr) (f : Nat → DWord → DWord → DWord) : Prop :=
  LongVec i (fun o => .vs false o.a :: bopd o false) (fun _ => false)
    (fun g c o n => f o.var (src g c o n false o.a) (bop g c o n false))
/-- R270, R282: a form of operand a of its type and of a 32-bit count. -/
def IntCount (i : Ops → Instr) (f : Nat → DWord → Nat → DWord) : Prop :=
  LongVec i (fun o => .vs (t64 o.var) o.a :: bopd o false) (fun o => t64 o.var)
    (fun g c o n => f o.var (src g c o n (t64 o.var) o.a) (bop g c o n false).toNat)
/-- R270: a form of one operand, whose result has the operand's width or 32 bits. -/
def Int1 (i : Ops → Instr) (res32 : Bool) (f : Nat → DWord → DWord) : Prop :=
  LongVec i (fun o => [.vs (t64 o.var) o.a]) (fun o => t64 o.var && !res32)
    (fun g c o n => f o.var (vec g c n (t64 o.var) o.a))
/-- R270: a form of operands a, b and c of its type. -/
def Int3 (i : Ops → Instr) (f : Nat → DWord → DWord → DWord → DWord) : Prop :=
  LongVec i (fun o => .vs (t64 o.var) o.a :: (bopd o (t64 o.var) ++ [.vs (t64 o.var) o.c])) (fun o => t64 o.var)
    (fun g c o n => f o.var (vec g c n (t64 o.var) o.a) (bop g c o n (t64 o.var)) (vec g c n (t64 o.var) o.c))
/-- R283: a form of 32-bit operands a, b and c. -/
def Int3w (i : Ops → Instr) (f : DWord → DWord → Nat → DWord) : Prop :=
  LongVec i (fun o => .vs false o.a :: (bopd o false ++ [.vs false o.c])) (fun _ => false)
    (fun g c o n => f (vec g c n false o.a) (bop g c o n false) (vec g c n false o.c).toNat)
/-- R274: a short form of vector operands a and b. -/
def Short2 (i : SOps → Instr) (f : DWord → DWord → DWord) : Prop :=
  ShortVec i (fun o => [.vs false o.a, .vs false o.b]) false (fun g c o n => f (vec g c n false o.a) (vec g c n false o.b))
/-- R274: a short form of vector operand a and the byte B. -/
def Short1 (i : SOps → Instr) (f : DWord → BitVec 8 → DWord) : Prop :=
  ShortVec i (fun o => [.vs false o.a]) false (fun g c o n => f (vec g c n false o.a) o.b)
/-- R276: iaddc and isubb; `f` is the exact value, and the carry-out says whether it leaves 0 to 2^32 − 1. The carry-out is written under NW too. -/
def Carry (i : Ops → Instr) (f : Int → Int → Int → Int) : Prop :=
  ∀ s gid g c o, Ready s gid g c (active g c o) (.vd false o.nw o.d :: .vs false o.a :: bopd o false) →
    let x (n : Nat) : Int := f (low (vec g c n false o.a)).toNat (low (bop g c o n false)).toNat ((g.p o.c.toNat).getLsbD n).toNat
    ∃ t g' lat, exec (i o) s = .next t ∧ Retired s t gid c g' (some lat) ∧
      g' = { g with vregs := g'.vregs, preds := g'.preds } ∧
      Wrote g g' (active g c o) false o.nw o.d (fun n => wide (BitVec.ofInt 32 (x n))) ∧
      (∀ n, (active g c o).getLsbD n → SMap.get 0 lat n = wide (BitVec.ofInt 32 (x n))) ∧
      (∀ p, p ≠ o.e.toNat → g'.p p = g.p p) ∧
      ∀ n, (g'.p o.e.toNat).getLsbD n =
        if (active g c o).getLsbD n then decide (x n < 0 ∨ 2 ^ 32 ≤ x n) else (g.p o.e.toNat).getLsbD n

end Sys2Proof.Claims

section

open Sys2Proof Sys2Proof.Machine Sys2Proof.Claims Sys2Proof.Form

/-- R275. -/
def Sys2Proof.Claims.AddSubtractNegate : Prop :=
  Int2 .iadd addT ∧ Int2 .isub subT ∧ Int1 .ineg false negT

/-- R276. -/
def Sys2Proof.Claims.AddCarrySubtractBorrow : Prop :=
  Carry .iaddc (fun a b p => a + b + p) ∧ Carry .isubb (fun a b p => a - b - p)

/-- R277. -/
def Sys2Proof.Claims.SaturatingAddSubtract : Prop := Int2w .iadds addsT ∧ Int2w .isubs subsT

/-- R278, R279. -/
def Sys2Proof.Claims.AbsoluteMinimumMaximum : Prop := Int1 .iabs false absT ∧ Int2 .imin minT ∧ Int2 .imax maxT

/-- R280. -/
def Sys2Proof.Claims.Multiplies : Prop :=
  Int2 .imul mulT ∧ Int2 .imulh mulhT ∧ Int3 .imad madT ∧
  LongVec .imadw (fun o => .vs false o.a :: (bopd o false ++ [.vs true o.c])) (fun _ => true)
    (fun g c o n => madwT o.var (vec g c n false o.a) (bop g c o n false) (vec g c n true o.c))

/-- R281: the LI form adds the immediate without a shift. -/
def Sys2Proof.Claims.AddressComputation : Prop :=
  LongVec .ilea (fun o => .vs true o.a :: bopd o false) (fun _ => true)
    (fun g c o n =>
      if o.li then src g c o n true o.a + o.imm24.signExtend 64
      else leaT (o.e.getLsbD 0) o.c.toNat (vec g c n true o.a) (bop g c o n false))

/-- R282. -/
def Sys2Proof.Claims.Shifts : Prop := IntCount .shl shlT ∧ IntCount .shr shrT ∧ IntCount .sra sraT

/-- R283. -/
def Sys2Proof.Claims.RotatesAndFunnels : Prop :=
  LongVec .rotl (fun o => .vs false o.a :: bopd o false) (fun _ => false)
    (fun g c o n => rotl32 (src g c o n false o.a) (bop g c o n false).toNat) ∧
  Int3w .fshl fshl32 ∧ Int3w .fshr fshr32

/-- R284. -/
def Sys2Proof.Claims.BitwiseLogic : Prop :=
  Int2 .land landT ∧ Int2 .lor lorT ∧ Int2 .lxor lxorT ∧ Int2 .landn landnT ∧ Int2 .lorn lornT

/-- R285: isel's LI form has its predicate and its 19-bit immediate in imm24. -/
def Sys2Proof.Claims.CompareSelect : Prop :=
  LongPred .icmp (fun o => .vs (t64 o.var) o.a :: bopd o (t64 o.var))
    (fun g c o n => condT o.c.toNat o.var (vec g c n (t64 o.var) o.a) (bop g c o n (t64 o.var))) ∧
  LongVec .isel (fun o => .vs (t64 o.var) o.a :: bopd o (t64 o.var)) (fun o => t64 o.var)
    (fun g c o n =>
      let imm : DWord := by1 o.var id id ((o.imm24.extractLsb' 0 19).signExtend 64)
      let q := if o.li then (o.imm24.extractLsb' 19 5).toNat else o.c.toNat
      let a := if o.li && o.a == 0xFF then imm else vec g c n (t64 o.var) o.a
      let b := if o.li then imm else bop g c o n (t64 o.var)
      if (g.p q).getLsbD n then a else b)

/-- R286: position and length are bytes of registers in L4 and of the immediate in LI; bfi's LI form takes its base from the destination. -/
def Sys2Proof.Claims.BitFields : Prop :=
  LongVec .bfe (fun o => .vs false o.a :: if o.li then [] else [.vs false o.b, .vs false o.c]) (fun _ => false)
    (fun g c o n =>
      if o.li then bfeT o.var (src g c o n false o.a) (o.imm24.extractLsb' 0 8).toNat (o.imm24.extractLsb' 8 8).toNat
      else bfeT o.var (vec g c n false o.a) ((low (vec g c n false o.b)).extractLsb' 0 8).toNat ((low (vec g c n false o.c)).extractLsb' 0 8).toNat) ∧
  LongVec .bfi (fun o => .vs false o.a :: if o.li then [] else [.vs false o.b, .vs false o.c, .vs false o.e]) (fun _ => false)
    (fun g c o n =>
      if o.li then bfi32 (src g c o n false o.a) (vec g c n false o.d) (o.imm24.extractLsb' 0 8).toNat (o.imm24.extractLsb' 8 8).toNat
      else bfi32 (vec g c n false o.a) (vec g c n false o.b) ((low (vec g c n false o.c)).extractLsb' 0 8).toNat
        ((low (vec g c n false o.e)).extractLsb' 0 8).toNat)

/-- R287: the results of popc and clz are 32 bits wide. -/
def Sys2Proof.Claims.BitCountsAndReversal : Prop := Int1 .popc true popcT ∧ Int1 .clz true clzT ∧ Int1 .brev false brevT

/-- R288. -/
def Sys2Proof.Claims.ByteMix : Prop :=
  LongVec .bmix (fun o => .vs false o.a :: if o.li then [] else [.vs false o.b, .vs false o.c]) (fun _ => false)
    (fun g c o n =>
      if o.li then bmix32 (low (src g c o n false o.a)) 0 (fun k => o.imm24.extractLsb' (6 * k) 6)
      else bmix32 (low (vec g c n false o.a)) (low (vec g c n false o.b)) (fun k => (low (vec g c n false o.c)).extractLsb' (8 * k) 6))

/-- R274: each short form performs the operation of its long form, whose operation the statements above give. -/
def Sys2Proof.Claims.ShortIntegerForms : Prop :=
  Short2 .iaddShort (addT 0) ∧ Short2 .isubShort (subT 0) ∧ Short2 .imulShort (mulT 0) ∧ Short2 .imulhShort (mulhT 0) ∧
  Short2 .iminShort (minT 0) ∧ Short2 .imaxShort (maxT 0) ∧ Short2 .andShort (landT 0) ∧ Short2 .orShort (lorT 0) ∧
  Short2 .xorShort (lxorT 0) ∧ Short2 .andnShort (landnT 0) ∧ Short2 .shlShort (fun a b => shlT 0 a b.toNat) ∧
  Short2 .shrShort (fun a b => shrT 0 a b.toNat) ∧ Short2 .sraShort (fun a b => sraT 0 a b.toNat) ∧
  Short1 .popcShort (fun a _ => popcT 0 a) ∧ Short1 .clzShort (fun a _ => clzT 0 a) ∧ Short1 .brevShort (fun a _ => brevT 0 a) ∧
  Short1 .iaddImm8Short (fun a b => addT 0 a (b.signExtend 64)) ∧ Short1 .shlImmShort (fun a b => shlT 0 a b.toNat) ∧
  Short1 .shrImmShort (fun a b => shrT 0 a b.toNat) ∧ Short1 .sraImmShort (fun a b => sraT 0 a b.toNat)

end
namespace Sys2Proof.Claims

open Machine Form

/-! ## Floating-point and narrow forms: results with flags -/

/-- A long form with a vector result and flags: with operands that do not trap, it is done with the values of `f`, and the flags of its active lanes join FPCSR. -/
def LongFlag (i : Ops → Instr) (os : Ops → List Opd) (w : Ops → Bool) (f : Group → Clause → Ops → Nat → DWord × Word) : Prop :=
  ∀ s gid g c o, Ready s gid g c (active g c o) (.vd (w o) o.nw o.d :: os o) →
    ∃ t, exec (i o) s = .next t ∧ VecDone s t gid g c (active g c o) (w o) o.nw o.d (fun n => (f g c o n).1)
      (laneFlags (active g c o) (fun n => (f g c o n).2))
/-- R291: a paired format computes both halves on their own and ORs their flags; another format fills the register from its low end. -/
def perHalf (F : Nat) (r : Nat → FRes) : DWord × Word :=
  if F = 4 ∨ F = 5 then (BitVec.ofNat 64 ((r 0).bits + 65536 * (r 1).bits), (r 0).fl ||| (r 1).fl)
  else (BitVec.ofNat 64 (r 0).bits, (r 0).fl)
/-- R289, R295: a long form of operands a and b in the format of MOD6[2:0], under the group's rounding mode and flushing. -/
def Flt2 (i : Ops → Instr) (f : Ops → Fmt → Nat → Bool → Nat → Nat → FRes) : Prop :=
  LongFlag i (fun o => .vs (f64 (o.var % 8)) o.a :: bopd o (f64 (o.var % 8))) (fun o => f64 (o.var % 8)) (fun g c o n =>
    perHalf (o.var % 8) (fun h => f o (Fmt.ofCode (o.var % 8)) g.rm (g.fz (o.var % 8)) (opA g c o (o.var % 8) n h) (opB g c o (o.var % 8) n h)))
/-- R293: a short form of operands a and b in format F. -/
def ShortFlt (i : SOps → Instr) (F : Nat) (f : Fmt → Nat → Bool → Nat → Nat → FRes) : Prop :=
  ∀ s gid g c o, Ready s gid g c (c.lanes g) [.vd (f64 F) o.nw o.d, .vs (f64 F) o.a, .vs (f64 F) o.b] →
    let r (n : Nat) : DWord × Word := perHalf F (fun h =>
      f (Fmt.ofCode F) g.rm (g.fz F) (rawOf F h (vec g c n (f64 F) o.a)) (rawOf F h (vec g c n (f64 F) o.b)))
    ∃ t, exec (i o) s = .next t ∧ VecDone s t gid g c (c.lanes g) (f64 F) o.nw o.d (fun n => (r n).1) (laneFlags (c.lanes g) (fun n => (r n).2))
/-- R289: an fp form of one operand in format `fs`, with a result of the width `w`. -/
def Flt1 (i : Ops → Instr) (fs : Ops → Nat) (w : Ops → Bool) (f : Group → Ops → Nat → DWord × Word) : Prop :=
  LongFlag i (fun o => [.vs (f64 (fs o)) o.a]) w (fun g c o n => f g o (opA g c o (fs o) n 0))
/-- R292, R252: an sfu form: while its counter, that of E[2:0], is below 63, it retires at once, and its results and flags are due on that counter. -/
def Sfu (i : Ops → Instr) (os : Ops → List Opd) (f : Group → Clause → Ops → Nat → FRes) : Prop :=
  ∀ s gid g c o, Ready s gid g c (active g c o) (.vd (f64 o.var) false o.d :: os o) → g.counters.getD (fieldNat o.e 0 3) 0 < 63 →
    ∃ t, exec (i o) s = .next t ∧ ResultDue s t gid g c (fieldNat o.e 0 3)
      ((lanesOf (active g c o)).flatMap (fun n => vecWrites g n (f64 o.var) o.d (BitVec.ofNat 64 (f g c o n).bits)) ++
        [.flags (laneFlags (active g c o) (fun n => (f g c o n).fl))])
/-- An sfu form of one operand. -/
def Sfu1 (i : Ops → Instr) (f : Fmt → Nat → Bool → Nat → FRes) : Prop :=
  Sfu i (fun o => [.vs (f64 o.var) o.a]) (fun g c o n => f (Fmt.ofCode o.var) g.rm (g.fz o.var) (opA g c o o.var n 0))
/-- R224: the code with its most significant fraction bit set. -/
def quieted (f : Fmt) (x : Nat) : Nat := x ||| 2 ^ (f.mb - 1)
/-- R224: `r` is the answer to the operands `xs`, whose first NaN is `x`. -/
def NaNAnswer (f : Fmt) (xs : List Nat) (x : Nat) (r : FRes) : Prop :=
  r.bits = quieted f x ∧ r.fl = if xs.any (fIsSNaN f) then flNV else 0
/-- R290: a 32-bit operand: flushed, then its sign cleared, then its sign inverted. -/
def modify32 (flush ab ng : Bool) (x : Word) : Word :=
  let x := if flush && x.extractLsb' 23 8 == 0 then x &&& 0x80000000 else x
  let x := if ab then x &&& 0x7FFFFFFF else x
  if ng then x ^^^ 0x80000000 else x
/-- R290: a 64-bit operand, which never flushes. -/
def modify64 (ab ng : Bool) (x : DWord) : DWord :=
  let x := if ab then x &&& 0x7FFFFFFFFFFFFFFF else x
  if ng then x ^^^ 0x8000000000000000 else x
/-- R290: a 16-bit operand with an exponent of `eb` bits. -/
def modify16 (eb : Nat) (flush ab ng : Bool) (x : BitVec 16) : BitVec 16 :=
  let x := if flush && x.extractLsb' (15 - eb) eb == 0 then x &&& 0x8000 else x
  let x := if ab then x &&& 0x7FFF else x
  if ng then x ^^^ 0x8000 else x
/-- R223: the value of a finite code. -/
def ratOf (f : Fmt) (x : Nat) : ℚ :=
  match fVal f x with
  | .fin ng m e => (if ng then -1 else 1) * m * (2 : ℚ) ^ e
  | _ => 0
/-- A code of a format that stands for a finite value. -/
def Finite (f : Fmt) (x : Nat) : Prop := x < 2 ^ f.width ∧ fAbs f x < f.infCode
/-- The four wide formats. -/
def wide4 : List Fmt := [Fmt.f64, Fmt.f32, Fmt.f16, Fmt.bf16]

/-- R325: a scalar form of a and b, b an immediate in LI. -/
def Sca2 (i : Ops → Instr) (wb : Ops → Bool) (f : Nat → DWord → DWord → DWord) : Prop :=
  LongSca i (fun o => .ss (t64 o.var) o.a :: if o.li then [] else [.ss (wb o) o.b]) (fun o => t64 o.var)
    (fun g o => f o.var (sca g (t64 o.var) o.a)
      (if o.li then (if wb o then o.imm24.signExtend 64 else wide (o.imm24.signExtend 32)) else sca g (wb o) o.b))

/-! ## Group-wide forms -/

/-- R10, R174, R326: a group-wide form is performed: no operand traps, the core is a compute core, and the group is converged. -/
structure ReadyWide (s : State) (gid : Nat) (g : Group) (c : Clause) (act : DWord) (os : List Opd) : Prop where
  ready : Ready s gid g c act os
  core  : isService (coreOfGid gid) = false
  conv  : g.converged = true
/-- A group-wide form with a vector result: `f` gives nothing to a lane that keeps its destination. -/
def WideVec (i : Ops → Instr) (os : Ops → List Opd) (w : Ops → Bool) (f : Group → Clause → Ops → Nat → Option DWord) : Prop :=
  ∀ s gid g c o, ReadyWide s gid g c (active g c o) (.vd (w o) o.nw o.d :: os o) →
    ∃ t recv, exec (i o) s = .next t ∧ (∀ n, recv.getLsbD n = ((active g c o).getLsbD n && (f g c o n).isSome)) ∧
      VecDone s t gid g c recv (w o) o.nw o.d (fun n => (f g c o n).getD 0) 0
/-- R329: the operations, and their identities. -/
def opOf (k : Nat) (a b : Word) : Word :=
  match k with
  | 0 => a + b
  | 1 => if b.slt a then b else a
  | 2 => if a.slt b then b else a
  | 3 => if b.ult a then b else a
  | 4 => if a.ult b then b else a
  | 5 => a &&& b
  | 6 => a ||| b
  | _ => a ^^^ b
def idOf (k : Nat) : Word :=
  match k with
  | 1 => 0x7FFFFFFF
  | 2 => 0x80000000
  | 3 | 5 => 0xFFFFFFFF
  | _ => 0
/-- R329: the operation over the lanes of a list. -/
def opOver (k : Nat) (x : Nat → Word) (l : List Nat) : DWord := wide (l.foldl (fun y j => opOf k y (x j)) (idOf k))
/-- R328: the source lane. -/
def sourceLane (mode W i b : Nat) : Option Nat :=
  match mode with
  | 0 => some b
  | 1 => some ((i + b) % W)
  | 2 => some (i ^^^ b)
  | _ => if 1 ≤ b ∧ b ≤ W then some (i - i % b + (b - 1 - i % b)) else none
/-- A live lane of the group. -/
def Live (g : Group) (n : Nat) : Prop := n < g.width ∧ g.lmask.getLsbD n = true

/-! ## Control flow -/

/-- R335: the address after the instruction, and a relative target. -/
def after (c : Clause) : DWord := c.ipc + 4 * BitVec.ofNat 64 c.len
def target (c : Clause) (off : Int) : DWord := (c.ipc + BitVec.ofInt 64 (4 * off)) &&& 0x00FFFFFFFFFFFFFF
/-- R335: a branch is done: each lane of the fragment stands at `tgt`. -/
def Branched (s t : State) (gid : Nat) (c : Clause) (g : Group) (tgt : Nat → DWord) : Prop :=
  Ended s t gid c g ((lanesOf (g.fmask &&& g.lmask)).map (fun n => (BitVec.twoPow 64 n, tgt n)))
/-- R214, R339: what a software trap of the fragment records. -/
def softRec (_g : Group) (c : Clause) (cause : Nat) (tm : DWord) (resume : DWord) (run : DWord) : TrapReq :=
  { cause := cause, reason := 0, info := 0, tmask := tm, cpc := c.pc, ipc := c.ipc, idx := c.idx, rpc := resume, slot := c.slot,
    run := run, abandon := false, issues := true }
/-- R202: a group in user mode whose handler entry needs nothing written: no fragment is spilled, and its context is live. -/
structure Enters (s : State) (g : Group) : Prop where
  user  : g.sup = false
  spill : g.spill = []
  park  : g.fpark = none
  ctx   : (s.ctxOf? g.ctx).isSome = true

end Sys2Proof.Claims

section

open Sys2Proof Sys2Proof.Machine Sys2Proof.Claims Sys2Proof.Form

/-! ## Floating-point and narrow forms -/

/-- R295-R297, R303, R291, R237: addition, subtraction, multiplication, fused multiply-add, minimum, maximum and sign copy, long and short. -/
def Sys2Proof.Claims.FloatArithmeticForms : Prop :=
  Flt2 .fadd (fun _ => fAdd) ∧ Flt2 .fsub (fun _ => fSub) ∧ Flt2 .fmul (fun _ => fMul) ∧
  Flt2 .fmin (fun o f _ fz => fMinMax f fz false (o.mod.getLsbD 3)) ∧ Flt2 .fmax (fun o f _ fz => fMinMax f fz true (o.mod.getLsbD 3)) ∧
  Flt2 .fsign (fun _ f _ fz a b => ⟨fSign f fz a b, 0⟩) ∧
  LongFlag .ffma (fun o => .vs (f64 o.var) o.a :: (bopd o (f64 o.var) ++ [.vs (f64 o.var) o.c])) (fun o => f64 o.var) (fun g c o n =>
    perHalf o.var (fun h => fFma (Fmt.ofCode o.var) g.rm (g.fz o.var) (opA g c o o.var n h) (opB g c o o.var n h) (opC g c o o.var n h))) ∧
  ShortFlt .faddF32Short 0 fAdd ∧ ShortFlt .fsubF32Short 0 fSub ∧ ShortFlt .fmulF32Short 0 fMul ∧
  ShortFlt .fminF32Short 0 (fun f _ fz => fMinMax f fz false false) ∧ ShortFlt .fmaxF32Short 0 (fun f _ fz => fMinMax f fz true false) ∧
  ShortFlt .faddF64Short 1 fAdd ∧ ShortFlt .fsubF64Short 1 fSub ∧ ShortFlt .fmulF64Short 1 fMul ∧
  ShortFlt .faddF16x2Short 4 fAdd ∧ ShortFlt .fmulF16x2Short 4 fMul ∧ ShortFlt .faddBf16x2Short 5 fAdd ∧ ShortFlt .fmulBf16x2Short 5 fMul

/-- R300: element 1 of a paired format goes to the next predicate. -/
def Sys2Proof.Claims.FloatCompare : Prop :=
  ∀ s gid g c o, Ready s gid g c (active g c o) (.vs (f64 o.var) o.a :: bopd o (f64 o.var)) →
    let rel (h n : Nat) : Bool × Word := fCmp (Fmt.ofCode o.var) (g.fz o.var) o.c.toNat (opA g c o o.var n h) (opB g c o o.var n h)
    let two : Bool := o.var = 4 ∨ o.var = 5
    ∃ t g', exec (.fcmp o) s = .next t ∧ Retired s t gid c g' none ∧
      g' = { g with preds := g'.preds, fpcsr := g.fpcsr ||| laneFlags (active g c o) (fun n => (rel 0 n).2) |||
        (if two then laneFlags (active g c o) (fun n => (rel 1 n).2) else 0) } ∧
      (∀ n, (g'.p o.d.toNat).getLsbD n = if (active g c o).getLsbD n then (rel 0 n).1 else (g.p o.d.toNat).getLsbD n) ∧
      (∀ n, (g'.p (o.d.toNat + 1)).getLsbD n =
        if two && (active g c o).getLsbD n then (rel 1 n).1 else (g.p (o.d.toNat + 1)).getLsbD n) ∧
      ∀ p, p ≠ o.d.toNat → p ≠ o.d.toNat + 1 → g'.p p = g.p p

/-- R301, R302, R304-R307: classification, exponent, rounding to an integral value, conversions and scaling. -/
def Sys2Proof.Claims.FloatConversionForms : Prop :=
  Flt1 .fclass (fun o => o.var) (fun _ => false) (fun g o a => (wide (fClass (Fmt.ofCode o.var) (g.fz o.var) a), 0)) ∧
  Flt1 .fgexp (fun o => o.var) (fun _ => false) (fun g o a =>
    let r := fGexp (Fmt.ofCode o.var) (g.fz o.var) a
    (wide r.1, r.2)) ∧
  Flt1 .frnd (fun o => o.var) (fun o => f64 o.var) (fun g o a =>
    let r := fRnd (Fmt.ofCode o.var) (g.rmSel o.b) (g.fz o.var) a
    (packF o.var r.bits 0, r.fl)) ∧
  Flt1 .fcvt (fun o => o.c.toNat) (fun o => f64 o.var) (fun g o a =>
    let r := fCvt (Fmt.ofCode o.c.toNat) (Fmt.ofCode o.var) (g.rmSel o.b) (g.fz o.c.toNat) (g.fz o.var) a
    (packF o.var r.bits 0, r.fl)) ∧
  Flt1 .f2i (fun o => o.c.toNat) (fun o => t64 o.var) (fun g o a =>
    let r := fToInt (Fmt.ofCode o.c.toNat) o.var (g.rmSel o.b) (g.fz o.c.toNat) a
    (if t64 o.var then BitVec.ofInt 64 r.1 else wide (BitVec.ofInt 32 r.1), r.2)) ∧
  LongFlag .i2f (fun o => [.vs (t64 o.c.toNat) o.a]) (fun o => f64 o.var) (fun g c o n =>
    let x := vec g c n (t64 o.c.toNat) o.a
    let v : Int := if t64 o.c.toNat then (if signed o.c.toNat then x.toInt else x.toNat) else val32 o.c.toNat x
    let r := fOfInt (Fmt.ofCode o.var) (g.rmSel o.b) (g.fz o.var) v
    (packF o.var r.bits 0, r.fl)) ∧
  LongFlag .fscal (fun o => .vs (f64 o.var) o.a :: bopd o false) (fun o => f64 o.var) (fun g c o n =>
    let r := fScal (Fmt.ofCode o.var) g.rm (g.fz o.var) (opA g c o o.var n 0) (low (bop g c o n false)).toInt
    (packF o.var r.bits 0, r.fl))

/-- R292, R298, R299: the sfu forms retire with their results due on a counter. -/
def Sys2Proof.Claims.SfuForms : Prop :=
  Sfu .fdiv (fun o => .vs (f64 o.var) o.a :: bopd o (f64 o.var)) (fun g c o n =>
    fDiv (Fmt.ofCode o.var) g.rm (g.fz o.var) (opA g c o o.var n 0) (opB g c o o.var n 0)) ∧
  Sfu1 .fsqrt fSqrt ∧ Sfu1 .frcp (fun f rm fz a => fDiv f rm fz (fOne f) a) ∧ Sfu1 .frsq fRsq ∧
  Sfu1 .fex2 (fun _ => fEx2) ∧ Sfu1 .flg2 (fun _ => fLg2) ∧ Sfu1 .fsin (fun _ => fSinCos false) ∧ Sfu1 .fcos (fun _ => fSinCos true)

/-- R308-R312: dot products, packing, unpacking, absolute maximum and block scales. -/
def Sys2Proof.Claims.NarrowForms : Prop :=
  (∀ four i, i = (if four then Instr.vdot4 else Instr.vdot8) →
    LongFlag i (fun o => [.vs false o.a, .vs false o.b, .vs false o.c]) (fun _ => false) (fun g c o n =>
      dotF four g.rm (g.fz 0) (vec32 g c n o.a) (vec32 g c n o.b) (recA o (vec32 g c n o.c)) (recB o (vec32 g c n o.c))
        (if o.nw then 0 else vec32 g c n o.d))) ∧
  (∀ four i, i = (if four then Instr.vdot4i else Instr.vdot8i) →
    LongFlag i (fun o => [.vs false o.a, .vs false o.b, .vs false o.c]) (fun _ => false) (fun g c o n =>
      dotI four (vec32 g c n o.a) (vec32 g c n o.b) (recA o (vec32 g c n o.c)) (recB o (vec32 g c n o.c))
        (if o.nw then 0 else vec32 g c n o.d))) ∧
  LongFlag .vscal (fun o => [.vs false o.a, .vs false o.b, .vs false o.c]) (fun _ => false) (fun g c o n =>
    let r := scaleTwo g.rm (g.fz 0) (recA o (vec32 g c n o.a)) (recB o (vec32 g c n o.b)) (vec32 g c n o.c).toNat
    (BitVec.ofNat 64 r.bits, r.fl)) ∧
  LongFlag .vamax (fun o => [.run o.b.toNat o.a]) (fun _ => false) (fun g _ o n =>
    let r := absMax (g.fz 0) ((List.range o.b.toNat).map (fun j => (g.v n (o.a.toNat + j)).toNat))
    (BitVec.ofNat 64 r.1, r.2)) ∧
  (∀ s gid g c o, Ready s gid g c (active g c o) [.vd false o.nw o.d, .run (narrowN o.var) o.a] →
    let r (n : Nat) := packFrom (o.var % 8) g.rm (o.mod.getLsbD 3) (g.fz 0)
      ((List.range (narrowN o.var)).map (fun j => (g.v n (o.a.toNat + j)).toNat)) (g.gen n)
    ∃ t g₁, exec (.vpack o) s = .next t ∧
      VecDone s t gid g₁ c (active g c o) false o.nw o.d (fun n => BitVec.ofNat 64 (packCodes (narrowBits (o.var % 8)) (r n).1))
        (laneFlags (active g c o) (fun n => (r n).2.1)) ∧
      g₁ = { g with srstate := g₁.srstate } ∧
      ∀ n, g₁.gen n = if o.mod.getLsbD 3 && (active g c o).getLsbD n then (r n).2.2 else g.gen n) ∧
  (∀ s gid g c o, Ready s gid g c (active g c o) [.run (narrowN o.var) o.d, .vs false o.a] →
    let r (n j : Nat) := unpackNarrow o.var (elemAt (narrowN o.var == 8) (vec32 g c n o.a) j)
    ∃ t g' lat, exec (.vunpk o) s = .next t ∧ Retired s t gid c g' (some lat) ∧
      g' = { g with vregs := g'.vregs, fpcsr := g.fpcsr ||| laneFlags (active g c o) (fun n =>
        (List.range (narrowN o.var)).foldl (fun fl j => fl ||| (r n j).2) 0) } ∧
      (∀ n reg, reg < 240 → g'.v n reg =
        if (active g c o).getLsbD n ∧ o.d.toNat ≤ reg ∧ reg < o.d.toNat + narrowN o.var then BitVec.ofNat 32 (r n (reg - o.d.toNat)).1
        else g.v n reg) ∧
      ∀ n, (active g c o).getLsbD n → SMap.get 0 lat n = BitVec.ofNat 64 (r n 0).1)

/-- R290: what operand a reads as, in every format. -/
def Sys2Proof.Claims.FloatOperandModifiers : Prop :=
  ∀ g c o n h, o.li = false →
    opA g c o 0 n h = (modify32 (g.fpcsr.getLsbD 3) (o.e.getLsbD 6) (o.e.getLsbD 7) (low (vec g c n false o.a))).toNat ∧
    opA g c o 1 n h = (modify64 (o.e.getLsbD 6) (o.e.getLsbD 7) (vec g c n true o.a)).toNat ∧
    opA g c o 2 n h = (modify16 5 (g.fpcsr.getLsbD 4) (o.e.getLsbD 6) (o.e.getLsbD 7) ((vec g c n false o.a).extractLsb' 0 16)).toNat ∧
    opA g c o 3 n h = (modify16 8 (g.fpcsr.getLsbD 4) (o.e.getLsbD 6) (o.e.getLsbD 7) ((vec g c n false o.a).extractLsb' 0 16)).toNat ∧
    opA g c o 4 n h = (modify16 5 (g.fpcsr.getLsbD 4) (o.e.getLsbD 6) (o.e.getLsbD 7) ((vec g c n false o.a).extractLsb' (16 * h) 16)).toNat ∧
    opA g c o 5 n h = (modify16 8 (g.fpcsr.getLsbD 4) (o.e.getLsbD 6) (o.e.getLsbD 7) ((vec g c n false o.a).extractLsb' (16 * h) 16)).toNat

/-- R224: the NaN that addition, subtraction, multiplication, division and the fused form answer. -/
def Sys2Proof.Claims.FirstNaNIsReturned : Prop :=
  ∀ f ∈ wide4, ∀ rm fz a b c, a < 2 ^ f.width → b < 2 ^ f.width → c < 2 ^ f.width →
    (fIsNaN f a = true →
      NaNAnswer f [a, b] a (fAdd f rm fz a b) ∧ NaNAnswer f [a, b] a (fSub f rm fz a b) ∧ NaNAnswer f [a, b] a (fMul f rm fz a b) ∧
      NaNAnswer f [a, b] a (fDiv f rm fz a b) ∧ NaNAnswer f [a] a (fSqrt f rm fz a) ∧ NaNAnswer f [a, b, c] a (fFma f rm fz a b c)) ∧
    (fIsNaN f a = false → fIsNaN f b = true →
      NaNAnswer f [a, b] b (fAdd f rm fz a b) ∧ NaNAnswer f [a, b] b (fSub f rm fz a b) ∧ NaNAnswer f [a, b] b (fMul f rm fz a b) ∧
      NaNAnswer f [a, b] b (fDiv f rm fz a b) ∧ NaNAnswer f [a, b, c] b (fFma f rm fz a b c)) ∧
    (fIsNaN f a = false → fIsNaN f b = false → fIsNaN f c = true → (fFma f rm fz a b c).bits = quieted f c)

/-- R295, R232: the rounded sum and the rounded product are exact where the exact value has a code; otherwise the error is below one unit in the last place of the result. Under round to nearest it is at most half a unit. -/
def Sys2Proof.Claims.RoundingIsFaithful : Prop :=
  ∀ f ∈ wide4, ∀ rm a b, Finite f a → Finite f b →
    ∀ q r, (q = ratOf f a + ratOf f b ∧ r = fAdd f rm false a b) ∨ (q = ratOf f a * ratOf f b ∧ r = fMul f rm false a b) →
      fAbs f r.bits < f.infCode →
        (∀ x, Finite f x → ratOf f x = q → ratOf f r.bits = q ∧ r.fl &&& flNX = 0) ∧
        (∀ x, Finite f x → q ≠ ratOf f r.bits → ¬ (ratOf f r.bits < ratOf f x ∧ ratOf f x ≤ q) ∧ ¬ (q ≤ ratOf f x ∧ ratOf f x < ratOf f r.bits)) ∧
        (rm = 0 ∨ rm = 4 → ∀ x, Finite f x → |ratOf f r.bits - q| ≤ |ratOf f x - q|) ∧
        (rm = 1 → |ratOf f r.bits| ≤ |q|) ∧ (rm = 2 → q ≤ ratOf f r.bits) ∧ (rm = 3 → ratOf f r.bits ≤ q)

/-- R313: borderline results. -/
def Sys2Proof.Claims.FloatBorderlineResults : Prop :=
  fMinMax .f32 false false false 0x80000000 0 = ⟨0x80000000, 0⟩ ∧ fMinMax .f32 false false true 0 0x80000000 = ⟨0x80000000, 0⟩ ∧
  fMinMax .f32 false false false 0x7FC00000 0x3F800000 = ⟨0x7FC00000, 0⟩ ∧
  fMinMax .f32 false false true 0x7FC00000 0x3F800000 = ⟨0x3F800000, 0⟩ ∧
  fMinMax .f32 false true false 0x7FA00000 0x40000000 = ⟨0x7FE00000, flNV⟩ ∧
  fMinMax .f32 false true true 0x7FA00000 0x40000000 = ⟨0x40000000, flNV⟩ ∧
  fFma .f32 0 false 0 0x7F800000 0x7FC00001 = ⟨0x7FC00001, flNV⟩ ∧
  fAdd .f32 3 false 0x3F800000 0xBF800000 = ⟨0x80000000, 0⟩ ∧ fAdd .f32 0 true 1 0 = ⟨0, 0⟩ ∧
  fDiv .f32 0 false 0x3F800000 0x80000000 = ⟨0xFF800000, flDZ⟩ ∧
  fSqrt .f64 0 false 0x8000000000000000 = ⟨0x8000000000000000, 0⟩ ∧
  fCmp .f32 false 2 0x7FC00000 0x3F800000 = (false, flNV) ∧ fCmp .f32 false 0 0x7FC00000 0x3F800000 = (false, 0) ∧
  fToInt .f32 0 0 false 0x40200000 = (2, flNX) ∧ fToInt .f32 0 0 false 0x4F000000 = (0x7FFFFFFF, flNV) ∧
  fToInt .f32 1 1 false 0xBF333333 = (0, flNX) ∧ fToInt .f32 1 0 false 0xBF800000 = (0, flNV) ∧
  fCvt .f32 .f16 0 false false 0x4788B800 = ⟨0x7C00, flOF ||| flNX⟩ ∧ fCvt .f32 .f16 1 false false 0x4788B800 = ⟨0x7BFF, flOF ||| flNX⟩ ∧
  fGexp .f32 false 1 = (0xFFFFFF6B, 0) ∧ fScal .f32 0 false 0x3F800000 128 = ⟨0x7F800000, flOF ||| flNX⟩ ∧
  roundNarrow 0 0 none false 0x43E80000 = (0x7E, flNX) ∧ roundNarrow 0 0 none false 0x43EB0000 = (0x7E, flOF ||| flNX) ∧
  roundNarrow 0 0 none false 0x80000000 = (0, 0) ∧ roundNarrow 4 0 none false 0x40A00000 = (6, flNX) ∧
  roundNarrow 4 0 none false 0x40E00000 = (7, flOF ||| flNX) ∧ roundNarrow 2 0 none false 0x42FF0000 = (0x7F, flNV) ∧
  unpackNarrow 0 0x80 = (0x7FC00000, flNV) ∧
  dotF false 0 false 0x00C44038 0x6405FE03 0x21 0x9E 0x3DCCCCCD = (0xC0FCCCCD, flNX) ∧
  dotF false 1 false 0x00C44038 0x6405FE03 0x21 0x9E 0x3DCCCCCD = (0xC0FCCCCC, flNX) ∧
  dotF false 0 false 0x80C44038 0x6405FE03 0x21 0x9E 0x3DCCCCCD = (0x7FC00000, flNV) ∧
  dotI false 0x00C44038 0x6405FE03 0x21 0x9E 0x3DCCCCCD = (0x3DCCCCCD, flNV)

/-! ## Moves, index registers, predicates, scalars -/

/-- R317, R318. -/
def Sys2Proof.Claims.Moves : Prop :=
  ShortVec .movShort (fun o => [.vs false o.a]) false (fun g c o n => vec g c n false o.a) ∧
  LongVec .mov (fun o => if o.sB then [.ss (t64 o.var) o.b] else [.vs (t64 o.var) o.a]) (fun o => t64 o.var)
    (fun g c o n => if o.sB then sca g (t64 o.var) o.b else vec g c n (t64 o.var) o.a) ∧
  LongVec .movi (fun _ => []) (fun _ => false) (fun _ _ o _ => wide o.w1) ∧
  LongVec .movh (fun _ => []) (fun _ => true) (fun g c o n => o.w1 ++ low (vec g c n true o.d)) ∧
  LongVec .s2v (fun o => [.ss (t64 o.var) o.a, .ss (t64 o.var) o.b]) (fun o => t64 o.var)
    (fun g _ o n => addT o.var (sca g (t64 o.var) o.a) (mulT o.var (BitVec.ofNat 64 n) (sca g (t64 o.var) o.b)))

/-- R319: the lane need not be active; a lane that is not live gives 0. A latch has no stated value outside the fragment (DESIGN CHOICE, log entry 10), so a latch is covered where the lane is in the fragment. -/
def Sys2Proof.Claims.LaneToScalar : Prop :=
  ∀ s gid g c o, Ready s gid g c (active g c o) ([.sd false o.d, .vs false o.a] ++ if o.li then [] else [.ss false o.b]) →
    let n := if o.li then (o.imm24.extractLsb' 0 6).toNat else (low (sca g false o.b)).toNat
    (Live g n → vecBounds g (BitVec.twoPow 64 n) false o.a = none ∧ (0xF0 ≤ o.a.toNat → o.a.toNat ≤ 0xF3 → g.fmask.getLsbD n = true)) →
      ∃ t x, exec (.v2s o) s = .next t ∧ ScaDone s t gid g c (decide (active g c o ≠ 0)) false o.d x ∧
        (Live g n → x = wide (vec32 g c n o.a)) ∧ (¬ Live g n → x = 0)

/-- R320, R321: idxset and idxadd write one index register in the active lanes, and rgn fills the region buffer; none has another effect. -/
def Sys2Proof.Claims.IndexRegistersAndRegions : Prop :=
  (∀ s gid g c o, Ready s gid g c (active g c o) [] → o.d.toNat < 4 →
    ∃ t g', exec (.idxset o) s = .next t ∧ Retired s t gid c g' none ∧ g' = { g with xregs := g'.xregs } ∧
      ∀ n x, x < 4 → g'.x n x = if (active g c o).getLsbD n ∧ x = o.d.toNat then o.w1 else g.x n x) ∧
  (∀ s gid g c o, Ready s gid g c (active g c o) [.vs false o.a] → o.d.toNat < 4 →
    ∃ t g', exec (.idxadd o) s = .next t ∧ Retired s t gid c g' none ∧ g' = { g with xregs := g'.xregs } ∧
      ∀ n x, x < 4 → g'.x n x =
        if (active g c o).getLsbD n ∧ x = o.d.toNat then
          let y := g.x n x
          (y.extractLsb' 24 8 ++ (y.extractLsb' 16 8 + y.extractLsb' 24 8 + (vec32 g c n o.a).extractLsb' 0 8) ++ y.extractLsb' 0 16 : BitVec 32)
        else g.x n x) ∧
  ∀ s gid g c o, Issues s gid g c →
    ∃ t r, exec (.rgn o) s = .next t ∧ Retired s t gid c { g with region := r } none ∧ ∀ x ∈ r, x < g.regs

/-- R322. -/
def Sys2Proof.Claims.PredicateForms : Prop :=
  LongPred .plog (fun _ => []) (fun g _ o n =>
    o.e.getLsbD (4 * ((g.p o.a.toNat).getLsbD n).toNat + 2 * ((g.p o.b.toNat).getLsbD n).toNat + ((g.p o.c.toNat).getLsbD n).toNat)) ∧
  LongPred .pmov (fun o => [.vs false o.a]) (fun g c o n => (vec32 g c n o.a).getLsbD o.b.toNat) ∧
  LongPred .pmask (fun o => [.ss true o.a]) (fun g _ o n => (sca g true o.a).getLsbD n)

/-- R325, R315, R175. -/
def Sys2Proof.Claims.ScalarForms : Prop :=
  let w (o : Ops) : Bool := t64 o.var
  Sca2 .sadd w addT ∧ Sca2 .ssub w subT ∧ Sca2 .smul w mulT ∧ Sca2 .smin w minT ∧ Sca2 .smax w maxT ∧
  Sca2 .sand w landT ∧ Sca2 .sor w lorT ∧ Sca2 .sxor w lxorT ∧
  Sca2 .sshl (fun _ => false) (fun t a b => shlT t a (low b).toNat) ∧
  Sca2 .sshr (fun _ => false) (fun t a b => if signed t then sraT t a (low b).toNat else shrT t a (low b).toNat) ∧
  LongSca .scmp (fun o => [.ss (t64 o.var) o.a, .ss (t64 o.var) o.b]) (fun _ => false)
    (fun g o => if condT o.c.toNat o.var (sca g (t64 o.var) o.a) (sca g (t64 o.var) o.b) then 1 else 0) ∧
  LongSca .smovi (fun _ => []) (fun _ => false) (fun _ o => wide o.w1)

/-! ## Group-wide operations and lxec -/

/-- R327: all and any write a predicate, ballot a scalar pair. -/
def Sys2Proof.Claims.Vote : Prop :=
  ∀ s gid g c o, ReadyWide s gid g c (active g c o) (if o.var = 2 then [.sd true o.d] else []) →
    let p (n : Nat) : Bool := (g.p o.a.toNat).getLsbD n
    (o.var = 0 → ∃ t, exec (.vote o) s = .next t ∧
      PredDone s t gid g c (active g c o) o.d.toNat (fun _ => (List.range 64).all (fun n => !(active g c o).getLsbD n || p n)) 0) ∧
    (o.var = 1 → ∃ t, exec (.vote o) s = .next t ∧
      PredDone s t gid g c (active g c o) o.d.toNat (fun _ => (List.range 64).any (fun n => (active g c o).getLsbD n && p n)) 0) ∧
    (o.var = 2 → ∃ t, exec (.vote o) s = .next t ∧ ScaDone s t gid g c true true o.d (g.p o.a.toNat &&& active g c o))

/-- R328-R330: xlane, redux, scan, match and bcast, over the active lanes. bcast's source lane supplies its value where it is live; a latch outside the fragment has no stated value (DESIGN CHOICE, log entry 10). -/
def Sys2Proof.Claims.GroupWideForms : Prop :=
  WideVec .xlane (fun o => .vs false o.a :: bopd o false) (fun _ => false) (fun g c o n =>
    let b := if o.li then (o.imm24.extractLsb' 0 7).toNat else (low (bop g c o n false)).toNat
    match sourceLane o.var g.width n b with
    | some j => if j < g.width && (active g c o).getLsbD j then some (vec g c j false o.a) else none
    | none => none) ∧
  WideVec .redux (fun o => [.vs false o.a]) (fun _ => false) (fun g c o _ =>
    some (opOver (o.mod.extractLsb' 0 3).toNat (fun j => vec32 g c j o.a) (lanesOf (active g c o)))) ∧
  WideVec .scan (fun o => [.vs false o.a]) (fun _ => false) (fun g c o n =>
    some (opOver (o.mod.extractLsb' 0 3).toNat (fun j => vec32 g c j o.a)
      ((lanesOf (active g c o)).filter (fun j => if o.mod.getLsbD 3 then j < n else j ≤ n)))) ∧
  (∀ s gid g c o, ReadyWide s gid g c (active g c o) [.vd true o.nw o.d, .vs (t64 o.var) o.a] →
    ∃ t m, exec (.matchLanes o) s = .next t ∧ VecDone s t gid g c (active g c o) true o.nw o.d m 0 ∧
      ∀ n j, (m n).getLsbD j = ((active g c o).getLsbD j && vec g c j (t64 o.var) o.a == vec g c n (t64 o.var) o.a)) ∧
  ∀ s gid g c o, ReadyWide s gid g c (active g c o) (.vd (t64 o.var) o.nw o.d :: .vs (t64 o.var) o.a :: if o.li then [] else bopd o false) →
    ∀ l, (if o.li then l = (o.imm24.extractLsb' 0 6).toNat
        else if o.sB then l = (low (sca g false o.b)).toNat
        else ∀ n, (active g c o).getLsbD n = true → (∀ j < n, (active g c o).getLsbD j = false) → l = (vec32 g c n o.b).toNat) →
    (Live g l → vecBounds g (BitVec.twoPow 64 l) (t64 o.var) o.a = none ∧ (0xF0 ≤ o.a.toNat → o.a.toNat ≤ 0xF3 → g.fmask.getLsbD l = true)) →
      ∃ t x, exec (.bcast o) s = .next t ∧ VecDone s t gid g c (active g c o) (t64 o.var) o.nw o.d x 0 ∧
        ∀ n, (Live g l → x n = vec g c l (t64 o.var) o.a) ∧ (¬ Live g l → x n = vec g c n (t64 o.var) o.a)

/-- R174, R326: in a group that is not converged, a group-wide form raises CONVERGE with reason 0 before any effect; on a service core (R10) it raises ILLINSTR. -/
def Sys2Proof.Claims.GroupWideFormsNeedConvergence : Prop :=
  ∀ s gid g c o, Issues s gid g c → Enters s g →
    ∀ i os, (i, os) ∈ [(Instr.vote o, if o.var = 2 then [.sd true o.d] else []), (.xlane o, .vd false o.nw o.d :: .vs false o.a :: bopd o false),
        (.redux o, [.vd false o.nw o.d, .vs false o.a]), (.scan o, [.vd false o.nw o.d, .vs false o.a]),
        (.matchLanes o, [.vd true o.nw o.d, .vs (t64 o.var) o.a]),
        (.bcast o, .vd (t64 o.var) o.nw o.d :: .vs (t64 o.var) o.a :: if o.li then [] else bopd o false), (.lxec o, [.vs false o.a])] →
      (isService (coreOfGid gid) = true → ∃ t, exec i s = .next t ∧
        Trapped s t gid g (softRec g c 0x02 g.fmask c.pc (g.slot c.slot).mask)) ∧
      (isService (coreOfGid gid) = false → g.converged = false → illOf g c os = none → boundsOf g (active g c o) os = none →
        ∃ t, exec i s = .next t ∧ Trapped s t gid g (softRec g c 0x03 g.fmask c.pc (g.slot c.slot).mask))

/-- R332: each active lane runs its own word; here the words are additions, of any registers, and no lane sees what another lane's word wrote. -/
def Sys2Proof.Claims.LanesRunTheirOwnWords : Prop :=
  ∀ s gid g c o (k : Nat → SOps), ReadyWide s gid g c (active g c o) [.vs false o.a] →
    (∀ n, (active g c o).getLsbD n = true → vec32 g c n o.a = encodeShort 0x01 (k n) ∧ (k n).nw = false ∧
      (k n).d.toNat < g.regs ∧ (k n).a.toNat < g.regs ∧ (k n).b.toNat < g.regs ∧ (k n).d.toNat ≤ 0xEF ∧ (k n).a.toNat ≤ 0xEF ∧ (k n).b.toNat ≤ 0xEF) →
      ∃ t g', exec (.lxec o) s = .next t ∧ Retired s t gid c g' none ∧ g' = { g with vregs := g'.vregs } ∧
        ∀ n reg, reg < 240 → g'.v n reg =
          if (active g c o).getLsbD n ∧ reg = (k n).d.toNat then g.v n (k n).a.toNat + g.v n (k n).b.toNat else g.v n reg

/-- R332: where a lane's word is not accepted, lxec raises LXECWORD with those lanes and the lowest lane's word, and no word runs. -/
def Sys2Proof.Claims.IllegalLaneWordsTrap : Prop :=
  ∀ s gid g c o n, ReadyWide s gid g c (active g c o) [.vs false o.a] → Enters s g →
    (active g c o).getLsbD n = true → lxAccept (vec32 g c n o.a) = none →
    (∀ j < n, (active g c o).getLsbD j = true → (lxAccept (vec32 g c j o.a)).isSome = true) →
      ∃ t m, exec (.lxec o) s = .next t ∧
        (∀ j, m.getLsbD j = ((active g c o).getLsbD j && (lxAccept (vec32 g c j o.a)).isNone)) ∧
        Trapped s t gid g { softRec g c 0x05 m c.pc (g.slot c.slot).mask with info := vec32 g c n o.a }

/-! ## Control flow -/

/-- R335-R337: each active lane that takes the branch stands at its target, every other lane of the fragment at the address after the instruction; call and callx write that address. -/
def Sys2Proof.Claims.Branches : Prop :=
  (∀ s gid g c o, Ready s gid g c (active g c o) [] →
    ∃ t, exec (.bra o) s = .next t ∧
      Branched s t gid c g (fun n => if (active g c o).getLsbD n then target c o.w1.toInt else after c)) ∧
  (∀ s gid g c o, Ready s gid g c (active g c o) [.vs false o.a] →
    ∃ t, exec (.brc o) s = .next t ∧ Branched s t gid c g (fun n =>
      if (active g c o).getLsbD n && vec32 g c n o.a != 0 then target c (o.imm24.extractLsb' 0 21).toInt else after c)) ∧
  (∀ s gid g c o, Ready s gid g c (active g c o) [.ss false o.a] →
    ∃ t, exec (.brs o) s = .next t ∧ Branched s t gid c g (fun n =>
      if (active g c o).getLsbD n && ((low (sca g false o.a) == 0) == (o.var == 0)) then target c (o.imm24.extractLsb' 0 21).toInt
      else after c)) ∧
  (∀ s gid g c o, Ready s gid g c (active g c o) [.vd true false o.d] →
    ∃ t g', exec (.call o) s = .next t ∧ g' = { g with vregs := g'.vregs } ∧
      Wrote g g' (active g c o) true false o.d (fun _ => after c) ∧
      Branched s t gid c g' (fun n => if (active g c o).getLsbD n then target c o.w1.toInt else after c)) ∧
  (∀ s gid g c o, Ready s gid g c (active g c o) [.vs true o.a] →
    (∀ n, (active g c o).getLsbD n = true → (vec g c n true o.a).extractLsb' 0 2 = 0) →
    ∀ i, (i = Instr.brx ∨ i = Instr.retLanes) → ∃ t, exec (i o) s = .next t ∧
      Branched s t gid c g (fun n => if (active g c o).getLsbD n then vec g c n true o.a else after c)) ∧
  ∀ s gid g c o, Ready s gid g c (active g c o) [.vd true false o.d, .vs true o.a] →
    (∀ n, (active g c o).getLsbD n = true → (vec g c n true o.a).extractLsb' 0 2 = 0) →
    ∃ t g', exec (.callx o) s = .next t ∧ g' = { g with vregs := g'.vregs } ∧
      Wrote g g' (active g c o) true false o.d (fun _ => after c) ∧
      Branched s t gid c g' (fun n => if (active g c o).getLsbD n then vec g c n true o.a else after c)

/-- R316, R337: indirect targets that are not clause addresses raise MISALIGN for their lanes. -/
def Sys2Proof.Claims.MisalignedTargetsTrap : Prop :=
  ∀ s gid g c o m, Enters s g → m ≠ 0 →
    (∀ n, m.getLsbD n = ((active g c o).getLsbD n && (vec g c n true o.a).extractLsb' 0 2 != 0)) →
    ∀ i os, (i, os) ∈ [(Instr.brx o, [Opd.vs true o.a]), (.retLanes o, [.vs true o.a]), (.callx o, [.vd true false o.d, .vs true o.a])] →
      Ready s gid g c (active g c o) os →
      ∃ t, exec i s = .next t ∧ Trapped s t gid g (softRec g c 0x0E m c.pc (g.slot c.slot).mask)

/-- R338, R163: the active lanes exit; the others of the fragment fall through; the group ends when no lane is live. -/
def Sys2Proof.Claims.Exit : Prop :=
  ∀ s gid g c o, Issues s gid g c →
    let g₁ := { g with lmask := g.lmask &&& ~~~(active g c o), fmask := g.fmask &&& ~~~(active g c o) }
    (g₁.lmask ≠ 0 → ∃ t, exec (.exitLanes o) s = .next t ∧ Branched s t gid c g₁ (fun _ => after c)) ∧
    (g₁.lmask = 0 → ∃ t, exec (.exitLanes o) s = .next t ∧ SMap.find? t.groups gid = none ∧
      (∀ n, n ≠ gid → SMap.find? t.groups n = SMap.find? s.groups n) ∧
      ((g.team = none ∨ ∃ n h, n ≠ gid ∧ SMap.find? s.groups n = some h ∧ h.team = g.team) →
        t = { s with groups := t.groups, cores := t.cores, orphans := t.orphans }) ∧
      t.orphans = s.orphans ++ (if g.sq = [] then [] else [{ gid := gid, team := g.team, ctx := g.ctx, sq := g.sq }]))

/-- R339, R214: trap and brkpt enter their handler for the fragment, syscall for the lowest active lane, with the others to follow; with no active lane the three fall through. -/
def Sys2Proof.Claims.SoftwareTraps : Prop :=
  ∀ s gid g c o, Issues s gid g c →
    (active g c o ≠ 0 → Enters s g →
      (∃ t, exec (.trapLanes o) s = .next t ∧ Trapped s t gid g (softRec g c 0x0B g.fmask (after c) (g.slot c.slot).mask)) ∧
      (∃ t, exec (.brkpt o) s = .next t ∧ Trapped s t gid g (softRec g c 0x0C g.fmask c.pc (g.slot c.slot).mask)) ∧
      ∀ n, (active g c o).getLsbD n = true → (∀ j < n, (active g c o).getLsbD j = false) →
        let lane : DWord := BitVec.twoPow 64 n
        ∃ t g', exec (.syscall o) s = .next t ∧ SMap.find? t.groups gid = some g' ∧ g'.sysRest = active g c o &&& ~~~lane ∧
          Trapped (s.setGroup gid { g with sysRest := active g c o &&& ~~~lane }) t gid { g with sysRest := active g c o &&& ~~~lane }
            (softRec g c 0x0A lane (after c) lane)) ∧
    (active g c o = 0 → ∀ i, i = Instr.trapLanes o ∨ i = .brkpt o ∨ i = .syscall o → ∃ t, exec i s = .next t ∧ Retired s t gid c g none)

/-- R340, R245: yield and both nops only retire. -/
def Sys2Proof.Claims.HintsOnlyRetire : Prop :=
  ∀ s gid g c o i, Issues s gid g c → (i = Instr.yieldHint o ∨ i = .nopLong o ∨ i = .nopShort) →
    ∃ t, exec i s = .next t ∧ Retired s t gid c g none

end

namespace Sys2Proof.Claims

open Machine Form

/-! ## Decoding -/

/-- R258, R259: the opcodes that are assigned. -/
def op6s : List Nat := List.range' 0x01 20 ++ List.range' 0x18 12 ++ [0x28] ++ List.range' 0x30 8
def op9s : List Nat :=
  List.range' 0x000 34 ++ List.range' 0x040 23 ++ List.range' 0x080 8 ++ List.range' 0x0A0 13 ++ List.range' 0x0C0 12 ++
    List.range' 0x0E0 7 ++ List.range' 0x0F0 13 ++ List.range' 0x110 14 ++ List.range' 0x150 11 ++ List.range' 0x170 11 ++
    List.range' 0x190 2 ++ List.range' 0x1B0 10
/-- The form of an operand byte of word 1. -/
def l4 (a b c e : BitVec 8) : Word := (e ++ c ++ b ++ a : BitVec 32)

/-! ## Operands that trap -/

/-- R94, R204, R249: an operand that raises ILLINSTR here: a latch that no earlier instruction of the clause filled, or a k register in user mode. -/
def Illegal (g : Group) (c : Clause) : Opd → Prop
  | .vs _ code => 0xF0 ≤ code.toNat ∧ code.toNat ≤ 0xF3 ∧ ∀ m, c.lats[code.toNat - 0xF0]? ≠ some (some m)
  | .ss _ code | .sd _ code => 0x40 ≤ code.toNat ∧ code.toNat ≤ 0x4F ∧ g.sup = false
  | _ => False
/-- R92, R251: a lane in which a vector operand of one register or of a pair lies out of bounds. -/
def Outside (g : Group) (n : Nat) (w64 : Bool) (code : BitVec 8) : Prop :=
  let last : Nat := if w64 then 1 else 0
  if code.toNat ≤ 0xEF then g.regs ≤ code.toNat + last
  else if 0xF6 ≤ code.toNat ∧ code.toNat ≤ 0xF9 then
    let x := g.x n (code.toNat - 0xF6)
    let base := (x.extractLsb' 0 8).toNat
    let limit := (x.extractLsb' 8 8).toNat
    let index := (x.extractLsb' 16 8).toNat
    limit ≤ index ∨ g.regs ≤ base + index + last ∨ (w64 = true ∧ (base + index) % 2 = 1)
  else False
/-- R92, R251: the same of an operand as its form names it; a destination under NW is not written. -/
def OutOfBounds (g : Group) (n : Nat) : Opd → Prop
  | .vs w64 code => Outside g n w64 code
  | .vd w64 nw code => nw = false ∧ Outside g n w64 code
  | .run k code => g.regs < code.toNat + k
  | _ => False
/-- R92: an operand that names a register at or above the declared count, whatever lanes are active. -/
def BeyondCount (g : Group) : Opd → Prop
  | .vs w64 code => code.toNat ≤ 0xEF ∧ g.regs ≤ code.toNat + if w64 then 1 else 0
  | .vd w64 nw code => nw = false ∧ code.toNat ≤ 0xEF ∧ g.regs ≤ code.toNat + if w64 then 1 else 0
  | .run k code => g.regs < code.toNat + k
  | _ => False
/-- R175: the register that a scalar source reads split, in user mode. -/
def splitReg (g : Group) : Opd → Option Nat
  | .ss w64 code =>
    if g.sup = true ∨ 0x40 ≤ code.toNat then none
    else if g.ssplit.getLsbD code.toNat then some code.toNat
    else if w64 && g.ssplit.getLsbD (code.toNat + 1) then some (code.toNat + 1)
    else none
  | _ => none
/-- The forms that chapters 13 and 15 give two vector operands, with the operands they check. -/
def checkedForms (o : Ops) : List (Instr × List Opd) :=
  let w := t64 o.var
  let d := Opd.vd w o.nw o.d
  [(.iadd o, d :: .vs w o.a :: bopd o w), (.isub o, d :: .vs w o.a :: bopd o w), (.imin o, d :: .vs w o.a :: bopd o w),
   (.imax o, d :: .vs w o.a :: bopd o w), (.imul o, d :: .vs w o.a :: bopd o w), (.imulh o, d :: .vs w o.a :: bopd o w),
   (.land o, d :: .vs w o.a :: bopd o w), (.lor o, d :: .vs w o.a :: bopd o w), (.lxor o, d :: .vs w o.a :: bopd o w),
   (.landn o, d :: .vs w o.a :: bopd o w), (.lorn o, d :: .vs w o.a :: bopd o w), (.ineg o, [d, .vs w o.a]),
   (.iabs o, [d, .vs w o.a]), (.brev o, [d, .vs w o.a]), (.shl o, d :: .vs w o.a :: bopd o false),
   (.shr o, d :: .vs w o.a :: bopd o false), (.sra o, d :: .vs w o.a :: bopd o false),
   (.imad o, d :: .vs w o.a :: (bopd o w ++ [.vs w o.c])), (.icmp o, .vs w o.a :: bopd o w),
   (.movi o, [.vd false o.nw o.d]), (.movh o, [.vd true o.nw o.d]), (.s2v o, [d, .ss w o.a, .ss w o.b]),
   (.plog o, []), (.pmov o, [.vs false o.a]), (.pmask o, [.ss true o.a])]
/-- R76, R108, R152: nothing ends with the step: no event of a barrier object's cycle, no snoop that waits for its answer, and no queue register bound to a service channel. -/
def NothingEnds (s : State) : Prop :=
  (∀ e ∈ s.teams, ∀ n, (e.2.obj n).event = none) ∧ (∀ e ∈ s.cxl, e.2.snoops = []) ∧
    ∀ e ∈ s.groups, ∀ q ∈ e.2.queues, q.port ≠ 5 ∧ q.port ≠ 6
/-- A trap record of the fragment that issues. -/
def opRec (g : Group) (c : Clause) (cause reason : Nat) (info : Word) (tm : DWord) : TrapReq :=
  { cause := cause, reason := reason, info := info, tmask := tm, cpc := c.pc, ipc := c.ipc, idx := c.idx, rpc := c.pc, slot := c.slot,
    run := (g.slot c.slot).mask, abandon := false, issues := true }
/-- The instruction takes this trap, for whatever it was given to do. -/
def Traps (s : State) (gid : Nat) (g : Group) (c : Clause) (i : Instr) (cause reason : Nat) (info : Word) (tm : DWord) : Prop :=
  ∃ t, exec i s = .next t ∧ Trapped s t gid g (opRec g c cause reason info tm)

end Sys2Proof.Claims

section

open Sys2Proof Sys2Proof.Machine Sys2Proof.Claims Sys2Proof.Form

/-! ## Decoding and one step -/

/-- Words written out from the tables of chapters 11, 12, 14, 15 and 17; a sanity statement. -/
def Sys2Proof.Claims.WrittenOutWordsDecode : Prop :=
  let op (d : BitVec 8) (m : BitVec 6) (w1 : Word) : Ops := { g := false, gn := false, gp := 0, nw := false, mod := m, d := d, w1 := w1 }
  decode [0x22060B01] = .ok (.iaddImm8Short { nw := false, d := 6, a := 11, b := 1 }, []) ∧
  decode [0x81802103, 0x00000204] = .ok (.imin (op 3 0x21 (l4 4 2 0 0)), []) ∧
  decode [0x80800014, 0x01000E0A] = .ok (.iaddc (op 20 0 (l4 10 14 0 1)), []) ∧
  decode [0x84001006, 0x10006407] = .ok (.isel (op 6 0x10 0x10006407), []) ∧
  decode [0x83800014, 0x00030516] = .ok (.ilea (op 20 0 (l4 22 5 3 0)), []) ∧
  decode [0x90C00108, 0x000E0C0A] = .ok (.ffma (op 8 1 (l4 10 12 14 0)), []) ∧
  decode [0xA8002003, 0x00000700] = .ok (.mov (op 3 0x20 (l4 0 7 0 0)), []) ∧
  decode [0xB8000208, 0x00000002] = .ok (.vote (op 8 2 (l4 2 0 0 0)), []) ∧
  decode [0xBC210000, 0xFFFFFFF0] = .ok (.bra { op 0 0 0xFFFFFFF0 with g := true, gp := 2 }, []) ∧
  decode [0xAAC0000A, 0] = .ok (.csrr (op 10 0 0), []) ∧
  decode [0, 0x22060B01] = .ok (.nopShort, [0x22060B01]) ∧
  decodeMatrix 0x0D00000000000000 = .ok .mend ∧
  decodeMatrix 0x0C0000000000FFF8 = .ok (.mjmp 0xFFF8)

/-- R246, R258-R264, R245: a core instruction's words decode to it, with every field at every value its form admits. -/
def Sys2Proof.Claims.EncodedInstructionsDecode : Prop :=
  ∀ i, WellFormed i → encode i ≠ [] → ∀ rest, decode (encode i ++ rest) = .ok (i, rest)

/-- R266, R384: a matrix-stream word decodes to its instruction; and a word that decodes is the encoding of what it decodes to. -/
def Sys2Proof.Claims.EncodedMatrixWordsDecode : Prop :=
  (∀ i w, WellFormed i → encodeMatrix i = some w → decodeMatrix w = .ok i) ∧
  ∀ w i, decodeMatrix w = .ok i → WellFormed i ∧ encodeMatrix i = some w

/-- R245, R246: no word has two readings, and no bit of one is dropped: what decodes is well formed, and its encoding is those words. -/
def Sys2Proof.Claims.DecodedWordsAreTheirEncoding : Prop :=
  ∀ ws i rest, decode ws = .ok (i, rest) → WellFormed i ∧ encode i ++ rest = ws ∧
    ∀ w, ws.head? = some w → ws.length = rest.length + if w.getLsbD 31 then 2 else 1

/-- R246, R267: unassigned opcodes and an unguarded instruction with guard bits are no instructions, whatever their other bits. -/
def Sys2Proof.Claims.UnassignedWordsAreRefused : Prop :=
  (∀ w ws, w.getLsbD 31 = false → w ≠ 0 → (w.extractLsb' 25 6).toNat ∉ op6s → decode (w :: ws) = .error .unassignedOp6) ∧
  (∀ w w1 ws, w.getLsbD 31 = true → (w.extractLsb' 22 9).toNat ∉ op9s → decode (w :: w1 :: ws) = .error .unassignedOp9) ∧
  ∀ w w1 ws, w.getLsbD 31 = true → (w.extractLsb' 22 9).toNat ∈ op9s → w.getLsbD 21 = false → w.extractLsb' 15 6 ≠ 0#6 →
    decode (w :: w1 :: ws) = .error .guardBits

/-- R188, R190, R217, R382: a step takes what arrives first; otherwise it executes the instruction that the bytes at hand decode to, moves the clock on, ends what ends with the step, and forgets who moved; bytes that are no instruction raise ILLINSTR. The order between arrivals, groups and the rest is the model's (DESIGN CHOICE, log entry 1). -/
def Sys2Proof.Claims.StepRunsTheDecodedInstruction : Prop :=
  (∀ s gid g c, s.inputs = [] → Issues s gid g c →
    (∀ i ws, decode c.words = .ok (i, ws) →
      Machine.step s = tickOut (exec i { askAgain (landed s gid g) (.group gid) with cur := some gid }) ∧
      (g.pending = [] → landed s gid g = s) ∧
      ((∀ x ∈ s.homeQ, x.looks = true → x.src ≠ .group gid) → askAgain s (.group gid) = s)) ∧
    (∀ e, decode c.words = .error e → Enters s g → ∃ t, Machine.step s = tickOut (.next t) ∧
      Trapped s t gid g (opRec g c 0x02 0 0 g.fmask))) ∧
  (∀ s key q tid t bs s' i, s.inputs = [] → s.cur = none → chooseAction s = some (.stream key) →
    runningSeq s key = some (q, tid, t) → fetchStream (askAgain s (.party (seqGid key))) key t (streamPc t q) = (.ok, bs, s') →
    decodeMatrix (BitVec.ofNat 64 (leNat bs)) = .ok i → Machine.step s = tickOut (exec i { s' with curSeq := some key })) ∧
  (∀ s i rest, s.inputs = i :: rest → isEvent i = true → Machine.step s = tickOut (exec i { s with inputs := rest })) ∧
  ∀ t, ∃ u, tickOut (.next t) = .next { u with clock := t.clock + 1, cur := none, curSeq := none } ∧ (NothingEnds t → u = t)

/-- R188: whatever stands at the place that withFetchWord fills, the very next step decodes and executes it (DESIGN CHOICE, log entry 7). -/
def Sys2Proof.Claims.PlacedWordRunsNext : Prop :=
  ∀ (s : State) nbits w i rest, decode (tableWords nbits w) = .ok (i, rest) →
    ∃ u g c, Issues u (64 * 1152) g c ∧ c.words = tableWords nbits w ∧ Machine.step (s.withFetchWord nbits w) = tickOut (exec i u)

/-- No run of the module stops: every state has a next state. -/
def Sys2Proof.Claims.EveryStateHasANextState : Prop := ∀ s, ∃ t, Machine.step s = .next t

/-- R40, R239: every step keeps frame space in its canonical form: equal memories are equal data. -/
def Sys2Proof.Claims.StepKeepsMemoryForm : Prop := ∀ s t, s.MemWf → Machine.step s = .next t → t.MemWf

/-- R3, R222, R12, R193, R195, R62, R72: what a module reset leaves, where the manual gives it. -/
def Sys2Proof.Claims.ResetLeaves : Prop :=
  let s := State.reset
  s.MemWf ∧ s.teams = [] ∧ s.thaws = [] ∧ s.homeQ = [] ∧ s.scheds = [] ∧
  (∀ core, (s.coreOf core).progwin = 0x40 ||| 20 ∧ (s.coreOf core).progfault = 0x40 ||| 28 ∧ (s.coreOf core).tlb = [] ∧ (s.coreOf core).l1 = []) ∧
  (∀ k, (s.stackOf k).mcidle = 16 ∧ (s.stackOf k).thawres = 4096 ∧ (s.stackOf k).lowmark = 16384 ∧ (s.stackOf k).lowev = true) ∧
  (∀ f, s.dirOf f = DirEntry.free) ∧ (∀ key, (s.seqOf key).mflags = 0 ∧ (s.seqOf key).state = 0) ∧
  (∀ c, (s.ctxOf? c).isSome = decide (c = 0)) ∧
  ∀ core, 1152 ≤ core → core < 1352 → ∃ g, SMap.find? s.groups (64 * core) = some g ∧ g.width = 1 ∧ g.ctx = 0 ∧ g.lmask = 1

/-! ## Operands -/

/-- R247, R249, R251, R94: what an operand byte reads. -/
def Sys2Proof.Claims.OperandReads : Prop :=
  ∀ g c n, n < 64 →
    (∀ code : BitVec 8, code.toNat ≤ 0xEF →
      vec g c n false code = wide (g.v n code.toNat) ∧ vec g c n true code = g.v n (code.toNat + 1) ++ g.v n code.toNat) ∧
    (∀ code : BitVec 8, 0xF0 ≤ code.toNat → code.toNat ≤ 0xF3 → ∀ m, c.lats[code.toNat - 0xF0]? = some (some m) →
      vec g c n true code = SMap.get 0 m n ∧ vec g c n false code = wide (low (SMap.get 0 m n))) ∧
    (∀ w, vec g c n w 0xF4 = 0 ∧ vec g c n w 0xF5 = BitVec.ofNat 64 n) ∧
    (∀ code : BitVec 8, 0xF6 ≤ code.toNat → code.toNat ≤ 0xF9 →
      let x := g.x n (code.toNat - 0xF6)
      let r := (x.extractLsb' 0 8).toNat + (x.extractLsb' 16 8).toNat
      vec g c n false code = wide (g.v n r) ∧ vec g c n true code = g.v n (r + 1) ++ g.v n r) ∧
    (∀ code : BitVec 8, code.toNat ≤ 0x4F → sca g false code = wide (g.s code.toNat) ∧ sca g true code = g.s (code.toNat + 1) ++ g.s code.toNat) ∧
    (∀ w, sca g w 0xF4 = 0) ∧
    ∀ o : Ops, o.li = true →
      src g c o n true 0xFF = o.imm24.signExtend 64 ∧ src g c o n false 0xFF = wide (o.imm24.signExtend 32) ∧
      bop g c o n true = o.imm24.signExtend 64 ∧ bop g c o n false = wide (o.imm24.signExtend 32)

/-- R273, R92, R94, R175, R204, R251, R316: the operands that trap, in the order ILLINSTR, REGBOUNDS, CONVERGE; the instruction has no other effect. A register beyond the declared count traps whatever lanes are active; a split scalar is read where some lane is active (DEDUCED, log entry 17). -/
def Sys2Proof.Claims.OperandsTrapBeforeAnyEffect : Prop :=
  ∀ s gid g c o, Issues s gid g c → Enters s g → ∀ i os, (i, os) ∈ checkedForms o →
    let act := active g c o
    ((∃ x ∈ os, Illegal g c x) → Traps s gid g c i 0x02 0 0 g.fmask) ∧
    ((∀ x ∈ os, ¬ Illegal g c x) → ∀ m, (m ≠ 0 ∨ ∃ x ∈ os, BeyondCount g x) →
      (∀ n, m.getLsbD n = true ↔ act.getLsbD n = true ∧ ∃ x ∈ os, OutOfBounds g n x) → Traps s gid g c i 0x04 0 0 m) ∧
    ((∀ x ∈ os, ¬ Illegal g c x) → (∀ n, act.getLsbD n = true → ∀ x ∈ os, ¬ OutOfBounds g n x) → act ≠ 0 →
      ∀ k rest, os.filterMap (splitReg g) = k :: rest → Traps s gid g c i 0x03 1 (BitVec.ofNat 32 k) g.fmask)

/-- R205: any trap in supervisor mode halts the group, with its record written and the double-trap event posted, which names context, core and slot (where in the entry is the model's choice, log entry 48); it does not vector. -/
def Sys2Proof.Claims.TrapsInAHandlerHalt : Prop :=
  (∀ s gid g r, SMap.find? s.groups gid = some g → g.sup = true → ∃ t, takeTrap s gid r = t ∧
    SMap.find? t.groups gid = some { g.flush with trec := trecWord r g.flush, halted := true, clause := none } ∧
    t = postEvent { (if r.issues then restartProgress s (coreOfGid gid) else s) with groups := t.groups } 0x04 (coreOfGid gid) (g.ctx + 65536 * slotOfGid gid) ∧
    ∀ n, n ≠ gid → SMap.find? t.groups n = SMap.find? s.groups n) ∧
  ∀ s gid g c o, Issues s gid g c → g.sup = true → active g c o ≠ 0 →
    ∀ i r, (i, r) ∈ [(Instr.trapLanes o, softRec g c 0x0B g.fmask (after c) (g.slot c.slot).mask),
        (.brkpt o, softRec g c 0x0C g.fmask c.pc (g.slot c.slot).mask)] → exec i s = .next (takeTrap s gid r)

end

namespace Sys2Proof.Claims

open Machine Form

/-! ## Memory -/

/-- Every byte of every place reads as before. -/
def SameMemory (s t : State) : Prop := ∀ p a, readPlace t p a 1 = readPlace s p a 1
/-- The requests at the homes that are performed there: those that keep no place for an access (R69, R87). -/
def Requests (s : State) : List HomeReq := s.homeQ.filter (fun r => !r.looks)
/-- R7, R31, R34, R43, R56, R61, R69, R103: what getting at bytes may change, with memory as it was: TLBs, L1s, walk and remap caches, touched bits, open rows, places in the homes' queues, answers of expanders, what has been found uncorrectable. -/
def Reached (s t : State) : Prop :=
  t = { s with cores := t.cores, clusters := t.clusters, ctxs := t.ctxs, memStacks := t.memStacks, homeQ := t.homeQ, cxl := t.cxl,
               poison := t.poison } ∧ Requests t = Requests s ∧ SameMemory s t
/-- R33, R343: the accesses of lanes: every address is a multiple of the size, and each leads to bytes (at a multiple of the size too, since pages and alias bases are multiples of 64 KiB), without a fault or a wait (each has its turn at its home, R69, R87); `ok` is where, and `s'` the state in which the translations stand. -/
structure Access (s : State) (gid : Nat) (g : Group) (n : Nat) (acc : Acc) (glob : Bool) (ptrs : List (Nat × Nat))
    (ok : List (Nat × GAddr)) (s' : State) : Prop where
  aligned : ∀ x ∈ ptrs, x.2 % n = 0
  goes    : lanesGo s gid g n acc glob ptrs = { ok := ok, bad := [], stall := false, walks := false, s := s' }
  ends    : ∀ x ∈ ok, x.2.addr % n = 0
/-- R116: nothing that the group or its core has under way touches the bytes, and they are neither a replica's, nor a CXL line's, nor in another group's frontier spill area (R96: unspecified there). -/
def Settled (s : State) (gid : Nat) (g : Group) (n : Nat) (a : GAddr) : Prop :=
  fwdLoad g.sq a.place a.addr n = .clear ∧ frontierOther s g.alias a = false ∧
    (a.place = .glob → a.rep = none ∧ frameCxl s a.addr = none ∧ homeBusy s (coreOfGid gid) (lineOf a.addr) = false)
/-- R103: the core's L1 holds no copy of the line. -/
def Uncached (s : State) (gid : Nat) (a : GAddr) : Prop :=
  a.place = .glob → SMap.find? (s.coreOf (coreOfGid gid)).l1 (lineOf a.addr) = none
/-- R252: the counter of a result has room: an issue that would take it beyond 63 stalls. -/
def CtrRoom (g : Group) (ctr : Nat) : Prop := g.counters.getD ctr 0 < 63
/-- R120: the access of a load or of an acquire: one at clu or wider, or at team in a paired team, reads its home. -/
def acqAcc (s : State) (g : Group) (scope : Nat) : Acc := if 3 ≤ scope ∨ (scope = 2 ∧ pairedTeam s g = true) then .acquire else .load
/-- R343: what a load writes. -/
def loaded (s : State) (g : Group) (z n : Nat) (d : BitVec 8) (ok : List (Nat × GAddr)) : List RegWrite :=
  ok.flatMap (fun x => loadWrites g x.1 z d (readPlace s x.2.place x.2.addr n))
/-- A load is done: the values are due on counter `ctr`, and nothing else has changed but caches. -/
def LoadDone (s t : State) (gid : Nat) (c : Clause) (g : Group) (ctr : Nat) (ws : List RegWrite) : Prop :=
  ∃ s₁, Reached s s₁ ∧ ResultDue s₁ t gid g c ctr ws
/-- R112, R115: a store's entry at the tail of the queue. -/
def stored (g : Group) (ok : List (Nat × GAddr)) (rel : Nat) (c : Clause) (data : Nat → List Byte) : Group :=
  { g with sq := g.sq ++ if ok = [] then [] else
      [.store (ok.map (fun x => { lane := x.1, dst := x.2, data := data x.1 })) rel c.ipc.toNat] }
/-- R348: lanes' updates in order: what is written to registers, the flags, and the state in which the bytes stand. -/
def updates (n : Nat) (f : Nat → Nat → Option Nat × Word) (wr : Nat → Nat → List RegWrite) (ok : List (Nat × GAddr)) (s : State) :
    List RegWrite × Word × State :=
  ok.foldl (fun r x =>
    let m := leNat (readPlace r.2.2 x.2.place x.2.addr n)
    (r.1 ++ wr x.1 m, r.2.1 ||| (f x.1 m).2,
      match (f x.1 m).1 with
      | some y => writePlace r.2.2 x.2.place x.2.addr (natLe n y)
      | none => r.2.2)) ([], 0, s)
/-- R348: what an operation of an integer type makes of `m` and `v`. -/
def rmwInt (op ty : Nat) (m v : DWord) : DWord :=
  match op with
  | 0 => addT ty m v
  | 1 => minT ty v m
  | 2 => maxT ty v m
  | 3 => landT ty m v
  | 4 => lorT ty m v
  | 5 => lxorT ty m v
  | _ => by1 ty id id v
/-- R112: the byte that the last of several writes puts at an address. -/
def lastByte (ws : List (Nat × List Byte)) (a : Nat) : Option Byte :=
  ws.foldl (fun b w => if w.1 ≤ a ∧ a < w.1 + w.2.length then w.2[a - w.1]? else b) none

end Sys2Proof.Claims

section

open Sys2Proof Sys2Proof.Machine Sys2Proof.Claims Sys2Proof.Form

/-! ## Memory instructions -/

/-- R342, R16, R252: the address of a lane; the immediate of an LI form that names a counter has 21 bits. -/
def Sys2Proof.Claims.LaneAddresses : Prop :=
  ∀ g c o n (ctr : Bool), n < 64 →
    let off (w : Nat) : BitVec w := if o.li then (o.w1.extractLsb' 8 15).signExtend w else if o.b = 0xF4 then 0 else (low (vec g c n false o.b)).setWidth w
    let base (w : Nat) : BitVec w :=
      if o.li && o.a == 0xFF then (if ctr then (o.w1.extractLsb' 8 21).signExtend w else o.imm24.signExtend w)
      else (vec g c n (decide (o.space ≤ 1)) o.a).setWidth w
    (o.space ≤ 1 → laneAddr g c o true ctr n = (base 64 + off 64).toNat) ∧
    (o.space = 2 → laneAddr g c o true ctr n = 0x00FFF20000000000 + (base 32 + off 32).toNat) ∧
    (o.space = 3 → laneAddr g c o true ctr n = 0x00FFF30000000000 + (base 32 + off 32).toNat) ∧
    (o.space = 4 → laneAddr g c o true ctr n = 0x00FFF00000000000 + (base 32 + off 32).toNat)

/-- R343-R347, R355, R116, R252: loads. Where nothing is under way and the L1 holds no copy, each lane's value is what memory holds at its address; it arrives later, on the counter, which has room. sld writes once; with no active lane it retires without a result. -/
def Sys2Proof.Claims.Loads : Prop :=
  (∀ s gid g c o ok s', ∀ i acq, (i, acq) ∈ [(Instr.ld o, 0), (.lda o, o.scope)] →
    Ready s gid g c (active g c o) (zOpd true (if o.var = 5 ∨ o.var = 6 then 2 else o.var) o.d :: addrOpds o true) →
    CtrRoom g o.ctr → Access s gid g (zBytes o.var) (acqAcc s g acq) (o.space = 1) (laneAddrs g c o true true) ok s' →
    (∀ x ∈ ok, Settled s' gid g (zBytes o.var) x.2 ∧ Uncached s' gid x.2) →
    ∃ t, exec i s = .next t ∧ LoadDone s t gid c g o.ctr (loaded s g o.var (zBytes o.var) o.d ok)) ∧
  (∀ s gid g c o ok s', ∀ i sp z, (i, sp, z) ∈ [(Instr.ldGB32Short o, 1, 2), (.ldSB32Short o, 2, 2), (.ldGB64Short o, 1, 3), (.ldSB64Short o, 2, 3)] →
    Ready s gid g c (c.lanes g) [zOpd true z o.d, .vs (sp = 1) o.a] → CtrRoom g (if o.nw then 1 else 0) →
    Access s gid g (zBytes z) .load (sp = 1)
      ((lanesOf (c.lanes g)).map (fun n => (n, addrOf sp (vec g c n (sp = 1) o.a) (zBytes z * o.b.toNat : Nat)))) ok s' →
    (∀ x ∈ ok, Settled s' gid g (zBytes z) x.2 ∧ Uncached s' gid x.2) →
    ∃ t, exec i s = .next t ∧ LoadDone s t gid c g (if o.nw then 1 else 0) (loaded s g z (zBytes z) o.d ok)) ∧
  ∀ s gid g c o, Ready s gid g c (active g c o) [.sd (o.var = 3) o.d, .ss (o.space ≤ 1) o.a] →
    (active g c o = 0 → ∃ t, exec (.sld o) s = .next t ∧ Retired s t gid c g none) ∧
    ∀ n a s', active g c o ≠ 0 → CtrRoom g o.ctr →
      Access s gid g (zBytes o.var) .load (o.space = 1) (scalarAddrs g c o true) [(n, a)] s' → Settled s' gid g (zBytes o.var) a → Uncached s' gid a →
      ∃ t, exec (.sld o) s = .next t ∧ LoadDone s t gid c g o.ctr (scalarWrites g o.var o.d (readPlace s a.place a.addr (zBytes o.var)))

/-- R115, R117, R343, R345-R349, R355: a store, a release and a reduction that is not a shadow one enter the queue, with the address of each lane; memory reads as before until they leave it. A full queue stalls. -/
def Sys2Proof.Claims.StoresEnterTheQueue : Prop :=
  (∀ s gid g c o ok s', ∀ i rel, (i, rel) ∈ [(Instr.st o, 0), (.stl o, o.scope)] →
    Ready s gid g c (active g c o) (zOpd false o.var o.d :: addrOpds o true) → g.sq.length < 32 →
    Access s gid g (zBytes o.var) .store (o.space = 1) (laneAddrs g c o true false) ok s' →
    Reached s s' ∧ ∃ t, exec i s = .next t ∧
      Retired s' t gid c (stored g ok rel c (fun n => storeBytes g n o.var o.d (src g c o n (o.var == 3) o.d))) none) ∧
  (∀ s gid g c o ok s', ∀ i sp z, (i, sp, z) ∈ [(Instr.stGB32Short o, 1, 2), (.stSB32Short o, 2, 2), (.stGB64Short o, 1, 3), (.stSB64Short o, 2, 3)] →
    Ready s gid g c (c.lanes g) [zOpd false z o.d, .vs (sp = 1) o.a] → g.sq.length < 32 →
    Access s gid g (zBytes z) .store (sp = 1)
      ((lanesOf (c.lanes g)).map (fun n => (n, addrOf sp (vec g c n (sp = 1) o.a) (zBytes z * o.b.toNat : Nat)))) ok s' →
    Reached s s' ∧ ∃ t, exec i s = .next t ∧ Retired s' t gid c (stored g ok 0 c (fun n => natLe (zBytes z) (vec g c n (z == 3) o.d).toNat)) none) ∧
  (∀ s gid g c o n a s', Ready s gid g c (active g c o) [.ss (o.var = 3) o.d, .ss (o.space ≤ 1) o.a] → g.sq.length < 32 → active g c o ≠ 0 →
    Access s gid g (zBytes o.var) .store (o.space = 1) (scalarAddrs g c o false) [(n, a)] s' →
    Reached s s' ∧ ∃ t, exec (.sst o) s = .next t ∧
      Retired s' t gid c (stored g [(n, a)] 0 c (fun _ => natLe (zBytes o.var) (scaSrc g o (o.var = 3) o.d).toNat)) none) ∧
  ∀ s gid g c o ok s', Ready s gid g c (active g c o) (.vs (aty64 o.aty) o.d :: addrOpds o false) → g.sq.length < 32 →
    Access s gid g (tyBytes o.aty) .atomic (o.space = 1) (laneAddrs g c o false false) ok s' →
    (o.scope < 4 ∨ ∀ x ∈ ok, x.2.place ≠ .glob) →
    Reached s s' ∧ ∃ t, exec (.red o) s = .next t ∧ Retired s' t gid c { g with sq := g.sq ++ if ok = [] then [] else
      [.red (ok.map (fun x => { lane := x.1, dst := x.2, data := natLe (tyBytes o.aty) (vec g c x.1 (aty64 o.aty) o.d).toNat }))
        { op := o.var, ty := o.aty } c.ipc.toNat] } none

/-- R128: a reduction at dev or sys to global memory enters its die's shadow buffer: it combines with the entry of its location, operation and type, or becomes an entry of its own. -/
def Sys2Proof.Claims.ReductionsCombineInTheShadowBuffer : Prop :=
  ∀ s gid g c o ok s' cl, Ready s gid g c (active g c o) (.vs (aty64 o.aty) o.d :: addrOpds o false) → g.sq = [] → 4 ≤ o.scope →
    clusterOfCore (coreOfGid gid) = some cl → (∀ x ∈ ok, x.2.place = .glob) →
    Access s gid g (tyBytes o.aty) .atomic (o.space = 1) (laneAddrs g c o false false) ok s' →
    let f : Rmw := { op := o.var, ty := o.aty }
    let v (n : Nat) : Nat := (vec g c n (aty64 o.aty) o.d).toNat
    let buf := (s'.clusterOf cl).shadow
    (∀ n a before e behind, ok = [(n, a)] → buf = before ++ e :: behind → e.dst.addr = a.addr → e.dst.place = .glob → e.f = f →
      e.val.length = tyBytes o.aty → (∀ x ∈ before ++ behind, x.dst.addr ≠ a.addr) →
      ∃ t, exec (.red o) s = .next t ∧ SameMemory s t ∧ Requests t = Requests s ∧ (∃ s₁, Retired s₁ t gid c g none) ∧
        (t.clusterOf cl).shadow = before ++ behind ++
          [{ e with val := natLe (tyBytes o.aty) (rmwVal f.op f.ty (leNat e.val) (v n % 2 ^ (8 * tyBytes o.aty))).1, stamp := s.clock }]) ∧
    ((∀ x ∈ buf, ∀ y ∈ ok, x.dst.addr + x.val.length ≤ y.2.addr ∨ y.2.addr + tyBytes o.aty ≤ x.dst.addr) →
      (ok.map (fun y => y.2.addr)).Nodup → buf.length + ok.length ≤ 2048 →
      ∃ t, exec (.red o) s = .next t ∧ SameMemory s t ∧ Requests t = Requests s ∧ (∃ s₁, Retired s₁ t gid c g none) ∧
        (t.clusterOf cl).shadow = buf ++ ok.map (fun y => { dst := y.2, f := f, val := natLe (tyBytes o.aty) (v y.1), stamp := s.clock }))

/-- R104, R112, R115, R120, R127: the store at the head of a queue leaves it once its release is due: shared and scratchpad bytes are written in lane order, and nothing else of memory; global bytes go on to their homes. -/
def Sys2Proof.Claims.StoresLeaveInOrder : Prop :=
  ∀ s core slot g lanes rel pc rest, slot < 64 → (∀ o ∈ s.orphans, o.gid ≠ 64 * core + slot) →
    SMap.find? s.groups (64 * core + slot) = some g → g.sq = .store lanes rel pc :: rest → g.leaving = false → rel < 4 →
    relReady s (64 * core + slot) g rel = true →
    ∃ t, exec (.storeQueueDrain core slot) s = .next t ∧
      SMap.find? t.groups (64 * core + slot) = some { g with sq := rest } ∧
      (∀ n, n ≠ 64 * core + slot → SMap.find? t.groups n = SMap.find? s.groups n) ∧
      t.homeQ = s.homeQ ++ (lanes.filter (fun l => l.dst.place = .glob)).map (fun l =>
        { cls := if 1152 ≤ core then 1 else 3, arrival := s.clock, src := .group (64 * core + slot), dst := l.dst, op := .write l.data,
          pc := pc, aged := false }) ∧
      t.mem = s.mem ∧
      ∀ p a, p ≠ .glob → (∀ k, p = .shared k → (SMap.find? s.teams k).isSome = true) →
        readPlace t p a 1 = match lastByte ((lanes.filter (fun l => l.dst.place = p)).map (fun l => (l.dst.addr, l.data))) a with
          | some b => [b]
          | none => readPlace s p a 1

/-- R52, R56, R113, R348: the requests of one instruction to a line, once each has its turn, are performed at their home together, in order: of what reads deliver exactly the bytes they name change. -/
def Sys2Proof.Claims.HomesPerformStoresAndReductions : Prop :=
  ∀ s n r, homeTurn s n = some r → (∀ h, r.src ≠ .host h) → r.looks = false →
    let batch := s.homeQ.filter (r.together s)
    let whole := batch.map HomeReq.covers
    let read := batch.foldl (fun s x => sense s x.dst.addr x.bytes whole) s
    (∀ (k : Nat) (x : HomeReq), s.homeQ[k]? = some x → r.together s x = true → homeTurn s k = some x) →
    (∀ x ∈ batch, x.dst.place = .glob ∧ x.dst.rep = none ∧ frameCxl s x.dst.addr = none ∧ homeCheck read x.dst x.bytes whole = .ok) →
    ((∀ x ∈ batch, ∃ d, x.op = .write d) →
      ∃ t, exec (.homeAccess n) s = .next t ∧ t.homeQ = s.homeQ.filter (fun x => !r.together s x) ∧
        ∀ a, t.bytes a 1 = match lastByte (batch.map (fun x => (x.dst.addr, match x.op with | .write d => d | _ => []))) a with
          | some b => [b]
          | none => s.bytes a 1) ∧
    ∀ x f v, batch = [x] → x.op = .rmw f v →
      ∃ t, exec (.homeAccess n) s = .next t ∧ t.homeQ = s.homeQ.filter (fun x => !r.together s x) ∧
        (∀ a, a < x.dst.addr ∨ x.dst.addr + v.length ≤ a → t.bytes a 1 = s.bytes a 1) ∧
        t.bytes x.dst.addr v.length = natLe v.length (rmwVal f.op f.ty (s.num x.dst.addr v.length) (leNat v)).1

/-- R348: the combining functions: the integer types, exchange of any type, and the float types by the operations of chapter 10. -/
def Sys2Proof.Claims.AtomicFunctions : Prop :=
  (∀ op ty (m v : DWord), op ≤ 6 → ty ≤ 3 →
    rmwVal op ty (by1 ty id id m).toNat (by1 ty id id v).toNat = ((rmwInt op ty m v).toNat, 0)) ∧
  ∀ (f : Fmt) ty, (f, ty) ∈ [(Fmt.f32, 4), (Fmt.f64, 5)] → ∀ m v, m < 2 ^ f.width → v < 2 ^ f.width →
    rmwVal 0 ty m v = ((fAdd f 0 false m v).bits, (fAdd f 0 false m v).fl) ∧
    rmwVal 1 ty m v = ((fMinMax f false false true m v).bits, (fMinMax f false false true m v).fl) ∧
    rmwVal 2 ty m v = ((fMinMax f false true true m v).bits, (fMinMax f false true true m v).fl) ∧ rmwVal 6 ty m v = (v, 0)

/-- R117, R124, R348, R349: atom and acas, once the queue is empty, their counter has room and their release is done: lanes in ascending order, each seeing the lane before it; the old values are due on the counter, and exactly the bytes updated change. With no active lane they retire (model's choice: NOTES.md). -/
def Sys2Proof.Claims.Atomics : Prop :=
  ∀ s gid g c o, Ready s gid g c (active g c o) (.vd (aty64 o.aty) false o.d :: .vs (aty64 o.aty) o.b :: addrOpds o false) →
    (active g c o = 0 → ∀ i, i = Instr.atom o ∨ i = .acas o → ∃ t, exec i s = .next t ∧ Retired s t gid c g none) ∧
    ∀ ok s', active g c o ≠ 0 → g.sq = [] → CtrRoom g o.ctr → relReady (relStart s (coreOfGid gid) o.scope) gid g o.scope = true →
      Access (relStart s (coreOfGid gid) o.scope) gid g (tyBytes o.aty) .atomic (o.space = 1) (laneAddrs g c o false false) ok s' →
      (∀ x ∈ ok, Settled s' gid g (tyBytes o.aty) x.2) →
      ∀ i f, (i, f) ∈ [(Instr.atom o, fun n m =>
            let r := rmwVal o.var o.aty m (vec g c n (aty64 o.aty) o.b).toNat
            (some r.1, r.2)),
          (.acas o, fun n m => (if m = (vec g c n (aty64 o.aty) o.b).toNat then some (vec g c n (aty64 o.aty) o.d).toNat else none, (0 : Word)))] →
        let r := updates (tyBytes o.aty) f (fun n m => loadWrites g n (if aty64 o.aty then 3 else 2) o.d (natLe 8 m)) ok s
        ∃ t s₁, exec i s = .next t ∧ ResultDue s₁ t gid g c o.ctr (r.1 ++ [.flags r.2.1]) ∧ SameMemory r.2.2 t ∧ Requests s₁ = Requests s ∧
          s₁ = { s with mem := s₁.mem, upsets := s₁.upsets, poison := s₁.poison, frosting := s₁.frosting, memStacks := s₁.memStacks,
                        cores := s₁.cores, clusters := s₁.clusters, ctxs := s₁.ctxs, teams := s₁.teams, cxl := s₁.cxl, homeQ := s₁.homeQ }

/-- R120, R123, R350: a fence retires once the queue is empty and its release is done, with no active lane too; at clu or wider the core's L1 is empty after it. No value changes. -/
def Sys2Proof.Claims.Fences : Prop :=
  ∀ s gid g c o, Issues s gid g c → g.sq = [] → relReady (relStart s (coreOfGid gid) o.scope) gid g o.scope = true →
    ∃ t s₁, exec (.fence o) s = .next t ∧ Retired s₁ t gid c g none ∧ SameMemory s t ∧ s₁.homeQ = s.homeQ ∧
      (3 ≤ o.scope → (t.coreOf (coreOfGid gid)).l1 = [])

/-- R32, R69, R352-R354: pref changes no value: it asks for walks, where the walk queue has room for one of each lane, and for thaws; waddr and paddr convert each active lane's value. -/
def Sys2Proof.Claims.PrefetchAndAddressConversion : Prop :=
  (∀ s gid g c o, Ready s gid g c (active g c o) (addrOpds o true) →
    (∀ cl, clusterOfCore (coreOfGid gid) = some cl → (s.clusterOf cl).walks.length ≤ 1024) →
    ∃ t s₁, exec (.pref o) s = .next t ∧
      s₁ = { s with clusters := s₁.clusters, ctxs := s₁.ctxs, memStacks := s₁.memStacks, thaws := s₁.thaws } ∧ Retired s₁ t gid c g none ∧ SameMemory s t) ∧
  (∀ s gid g c o, o.var ∈ [1, 2, 3, 4, 9, 10, 11, 12] →
    Ready s gid g c (active g c o) [.vd (o.var < 8 || o.var == 9) false o.d, .vs (8 < o.var || o.var == 1) o.a] →
    let w : Nat := if o.var % 8 = 2 then 0x00FFF20000000000 else if o.var % 8 = 3 then 0x00FFF30000000000 else 0x00FFF00000000000
    let size : Nat := if o.var % 8 = 4 then 2 ^ 24 else if o.var % 8 = 2 then sharedSize s g else
      match (clusterOfCore (coreOfGid gid)).bind (fun cl => scratchEntry (s.clusterOf cl) g.ctx) with
      | some e => e.2
      | none => 0
    let r (n : Nat) : DWord × Bool :=
      let p := vec g c n (8 < o.var || o.var == 1) o.a
      if o.var % 8 = 1 then (if p.toNat < 0x00FFF00000000000 then (p, true) else (0, false))
      else if o.var < 8 then (if (low p).toNat < size then (BitVec.ofNat 64 w + wide (low p), true) else (0, false))
      else if w ≤ p.toNat ∧ p.toNat < w + size then (p - BitVec.ofNat 64 w, true) else (0xFFFFFFFF, false)
    ∃ t g₁, exec (.waddr o) s = .next t ∧
      VecDone s t gid g₁ c (active g c o) (o.var < 8 || o.var == 9) false o.d (fun n => (r n).1) 0 ∧
      g₁ = { g with preds := g₁.preds } ∧
      (∀ p, (o.c.getLsbD 7 = false ∨ p ≠ (o.c.extractLsb' 0 5).toNat) → g₁.p p = g.p p) ∧
      (o.c.getLsbD 7 = true → ∀ n, (g₁.p (o.c.extractLsb' 0 5).toNat).getLsbD n =
        if (active g c o).getLsbD n then (r n).2 else (g.p (o.c.extractLsb' 0 5).toNat).getLsbD n)) ∧
  ∀ s gid g c o ctx, Ready s gid g c (active g c o) [.vd true false o.d, .vs true o.a] → s.ctxOf? g.ctx = some ctx →
    ∃ t, exec (.paddr o) s = .next t ∧ VecDone s t gid g c (active g c o) true false o.d (fun n =>
      let p := vec g c n true o.a
      let off := p.toNat - 0x00FFF00000000000
      let al := ctx.privBase.toNat + ((g.tidx * 128 + g.gidx) * 64 + n) * 2 ^ 24 + off
      if p.toNat < 0x00FFF00000000000 then p
      else if off < 2 ^ 24 ∧ g.tidx < 65536 ∧ al < 0x00FFF00000000000 then BitVec.ofNat 64 al
      else 0) 0

/-- R105, R106, R108, R117, R351: ldsh, once the earlier stores of its core are performed: each lane's bytes are on their way to its offset, and count into the object's running cycle when they land. -/
def Sys2Proof.Claims.LoadsToSharedMemory : Prop :=
  ∀ s gid g c o tid t₀ ctx, Issues s gid g c → isService (coreOfGid gid) = false →
    opTrap g c (active g c o) (.vs true o.a :: if o.li then [] else [.vs false o.b]) = none →
    g.team = some tid → SMap.find? s.teams tid = some t₀ → s.ctxOf? g.ctx = some ctx → coreDone s gid g = true →
    let off (n : Nat) : Int := if o.li then (o.w1.extractLsb' 8 15 : BitVec 15).toInt + n * zBytes o.var else (vec g c n false o.b).toNat
    let act := lanesOf (active g c o)
    (∀ n ∈ act, 0 ≤ off n ∧ off n + zBytes o.var ≤ t₀.sharedBytes ∧ off n % zBytes o.var = 0) →
    ∀ ok s', Access s gid g (zBytes o.var) .load (o.space = 1) (act.map (fun n => (n, (src g c o n true o.a).toNat))) ok s' →
      (∀ x ∈ ok, x.2.place = .glob ∧ Settled s' gid g (zBytes o.var) x.2 ∧ Uncached s' gid x.2) →
      (∃ t s₁, exec (.ldsh o) s = .next t ∧ Retired s₁ t gid c g none ∧ SameMemory s t ∧
        let l := ok.map (fun x => ((off x.1).toNat, s.bytes x.2.addr (zBytes o.var), o.d.toNat))
        SMap.find? t.teams tid = some { t₀ with landing := t₀.landing ++ l }) ∧
      ∀ (t₁ : Team) k lo bs obj, t₁.landing[k]? = some (lo, bs, obj) →
        let b := { t₁.obj obj with bytes := (t₁.obj obj).bytes + BitVec.ofNat 32 bs.length, event := some s.clock }
        let t₂ := { t₁ with shared := writeBytes t₁.shared lo bs, landing := t₁.landing.eraseIdx k }
        landLdsh (s.setTeam tid t₁) tid k = s.setTeam tid (t₂.setObj obj b)

end

namespace Sys2Proof.Claims

open Machine Form

/-! ## Barriers, trees and mailboxes -/

/-- R107, R108: an object at the end of a cycle: it completes its phase when every arrival and every byte has come. -/
def tested (b : BarObj) : BarObj :=
  if b.exparr ≠ 0 ∧ b.arr = b.exparr ∧ b.landb = b.expb then { b with arr := 0, phase := !b.phase, expb := 0, landb := 0 } else b
/-- R10, R176: the group that issues belongs to a resident team. -/
structure InTeam (s : State) (gid : Nat) (g : Group) (c : Clause) (tid : Nat) (t₀ : Team) : Prop where
  issues : Issues s gid g c
  team   : g.team = some tid
  res    : SMap.find? s.teams tid = some t₀
/-- R383: no stopped sequencer keeps the team from waiting: none has stopped since the last mstart or mrest. -/
def NotStopped (s : State) (t₀ : Team) : Prop :=
  ∀ n, t₀.seq = some n → ¬ ((s.seqOf (4 * t₀.core + n)).state = 3 ∧ (s.seqOf (4 * t₀.core + n)).doubt = true)
/-- R190: the fragment waits, its issue slot is free, and its clause will execute again; what the core keeps of waits of other instructions of the clause stays. -/
def Waits (s t : State) (gid : Nat) (g : Group) (c : Clause) (w : Wait) : Prop :=
  let x := g.slot c.slot
  OnlyGroup s t gid ∧ ∃ p, SMap.find? t.groups gid =
      some { g.setSlot c.slot { x with wait := { w with ended := false, ipc := c.ipc, idx := c.idx }, past := p } with clause := none } ∧
    (∀ y ∈ p, (y = x.wait ∨ y ∈ x.past) ∧ y.ipc ≠ c.ipc) ∧
    ∀ y, y = x.wait ∨ y ∈ x.past → y.kind ≠ 0 → y.ipc ≠ c.ipc → y.ipc ≠ 0 → y ∈ p
/-- R108, R358: an arrival that the instruction at `ipc` has made at object `n` for one of the lanes has not counted yet. -/
def Arriving (gid : Nat) (g : Group) (b : BarObj) (n : Nat) (lanes ipc : DWord) : Prop :=
  (∃ m cpc idx, QEntry.arrive n m cpc ipc.toNat idx ∈ g.sq ∧ m &&& lanes ≠ 0) ∨
    ∃ e ∈ b.arrs, e.group = some gid ∧ e.ipc = ipc ∧ e.mask &&& lanes ≠ 0
/-- R366: nothing is recorded of a post or take that the instruction at hand has begun. -/
def Fresh (g : Group) (c : Clause) : Prop := (waitOf g c 4 0).kind = 0 ∧ (waitOf g c 5 0).kind = 0 ∧ (waitOf g c 19 0).kind = 0
/-- R155, R364: the instruction at hand names a mailbox for a lane, its lowest active one. -/
structure ForLane (s : State) (gid : Nat) (g : Group) (c : Clause) (o : Ops) (lane : Nat) : Prop where
  issues : Issues s gid g c
  here   : (active g c o).getLsbD lane = true
  lowest : ∀ j < lane, (active g c o).getLsbD j = false
  quiet  : opTrap g c (active g c o) [.ss true o.a] = none
/-- A parity mask with one bit replaced. -/
def withBit (x : BitVec 16) (n : Nat) (b : Bool) : BitVec 16 := if b then x ||| BitVec.twoPow 16 n else x &&& ~~~BitVec.twoPow 16 n
/-- R120: the state after an acquire: only L1 lines may have gone; at clu or wider all of the core's. -/
def Acquired (s s₁ : State) (gid scope : Nat) : Prop :=
  s₁ = { s with cores := s₁.cores } ∧ (∀ n, n ≠ coreOfGid gid → s₁.coreOf n = s.coreOf n) ∧
    s₁.coreOf (coreOfGid gid) = { s.coreOf (coreOfGid gid) with l1 := (s₁.coreOf (coreOfGid gid)).l1 } ∧
    (3 ≤ scope → (s₁.coreOf (coreOfGid gid)).l1 = [])
/-- The head of a group's queue, where no queue of an ended group comes first and the group stays. -/
structure AtHead (s : State) (core slot : Nat) (g : Group) (e : QEntry) (rest : List QEntry) : Prop where
  small  : slot < 64
  alone  : ∀ o ∈ s.orphans, o.gid ≠ 64 * core + slot
  group  : SMap.find? s.groups (64 * core + slot) = some g
  queue  : g.sq = e :: rest
  stays  : g.leaving = false

/-- R155, R364: the header of a mailbox that a post or take names at its first issue: its lane, address, LOGN, where it lies, and the state after it is read. -/
structure Header (s : State) (gid : Nat) (g : Group) (c : Clause) (o : Ops) (lane hdr logn : Nat) (h : GAddr) (s₁ : State) : Prop where
  named  : ForLane s gid g c o lane
  fresh  : Fresh g c
  name   : if o.a = 0xF4 then ∃ b, g.bound = some (b, logn) ∧ hdr = b.toNat
           else hdr = (sca g true o.a).toNat ∧ logn = s.num (h.addr + 8) 1
  place  : hdr % 64 = 0 ∧ hdr < 0x00FFF00000000000
  reads  : Access s gid g 64 .acquire true [(lane, hdr)] [(lane, h)] s₁ ∧ Settled s₁ gid g 64 h
  valid  : s.num (h.addr + 8) 1 < 16 ∧ ∀ k, 9 ≤ k → k < 64 → s.num (h.addr + k) 1 = 0
/-- R155: the address of a ticket's slot, its lap, and the number of laps. -/
def slotAt (hdr logn t : Nat) : Nat := hdr + 64 + 64 * (t % 2 ^ logn)
def laps (logn : Nat) : Nat := 2 ^ min 31 (32 - logn)
def lap (logn t : Nat) : Nat := t / 2 ^ logn % laps logn
/-- R156: a slot's stores: its payload, if any, then its word as a release at dev, 60 bytes on. -/
def slotStores (lane : Nat) (b : GAddr) (pc : Nat) (payload : Option (List Byte)) (word : Nat) : List QEntry :=
  (match payload with
    | some bs => [.store [{ lane := lane, dst := b, data := bs }] 0 pc]
    | none => []) ++ [.store [{ lane := lane, dst := { b with addr := b.addr + 60, va := b.va + 60 }, data := natLe 4 word }] 4 pc]
/-- R365: what a take writes: the payload words, and 0 beyond lane 14. -/
def taken (s : State) (g : Group) (c : Clause) (o : Ops) (a : GAddr) : List RegWrite :=
  (lanesOf (active g c o)).map (fun i => .v i (destReg g i o.d) (if i < 15 then BitVec.ofNat 32 (s.num (a.addr + 4 * i) 4) else 0))
/-- R365: a success predicate. -/
def success (g : Group) (c : Clause) (o : Ops) (b : Bool) : List RegWrite := (lanesOf (active g c o)).map (fun i => .p i o.c.toNat b)
/-- Of what reads deliver, only the four bytes at an address have changed, to this number. -/
def Counted (s t : State) (a n : Nat) : Prop :=
  t.num a 4 = n ∧ ∀ x, x < a ∨ a + 4 ≤ x → t.bytes x 1 = s.bytes x 1

end Sys2Proof.Claims

section

open Sys2Proof Sys2Proof.Machine Sys2Proof.Claims Sys2Proof.Form

/-! ## Barriers -/

/-- R108, R117, R358, R363: an arrival enters the queue as a marker, and joins the object's running cycle when the marker leaves it. A tree's counts at the tree. -/
def Sys2Proof.Claims.BarrierArrivals : Prop :=
  (∀ s gid g c o tid t₀, InTeam s gid g c tid t₀ →
    (active g c o = 0 → ∃ t, exec (.barr o) s = .next t ∧ Retired s t gid c g none) ∧
    (active g c o ≠ 0 → g.sq.length < 32 → ∃ t, exec (.barr o) s = .next t ∧
      Retired s t gid c { g with sq := g.sq ++ [.arrive o.var (active g c o) c.pc.toNat c.ipc.toNat c.idx] } none)) ∧
  (∀ s gid g c o, Issues s gid g c → isService (coreOfGid gid) = false → active g c o ≠ 0 → g.sq.length < 32 →
    ∃ t, exec (.gbar o) s = .next t ∧ Retired s t gid c { g with sq := g.sq ++ [.treeArrive o.var] } none) ∧
  (∀ s core slot g obj mask cpc ipc idx rest tid t₀, AtHead s core slot g (.arrive obj mask cpc ipc idx) rest → g.team = some tid →
    SMap.find? s.teams tid = some t₀ → obj < t₀.objs.length → relReady s (64 * core + slot) g 2 = true →
    let b := t₀.obj obj
    let e : ArriveEvent := { key := 64 * core + slot, group := some (64 * core + slot), seq := false, mask := mask,
                             cpc := BitVec.ofNat 64 cpc, ipc := BitVec.ofNat 64 ipc, idx := idx }
    ∃ t, exec (.barrierArrival core slot) s = .next t ∧ t = { s with groups := t.groups, teams := t.teams } ∧
      SMap.find? t.groups (64 * core + slot) = some { g with sq := rest } ∧
      SMap.find? t.teams tid = some { t₀ with objs := t₀.objs.set obj { b with arrs := b.arrs ++ [e], event := some s.clock } }) ∧
  ∀ s core slot g tree rest, AtHead s core slot g (.treeArrive tree) rest → tree < 16 →
    relReady (relStart s core 4) (64 * core + slot) g 4 = true →
    let x := s.coreOf core
    (x.part.getLsbD tree = false → ∃ t, exec (.treeArrival core slot) s = .next t ∧ t.trees = s.trees ∧
      SMap.find? t.groups (64 * core + slot) = some { g with sq := rest, tp := withBit g.tp tree (!x.seen.getLsbD tree) }) ∧
    (x.part.getLsbD tree = true → x.arrived.getLsbD tree = false → x.seen.getLsbD tree = s.trees.getLsbD tree →
      let u := s.setCore core { x with arrived := withBit x.arrived tree true }
      ∃ t, exec (.treeArrival core slot) s = .next t ∧
        SMap.find? t.groups (64 * core + slot) = some { g with sq := rest, tp := withBit g.tp tree (x.seen.getLsbD tree) } ∧
        ((∀ e ∈ u.cores, e.2.part.getLsbD tree = true → e.2.arrived.getLsbD tree = true) →
          t.trees = s.trees ^^^ BitVec.twoPow 16 tree ∧ ∀ k, (t.coreOf k).arrived.getLsbD tree = false) ∧
        ((∃ e ∈ u.cores, e.2.part.getLsbD tree = true ∧ e.2.arrived.getLsbD tree = false) →
          t.trees = s.trees ∧ ∀ k, k ≠ core → (t.coreOf k).arrived = (s.coreOf k).arrived))

/-- R107, R108: the end of a cycle applies its bexps, then its arrivals, then its bytes, each kind in ascending order of the parties, and tests the object: arrivals count as far as EXPARR goes. An arrival that counts gives its group's parity the object's phase; one beyond EXPARR leaves ILLBARRIER, held for its fragment. -/
def Sys2Proof.Claims.BarrierCycles : Prop :=
  (∀ b : BarObj, b.bexps.Pairwise (fun x y => x.gid ≤ y.gid) → b.arrs.Pairwise (fun x y => x.key ≤ y.key) →
    let exp := b.bexps.foldl (fun e x => x.exparr.getD e) b.exparr
    let k := min b.arrs.length (exp.toNat - b.arr.toNat)
    b.close = (tested { b with exparr := exp, arr := b.arr + BitVec.ofNat 8 k, expb := b.bexps.foldl (fun n x => n + x.bytes) b.expb,
                               landb := b.landb + b.bytes, bexps := [], arrs := [], bytes := 0, event := none },
      b.arrs.mapIdx (fun i e => (e, decide (i < k))))) ∧
  (∀ b : BarObj, ∃ x y, x.Perm b.bexps ∧ y.Perm b.arrs ∧ x.Pairwise (fun u v => u.gid ≤ v.gid) ∧ y.Pairwise (fun u v => u.key ≤ v.key) ∧
    b.close = { b with bexps := x, arrs := y }.close) ∧
  ∀ s tid t₀ n e gid g, SMap.find? s.teams tid = some t₀ → n < t₀.objs.length → (t₀.obj n).arrs = [e] → e.seq = false → e.group = some gid →
    SMap.find? s.groups gid = some g → g.team = some tid → (∀ x ∈ t₀.left, x.gid ≠ gid) →
    let s' := closeObj s tid t₀ n
    let counted := decide ((t₀.obj n).arr.toNat < ((t₀.obj n).bexps.foldl (fun x y => y.exparr.getD x) (t₀.obj n).exparr).toNat)
    let h : Held := { cause := 0x06, reason := 0, info := BitVec.ofNat 32 n, mask := e.mask, cpc := e.cpc, ipc := e.ipc, idx := e.idx }
    (t₀.obj n).bexps.length ≤ 1 →
      s' = { s with groups := s'.groups, teams := s'.teams } ∧ SMap.find? s'.teams tid = some (t₀.setObj n (t₀.obj n).close.1) ∧
        SMap.find? s'.groups gid = some (if counted then { g with wp := withBit g.wp n (t₀.obj n).phase } else { g with held := g.held ++ [h] })

/-- R357-R359, R363, R190: waits. A wait that finds its phase complete takes the phase into the group's parity, acquires and retires; barw arrives at its first issue, and waits for its arrival to count; bwait and btest say so in their predicate, and say no when their time is over, from then on. -/
def Sys2Proof.Claims.BarrierWaits : Prop :=
  (∀ s gid g c o tid t₀, InTeam s gid g c tid t₀ → NotStopped s t₀ → active g c o ≠ 0 →
    let w : Wait := { Wait.none with kind := 2, target := o.var }
    let complete : Bool := (t₀.obj o.var).phase != g.wp.getLsbD o.var
    let arrived : Group := { g with sq := g.sq ++ [.arrive o.var (active g c o) c.pc.toNat c.ipc.toNat c.idx] }
    ((waitOf g c 2 o.var).kind = 0 → g.sq.length < 32 → ∃ t, exec (.barw o) s = .next t ∧ Waits s t gid arrived c w) ∧
    ((waitOf g c 2 o.var).kind ≠ 0 →
      (complete = true → ¬ Arriving gid g (t₀.obj o.var) o.var g.fmask c.ipc →
        ∃ t s₁, exec (.barw o) s = .next t ∧ Acquired s s₁ gid 2 ∧
          Retired s₁ t gid c (clearWait { g with wp := withBit g.wp o.var (t₀.obj o.var).phase } c 2 o.var) none) ∧
      (complete = false ∨ Arriving gid g (t₀.obj o.var) o.var g.fmask c.ipc → ∃ t, exec (.barw o) s = .next t ∧ Waits s t gid g c w))) ∧
  (∀ s gid g c o tid t₀ i, InTeam s gid g c tid t₀ → NotStopped s t₀ → active g c o ≠ 0 →
    let os := if i = Instr.bwait o ∧ o.li = false then (if o.sB then [Opd.ss false o.b] else [.vs false o.b]) else []
    let lane := if 0xF6 ≤ o.b.toNat then lowestLane (active g c o) else active g c o
    opTrap g c lane os = none → i = .bwait o ∨ i = .btest o →
    let old := waitOf g c 2 o.var
    let complete : Bool := (t₀.obj o.var).phase != g.wp.getLsbD o.var
    let bound : Nat := if i = .btest o then 0 else if o.li then o.imm24.toNat else if o.sB then (low (sca g false o.b)).toNat else
      match lanesOf (active g c o) with
      | n :: _ => (vec32 g c n o.b).toNat
      | [] => 0
    let due : Nat := match old.deadline with
      | some d => d
      | none => (g.slot c.slot).first.getD s.clock + bound
    (complete = true → old.deadline ≠ some 0 →
      ∃ t s₁, exec i s = .next t ∧ Acquired s s₁ gid 2 ∧
        Retired s₁ t gid c ((clearWait { g with wp := withBit g.wp o.var (t₀.obj o.var).phase } c 2 o.var).setP o.d.toNat (active g c o) (active g c o)) none) ∧
    (complete = false ∨ old.deadline = some 0 → (due ≤ s.clock ∨ bound = 0) →
      ∃ t, exec i s = .next t ∧ Retired s t gid c
        ((if bound = 0 then g else pastWait g c { Wait.none with kind := 2, target := o.var, deadline := some 0 }).setP o.d.toNat (active g c o) 0) none) ∧
    (complete = false → s.clock < due → bound ≠ 0 →
      ∃ t, exec i s = .next t ∧ Waits s t gid g c { Wait.none with kind := 2, target := o.var, deadline := some due })) ∧
  ∀ s gid g c o, Issues s gid g c → isService (coreOfGid gid) = false → active g c o ≠ 0 →
    let seen := (s.coreOf (coreOfGid gid)).seen.getLsbD o.var
    (seen ≠ g.tp.getLsbD o.var → ∃ t s₁, exec (.gbwait o) s = .next t ∧ Acquired s s₁ gid 4 ∧
      Retired s₁ t gid c (clearWait { g with tp := withBit g.tp o.var seen } c 3 o.var) none) ∧
    (seen = g.tp.getLsbD o.var → ∃ t, exec (.gbwait o) s = .next t ∧ Waits s t gid g c { Wait.none with kind := 3, target := o.var })

/-- R360, R108: bexp joins its object's running cycle with the expected bytes that it adds and the expected arrivals that it may set; fewer than have arrived raise ILLBARRIER and change nothing. -/
def Sys2Proof.Claims.BarrierExpectations : Prop :=
  ∀ s gid g c o tid t₀, InTeam s gid g c tid t₀ → active g c o ≠ 0 →
    opTrap g c (if 0xF6 ≤ o.b.toNat then lowestLane (active g c o) else active g c o)
      (if o.li then [] else if o.sB then [.ss false o.b] else [.vs false o.b]) = none →
    let b := t₀.obj o.var
    let bytes : Word := if o.li then o.imm24.signExtend 32 else if o.sB then low (sca g false o.b) else
      match lanesOf (active g c o) with
      | n :: _ => vec32 g c n o.b
      | [] => 0
    let exp : Option (BitVec 8) := if o.li ∨ o.c = 0 then none else if o.c = 0xF4 then some 0 else some o.c
    ((∀ e, exp = some e → b.arr.toNat ≤ e.toNat) →
      ∃ t s₁, exec (.bexp o) s = .next t ∧ Retired s₁ t gid c g none ∧
        s₁ = s.setTeam tid { t₀ with objs := (t₀.objs.set o.var
          { b with bexps := b.bexps ++ [{ gid := gid, bytes := bytes, exparr := exp }], event := some s.clock }) }) ∧
    (∀ e, exp = some e → e.toNat < b.arr.toNat → Enters s g → Traps s gid g c (.bexp o) 0x06 0 (BitVec.ofNat 32 o.var) g.fmask)

/-! ## Mailboxes -/

/-- R156, R364-R366, R131: posts and takes that hold their ticket: at a slot that is ready they store it, in order, and retire; at another they wait on. A post that takes a ticket raises TAIL by one and keeps the payload it has read. -/
def Sys2Proof.Claims.PostsAndTakes : Prop :=
  (∀ s gid g c o lane t₀ a s₂, ForLane s gid g c o lane →
    let w := waitOf g c 4 0
    let l := lap w.logn t₀.toNat
    w.kind ≠ 0 → w.ticket = some t₀ → w.stage = 2 → (w.ipc = 0 → payloadTrap o g c = none ∧ w.payload ≠ []) →
    Access s gid g 64 .acquire true [(lane, slotAt w.hdr w.logn t₀.toNat)] [(lane, a)] s₂ → Settled s₂ gid g 64 a →
      (s.num (a.addr + 60) 4 ≠ 2 * l → ∃ t, exec (.mpost o) s = .next t ∧ Waits s₂ t gid g c w) ∧
      ∀ b s₃, s.num (a.addr + 60) 4 = 2 * l → g.sq.length < 31 → Access s₂ gid g 64 .store true [(lane, slotAt w.hdr w.logn t₀.toNat)] [(lane, b)] s₃ →
        ∃ t, exec (.mpost o) s = .next t ∧ Retired s₃ t gid c
          { clearWait g c 4 0 with sq := g.sq ++ slotStores lane b c.ipc.toNat (some (w.payload.flatMap (fun x => natLe 4 x.toNat))) (2 * l + 1) } none) ∧
  (∀ s gid g c o lane t₀ a s₂, ForLane s gid g c o lane →
    let w := waitOf g c 5 0
    let l := lap w.logn t₀.toNat
    w.kind ≠ 0 → w.ticket = some t₀ → w.stage = 2 → (w.ipc = 0 → boundsOf g (active g c o) [.vd false false o.d] = none) → CtrRoom g o.ctr →
    Access s gid g 64 .acquire true [(lane, slotAt w.hdr w.logn t₀.toNat)] [(lane, a)] s₂ → Settled s₂ gid g 64 a →
      (s.num (a.addr + 60) 4 ≠ 2 * l + 1 → ∃ t, exec (.mtake o) s = .next t ∧ Waits s₂ t gid g c w) ∧
      ∀ b s₃, s.num (a.addr + 60) 4 = 2 * l + 1 → g.sq.length < 31 → Access s₂ gid g 64 .store true [(lane, slotAt w.hdr w.logn t₀.toNat)] [(lane, b)] s₃ →
        ∃ t s₄, exec (.mtake o) s = .next t ∧ Acquired s₃ s₄ gid 4 ∧ ResultDue s₄ t gid
          { clearWait g c 5 0 with sq := g.sq ++ slotStores lane b c.ipc.toNat none (2 * ((l + 1) % laps w.logn)) } c o.ctr (taken s g c o a)) ∧
  ∀ s gid g c o lane hdr logn h s₁ ta s₂ a s₃, Header s gid g c o lane hdr logn h s₁ → payloadTrap o g c = none →
    Access s₁ gid g 4 .atomic true [(lane, hdr)] [(lane, ta)] s₂ → ta.place = .glob → Settled s₂ gid g 4 ta →
    shadowOver s₂ (coreOfGid gid) ta.addr 4 = false →
    let n := s.num ta.addr 4
    let u := dropLine (performWrite s₂ gid ta (natLe 4 ((n + 1) % 2 ^ 32))) (coreOfGid gid) ta
    Access u gid g 64 .acquire true [(lane, slotAt hdr logn n)] [(lane, a)] s₃ → Settled s₃ gid g 64 a →
    u.num (a.addr + 60) 4 ≠ 2 * lap logn n →
      ∃ t p, exec (.mpost o) s = .next t ∧ Counted s t ta.addr ((n + 1) % 2 ^ 32) ∧
        (∀ i, i < 15 → g.fmask.getLsbD i = true → g.lmask.getLsbD i = true → p[i]? = some (vec32 g c i o.d)) ∧
        Waits s₃ t gid g c { Wait.none with kind := 4, ticket := some (BitVec.ofNat 32 n), payload := p, hdr := hdr, logn := logn, stage := 2 }

/-- R156, R364, R365, R367: posts and takes that do not block: at a slot that is not ready they answer no and change nothing else; otherwise they store the slot, count the ticket and answer yes. mbind binds a valid header. -/
def Sys2Proof.Claims.TriesAndBinding : Prop :=
  (∀ s gid g c o lane hdr logn h s₁ a s₂, Header s gid g c o lane hdr logn h s₁ → CtrRoom g o.ctr →
    ∀ post off, (post, off) ∈ [(true, 0), (false, 4)] →
    let i := if post then Instr.mpostNb o else .mtry o
    let n := s.num (h.addr + off) 4
    let l := lap logn n
    (post = true → payloadTrap o g c = none) → (post = false → boundsOf g (active g c o) [.vd false false o.d] = none) →
    Access s₁ gid g 64 .acquire true [(lane, slotAt hdr logn n)] [(lane, a)] s₂ → Settled s₂ gid g 64 a →
    let word := s.num (a.addr + 60) 4
    (word ≠ (if post then 2 * l else 2 * l + 1) → ∃ t, exec i s = .next t ∧ ResultDue s₂ t gid g c o.ctr (success g c o false)) ∧
    ∀ b s₃ ta s₄, word = (if post then 2 * l else 2 * l + 1) → g.sq.length < 31 →
      Access s₂ gid g 64 .store true [(lane, slotAt hdr logn n)] [(lane, b)] s₃ →
      Access s₃ gid g 4 .atomic true [(lane, hdr + off)] [(lane, ta)] s₄ → ta.place = .glob → Settled s₄ gid g 4 ta →
      shadowOver s₄ (coreOfGid gid) ta.addr 4 = false → s.num ta.addr 4 = n →
      let next : Nat := if post then 2 * l + 1 else 2 * ((l + 1) % laps logn)
      ∃ t s₅ p, exec i s = .next t ∧ Counted s t ta.addr ((n + 1) % 2 ^ 32) ∧
        ResultDue s₅ t gid { g with sq := g.sq ++ slotStores lane b c.ipc.toNat (if post then some p else none) next } c o.ctr
          ((if post then [] else taken s g c o a) ++ success g c o true) ∧
        (∀ j, j < 15 → g.fmask.getLsbD j = true → g.lmask.getLsbD j = true → leNat ((p.drop (4 * j)).take 4) = (vec32 g c j o.d).toNat)) ∧
  (∀ s gid g c o lane hdr logn h s₁, Header s gid g c o lane hdr logn h s₁ → o.a ≠ 0xF4 →
    ∃ t, exec (.mbind o) s = .next t ∧ Retired s₁ t gid c { g with bound := some (BitVec.ofNat 64 hdr, logn) } none) ∧
  (∀ s gid g c o, Issues s gid g c → o.a = 0xF4 →
    ∃ t, exec (.mbind o) s = .next t ∧ Retired s t gid c { g with bound := if active g c o = 0 then g.bound else none } none) ∧
  ∀ s gid g c o, Issues s gid g c → Enters s g → Fresh g c → active g c o ≠ 0 → o.a ≠ 0xF4 → opTrap g c (active g c o) [.ss true o.a] = none →
    ((sca g true o.a).toNat % 64 ≠ 0 ∨ 0x00FFF00000000000 ≤ (sca g true o.a).toNat) → Traps s gid g c (.mbind o) 0x07 0 0 g.fmask

end

namespace Sys2Proof.Claims

open Machine Form

/-! ## Jobs, futures, queue registers, the sequencer from outside -/

/-- R140, R141, R372: a card: TYPE, the barrier target, SCOPE, COMP, TOPS, and regions of one row. -/
def cardOf (ty : Nat) (e : BitVec 8) (scope : Nat) (ckey : BitVec 8) (tops : Nat) (rs : List (Nat × Nat × Nat)) : BitVec 512 :=
  BitVec.ofNat 512 (ty + 2 ^ 8 * (e.extractLsb' 3 1).toNat + 2 ^ 9 * (e.extractLsb' 4 4).toNat + 2 ^ 13 * scope + 2 ^ 16 * ckey.toNat +
    2 ^ 32 * tops + (rs.map (fun r => 2 ^ (128 + 128 * r.1) * (r.2.1 + 2 ^ 56 * r.2.2 + 2 ^ 80 + 2 ^ 96 * r.2.2))).sum)
/-- R141, R142: bases of 56 bits, lengths of 24 that are not 0. -/
def Fits (rs : List (Nat × Nat × Nat)) : Prop := ∀ r ∈ rs, r.2.1 < 2 ^ 56 ∧ 0 < r.2.2 ∧ r.2.2 < 2 ^ 24
/-- A direct form: its operands, TYPE, SCOPE, TOPS, regions (0, 1 read; 2 written), and what its other bits must satisfy. -/
structure Direct where
  i     : Instr
  os    : List Opd
  ty    : Nat
  scope : Nat
  tops  : Nat
  rs    : List (Nat × Nat × Nat)
  ok    : Prop
/-- R372: the direct forms. -/
def directForms (g : Group) (o : Ops) : List Direct :=
  let a := (sca g true o.a).toNat
  let b := (sca g true o.b).toNat
  let l := (low (sca g false o.c)).toNat
  let ctl := low (sca g false (o.c + 2))
  let n := (ctl.extractLsb' 0 24).toNat
  let z := [4, 8, 16, 64].getD (ctl.extractLsb' 24 2).toNat 0
  let m := (low (sca g false (o.c + 3))).toNat
  let idx := (sca g true o.c).toNat
  let col := low (sca g false o.c)
  let e : Nat := if col.extractLsb' 24 3 = 2 then 8 else 4
  let clen := e * (col.extractLsb' 0 24).toNat
  [{ i := .tcpy o, os := [.ss true o.a, .ss true o.b, .ss false o.c], ty := 1, scope := 0, tops := 0, rs := [(0, b, l), (2, a, l)], ok := True },
   { i := .tsto o, os := [.ss true o.a, .ss false o.b, .ss false o.c], ty := 2, scope := 0, tops := (low (sca g false o.b)).toNat,
     rs := [(2, a, l)], ok := True },
   { i := .tgat o, os := [.ss true o.a, .ss true o.b, .ss true o.c, .ss true (o.c + 2)], ty := 3, scope := 0,
     tops := (ctl.extractLsb' 24 3).toNat, rs := [(0, idx, 4 * n), (1, b, z * m)] ++ if ctl.getLsbD 26 then [] else [(2, a, z * n)],
     ok := ctl.extractLsb' 27 5 = 0 },
   { i := .tsct o, os := [.ss true o.a, .ss true o.b, .ss true o.c, .ss true (o.c + 2)], ty := 4, scope := 0,
     tops := (ctl.extractLsb' 24 2).toNat, rs := [(0, idx, 4 * n), (1, b, z * n), (2, a, z * m)], ok := ctl.extractLsb' 27 5 = 0 },
   { i := .tcol o, os := [.ss true o.a, .ss false o.b, .ss false o.c], ty := 5, scope := 2,
     tops := (low (sca g false o.b)).toNat + 256 * (col.extractLsb' 24 5).toNat, rs := [(0, a, clen), (2, a, clen)],
     ok := (low (sca g false o.b)).toNat < 256 }]

/-- R447, R145: the scheduler that a card of a core goes to, and that it has a free slot. -/
def schedFor (core ty : Nat) : Nat := if ty = 5 then 255 else if core < 1152 then core / 16 else if core < 1280 then 128 + (core - 1152) / 16 else core - 1280
def Free (s : State) (sched : Nat) : Prop := ∃ k < 256, (s.job sched k).live = false
/-- R131, R252: a job issue acts: the stores ordered before it have been performed, and its counter has room. -/
def Due (s : State) (gid : Nat) (g : Group) (o : Ops) : Prop := coreDone s gid g = true ∧ CtrRoom g o.ctr
/-- R145, R148, R371: a card is submitted: one slot of its scheduler, which held no job, holds this one; the handle that names it is due on the counter. A card that is not accepted is complete with status INVALID; `sure` and `never` say when it is and when it is not, and `holds` what an accepted job has. -/
def Submits (s t : State) (gid : Nat) (g : Group) (c : Clause) (o : Ops) (card : BitVec 512) (sure never : Prop) (holds : Job → Prop) : Prop :=
  let sched := schedFor (coreOfGid gid) (card.extractLsb' 0 8).toNat
  ∃ k j h, k < 256 ∧ (s.job sched k).live = false ∧
    ResultDue (s.setJob sched k j) t gid g c o.ctr (scalarWrites g 3 o.d (natLe 8 h.toNat)) ∧
    j.card = card ∧ j.ctx = g.ctx ∧ j.gid = gid ∧ j.team = g.team ∧ j.gidx = g.gidx ∧ j.sup = g.sup ∧ j.pc = c.ipc.toNat ∧
    j.gen = (if (s.job sched k).gen = 0xFFFFFFFF then 1 else (s.job sched k).gen + 1) ∧
    (h : DWord).extractLsb' 0 32 = j.gen ∧ (h.extractLsb' 32 16).toNat = k ∧ (h.extractLsb' 48 8).toNat = j.engine ∧
    (h.extractLsb' 56 8).toNat = sched ∧
    ((j.state = .pending ∧ holds j) ∨ (j.state = .complete ∧ j.status = 3)) ∧ (sure → j.state = .pending) ∧ (never → j.state = .complete)

/-- R149: what a handle names for a context: its code, its status, its job. -/
def futureOf (s : State) (ctx : Nat) (h : DWord) : Nat × Nat × Job :=
  let cl := (h.extractLsb' 56 8).toNat
  let en := (h.extractLsb' 48 8).toNat
  let slot := (h.extractLsb' 32 16).toNat
  let gen : Word := h.extractLsb' 0 32
  let j := s.job cl slot
  let age := (j.gen - gen).toNat
  if ¬ (cl < 72 ∨ (128 ≤ cl ∧ cl < 136) ∨ cl = 255) ∨ ¬ (en < 6 ∨ en = 16) ∨ gen = 0 ∨ 256 ≤ slot ∨ 2 ^ 31 ≤ age ∨ j.ctx ≠ ctx then (4, 0, j)
  else if 0 < age then (3, 0, j)
  else match j.state with
    | .pending => (0, 0, j)
    | .running | .parked => (1, 0, j)
    | .complete => (2, j.status, j)
    | .empty => (4, 0, j)
/-- R378: the result word. -/
def resultWord (x : Nat × Nat × Job) : DWord := BitVec.ofNat 64 (x.1 + 256 * x.2.1)
/-- R131, R149: DONE and EXPIRED acquire at the job's scope; clu reaches no other cluster. -/
def futureScope (gid : Nat) (x : Nat × Nat × Job) : Nat :=
  if (x.1 = 2 ∨ x.1 = 3) ∧ (x.2.2.scope ≠ 3 ∨ clusterOfCore (coreOfGid gid) = some x.2.2.cluster) then x.2.2.scope else 0

/-- R152, R379: a queue register, and whether its port is written or read. -/
def pushes (p : Nat) : Prop := p = 4 ∨ p = 6
def pops (p : Nat) : Prop := p = 1 ∨ p = 2 ∨ p = 3 ∨ p = 5
/-- Only queue register `n` of `g'` differs from `g`'s: it holds these entries. -/
def Queued (g g' : Group) (n port : Nat) (fifo : List (SMap Word)) : Prop :=
  g'.queues.map (fun q => (q.port, q.fifo)) = (g.queues.map (fun q => (q.port, q.fifo))).set n (port, fifo)
/-- R382, R380: the team's sequencer. -/
structure HasSeq (s : State) (g : Group) (tid : Nat) (t : Team) (key : Nat) : Prop where
  team : g.team = some tid
  res  : SMap.find? s.teams tid = some t
  key  : ∃ n, t.seq = some n ∧ key = 4 * t.core + n
/-- R210, R381: MPROG and MSTATE. -/
def mprogOf (q : Seq) : DWord := (low q.soff ++ (0#14 ++ BitVec.ofBool q.aheld ++ BitVec.ofBool q.park ++ q.kstep : BitVec 32) : BitVec 64)
def mstateOf (q : Seq) : DWord := (0#48 ++ q.reason ++ 0#5 ++ BitVec.ofBool q.aheld ++ q.state : BitVec 64)

end Sys2Proof.Claims

section

open Sys2Proof Sys2Proof.Machine Sys2Proof.Claims Sys2Proof.Form

/-! ## Jobs and futures -/

/-- R117, R131, R252, R371, R372, R402, R63: the forms that issue a job, once the stores ordered before it have been performed and its counter has room: a card is read or built and submitted, and its handle is due; a frame-engine card goes to the frame engines, with handle 0. While every slot is taken the form waits. -/
def Sys2Proof.Claims.JobsAreSubmitted : Prop :=
  (∀ s gid g c o ctx, Issues s gid g c → coreOfGid gid < 1352 → s.ctxOf? g.ctx = some ctx → ∀ f ∈ directForms g o,
    opTrap g c (active g c o) (.sd true o.d :: f.os) = none →
    let card := cardOf f.ty o.e f.scope ctx.ckey f.tops f.rs
    (active g c o = 0 → ∃ t, exec f.i s = .next t ∧ Retired s t gid c g none) ∧
    (active g c o ≠ 0 → ¬ (Due s gid g o ∧ Free s (schedFor (coreOfGid gid) f.ty)) → exec f.i s = .next s) ∧
    (active g c o ≠ 0 → Due s gid g o → Free s (schedFor (coreOfGid gid) f.ty) → f.ok → Fits f.rs →
      let plain : Prop := (f.ty = 1 ∨ f.ty = 2) ∧ (∀ r ∈ f.rs, r.2.1 + r.2.2 ≤ 0x00FFF00000000000) ∧
        (f.ty = 2 → ∀ r ∈ f.rs, r.2.2 % 4 = 0) ∧ o.e.extractLsb' 3 5 = 0
      ∃ t, exec f.i s = .next t ∧ Submits s t gid g c o card plain False (fun j => plain →
        j.wr = (f.rs.find? (fun r => r.1 = 2)).map (fun r => { place := .glob, base := r.2.1, len := r.2.2, rows := 1, stride := r.2.2 }))) ∧
    (active g c o ≠ 0 → Due s gid g o → Free s (schedFor (coreOfGid gid) f.ty) → ¬ (f.ok ∧ Fits f.rs) →
      ∃ t built, exec f.i s = .next t ∧ (built.extractLsb' 0 8).toNat = f.ty ∧ Submits s t gid g c o built False True (fun _ => True))) ∧
  (∀ s gid g c o ctx, Ready s gid g c (active g c o) [.sd true o.d, .ss true o.a, .ss true o.b] → s.ctxOf? g.ctx = some ctx →
    isService (coreOfGid gid) = false → active g c o ≠ 0 → Due s gid g o → Free s (coreOfGid gid / 16) → o.c.toNat < 16 →
    let off := (sca g true o.a).toNat
    let len := (sca g true o.b).toNat
    (off < 2 ^ 40 ∧ len < 2 ^ 40 → ∃ t, exec (.gate o) s = .next t ∧
      Submits s t gid g c o (cardOf 6 0 1 ctx.ckey (off + 2 ^ 40 * len + 2 ^ 80 * o.c.toNat) []) False (ctx.world = 0 ∧ ctx.kind = 0) (fun _ => True)) ∧
    (¬ (off < 2 ^ 40 ∧ len < 2 ^ 40) → ∃ t built, exec (.gate o) s = .next t ∧ (built.extractLsb' 0 8).toNat = 6 ∧
      Submits s t gid g c o built False True (fun _ => True))) ∧
  ∀ s gid g c o lane, Issues s gid g c → coreOfGid gid < 1352 → opTrap g c (active g c o) [.sd true o.d, .ss true o.a] = none →
    (active g c o).getLsbD lane = true → (∀ j < lane, (active g c o).getLsbD j = false) →
    let addr := (sca g true o.a).toNat
    (addr % 64 ≠ 0 → Enters s g → Traps s gid g c (.job o) 0x0E 0 0 g.fmask) ∧
    (addr % 64 = 0 → ¬ Due s gid g o → exec (.job o) s = .next s) ∧
    ∀ a s₁ ctx, Due s gid g o → Access s gid g 64 .load false [(lane, addr)] [(lane, a)] s₁ → Settled s₁ gid g 64 a →
      Uncached s₁ gid a → s.ctxOf? g.ctx = some ctx →
      let card : BitVec 512 := BitVec.ofNat 512 (leNat (readPlace s a.place a.addr 64))
      let ty := (card.extractLsb' 0 8).toNat
      (g.sup = false → (ty = 0x10 ∨ ty = 0x11 ∨ (0x20 ≤ ty ∧ ty ≤ 0x2A)) → Enters s g →
        ∃ s₂, Reached s s₂ ∧ ∃ t, exec (.job o) s = .next t ∧ Trapped s₂ t gid g (opRec g c 0x0F 0 0 g.fmask)) ∧
      (g.sup = true → 0x20 ≤ ty → ty ≤ 0x2A → ∃ s₂ t e, Reached s s₂ ∧ exec (.job o) s = .next t ∧ e.ty = ty ∧ e.card = card ∧
        e.addr = BitVec.ofNat 64 addr ∧ e.ctx = g.ctx ∧ e.core = coreOfGid gid ∧ e.started = false ∧
        ResultDue { s₂ with feQ := s.feQ ++ [e] } t gid g c o.ctr (scalarWrites g 3 o.d (List.replicate 8 0))) ∧
      (¬ (0x20 ≤ ty ∧ ty ≤ 0x2A) → (g.sup = true ∨ (ty ≠ 0x10 ∧ ty ≠ 0x11)) → Free s (schedFor (coreOfGid gid) ty) →
        ∃ s₂ t, Reached s s₂ ∧ exec (.job o) s = .next t ∧ Submits s₂ t gid g c o card False False (fun _ => True))

/-- R149, R150, R378, R131: fwait waits while its handle is PENDING or RUNNING, and answers otherwise; ftest answers at once; fcanc removes a job that has not started. -/
def Sys2Proof.Claims.Futures : Prop :=
  ∀ s gid g c o, Issues s gid g c → opTrap g c (active g c o) [.sd false o.d, .ss true o.a] = none →
    (active g c o = 0 → ∀ i, i = Instr.fwait o ∨ i = .ftest o ∨ i = .fcanc o → ∃ t, exec i s = .next t ∧ Retired s t gid c g none) ∧
    (active g c o ≠ 0 →
      let h := sca g true o.a
      let w := waitOf g c 1 0
      let h₁ := if w.handle ≠ 0 then w.handle else h
      let x := futureOf s g.ctx h
      let x₁ := futureOf s g.ctx h₁
      (x₁.1 ≤ 1 → ∃ t, exec (.fwait o) s = .next t ∧ Waits s t gid g c { Wait.none with kind := 1, handle := h₁ }) ∧
      (2 ≤ x₁.1 → ∃ t s₁, exec (.fwait o) s = .next t ∧ Acquired s s₁ gid (futureScope gid x₁) ∧
        ScaDone s₁ t gid (clearWait g c 1 0) c true false o.d (resultWord x₁)) ∧
      (CtrRoom g o.ctr → ∃ t s₁, exec (.ftest o) s = .next t ∧ Acquired s s₁ gid (futureScope gid x) ∧
        ResultDue s₁ t gid g c o.ctr (scalarWrites g 2 o.d (natLe 8 (resultWord x).toNat))) ∧
      (CtrRoom g o.ctr → x.1 ≠ 0 → ∃ t, exec (.fcanc o) s = .next t ∧ ResultDue s t gid g c o.ctr (scalarWrites g 2 o.d (natLe 8 0))) ∧
      (CtrRoom g o.ctr → x.1 = 0 → ∃ t s₁, exec (.fcanc o) s = .next t ∧ ResultDue s₁ t gid g c o.ctr (scalarWrites g 2 o.d (natLe 8 1)) ∧
        s₁ = { s with scheds := s₁.scheds } ∧ ∀ cl k, s₁.job cl k =
          if cl = (h.extractLsb' 56 8).toNat ∧ k = (h.extractLsb' 32 16).toNat then
            { s.job cl k with state := .complete, phase := 3, status := 4, readsDone := true, edges := [], buf := [], out := [], resume := false }
          else s.job cl k))

/-- R152, R153, R379: queue registers: binding, status, popping (a replay reads what its clause has popped), pushing; an empty queue waits and a full one stalls; a port of the other direction raises ILLINSTR. A pop from port 5 acquires at dev, and a push to port 6 is a release at dev. -/
def Sys2Proof.Claims.QueueRegisters : Prop :=
  (∀ s gid g c o, Issues s gid g c → g.queues.length = 8 → o.d.toNat < 8 →
    let r := g.queues.getD o.d.toNat QReg.init
    (active g c o = 0 → ∃ t, exec (.qbind o) s = .next t ∧ Retired s t gid c g none) ∧
    (active g c o ≠ 0 → pushes r.port → r.fifo ≠ [] → exec (.qbind o) s = .next s) ∧
    (active g c o ≠ 0 → (¬ pushes r.port ∨ r.fifo = []) → ∃ t g', exec (.qbind o) s = .next t ∧ Retired s t gid c g' none ∧
      g' = { g with queues := g'.queues } ∧ Queued g g' o.d.toNat o.mod.toNat [])) ∧
  LongSca .qstatStatus (fun _ => []) (fun _ => false) (fun g o =>
    let r := g.queues.getD o.a.toNat QReg.init
    if r.port = 0 then 0 else BitVec.ofNat 64 (r.fifo.length % 64 + 64 * r.port)) ∧
  ∀ s gid g c o, Issues s gid g c → g.queues.length = 8 → o.a.toNat < 8 →
    let r := g.queues.getD o.a.toNat QReg.init
    let key := 32 * g.sup.toNat + 16 * c.slot + c.idx
    let back := 32 * g.sup.toNat + 16 * c.slot + 15
    let took := clearWait g c 6 o.a.toNat
    let scope : Nat := if r.port = 5 then 4 else 0
    (¬ pops r.port → Enters s g → Traps s gid g c (.qstatPop o) 0x02 0 0 g.fmask) ∧
    (¬ pushes r.port → Enters s g → Traps s gid g c (.qstatPush o) 0x02 0 0 g.fmask) ∧
    (pops r.port → opTrap g c (active g c o) [.vd false false o.d] = none →
      (active g c o = 0 → ∃ t, exec (.qstatPop o) s = .next t ∧ Retired s t gid c g none) ∧
      (active g c o ≠ 0 →
        (∀ e, SMap.find? r.pop key = some e → ∃ t s₁ g', exec (.qstatPop o) s = .next t ∧ Acquired s s₁ gid scope ∧ Retired s₁ t gid c g' none ∧
          g' = { took with vregs := g'.vregs } ∧ Wrote took g' (active g c o) false false o.d (fun n => wide (SMap.get 0 e n))) ∧
        (∀ e rest, SMap.find? r.pop key = none →
          SMap.find? r.pop back = some e ∧ rest = r.fifo ∨ SMap.find? r.pop back = none ∧ r.fifo = e :: rest →
          ∃ t s₁ g', exec (.qstatPop o) s = .next t ∧ Acquired s s₁ gid scope ∧ Retired s₁ t gid c g' none ∧
            g' = { took with vregs := g'.vregs, queues := g'.queues } ∧ Queued g g' o.a.toNat r.port rest ∧
            SMap.find? (g'.queues.getD o.a.toNat QReg.init).pop key = some e ∧
            Wrote took g' (active g c o) false false o.d (fun n => wide (SMap.get 0 e n))) ∧
        (SMap.find? r.pop key = none → SMap.find? r.pop back = none → r.fifo = [] →
          ∃ t, exec (.qstatPop o) s = .next t ∧ Waits s t gid g c { Wait.none with kind := 6, target := o.a.toNat }))) ∧
    (pushes r.port → opTrap g c (active g c o) [.vs false o.b] = none →
      (active g c o = 0 → ∃ t, exec (.qstatPush o) s = .next t ∧ Retired s t gid c g none) ∧
      (active g c o ≠ 0 → 32 ≤ r.fifo.length → exec (.qstatPush o) s = .next s) ∧
      (active g c o ≠ 0 → r.fifo.length < 32 → r.port = 6 → ¬ (g.sq = [] ∧ relReady (relStart s (coreOfGid gid) 4) gid g 4 = true) →
        ∃ t, exec (.qstatPush o) s = .next t ∧ t.groups = s.groups) ∧
      (active g c o ≠ 0 → r.fifo.length < 32 → ∀ s₁, (r.port = 4 ∧ s₁ = s ∨
          r.port = 6 ∧ g.sq = [] ∧ s₁ = relStart s (coreOfGid gid) 4 ∧ relReady s₁ gid g 4 = true) →
        ∃ t g' e, exec (.qstatPush o) s = .next t ∧ Retired s₁ t gid c g' none ∧
        g' = { g with queues := g'.queues } ∧ Queued g g' o.a.toNat r.port (r.fifo ++ [e]) ∧
        ∀ n, n < g.width → SMap.get 0 e n = if (active g c o).getLsbD n then vec32 g c n o.b else 0))

/-- R370, R381, R382: mstart starts the team's sequencer anew, and mstat reads its registers; mstart of one that runs or is parked raises ILLINSTR, of a stream at no multiple of 8 MISALIGN. -/
def Sys2Proof.Claims.SequencerFromOutside : Prop :=
  ∀ s gid g c o tid t₀ key, HasSeq s g tid t₀ key →
    let q := s.seqOf key
    let addr := sca g true o.a
    (ReadyWide s gid g c (active g c o) [.ss true o.a, .ss false o.b] → active g c o ≠ 0 → q.state = 0 ∨ q.state = 3 → addr.extractLsb' 0 3 = 0 →
      ∃ t q', exec (.mstart o) s = .next t ∧
        Retired ((s.setSeq key q').setTeam tid { t₀ with mbase := addr }) t gid c g none ∧
        q' = { q with team := some tid, gid := gid, mparam := low (sca g false o.b), kstep := 0, park := false, aheld := false, soff := 0,
                      mflags := 0, state := 1, reason := 0, lact0 := false, lact1 := false, wp := 0, arrm := q'.arrm, pseq := q'.pseq,
                      sobj := q'.sobj, doubt := false, waiting := false }) ∧
    (ReadyWide s gid g c (active g c o) [.ss true o.a, .ss false o.b] → Enters s g →
      (q.state = 1 ∨ q.state = 2 → Traps s gid g c (.mstart o) 0x02 0 0 g.fmask) ∧
      (q.state = 0 ∨ q.state = 3 → active g c o ≠ 0 → addr.extractLsb' 0 3 ≠ 0 → Traps s gid g c (.mstart o) 0x0E 0 0 g.fmask)) ∧
    (ReadyWide s gid g c (active g c o) [.sd true o.d] →
      ∃ t, exec (.mstat o) s = .next t ∧ ScaDone s t gid g c (decide (active g c o ≠ 0)) true o.d
        (if o.c = 0 then mprogOf q else if o.c = 1 then wide q.mflags else mstateOf q))

end

namespace Sys2Proof.Claims

open Machine Form

/-! ## The matrix stream -/

/-- The word is performed, and the sequencer, which holds what `q` holds, stands at the next one. -/
def Goes (s : State) (key : Nat) (q : Seq) : Host.Outcome State Fault Refusal :=
  .next (s.setSeq key { q with soff := q.soff + 8, kstep := 0 })
/-- R383: the traps of a group that waits on a barrier object of a stopped sequencer's team. -/
def stoppedTraps (g : Group) (cause : Nat) (info : Word) : List Held :=
  ((if g.sup then [g.k0, g.k1] else [g.s0, g.s1]).filter (fun x => x.wait.kind = 2 ∧ x.wait.ended = false)).map
    (fun x => { cause := cause, reason := 0, info := info, mask := x.mask, cpc := x.pc, ipc := x.wait.ipc, idx := x.wait.idx })
/-- R266, R383: the stream stops before the word, and the team's waiting groups take a trap. -/
def Stops (s t : State) (key : Nat) (q : Seq) (tid : Nat) (reason : BitVec 8) (obj : Nat) : Prop :=
  t = { s with seqs := t.seqs, groups := t.groups } ∧
  t.seqOf key = { q with state := 3, reason := reason, park := false, sobj := obj, doubt := true, waiting := false } ∧
  (∀ k, k ≠ key → t.seqOf k = s.seqOf k) ∧
  ∀ n, SMap.find? t.groups n = (SMap.find? s.groups n).map (fun g => if g.team = some tid then
    { g with held := g.held ++ (if reason = 4 then stoppedTraps g 0x06 (BitVec.ofNat 32 obj) else stoppedTraps g 0x02 0) } else g)
/-- R210, R382, R448: the sequencer parks before the word, with a record that names the group of mstart and the address. -/
def ParksAt (s : State) (key : Nat) (q : Seq) (t : Team) (va : Nat) : Host.Outcome State Fault Refusal :=
  let r : FaultRec := { cause := 2, akind := 6, level := 0, straddle := false, sup := false, win := false, ctx := t.ctx, core := coreOfGid q.gid,
                        va := va, pc := (t.mbase + q.soff).toNat, lanes := 0, entry := 0, ftag := 0, ffmt := 0, slot := slotOfGid q.gid,
                        seq := s.seqNo.toNat }
  .next ((postFault { s with seqNo := s.seqNo + 1 } r).setSeq key { q with state := 2, park := true, pseq := s.seqNo })
/-- R386: a tile of `w` rows with elements of `n` bytes lies in the accumulators. -/
def TileFits (acc w n : Nat) : Prop := acc % max 1 (w * 64 * n / 8192) = 0 ∧ acc + max 1 (w * 64 * n / 8192) ≤ 8
/-- R386: element (i, c) of a tile. -/
def element (q : Seq) (acc n i c : Nat) : Nat := readNat q.acc (8192 * acc + n * (64 * i + c)) n
/-- Only bytes of one range differ between two memories. -/
def OnlyBytes (m m' : SMap Byte) (lo n : Nat) : Prop := ∀ a, a < lo ∨ lo + n ≤ a → readByte m' a = readByte m a
/-- R105, R108, R390: a team whose shared memory holds other bytes in a range, which join an object's running cycle when `cnt` says so. -/
def Landed (s : State) (t u : Team) (off n : Nat) (cnt : Bool) (obj : Nat) : Prop :=
  u = { t with shared := u.shared, objs := if cnt then t.objs.set obj { t.obj obj with bytes := (t.obj obj).bytes + BitVec.ofNat 32 n, event := some s.clock } else t.objs } ∧
  OnlyBytes t.shared u.shared off n
/-- R224, R390: an element of a tile converted to its target, and the flags; a NaN becomes the target's default NaN. -/
def converted (asz : BitVec 2) (dfmt : BitVec 3) (x : Nat) : Nat × Word :=
  let nan (f : Fmt) (d : Nat) (r : FRes) : FRes := if fIsNaN f x then ⟨d, r.fl⟩ else r
  let r : FRes := if asz = 0 ∧ dfmt = 1 then nan Fmt.f32 0x7E00 (fCvt Fmt.f32 Fmt.f16 0 false false x)
    else if asz = 0 ∧ dfmt = 2 then nan Fmt.f32 0x7FC0 (fCvt Fmt.f32 Fmt.bf16 0 false false x)
    else if asz = 1 ∧ dfmt = 0 then nan Fmt.f64 0x7FC00000 (fCvt Fmt.f64 Fmt.f32 0 false false x) else if asz = 2 ∧ dfmt = 0 then fOfInt Fmt.f32 0 false (BitVec.ofNat 32 x).toInt
    else ⟨x, 0⟩
  (r.bits, r.fl)
/-- R390: the combinations that mdrain accepts. -/
def drains : List (BitVec 2 × BitVec 3) := [(0, 0), (0, 1), (0, 2), (1, 3), (1, 0), (2, 4), (2, 0)]
/-- R238: flags enter MFLAGS as FPCSR's sticky bits lie there. -/
def orAll (l : List Word) : Word := l.foldl (· ||| ·) 0 >>> 8
/-- R384: bytes of an accumulator element and of a drained one. -/
def aBytes (asz : BitVec 2) : Nat := if asz = 1 then 8 else 4
def dBytes (dfmt : BitVec 3) : Nat := if dfmt = 1 ∨ dfmt = 2 then 2 else if dfmt = 3 then 8 else 4
/-- Every row and column of a tile. -/
def cells (w : Nat) : List (Nat × Nat) := (List.range w).flatMap (fun i => (List.range 64).map (fun c => (i, c)))

/-- R385: K, and the elements of a k-step (R235). -/
def depth (afmt : Nat) (sparse : Bool) : Nat := (if sparse then 2 else 1) * [16, 32, 64, 64, 128, 256].getD afmt 256
def unitOf (afmt : Nat) : Nat := [1, 8, 8, 8].getD afmt 32
/-- R385: bits of an element. -/
def bitsOf (fmt : Nat) : Nat := [64, 32, 16, 16, 8].getD fmt 4
/-- R387: fields of a record. -/
def rf (r : BitVec 512) (lo w : Nat) : Nat := (r.extractLsb' lo w).toNat
/-- R387, R388: the element (k, n) of B from shared memory: at BASE + n × CSTRIDE + k × size for kind 1; by the im2col rule for kind 2. -/
def bElem (t : Team) (r : BitVec 512) (k n : Nat) : BElem :=
  let bits := bitsOf (rf r 11 3)
  if rf r 0 8 = 1 then
    .code (readNat t.shared (rf r 64 64 + n * rf r 128 32 + k * bits / 8) ((bits + 7) / 8) / 2 ^ (k * bits % 8) % 2 ^ bits)
  else
    let p := rf r 256 32 + n
    let x := rf r 224 32 + k
    let c := rf r 64 16
    let kw := rf r 132 4
    let ow := rf r 96 16
    let y : Int := (p / ow * rf r 136 4 : Nat) + (x / c / kw * rf r 144 4 : Nat) - (rf r 112 8 : Nat)
    let z : Int := (p % ow * rf r 140 4 : Nat) + (x / c % kw * rf r 148 4 : Nat) - (rf r 120 8 : Nat)
    if rf r 128 4 * kw * c ≤ x ∨ rf r 80 16 * ow ≤ p then .zero
    else if 0 ≤ y ∧ y < rf r 32 16 ∧ 0 ≤ z ∧ z < rf r 48 16 then
      .code (readNat t.shared (rf r 320 64 + y.toNat * rf r 192 32 + z.toNat * rf r 160 32 + x % c * (bits / 8)) (bits / 8))
    else .code (rf r 384 64 % 2 ^ bits)
/-- R387, R388, R448: every byte of B, and of its scale records, lies in the declared shared memory. -/
def BInside (t : Team) (r : BitVec 512) (K : Nat) : Prop :=
  let bits := bitsOf (rf r 11 3)
  if rf r 0 8 = 1 then (∀ n < 64, rf r 64 64 + n * rf r 128 32 + K * bits / 8 ≤ t.sharedBytes) ∧
    (4 ≤ rf r 11 3 → rf r 192 20 + K / 32 * 64 ≤ t.sharedBytes)
  else ∀ y z ch, y < rf r 32 16 → z < rf r 48 16 → ch < rf r 64 16 →
    rf r 320 64 + y * rf r 192 32 + z * rf r 160 32 + ch * (bits / 8) + bits / 8 ≤ t.sharedBytes
/-- R231, R387: the scale record of block `kb` of column n. -/
def bRec (t : Team) (r : BitVec 512) (kb n : Nat) : Nat :=
  if rf r 11 3 < 4 then 0 else if rf r 0 8 = 2 then rf r 16 8 else (readByte t.shared (rf r 192 20 + kb * 64 + n)).toNat
/-- R235, R389: the k-steps that are left for element (i, n), in ascending K: its new code and the flags. -/
def accumulated (t : Team) (r : BitVec 512) (o : MmaOps) (sparse : Bool) (img : Nat → Nat → Word) (kstep i n x : Nat) : Nat × Word :=
  let u := unitOf o.afmt.toNat
  (List.range' kstep (depth o.afmt.toNat sparse / u - kstep)).foldl (fun a j =>
    let y := kstepElem img o.afmt.toNat (rf r 11 3) o.acci sparse i (j * u) (bRec t r (j * u / 32) n)
      ((List.range u).map (fun k => bElem t r (j * u + k) n)) a.1
    (y.1, a.2 ||| y.2)) (x, 0)
/-- R223, R227: an element's value as a number. -/
def numOf : FVal → ℚ
  | .fin ng m e => (if ng then -1 else 1) * m * (2 : ℚ) ^ e
  | _ => 0
/-- A binary32 result that is the nearest code to `q`, and `q` itself where that is a code. -/
def Nearest (r : Nat) (q : ℚ) : Prop :=
  fAbs Fmt.f32 r < Fmt.f32.infCode → ∀ x, Finite Fmt.f32 x → |ratOf Fmt.f32 r - q| ≤ |ratOf Fmt.f32 x - q|

end Sys2Proof.Claims

section

open Sys2Proof Sys2Proof.Machine Sys2Proof.Claims Sys2Proof.Form

/-! ## The matrix stream -/

/-- R384, R391, R357, R108, R266: the words that move the stream, arrive, wait and end. An arrival joins its object's running cycle; the cycle's end lets the stream go on, or stops it. -/
def Sys2Proof.Claims.StreamFlowWords : Prop :=
  (∀ s tid t₀ obj e key q, SMap.find? s.teams tid = some t₀ → obj < t₀.objs.length → (t₀.obj obj).arrs = [e] → e.seq = true → e.key = seqGid key →
    s.seqOf key = q → q.team = some tid → q.arriving = true → (t₀.obj obj).bexps.length ≤ 1 →
    let b := t₀.obj obj
    let s₁ := s.setTeam tid (t₀.setObj obj b.close.1)
    if b.arr.toNat < (b.bexps.foldl (fun x y => y.exparr.getD x) b.exparr).toNat then
      closeObj s tid t₀ obj = s₁.setSeq key { q with arriving := false, soff := q.soff + 8, kstep := 0, wp := withBit q.wp obj b.phase,
                                                     arrm := q.arrm ||| BitVec.twoPow 16 obj }
    else Stops s₁ (closeObj s tid t₀ obj) key { q with arriving := false } tid 4 obj) ∧
  ∀ s key q tid t, Streams s key q tid t →
    exec .mnop s = Goes s key q ∧
    (∀ off, exec (.mjmp off) s = .next (s.setSeq key { q with soff := q.soff + 8 * off.signExtend 64, kstep := 0 })) ∧
    (exec .mend s = .next (s.setSeq key { q with aheld := false, state := 0, waiting := false })) ∧
    (∀ w, ∃ u, exec (.mstreamUnassignedWord w) s = .next u ∧ Stops s u key q tid 1 0) ∧
    (∀ o : LoopOps,
      let lc := if o.ctr then q.lc1 else q.lc0
      let on := if o.ctr then q.lact1 else q.lact0
      let count : Nat := if o.usep then (q.mparam.extractLsb' 0 16).toNat else o.count.toNat
      let now : Nat := if on then lc.toNat else max count 1 - 1
      let put (x : Nat) (b : Bool) : Seq := if o.ctr then { q with lc1 := BitVec.ofNat 16 x, lact1 := b } else { q with lc0 := BitVec.ofNat 16 x, lact0 := b }
      exec (.mloop o) s = if 0 < now then .next (s.setSeq key { put (now - 1) true with soff := q.soff + 8 * o.off.signExtend 64, kstep := 0 })
        else Goes s key (put 0 false)) ∧
    ∀ obj : BitVec 4,
      let b := t.obj obj.toNat
      let e : ArriveEvent := { key := seqGid key, group := none, seq := true, mask := 0, cpc := 0, ipc := 0, idx := 0 }
      (exec (.mbar obj) s = .next ((s.setTeam tid { t with objs := t.objs.set obj.toNat { b with arrs := b.arrs ++ [e], event := some s.clock } }).setSeq key
        { q with arriving := true })) ∧
      (b.phase ≠ q.wp.getLsbD obj.toNat → exec (.mbwt obj) s = Goes s key { q with wp := withBit q.wp obj.toNat b.phase, waiting := false }) ∧
      (b.phase = q.wp.getLsbD obj.toNat → exec (.mbwt obj) s = .next (s.setSeq key { q with waiting := true }))

/-- R386, R387, R390, R238, R448: mzero, mld, mst, mdrain and mshp: what they write, and that they write nothing else; a malformed tile or record stops the stream, and bytes beyond the declared shared memory park it. -/
def Sys2Proof.Claims.TileWords : Prop :=
  ∀ s key q tid t w, Streams s key q tid t → teamWidth s tid = w → w ≤ 64 →
    (∀ acc n1 : BitVec 3, let n := 8192 * (n1.toNat + 1)
      (acc.toNat + n1.toNat < 8 → ∃ q', exec (.mzero acc n1) s = Goes s key q' ∧ q' = { q with acc := q'.acc } ∧
        OnlyBytes q.acc q'.acc (8192 * acc.toNat) n ∧ ∀ k < n, readByte q'.acc (8192 * acc.toNat + k) = 0) ∧
      (8 ≤ acc.toNat + n1.toNat → ∃ u, exec (.mzero acc n1) s = .next u ∧ Stops s u key q tid 2 0)) ∧
    (∀ o : TileOps, let n := aBytes o.asz
      let bytes := 64 * w * n
      (¬ TileFits o.acc.toNat w n → ∀ i, i = Instr.mld o ∨ i = .mst o → ∃ u, exec i s = .next u ∧ Stops s u key q tid 2 0) ∧
      (TileFits o.acc.toNat w n → t.sharedBytes < o.off.toNat + bytes → ∀ i, i = Instr.mld o ∨ i = .mst o →
        exec i s = ParksAt s key q t (0x00FFF20000000000 + max o.off.toNat t.sharedBytes)) ∧
      (TileFits o.acc.toNat w n → o.off.toNat + bytes ≤ t.sharedBytes →
        (∃ q', exec (.mld o) s = Goes s key q' ∧ q' = { q with acc := q'.acc } ∧ OnlyBytes q.acc q'.acc (8192 * o.acc.toNat) bytes ∧
          ∀ k < bytes, readByte q'.acc (8192 * o.acc.toNat + k) = readByte t.shared (o.off.toNat + k)) ∧
        ∃ u, exec (.mst o) s = Goes (s.setTeam tid u) key q ∧ Landed s t u o.off.toNat bytes o.cnt o.bobj.toNat ∧
          ∀ k < bytes, readByte u.shared (o.off.toNat + k) = readByte q.acc (8192 * o.acc.toNat + k))) ∧
    (∀ o : DrainOps, (o.asz, o.dfmt) ∈ drains →
      let n := aBytes o.asz
      let m := dBytes o.dfmt
      let e (i c : Nat) : Nat × Word := converted o.asz o.dfmt (element q o.acc.toNat n i c)
      let q' := { q with mflags := q.mflags ||| orAll ((cells w).map (fun x => (e x.1 x.2).2)) }
      (¬ TileFits o.acc.toNat w n → ∃ u, exec (.mdrain o) s = .next u ∧ Stops s u key q tid 2 0) ∧
      (TileFits o.acc.toNat w n → o.dst = false → o.off.toNat + 64 * w * m ≤ t.sharedBytes →
        ∃ u, exec (.mdrain o) s = Goes (s.setTeam tid u) key q' ∧ Landed s t u o.off.toNat (64 * w * m) o.cnt o.bobj.toNat ∧
          ∀ i c, i < w → c < 64 → readNat u.shared (o.off.toNat + m * (64 * i + c)) m = (e i c).1 % 2 ^ (8 * m)) ∧
      (TileFits o.acc.toNat w n → o.dst = true → feedGroup s tid t o.grp.toNat = none → ∃ u, exec (.mdrain o) s = .next u ∧ Stops s u key q tid 2 0) ∧
      ∀ gid g, TileFits o.acc.toNat w n → o.dst = true → feedGroup s tid t o.grp.toNat = some (gid, g) → o.dreg.toNat + 8 * m ≤ g.regs →
        ∃ g', exec (.mdrain o) s = Goes (s.setGroup gid g') key q' ∧ g' = { g with vregs := g'.vregs } ∧
          (∀ i reg, reg < 512 → (g.lmask.getLsbD i = false ∨ w ≤ i ∨ reg < o.dreg.toNat ∨ o.dreg.toNat + 8 * m ≤ reg) → g'.v i reg = g.v i reg) ∧
          ∀ i k, g.lmask.getLsbD i = true → i < w → k < 32 →
            let x := (e i ((if o.ch then 32 else 0) + k)).1
            (m = 4 → g'.v i (o.dreg.toNat + k) = BitVec.ofNat 32 x) ∧ (m = 8 → g'.v64 i (o.dreg.toNat + 2 * k) = BitVec.ofNat 64 x) ∧
            (m = 2 → (g'.v i (o.dreg.toNat + k / 2)).extractLsb' (16 * (k % 2)) 16 = BitVec.ofNat 16 x)) ∧
    ∀ (slot : BitVec 3) (off : BitVec 20), let r : BitVec 512 := BitVec.ofNat 512 (readNat t.shared off.toNat 64)
      (t.sharedBytes < off.toNat + 64 → exec (.mshp slot off) s = ParksAt s key q t (0x00FFF20000000000 + max off.toNat t.sharedBytes)) ∧
      (off.toNat + 64 ≤ t.sharedBytes → recOk r = true → ∃ q', exec (.mshp slot off) s = Goes s key q' ∧ q' = { q with sh := q'.sh } ∧
        ∀ k, SMap.get 0 q'.sh k = if k = slot.toNat then r else SMap.get 0 q.sh k) ∧
      (off.toNat + 64 ≤ t.sharedBytes → recOk r = false → ∃ u, exec (.mshp slot off) s = .next u ∧ Stops s u key q tid 2 0)

/-- R385-R389, R209, R235: mma, mmas and mconv whose B lies in shared memory: every element of the tile accumulates the k-steps that are left; rows of A come from the feeding group or are held; REUSE holds them, ADV advances the record. A word or record that does not fit stops the stream. -/
def Sys2Proof.Claims.MatrixMultiplyWords : Prop :=
  ∀ s key q tid t w o, Streams s key q tid t → teamWidth s tid = w → w ≤ 64 →
    ∀ i sparse conv, (i, sparse, conv) ∈ [(Instr.mma o, false, false), (.mmas o, true, false), (.mconv o, false, true)] →
      let r : BitVec 512 := SMap.get 0 q.sh o.bslot.toNat
      let K := depth o.afmt.toNat sparse
      let n := if o.afmt = 0 then 8 else 4
      (¬ (TileFits o.acc.toNat w n ∧ recFits o sparse conv r = true) → ∃ u, exec i s = .next u ∧ Stops s u key q tid 2 0) ∧
      (TileFits o.acc.toNat w n → recFits o sparse conv r = true →
        (q.aheld = true → (q.hfmt ≠ o.afmt ∨ q.hsp ≠ sparse) → ∃ u, exec i s = .next u ∧ Stops s u key q tid 2 0) ∧
        (q.aheld = false → feedGroup s tid t o.grp.toNat = none → ∃ u, exec i s = .next u ∧ Stops s u key q tid 2 0) ∧
        ∀ img, ((q.aheld = true ∧ q.hfmt = o.afmt ∧ q.hsp = sparse ∧ img = fun reg lane => SMap.get 0 q.heldA (64 * reg + lane)) ∨
            (q.aheld = false ∧ ∃ gid g, feedGroup s tid t o.grp.toNat = some (gid, g) ∧ rowsOk g o sparse = true ∧ img = rowImage g o sparse)) →
          rf r 8 3 = 2 → recOk r = true → BInside t r K → q.kstep.toNat < K / unitOf o.afmt.toNat →
          let e (i c : Nat) : Nat × Word := accumulated t r o sparse img q.kstep.toNat i c (element q o.acc.toNat n i c)
          ∃ q', exec i s = Goes s key q' ∧
            q' = { q with acc := q'.acc, mflags := q.mflags ||| orAll ((cells w).map (fun x => (e x.1 x.2).2)), aheld := o.reuse, kstep := q'.kstep,
                          hfmt := q'.hfmt, hsp := q'.hsp, hw := q'.hw, heldA := q'.heldA, sh := if o.adv then q'.sh else q.sh } ∧
            OnlyBytes q.acc q'.acc (8192 * o.acc.toNat) (64 * w * n) ∧
            (∀ i c, i < w → c < 64 → element q' o.acc.toNat n i c = (e i c).1) ∧
            (o.reuse = true → q'.hfmt = o.afmt ∧ q'.hsp = sparse ∧ ∀ reg lane, reg < 100 → lane < w → SMap.get 0 q'.heldA (64 * reg + lane) = img reg lane) ∧
            (o.adv = true → ∀ k, SMap.get 0 q'.sh k = if k = o.bslot.toNat then recAdvance r K else SMap.get 0 q.sh k))

/-- R235, R236, R257: one k-step of an accumulator element: products of 8 wide elements, or of a block under its two scales, summed exactly with the accumulator and rounded once; integer blocks added modulo 2^32; binary64 one fused multiply-add. -/
def Sys2Proof.Claims.MatrixStepArithmetic : Prop :=
  (∀ img lane k0 rb acc afmt (f : Fmt), (afmt, f) ∈ [(1, Fmt.f32), (2, Fmt.bf16), (3, Fmt.f16)] → ∀ (b : Nat → Nat),
    let a (k : Nat) : Nat := aElem img afmt lane (k0 + k)
    (∀ k < 8, Finite f (a k) ∧ Finite f (b k)) → Finite Fmt.f32 acc →
    Nearest (kstepElem img afmt afmt false false lane k0 rb ((List.range 8).map (fun k => .code (b k))) acc).1
      (ratOf Fmt.f32 acc + ((List.range 8).map (fun k => ratOf f (a k) * ratOf f (b k))).sum)) ∧
  (∀ img lane k0 rb acc x, let r := fFma Fmt.f64 0 false (aElem img 0 lane k0) x acc
    kstepElem img 0 0 false false lane k0 rb [.code x] acc = (if fIsNaN Fmt.f64 r.bits then 0x7FF8000000000000 else r.bits, r.fl)) ∧
  ∀ img lane kb rb acc afmt bfmt, (afmt = 4 ∨ afmt = 5) → (bfmt = 4 ∨ bfmt = 5) → ∀ (b : Nat → Nat) int,
    let ra := (img (32 + kb / 4) lane).toNat / 2 ^ (8 * (kb % 4)) % 256
    let col := (List.range 32).map (fun k => BElem.code (b k))
    let va (k : Nat) : FVal × Bool := elemValue (afmt = 5) int ra (aElem img afmt lane (32 * kb + k))
    let vb (k : Nat) : FVal × Bool := elemValue (bfmt = 5) int rb (b k)
    let r := kstepElem img afmt bfmt int false lane (32 * kb) rb col acc
    (int = false → (∀ k < 32, (∃ ng m e, (va k).1 = .fin ng m e) ∧ ∃ ng m e, (vb k).1 = .fin ng m e) → Finite Fmt.f32 acc →
      Nearest r.1 (ratOf Fmt.f32 acc + ((List.range 32).map (fun k => numOf (va k).1 * numOf (vb k).1)).sum *
        (2 : ℚ) ^ (((ra % 64 : Nat) : Int) - 32 + (((rb % 64 : Nat) : Int) - 32)))) ∧
    (int = true → r.1 < 2 ^ 32 ∧ ∃ z : Int, (r.1 : ℚ) = acc + ((List.range 32).map (fun k => numOf (va k).1 * numOf (vb k).1)).sum + 2 ^ 32 * z)

end

namespace Sys2Proof.Claims

open Machine Form

/-! ## Supervisor forms -/

/-- R392: a supervisor form is executed by a handler or kernel, on the core kind it needs, with legal operands. -/
structure ReadySys (s : State) (gid : Nat) (g : Group) (c : Clause) (kind : Nat → Bool) (os : List Opd) : Prop where
  issues : Issues s gid g c
  core   : kind (coreOfGid gid) = true
  sup    : g.sup = true
  legal  : illOf g c os = none
/-- R392: every supervisor form, the core kind it needs, its operands. -/
def supForms (o : Ops) : List (Instr × (Nat → Bool) × List Opd) :=
  let service (n : Nat) : Bool := 1152 ≤ n
  let compute (n : Nat) : Bool := n < 1152
  [(.sret o, fun _ => true, []), (.tlbinvPage o, service, [.ss false o.a, .ss true o.b]), (.tlbinvCtx o, service, [.ss false o.a]),
   (.tlbinvGlobal o, service, []), (.pfrep o, service, [.sd false o.d, .ss false o.a]), (.pfcan o, service, [.sd false o.d, .ss false o.a]),
   (.msave o, compute, [.ss true o.a]), (.mrest o, compute, [.ss true o.a]), (.ctxldLoad o, service, [.sd false o.d, .ss true o.a]),
   (.ctxldTeardown o, service, [.sd false o.d, .ss false o.b]), (.wfi o, service, [])] ++
  [Instr.sipiWake o, .sipiPreempt o, .sipiJoin o, .sipiLeave o, .sipiRetire o, .sipiUnretire o].map
    (fun i => (i, service, [.sd false o.d, .ss false o.a, .ss false o.b]))
/-- R205: the group halts with its record, and the double-trap event is posted. -/
def Halts (s t : State) (gid : Nat) (g : Group) (r : TrapReq) : Prop :=
  SMap.find? t.groups gid = some { g.flush with trec := trecWord r g.flush, halted := true, clause := none } ∧
  t = postEvent { restartProgress s (coreOfGid gid) with groups := t.groups } 0x04 (coreOfGid gid) (g.ctx + 65536 * slotOfGid gid) ∧ ∀ n, n ≠ gid → SMap.find? t.groups n = SMap.find? s.groups n
/-- R252, R399, R401, R404: the instruction has retired, its wait is over, and its status is due on the counter. -/
def Answers (s t : State) (gid : Nat) (g : Group) (c : Clause) (o : Ops) (status : Nat) : Prop :=
  ResultDue s t gid (clearWait g c 17 0) c o.ctr (scalarWrites g 2 o.d (natLe 8 status))
/-- R397: the entries that a handler leaves join to the live lanes and name clause addresses. -/
structure Consistent (g : Group) : Prop where
  apart : g.c0.mask &&& g.c1.mask = 0
  whole : g.c0.mask ||| g.c1.mask = g.lmask
  pc0   : g.c0.pc.extractLsb' 56 8 = 0
  pc1   : g.c1.pc.extractLsb' 56 8 = 0
  stat  : g.cstat.extractLsb' 18 14 = 0 ∧ g.cstat.extractLsb' 6 6 = 0
  wait  : g.c0.wait.code ≤ 6 ∧ g.c1.wait.code ≤ 6
/-- R397: a slot after sret: the fragment goes on at its own clause, or starts at the address that the handler gives it. -/
def resumed (suspended shown : Slot) (pc : DWord) (clock : Nat) : Slot :=
  if shown.mask = 0 then { Slot.empty with since := clock }
  else if pc = suspended.pc then { suspended with mask := shown.mask, since := clock }
  else { Slot.empty with mask := shown.mask, pc := pc, since := clock }
/-- R208, R397: a slot after the sret of RESTORE, where nothing is parked and the core keeps nothing of the saved fragment: its wait, if any, begins again. -/
def restored (shown : Slot) (clock : Nat) : Slot :=
  if shown.mask = 0 then { Slot.empty with since := clock }
  else { shown with wait := if shown.wait.kind = 0 then Wait.none else { shown.wait with ended := true }, past := [], rng := [], first := none,
                    park := { shown.park with active := false, replay := false }, since := clock }
/-- R397, R169: the fragment with which the handler resumes at an address starts a clause there, and fuses with the other slot's, which stands there too. -/
abbrev fuses (g : Group) (me other : Slot) : Prop :=
  me.mask ≠ 0 ∧ me.pc ≠ (if g.trapSlot = 0 then g.k0 else g.k1).pc ∧ other.mask ≠ 0 ∧ other.held = false ∧ other.pc = me.pc
/-- R397: the resumed fragment starts a clause of its own. -/
abbrev StartsAnew (g : Group) (me : Slot) : Prop := me.mask ≠ 0 ∧ me.pc ≠ (if g.trapSlot = 0 then g.k0 else g.k1).pc
/-- R36, R400: a cached translation that a form of tlbinv removes: kind 0 page, 1 context, 2 global. -/
def removes (kind ctx : Nat) (va : DWord) (e : TlbEntry) : Bool :=
  if kind = 2 then e.leaf.getLsbD 5
  else e.ctx = ctx && !e.leaf.getLsbD 5 && (kind = 1 || (kind = 0 && e.page = va.toNat / 2 ^ (16 + 10 * e.level) * 2 ^ (16 + 10 * e.level)))
/-- R36: a shootdown has begun: its translations are gone, reductions made with them are on their way, and memory is as it was. -/
def Shot (s s₁ : State) (x : TlbInv) : Prop :=
  s₁ = { s with tlbinvs := s.tlbinvs ++ [x], cores := s₁.cores, clusters := s₁.clusters, homeQ := s₁.homeQ } ∧
  s₁.cores = (s.cores.map (fun e => (e.1, { e.2 with tlb := e.2.tlb.filter (fun y => !removes x.kind x.ctx x.va y) }))).filter (fun e => e.2 != CoreSt.init) ∧
  (∀ k y, y ∈ (s₁.clusterOf k).tlb → removes x.kind x.ctx x.va y = false) ∧ (∀ k, (s₁.clusterOf k).shadow = []) ∧
  ∃ merged, s₁.homeQ = s.homeQ ++ merged ∧ ∀ r ∈ merged, ∃ k, r.src = .shadow k
/-- R38, R241, R416: what posting events and records may change beside their ring: memory at its home, with what a write there does. -/
def Noted (s t : State) : Prop :=
  t = { s with evq := t.evq, fr := t.fr, hfq := t.hfq, mem := t.mem, upsets := t.upsets, poison := t.poison, memStacks := t.memStacks,
               frosting := t.frosting, thaws := t.thaws, cxl := t.cxl }
/-- R13: a context newly loaded from a descriptor. -/
def loadedCtx (d : BitVec 512) (x : Ctx) : Prop :=
  x.ckey = d.extractLsb' 16 8 ∧ x.world = d.extractLsb' 24 8 ∧ x.kind = d.extractLsb' 32 2 ∧ x.rootFn = d.extractLsb' 64 30 ∧
  x.rootSlot = d.extractLsb' 94 3 ∧ x.privBase = d.extractLsb' 128 64 ∧ x.spillBase = d.extractLsb' 192 64 ∧ x.sstFn = d.extractLsb' 256 30 ∧
  x.sstOff = d.extractLsb' 286 7

end Sys2Proof.Claims

section

open Sys2Proof Sys2Proof.Machine Sys2Proof.Claims Sys2Proof.Form

/-! ## Supervisor forms -/

/-- R392, R204: a supervisor form raises ILLINSTR on a core kind that its row excludes, and for an operand that user mode may not name; otherwise user mode takes PRIV. It has no other effect. -/
def Sys2Proof.Claims.SupervisorFormsTrapInUserMode : Prop :=
  ∀ s gid g c o, Issues s gid g c → Enters s g → ∀ i kind os, (i, kind, os) ∈ supForms o →
    (kind (coreOfGid gid) = false → Traps s gid g c i 0x02 0 0 g.fmask) ∧
    (kind (coreOfGid gid) = true → (∃ x ∈ os, Illegal g c x) → Traps s gid g c i 0x02 0 0 g.fmask) ∧
    (kind (coreOfGid gid) = true → (∀ x ∈ os, ¬ Illegal g c x) → Traps s gid g c i 0x0F 0 0 g.fmask)

/-- R397, R208, R211, R214: sret: the next lane of a syscall runs; otherwise the fragments resume, or a handler that left them inconsistent, whose lanes differ from those it was entered with, or that serves PREEMPT, halts. The entries here are those of the live slots: none is spilled. -/
def Sys2Proof.Claims.ReturnFromAHandler : Prop :=
  ∀ s gid g c o, Issues s gid g c → g.sup = true →
    (g.fmask ≠ g.entryMask → ∃ t, exec (.sret o) s = .next t ∧ Halts s t gid g (opRec g c 0x03 0 0 g.fmask)) ∧
    (g.fmask = g.entryMask → g.tcause = 0x09 → ∃ t, exec (.sret o) s = .next t ∧ Halts s t gid g (opRec g c 0x02 0 0 g.fmask)) ∧
    (g.fmask = g.entryMask → g.tcause = 0x0A → ∀ n ctx, g.sysRest.getLsbD n = true → (∀ j < n, g.sysRest.getLsbD j = false) → s.ctxOf? g.ctx = some ctx →
      let lane : DWord := BitVec.twoPow 64 n
      ∃ t g', exec (.sret o) s = .next t ∧ OnlyGroup s t gid ∧ SMap.find? t.groups gid = some g' ∧
        g' = { g with trec := g'.trec, sysRest := g.sysRest &&& ~~~lane, entryMask := lane, fmask := lane, region := [], clause := none,
                      s0 := { Slot.empty with mask := lane, pc := ctx.svbase + 0xA00, since := s.clock }, s1 := Slot.empty, spill := [], rotc := 0,
                      pass := 0, pslot := 0, queues := g'.queues } ∧
        g'.queues.map (fun q => (q.port, q.fifo)) = g.queues.map (fun q => (q.port, q.fifo)) ∧
        (∀ k, k < 256 ∨ 320 ≤ k → g'.trec.getLsbD k = g.trec.getLsbD k) ∧ g'.trec.extractLsb' 256 64 = lane) ∧
    (g.fmask = g.entryMask → g.tcause ≠ 0x09 → (g.tcause ≠ 0x0A ∨ g.sysRest = 0) →
      (Consistent g →
        let after (g' : Group) : Group := { g with
          s0 := g'.s0, s1 := g'.s1, k0 := Slot.empty, k1 := Slot.empty, spill := [], rotc := g'.rotc, pass := g'.pass,
          pslot := (g.cstat.extractLsb' 17 1).toNat, turn := false, sup := false, clause := none, kept := [], seqs := [], queues := g'.queues }
        let rotc := (g.cstat.extractLsb' 0 6).toNat
        let pass := (g.cstat.extractLsb' 12 5).toNat
        let x0 := resumed g.k0 g.c0 (if g.trapSlot = 0 ∧ g.c0.mask ≠ 0 then g.rpc else g.c0.pc) s.clock
        let x1 := resumed g.k1 g.c1 (if g.trapSlot = 1 ∧ g.c1.mask ≠ 0 then g.rpc else g.c1.pc) s.clock
        (g.tcause ≠ 0x11 → g.trapSlot < 2 → ∃ t g', exec (.sret o) s = .next t ∧ OnlyGroup s t gid ∧ SMap.find? t.groups gid = some g' ∧ g' = after g' ∧
          g'.queues.map (fun q => (q.port, q.fifo)) = g.queues.map (fun q => (q.port, q.fifo)) ∧
          let me := if g.trapSlot = 0 then x0 else x1
          let other := if g.trapSlot = 0 then x1 else x0
          g'.rotc = (if StartsAnew g me then 0 else if g.turn then 64 else rotc) ∧ g'.pass = (if fuses g me other then 0 else pass) ∧
          (if fuses g me other then (g'.slot g.trapSlot) = { me with mask := me.mask ||| other.mask } ∧ (g'.slot (1 - g.trapSlot)).mask = 0
           else g'.s0 = x0 ∧ g'.s1 = x1)) ∧
        (g.tcause = 0x11 → g.c0.park.mask = 0 → g.c1.park.mask = 0 → (∀ tid t₀ key, HasSeq s g tid t₀ key → (s.seqOf key).state ≠ 2) →
          ∃ t g', exec (.sret o) s = .next t ∧ OnlyGroup s t gid ∧ SMap.find? t.groups gid = some g' ∧ g' = after g' ∧ g'.rotc = rotc ∧ g'.pass = pass ∧
            g'.queues.map (fun q => (q.port, q.fifo)) = g.queues.map (fun q => (q.port, q.fifo)) ∧
            ∀ k x, (k, x) ∈ [(0, g.c0), (1, g.c1)] →
              let y := g.kept.getD k Slot.empty
              ((y.mask = 0 ∨ y.pc ≠ x.pc) → x.wait.kind < 16 → (y.wait.kind = 0 ∨ y.wait.code ≠ x.wait.code) → g'.slot k = restored x s.clock) ∧
              (x.mask ≠ 0 → y.wait.code = x.wait.code → y.wait.code ≠ 0 → y.wait.target = x.wait.target → y.wait.ticket = x.wait.ticket →
                (g'.slot k).wait = { y.wait with deadline := (g'.slot k).wait.deadline, ended := true } ∧
                (g'.slot k).wait.deadline = (match y.wait.deadline with
                  | some (d + 1) => some (x.wait.deadline.getD (d + 1))
                  | d => d)))) ∧
      (g.cstat.extractLsb' 6 6 = 0 → (g.c0.mask &&& g.c1.mask ≠ 0 ∨ g.c0.mask ||| g.c1.mask ≠ g.lmask ∨ 6 < g.c0.wait.code ∨ 6 < g.c1.wait.code) →
        ∃ t g', exec (.sret o) s = .next t ∧ SMap.find? t.groups gid = some g' ∧ g'.halted = true ∧ g'.tcause = 0x03))

/-- R36, R400: tlbinv removes its translations, waits until no access uses them, and then goes on; tlbinvComplete ends the wait. A context that is not live, or an address beyond 56 bits, removes nothing. -/
def Sys2Proof.Claims.Shootdowns : Prop :=
  (∀ s gid g c o, ∀ i kind os, (i, kind, os) ∈ [(Instr.tlbinvPage o, 0, [Opd.ss false o.a, .ss true o.b]), (.tlbinvCtx o, 1, [.ss false o.a]), (.tlbinvGlobal o, 2, [])] →
    ReadySys s gid g c isService os →
    (active g c o = 0 → ∃ t, exec i s = .next t ∧ Retired s t gid c g none) ∧
    (active g c o ≠ 0 → (waitOf g c 17 0).kind ≠ 0 → ∃ t, exec i s = .next t ∧ Retired s t gid c (clearWait g c 17 0) none) ∧
    (active g c o ≠ 0 → (waitOf g c 17 0).kind = 0 →
      let ctx : Nat := if kind = 2 then 0 else ((low (sca g false o.a)).extractLsb' 0 16).toNat
      let va : DWord := if kind = 0 then sca g true o.b else 0
      let k : Nat := if kind = 2 ∨ ((s.ctxOf? ctx).isSome = true ∧ va.extractLsb' 56 8 = 0) then kind else 3
      ∃ t s₁, exec i s = .next t ∧ Shot s s₁ { gid := gid, kind := k, ctx := ctx, va := va } ∧
        Waits s₁ t gid g c { Wait.none with kind := 17 })) ∧
  ∀ s core slot g x, slot < 64 → s.tlbinvs.find? (fun y => y.gid = 64 * core + slot) = some x → x.gid = 64 * core + slot →
    SMap.find? s.groups (64 * core + slot) = some g → (∀ k, (s.clusterOf k).shadow = []) → g.s0.wait.kind = 17 → g.s1.wait.kind ≠ 17 →
    (x.clear s = true → x.inFlight s = false → g.sq = [] → relReady s (64 * core + slot) g 4 = true →
      ∃ t, exec (.tlbinvComplete core slot) s = .next t ∧ t = { s with tlbinvs := s.tlbinvs.erase x, groups := t.groups, clusters := t.clusters } ∧
        SMap.find? t.groups (64 * core + slot) = some { g with s0 := { g.s0 with wait := { g.s0.wait with ended := true }, since := s.clock } })

/-- R399, R207, R208: pfrep and pfcan: what the SEQ names replays, goes on, or ends; a saved parking's resolution is recorded; a SEQ that names nothing answers 0. -/
def Sys2Proof.Claims.ParkingResolution : Prop :=
  ∀ s gid g c o, ∀ i replay, (i, replay) ∈ [(Instr.pfrep o, true), (.pfcan o, false)] →
    ReadySys s gid g c isService [.sd false o.d, .ss false o.a] →
    (active g c o = 0 → ∃ t, exec i s = .next t ∧ Retired s t gid c g none) ∧
    (active g c o ≠ 0 → ¬ CtrRoom g o.ctr → exec i s = .next s) ∧
    (active g c o ≠ 0 → CtrRoom g o.ctr →
      let seq := low (sca g false o.a)
      (findParking s seq = none → ∃ t, exec i s = .next t ∧ Answers s t gid g c o 0) ∧
      (∀ n k g₂, findParking s seq = some (.slot n k false) → SMap.find? s.groups n = some g₂ → (g₂.slot k).park.seq = seq → n ≠ gid → k < 2 →
        (replay = true → ∃ t s₁, exec i s = .next t ∧ Answers s₁ t gid g c o 1 ∧ s₁ = { s with groups := s₁.groups } ∧
          (∀ m, m ≠ n → SMap.find? s₁.groups m = SMap.find? s.groups m) ∧
          SMap.find? s₁.groups n = some (g₂.setSlot k { g₂.slot k with park := { (g₂.slot k).park with replay := true }, since := s.clock })) ∧
        (replay = false → g₂.clause = none → Enters s g₂ → ∃ t s₁, exec i s = .next t ∧ Answers s₁ t gid g c o 1 ∧
          let p := (g₂.slot k).park
          Trapped s s₁ n g₂ { cause := 0x0D, reason := 0, info := seq, tmask := p.mask, cpc := p.pc, ipc := p.ipc, idx := p.idx.toNat, rpc := p.pc,
                              slot := k, run := (g₂.slot k).mask, abandon := false })) ∧
      (∀ cl k, findParking s seq = some (.job cl k) → ∃ t s₁, exec i s = .next t ∧ Answers s₁ t gid g c o 1 ∧ s₁ = { s with scheds := s₁.scheds } ∧
        ∀ cl' k', s₁.job cl' k' = if cl' = cl ∧ k' = k then
            (if replay then { s.job cl k with resume := true } else { s.job cl k with state := .running, phase := 3, status := 1, readsDone := true })
          else s.job cl' k') ∧
      (∀ key tid, findParking s seq = some (.sequencer key) → (s.seqOf key).team = some tid → g.team = none →
        (replay = true → ∃ t s₁, exec i s = .next t ∧ Answers s₁ t gid g c o 1 ∧ s₁ = s.setSeq key { s.seqOf key with state := 1, park := false }) ∧
        (replay = false → ∃ t s₁, exec i s = .next t ∧ Answers s₁ t gid g c o 1 ∧
          s₁.seqOf key = { s.seqOf key with state := 3, reason := 3, park := false, sobj := 0, doubt := true, waiting := false } ∧
          ∀ n, SMap.find? s₁.groups n = (SMap.find? s.groups n).map (fun x => if x.team = some tid then
            { x with held := x.held ++ stoppedTraps x 0x0D (s.seqOf key).pseq } else x))) ∧
      ∀ n ctx, findParking s seq = some (.saved n) → s.ctxOf? n = some ctx → (∀ e ∈ ctx.resolutions, e.1 ≠ seq) →
        (ctx.resolutions.length < 1024 → ∃ t, exec i s = .next t ∧
          Answers (s.setCtx n { ctx with resolutions := ctx.resolutions ++ [(seq, replay)] }) t gid g c o 2) ∧
        (1024 ≤ ctx.resolutions.length → ∃ t, exec i s = .next t ∧ Answers s t gid g c o 3))

/-- R393-R396: msave and mrest: the sequencer's image goes out as stores and the sequencer is idle once every byte has been performed; an image that is well formed becomes the sequencer's state whole. An image holds every bit of the sequencer that R395 gives a place, SOFF as MPROG shows it. -/
def Sys2Proof.Claims.SequencerSaveAndRestore : Prop :=
  (∀ s gid g c o tid t₀ key lane, ReadySys s gid g c (fun n => decide (n < 1152)) [.ss true o.a] → HasSeq s g tid t₀ key →
    (active g c o = 0 → ∃ t, exec (.msave o) s = .next t ∧ Retired s t gid c g none) ∧
    ((active g c o).getLsbD lane = true → (∀ j < lane, (active g c o).getLsbD j = false) → (sca g true o.a).toNat % 64 = 0 →
      let q := s.seqOf key
      let addr := (sca g true o.a).toNat
      (q.arriving = true → exec (.msave o) s = .next s) ∧ (q.arriving = false →
      let pieces := (List.range 1440).map (fun k => (lane, addr + 64 * k))
      (q.saving ≠ 2 → g.sq ≠ [] → exec (.msave o) s = .next (s.setSeq key { q with saving := 1 })) ∧
      (∀ ok s₁, q.saving ≠ 2 → g.sq = [] → Access (s.setSeq key { q with saving := 1 }) gid g 64 .store false pieces ok s₁ →
        (∀ x ∈ ok, x.2.place = .glob) → Reached (s.setSeq key { q with saving := 1 }) s₁ ∧ ∃ t, exec (.msave o) s = .next t ∧
          t = { s₁ with seqs := t.seqs, cores := t.cores, homeQ := t.homeQ } ∧ (t.seqOf key) = { q with saving := 2 } ∧
          t.homeQ = s₁.homeQ ++ (ok.zip (List.range 1440)).map (fun x =>
            { cls := 3, arrival := s.clock, src := .group gid, dst := x.1.2, op := .write (((imageBytes q).drop (64 * x.2)).take 64), pc := c.ipc.toNat, aged := false })) ∧
      (q.saving = 2 → storesDone s gid g = true → (∀ r ∈ s.reps, ¬ (r.gid = gid ∧ r.write = true)) → ∃ t, exec (.msave o) s = .next t ∧
        Retired ((s.setSeq key { q with state := 0, saving := 0, waiting := false, park := false }).setTeam tid
          { t₀ with mseq := if q.state = 2 then some q.pseq else none }) t gid c g none)))) ∧
  (∀ s gid g c o tid t₀ key lane ok s₁, ReadySys s gid g c (fun n => decide (n < 1152)) [.ss true o.a] → HasSeq s g tid t₀ key →
    g.fmask.getLsbD lane = true → (∀ j < lane, g.fmask.getLsbD j = false) → (s.seqOf key).state = 0 →
    let addr := (sca g true o.a).toNat
    addr % 64 = 0 → Access s gid g 64 .load false ((List.range 1440).map (fun k => (lane, addr + 64 * k))) ok s₁ →
    (∀ x ∈ ok, Settled s₁ gid g 64 x.2 ∧ Uncached s₁ gid x.2) →
    let bs := ok.flatMap (fun x => readPlace s x.2.place x.2.addr 64)
    let h : BitVec 512 := BitVec.ofNat 512 (leNat (bs.take 64))
    imageOk h bs g.width = true → ∃ t s₂, Reached s s₂ ∧ exec (.mrest o) s = .next t ∧
      Retired ((s₂.setSeq key { imageSeq (s.seqOf key) h bs with team := some tid, gid := gid, pseq := t₀.mseq.getD 0 }).setTeam tid { t₀ with mseq := none })
        t gid c g none) ∧
  ∀ q q₀ : Seq, let bs := imageBytes q
    let x := imageSeq q₀ (BitVec.ofNat 512 (leNat (bs.take 64))) bs
    bs.length = 92160 ∧ (x.kstep, x.park, x.aheld, x.soff, x.mflags, x.state, x.reason, x.mparam) = (q.kstep, q.park, q.aheld, wide (low q.soff), q.mflags, q.state, q.reason, q.mparam) ∧
    (x.lc0, x.lc1, x.lact0, x.lact1, x.wp, x.arrm, x.hfmt, x.hsp, x.hw) = (q.lc0, q.lc1, q.lact0, q.lact1, q.wp, q.arrm, q.hfmt, q.hsp, q.hw) ∧
    (∀ k < 8, SMap.get 0 x.sh k = SMap.get 0 q.sh k) ∧ (∀ a < 65536, readByte x.acc a = readByte q.acc a) ∧
    (∀ k < 6400, SMap.get 0 x.heldA k = SMap.get 0 q.heldA k) ∧
    ∀ w, q.mflags.toNat < 32 → (q.reason ≠ 0 → q.state = 3) → (q.aheld = true → q.hw = widthCode w ∧ q.hfmt.toNat < 6) →
      imageOk (BitVec.ofNat 512 (leNat (bs.take 64))) bs w = true

/-- R12, R13, R401: ctxld loads a descriptor into a context that is not live, changes a live one after a shootdown, or answers why not; its teardown form ends a context. -/
def Sys2Proof.Claims.ContextsAreLoadedAndTornDown : Prop :=
  (∀ s gid g c o lane a s₁, ReadySys s gid g c isService [.sd false o.d, .ss true o.a] → (active g c o).getLsbD lane = true →
    (∀ j < lane, (active g c o).getLsbD j = false) → (waitOf g c 17 0).kind = 0 → storesDone s gid g = true → CtrRoom g o.ctr →
    let addr := (sca g true o.a).toNat
    addr % 64 = 0 → Access s gid g 64 .load false [(lane, addr)] [(lane, a)] s₁ → Settled s₁ gid g 64 a → Uncached s₁ gid a →
    let d : BitVec 512 := BitVec.ofNat 512 (leNat (readPlace s a.place a.addr 64))
    let n := (d.extractLsb' 0 16).toNat
    (descOk s d = false → ∃ t s₂, Reached s s₂ ∧ exec (.ctxldLoad o) s = .next t ∧ Answers s₂ t gid g c o 2) ∧
    (descOk s d = true → s.ctxOf? n = none → (s₁.ctxs.filter (fun e => e.1 ≠ 0)).length < 4095 → ∃ t s₂ x, Reached s s₂ ∧ loadedCtx d x ∧
      x.touched = 0 ∧ x.raised = 0 ∧ x.svbase = 0 ∧ x.rsetbase = 0 ∧ x.kernels = [] ∧ x.dead = false ∧ exec (.ctxldLoad o) s = .next t ∧
      Answers (s₂.setCtx n x) t gid g c o 0) ∧
    (descOk s d = true → s.ctxOf? n = none → 4095 ≤ (s₁.ctxs.filter (fun e => e.1 ≠ 0)).length →
      ∃ t s₂, Reached s s₂ ∧ exec (.ctxldLoad o) s = .next t ∧ Answers s₂ t gid g c o 3) ∧
    (descOk s d = true → (s.ctxOf? n).isSome = true → ∃ t s₂ s₃ w, Reached s s₂ ∧ Shot s₂ s₃ { gid := gid, kind := 1, ctx := n, va := 0 } ∧
      exec (.ctxldLoad o) s = .next t ∧ Waits s₃ t gid g c w ∧ w.kind = 17 ∧ wordsDesc w.payload = d)) ∧
  (∀ s gid g c o x, ReadySys s gid g c isService [.sd false o.d, .ss true o.a] → active g c o ≠ 0 → CtrRoom g o.ctr → (waitOf g c 17 0).kind ≠ 0 →
    let d := wordsDesc (waitOf g c 17 0).payload
    s.ctxOf? (d.extractLsb' 0 16).toNat = some x → ∃ t x', exec (.ctxldLoad o) s = .next t ∧ loadedCtx d x' ∧
      x' = { x with ckey := x'.ckey, world := x'.world, kind := x'.kind, rootFn := x'.rootFn, rootSlot := x'.rootSlot, privBase := x'.privBase,
                    spillBase := x'.spillBase, sstFn := x'.sstFn, sstOff := x'.sstOff } ∧
      Answers (s.setCtx (d.extractLsb' 0 16).toNat x') t gid g c o 1) ∧
  ∀ s gid g c o, ReadySys s gid g c isService [.sd false o.d, .ss false o.b] → active g c o ≠ 0 → CtrRoom g o.ctr →
    let n := ((low (sca g false o.b)).extractLsb' 0 16).toNat
    ((waitOf g c 17 0).kind ≠ 0 → ∃ t, exec (.ctxldTeardown o) s = .next t ∧ Answers { s with ctxs := SMap.del s.ctxs n } t gid g c o 4) ∧
    ((waitOf g c 17 0).kind = 0 → n = 0 → ∃ t, exec (.ctxldTeardown o) s = .next t ∧ Answers s t gid g c o 6) ∧
    ((waitOf g c 17 0).kind = 0 → n ≠ 0 → s.ctxOf? n = none → ∃ t, exec (.ctxldTeardown o) s = .next t ∧ Answers s t gid g c o 5) ∧
    ∀ x, (waitOf g c 17 0).kind = 0 → n ≠ 0 → s.ctxOf? n = some x → g.ctx ≠ n → ∃ t s₁ s₂, exec (.ctxldTeardown o) s = .next t ∧
      Shot s₁ s₂ { gid := gid, kind := 1, ctx := n, va := 0 } ∧ Waits s₂ t gid g c { Wait.none with kind := 17 } ∧
      s₁.groups = s.groups.filter (fun e => e.2.ctx ≠ n) ∧ s₁.teams = s.teams.filter (fun e => e.2.ctx ≠ n) ∧ s₁.mem = s.mem ∧
      s₁.ctxOf? n = some { x with kernels := [], resolutions := [] } ∧ (∀ m, m ≠ n → s₁.ctxOf? m = s.ctxOf? m) ∧
      ∀ cl k, let j := s.job cl k
        s₁.job cl k = if j.ctx ≠ n then j
          else if j.state = .pending then { j with state := .complete, phase := 3, status := 4, readsDone := true, edges := [], buf := [], out := [], resume := false }
          else if j.state = .running ∨ j.state = .parked then { j with state := .running, phase := 3, status := 1, readsDone := true, out := [] } else j

/-- R403, R404, R221, R361, R362, R184: wfi waits for a ring entry, the wake flag or its time; sipi acts on an enabled core of its kind, and answers 1 for another. A wake carries a sequence number, and one already taken is discarded. -/
def Sys2Proof.Claims.WaitsForInterruptsAndSignals : Prop :=
  (∀ s gid g c o, ReadySys s gid g c isService [] → active g c o ≠ 0 →
    let x := s.coreOf (coreOfGid gid)
    let ready := s.fr.head ≠ s.fr.tail ∨ s.hfq.head ≠ s.hfq.tail ∨ s.evq.head ≠ s.evq.tail ∨ x.wake = true
    (ready ∨ (waitOf g c 18 0).kind ≠ 0 → ∃ t, exec (.wfi o) s = .next t ∧
      Retired (s.setCore (coreOfGid gid) { x with wake := false }) t gid c (clearWait g c 18 0) none) ∧
    (¬ ready → (waitOf g c 18 0).kind = 0 → ∃ t, exec (.wfi o) s = .next t ∧
      Waits s t gid g c { Wait.none with kind := 18, deadline := if o.w1 = 0 then none else some (s.clock + 1024 * o.w1.toNat) })) ∧
  ∀ s gid g c o, ReadySys s gid g c isService [.sd false o.d, .ss false o.a, .ss false o.b] →
    let n := ((low (sca g false o.a)).extractLsb' 0 11).toNat
    let arg := low (sca g false o.b)
    let tree := (arg.extractLsb' 0 4).toNat
    let x := s.coreOf n
    (∀ i service, (i, service) ∈ [(Instr.sipiWake o, true), (.sipiPreempt o, false), (.sipiJoin o, false), (.sipiLeave o, false), (.sipiRetire o, false), (.sipiUnretire o, false)] →
      (active g c o = 0 → ∃ t, exec i s = .next t ∧ Retired s t gid c g none) ∧
      (active g c o ≠ 0 → CtrRoom g o.ctr → (s.coreEnabled n = false ∨ (service = true ↔ n < 1152)) → ∃ t, exec i s = .next t ∧ Answers s t gid g c o 1)) ∧
    (active g c o ≠ 0 → CtrRoom g o.ctr → s.coreEnabled n = true →
      (1152 ≤ n → ∃ t s₁, exec (.sipiWake o) s = .next t ∧ Answers s₁ t gid g c o 0 ∧
        let me := coreOfGid gid
        let k := (s.coreOf me).msg.sent + 1
        s₁ = { s with cores := s₁.cores, dieKernels := s₁.dieKernels } ∧ (s₁.coreOf me).msg.sent = k ∧
          (∀ m, m ≠ n → m ≠ me → s₁.coreOf m = s.coreOf m) ∧
          (SMap.get 0 x.msg.taken me < k → (s₁.coreOf n).wake = true ∧ SMap.get 0 (s₁.coreOf n).msg.taken me = k) ∧
          (k ≤ SMap.get 0 x.msg.taken me → (s₁.coreOf n).wake = x.wake ∧ (s₁.coreOf n).msg.taken = x.msg.taken) ∧
          (n < 1280 → s₁.dieKernels = s.dieKernels) ∧
          (1280 ≤ n → (SMap.get DieKernel.init s₁.dieKernels (n - 1280)).msgs =
            (SMap.get DieKernel.init s.dieKernels (n - 1280)).msgs ++ [(me, k)])) ∧
      (n < 1152 →
        (∃ t, exec (.sipiPreempt o) s = .next t ∧ Answers { s with teams := s.teams.map (fun e => (e.1,
          if e.2.ctx = (arg.extractLsb' 0 16).toNat ∧ (e.2.core = n ∨ (e.2.paired = true ∧ e.2.core + 1 = n)) then { e.2 with preempt := true } else e.2)) } t gid g c o 0) ∧
        (∃ t, exec (.sipiJoin o) s = .next t ∧ Answers (if x.part.getLsbD tree then s else
          s.setCore n { x with part := x.part ||| BitVec.twoPow 16 tree, seen := withBit x.seen tree (s.trees.getLsbD tree) }) t gid g c o 0) ∧
        (∃ t s₁, exec (.sipiLeave o) s = .next t ∧ Answers s₁ t gid g c o 0 ∧ s₁ = { s with cores := s₁.cores, trees := s₁.trees } ∧
          (x.part.getLsbD tree = false → s₁ = s) ∧
          let u := s.setCore n { x with part := withBit x.part tree false }
          (x.part.getLsbD tree = true → (∀ e ∈ u.cores, e.2.part.getLsbD tree = true → e.2.arrived.getLsbD tree = true) →
            s₁.trees = s.trees ^^^ BitVec.twoPow 16 tree ∧
            s₁.cores = (u.cores.map (fun e => (e.1, { e.2 with arrived := withBit e.2.arrived tree false }))).filter (fun e => e.2 != CoreSt.init)) ∧
          (x.part.getLsbD tree = true → (∃ e ∈ u.cores, e.2.part.getLsbD tree = true ∧ e.2.arrived.getLsbD tree = false) → s₁ = u)) ∧
        ∀ i b, (i, b) ∈ [(Instr.sipiRetire o, true), (.sipiUnretire o, false)] → ∃ t s₁, exec i s = .next t ∧ Answers s₁ t gid g c o 0 ∧
          Noted { s with cores := s₁.cores, ctxs := s₁.ctxs } s₁ ∧ s₁.coreOf n = { x with retired := b } ∧
          ∀ m, m ≠ n → s₁.coreOf m = s.coreOf m))

end

namespace Sys2Proof.Claims

open Machine Form

/-! ## Control registers -/

/-- R241: number, words, read by, written by, held where. Read and written by: 0 nobody, 1 user code too, 2 supervisor code, 3 supervisor code (a user write has no access in the table: DEDUCED, log entry 22), 4 supervisor code in the RESTORE entry. Held: 0 anywhere, 1 where a service core reaches it, 2 in a team. -/
def csrTable : List (Nat × Nat × Nat × Nat × Nat) :=
  [(0x000, 1, 1, 1, 0), (0x001, 1, 1, 1, 0), (0x002, 2, 1, 4, 0), (0x004, 2, 1, 0, 0), (0x006, 5, 1, 0, 0), (0x010, 1, 1, 0, 0), (0x020, 36, 1, 0, 0),
   (0x100, 2, 2, 2, 0), (0x102, 2, 2, 2, 0), (0x104, 2, 2, 2, 0), (0x106, 2, 2, 2, 0), (0x108, 1, 2, 2, 0), (0x10A, 2, 1, 3, 0),
   (0x110, 6, 2, 0, 0), (0x116, 2, 2, 2, 0), (0x118, 8, 2, 0, 0), (0x120, 2, 2, 2, 0), (0x122, 2, 2, 2, 0), (0x124, 1, 2, 2, 0),
   (0x125, 1, 2, 2, 0), (0x128, 2, 2, 2, 0), (0x12A, 1, 0, 2, 0), (0x12C, 2, 2, 2, 0)] ++
  [(0x130, 1, 2, 2, 2), (0x131, 4, 2, 2, 2), (0x138, 1, 2, 2, 0), (0x140, 4, 2, 2, 0), (0x144, 1, 2, 2, 0), (0x145, 1, 2, 2, 0),
   (0x146, 1, 2, 2, 0), (0x147, 1, 2, 2, 0), (0x148, 1, 2, 2, 0), (0x149, 1, 2, 2, 0), (0x14A, 1, 2, 2, 0), (0x180, 2, 2, 2, 0),
   (0x182, 2, 2, 2, 0), (0x1C0, 1, 2, 2, 0), (0x1C1, 1, 2, 2, 0), (0x1C2, 1, 2, 2, 0), (0x1C4, 2, 2, 2, 0), (0x1C8, 2, 2, 2, 0),
   (0x1CC, 2, 2, 2, 1), (0x200, 2, 2, 2, 1), (0x202, 2, 2, 2, 1), (0x204, 2, 2, 2, 1), (0x208, 1, 2, 0, 1), (0x209, 1, 2, 2, 1),
   (0x20A, 1, 2, 0, 1), (0x20B, 1, 2, 2, 1), (0x20C, 1, 2, 0, 1), (0x20D, 1, 2, 2, 1)]
/-- R241: who reads or writes a number, and where; an unassigned number has no access. -/
def csrAccess (n : Nat) (write : Bool) : Nat × Nat :=
  match csrTable.find? (fun e => e.1 ≤ n && n < e.1 + e.2.1) with
  | some e => (if write then e.2.2.2.1 else e.2.2.1, e.2.2.2.2)
  | none => (0, 0)
/-- R240, R213: the access does not exist there. -/
def NoCsr (g : Group) (core n : Nat) (write : Bool) : Prop :=
  (csrAccess n write).1 = 0 ∨ ((csrAccess n write).2 = 1 ∧ core < 1152) ∨ ((csrAccess n write).2 = 2 ∧ g.team = none) ∨
    ((csrAccess n write).1 = 3 ∧ g.sup = false) ∨ ((csrAccess n write).1 = 4 ∧ ¬ (g.sup = true ∧ g.tcause = 0x11))
/-- R241: the registers that are held per lane. -/
def laneCsrs : List Nat := [0x138, 0x140, 0x141, 0x142, 0x143, 0x144, 0x147, 0x14A]
/-- R240, R323, R324: the operand that a csrr or csrw gives a register. -/
def csrOpd (o : Ops) (write : Bool) : Opd :=
  if write then (if o.csr ∈ laneCsrs then .vs false o.a else .ss false o.a)
  else if o.csr ∈ laneCsrs then .vd false o.nw o.d else .sd false o.d
/-- R249, R323: whether the operand may stand there; only a register held per lane is read through a counter. -/
def csrFits (o : Ops) (write : Bool) : Bool :=
  if write then (if o.csr ∈ laneCsrs then vsrc false o.a else ssrc false o.a)
  else if o.csr ∈ laneCsrs then vdst o.nw false o.d else sdst false o.d && !o.nw && o.imm24.extractLsb' 21 3 = 0
/-- The rows that csrr and csrw have, and which of them write. -/
def csrRows (o : Ops) : List (Instr × Bool) :=
  [(.csrr o, false), (.ringHeadRead o, false), (.csrw o, true), (.kinstInstall o, true), (.lmaskWrite o, true), (.gsaveWrite o, true),
   (.sppdataWrite o, true), (.srseedWrite o, true), (.fpcsrWrite o, true), (.qlevelWrite o, true), (.ringPointerWrite o, true),
   (.ringTailWrite o, true), (.tgtselWrite o, true), (.waitstViewWrite o, true), (.progwinWrite o, true), (.progfaultWrite o, true)]
/-- R240: a control register access whose register, mode and operand are as R240 and R323 want them. -/
structure ReadyCsr (s : State) (gid : Nat) (g : Group) (c : Clause) (o : Ops) (write : Bool) : Prop where
  issues : Issues s gid g c
  exists' : ¬ NoCsr g (coreOfGid gid) o.csr write
  mode   : 2 ≤ (csrAccess o.csr write).1 → g.sup = true
  fits   : csrFits o write = true
  quiet  : opTrap g c (active g c o) [csrOpd o write] = none
/-- R323: csrr or a ring index's row is done with the word `v`, read when a lane is active. -/
def Reads (s s' : State) (gid : Nat) (g : Group) (c : Clause) (o : Ops) (i : Instr) (v : Word) : Prop :=
  ∃ t, exec i s = .next t ∧ ScaDone (if active g c o = 0 then s else s') t gid g c (decide (active g c o ≠ 0)) false o.d (wide v)
/-- R324: a csrw is done: with an active lane it leaves the state `s'` and the group `g'`; otherwise nothing is written. -/
def Writes (s s' : State) (gid : Nat) (g g' : Group) (c : Clause) (o : Ops) (i : Instr) : Prop :=
  ∃ t, exec i s = .next t ∧ Retired (if active g c o = 0 then s else s') t gid c (if active g c o = 0 then g else g') none
/-- R240: word `k` of a register, and the register with that word replaced. -/
def wordOf {n : Nat} (x : BitVec n) (k : Nat) : Word := x.extractLsb' (32 * k) 32
def splice {n : Nat} (x : BitVec n) (k : Nat) (v : Word) : BitVec n :=
  (x &&& ~~~((0xFFFFFFFF#n) <<< (32 * k))) ||| (v.setWidth n <<< (32 * k))
/-- R242: what TGTSEL, or a compute core itself, names: a context, a cluster, a core. -/
def ctxNamed (s : State) (g : Group) (core : Nat) : Option Nat :=
  let n := ((s.coreOf core).tgtsel.extractLsb' 0 16).toNat
  if core < 1152 then some g.ctx else if core < 1280 ∧ (s.ctxOf? n).isSome = true then some n else none
def clusterNamed (s : State) (core : Nat) : Option Nat :=
  let n := ((s.coreOf core).tgtsel.extractLsb' 16 7).toNat
  if core < 1152 then some (core / 16) else if n < 72 ∧ (core < 1280 ∨ core - 1280 = n) then some n else none
def coreNamed (s : State) (core : Nat) : Option Nat :=
  let n := ((s.coreOf core).tgtsel.extractLsb' 32 11).toNat
  if core < 1152 then some core else if n < 1152 ∧ s.coreEnabled n = true ∧ (core < 1280 ∨ core - 1280 = n / 16) then some n else none
/-- R242: MISS is set. -/
def missed (s : State) (core : Nat) : State :=
  s.setCore core { s.coreOf core with tgtsel := (s.coreOf core).tgtsel ||| 0x80000000 }
/-- The header that WAITST shows in views 2 and 3. -/
def shownHeader (g : Group) : DWord := match g.bound with | some (h, _) => h | none => g.bhdr
def shownLogn (g : Group) : Nat := match g.bound with | some (_, n) => n | none => g.blogn
/-- R398: the suspended slot that WSLOT shows. -/
def shownSlot (g : Group) : Nat := (g.waitst.extractLsb' 3 1).toNat
/-- R234: a lane's generator as a write of SRSEED starts it. -/
def seeded (v : Word) (lane : Nat) : Word :=
  let x := v ^^^ (BitVec.ofNat 32 (lane + 1) * 0x9E3779B9)
  if x = 0 then 1 else x
/-- R193, R195: a progress window after a write. -/
def window (old v : Word) : Word :=
  let e := (v.extractLsb' 0 6).toNat
  (if 10 ≤ e ∧ e ≤ 40 then v &&& 0x3F else old &&& 0x3F) ||| (v &&& 0x40)
/-- R241: the index pair and the pointer of a ring: 0 fault records, 1 host faults, 2 events. -/
def ringAt (n : Nat) : Ring := if n = 0 then .fr else if n = 1 then .hfq else .evq
/-- R153: the popped entry that QPOPDATA shows. -/
def shownPop (g : Group) : Option (SMap Word) := (List.find? (fun (e : Nat × SMap Word) => e.1 < 32) (g.q g.qpopsel).pop).map (·.2)
/-- R154: the entry that QENTDATA shows. -/
def shownEntry (g : Group) (lane : Nat) : Word := ((g.q g.qpopsel).fifo[g.qentsel]?).elim 0 (fun e => SMap.get 0 e lane)

/-- R241: words that csrr reads from the group, its team and the module. -/
def heldWords (_gid : Nat) (g : Group) : List (Nat × Word) :=
  [(0x000, g.fpcsr), (0x001, g.srseed), (0x108, g.cstat),
   (0x124, (g.cslot (shownSlot g)).park.idx), (0x125, (g.cslot (shownSlot g)).park.seq),
   (0x146, BitVec.ofNat 32 g.qpopsel), (0x148, BitVec.ofNat 32 (g.q g.qpopsel).fifo.length), (0x149, BitVec.ofNat 32 g.qentsel)] ++
  (List.range 36).map (fun k => (0x020 + k, wordOf Config.enabledCores k)) ++
  (List.range 16).map (fun k => (0x110 + k, wordOf g.trec k)) ++
  (List.range 2).flatMap (fun k =>
    [(0x002 + k, wordOf g.lmask k), (0x004 + k, wordOf g.fmask k), (0x100 + k, wordOf g.c0.mask k), (0x102 + k, wordOf g.c1.mask k),
     (0x104 + k, wordOf g.c0.pc k), (0x106 + k, wordOf g.c1.pc k), (0x10A + k, wordOf g.ssplit k),
     (0x120 + k, wordOf (g.cslot (shownSlot g)).park.mask k), (0x122 + k, wordOf (g.cslot (shownSlot g)).park.pc k), (0x12C + k, wordOf g.gsavep k)])

end Sys2Proof.Claims

section

open Sys2Proof Sys2Proof.Machine Sys2Proof.Claims Sys2Proof.Form

/-! ## Control registers -/

/-- R240, R204, R213, R217: an access of a register that is not there raises ILLINSTR, and so does an operand or a counter that the register does not take; a supervisor register in user mode raises PRIV. In supervisor mode the group halts instead (R205). A user write of SSPLIT counts among the first (model's choice, log entry 22). -/
def Sys2Proof.Claims.ControlRegisterTraps : Prop :=
  ∀ s gid g c o, Issues s gid g c → ∀ i write, (i, write) ∈ csrRows o →
    ((NoCsr g (coreOfGid gid) o.csr write ∨ csrFits o write = false ∨ Illegal g c (csrOpd o write)) →
      (Enters s g → Traps s gid g c i 0x02 0 0 g.fmask) ∧
      (g.sup = true → ∃ t, exec i s = .next t ∧ Halts s t gid g (opRec g c 0x02 0 0 g.fmask))) ∧
    (¬ NoCsr g (coreOfGid gid) o.csr write → csrFits o write = true → ¬ Illegal g c (csrOpd o write) →
      2 ≤ (csrAccess o.csr write).1 → Enters s g → Traps s gid g c i 0x0F 0 0 g.fmask)

/-- R323, R240-R242, R398, R418: csrr reads the word of its number, on a service core that of the target that TGTSEL names (a target that does not exist reads 0 and sets MISS; a user-mode read names its own context and core); a register held per lane goes to each active lane on the counter. The read of a ring's head is an acquire. -/
def Sys2Proof.Claims.ControlRegisterReads : Prop :=
  ∀ s gid g c o, ReadyCsr s gid g c o false →
    let core := coreOfGid gid
    let slot := g.cslot (shownSlot g)
    let view := (g.waitst.extractLsb' 0 3).toNat
    (∀ v, (o.csr, v) ∈ heldWords gid g → Reads s s gid g c o (.csrr o) v) ∧
    (o.csr = 0x128 → ∃ v, Reads s s gid g c o (.csrr o) v ∧ v.extractLsb' 0 4 = g.waitst.extractLsb' 0 4 ∧ v.extractLsb' 4 4 = BitVec.ofNat 4 slot.wait.code ∧
      v.extractLsb' 8 4 = BitVec.ofNat 4 (if slot.wait.code = 0 then 0 else slot.wait.target) ∧ v.extractLsb' 12 20 = 0) ∧
    (o.csr = 0x129 →
      (view = 0 → (slot.wait.kind = 4 ∨ slot.wait.kind = 5) → Reads s s gid g c o (.csrr o) (slot.wait.ticket.getD 0)) ∧
      (view = 0 → slot.wait.kind ≠ 4 → slot.wait.kind ≠ 5 → Reads s s gid g c o (.csrr o) (match slot.wait.deadline with
        | some d => BitVec.ofNat 32 (min (2 ^ 32 - 1) (d - s.clock))
        | none => 0)) ∧
      (view = 1 → Reads s s gid g c o (.csrr o) (g.tp ++ g.wp)) ∧
      (view = 2 → Reads s s gid g c o (.csrr o) (wordOf (shownHeader g) 0)) ∧
      (view = 3 → ∃ v, Reads s s gid g c o (.csrr o) v ∧ v.extractLsb' 0 24 = (shownHeader g).extractLsb' 32 24 ∧
        v.extractLsb' 24 4 = BitVec.ofNat 4 (shownLogn g) ∧ v.extractLsb' 28 3 = 0 ∧ v.getLsbD 31 = g.bound.isSome) ∧
      (4 ≤ view → Reads s s gid g c o (.csrr o) 0)) ∧
    (∀ tid t₀, g.team = some tid → SMap.find? s.teams tid = some t₀ → let b := t₀.obj t₀.bosel
      (o.csr = 0x130 → Reads s s gid g c o (.csrr o) (BitVec.ofNat 32 t₀.bosel)) ∧
      (o.csr = 0x131 → ∃ v, Reads s s gid g c o (.csrr o) v ∧ v.extractLsb' 0 8 = b.exparr ∧ v.extractLsb' 8 8 = b.arr ∧ v.getLsbD 16 = b.phase ∧
        v.extractLsb' 17 15 = 0) ∧
      (o.csr = 0x132 → Reads s s gid g c o (.csrr o) b.expb) ∧ (o.csr = 0x133 → Reads s s gid g c o (.csrr o) b.landb) ∧ (o.csr = 0x134 → Reads s s gid g c o (.csrr o) 0)) ∧
    (o.csr = 0x145 → ∃ v, Reads s s gid g c o (.csrr o) v ∧ ((∀ k < 8, (g.q k).port < 8) → ∀ k < 8, (v.extractLsb' (3 * k) 3).toNat = (g.q k).port)) ∧
    (∀ x, g.sup = false → s.ctxOf? g.ctx = some x → ∀ k < 5, o.csr = 0x006 + k → Reads s s gid g c o (.csrr o) (wordOf x.touched k)) ∧
    (o.csr = 0x010 → g.sup = false → Reads s s gid g c o (.csrr o) (BitVec.ofNat 32 core)) ∧
    (∀ n x, ctxNamed s g core = some n → s.ctxOf? n = some x →
      (∀ k < 5, g.sup = true → o.csr = 0x006 + k → Reads s s gid g c o (.csrr o) (wordOf x.touched k)) ∧
      (∀ k < 2, o.csr = 0x180 + k → Reads s s gid g c o (.csrr o) (wordOf x.svbase k)) ∧
      (∀ k < 2, o.csr = 0x182 + k → Reads s s gid g c o (.csrr o) (wordOf x.rsetbase k)) ∧
      (o.csr = 0x1C8 → Reads s s gid g c o (.csrr o) x.kinst0) ∧ (o.csr = 0x1C9 → Reads s s gid g c o (.csrr o) x.kinst1)) ∧
    (∀ n, clusterNamed s core = some n → let x := s.clusterOf n
      (o.csr = 0x1C2 → Reads s s gid g c o (.csrr o) x.sppsel) ∧
      ∀ k < 2, o.csr = 0x1C4 + k → Reads s s gid g c o (.csrr o) (wordOf (SMap.get 0 x.spp (x.sppsel.extractLsb' 0 4).toNat : DWord) k)) ∧
    (∀ n, coreNamed s core = some n → (o.csr = 0x010 → g.sup = true → Reads s s gid g c o (.csrr o) (BitVec.ofNat 32 n)) ∧
      (o.csr = 0x1C0 → Reads s s gid g c o (.csrr o) (s.coreOf n).progwin) ∧
      (o.csr = 0x1C1 → Reads s s gid g c o (.csrr o) (s.coreOf n).progfault)) ∧
    ((o.csr ∈ [0x180, 0x181, 0x182, 0x183, 0x1C8, 0x1C9] ∧ ctxNamed s g core = none) ∨
      (g.sup = true ∧ o.csr ∈ [0x006, 0x007, 0x008, 0x009, 0x00A] ∧ ctxNamed s g core = none) ∨
      (o.csr ∈ [0x1C2, 0x1C4, 0x1C5] ∧ clusterNamed s core = none) ∨
      ((o.csr ∈ [0x1C0, 0x1C1] ∨ (o.csr = 0x010 ∧ g.sup = true)) ∧ coreNamed s core = none) → Reads s (missed s core) gid g c o (.csrr o) 0) ∧
    (∀ k < 2, o.csr = 0x1CC + k → Reads s s gid g c o (.csrr o) (wordOf (s.coreOf core).tgtsel k)) ∧
    (∀ r < 3, let x := s.ring (ringAt r)
      (∀ k < 2, o.csr = 0x200 + 2 * r + k → Reads s s gid g c o (.csrr o) (wordOf x.ptr k)) ∧
      (o.csr = 0x209 + 2 * r → Reads s s gid g c o (.csrr o) x.tail) ∧
      (o.csr = 0x208 + 2 * r → ∃ s', Reads s s' gid g c o (.ringHeadRead o) x.head ∧ s' = s.setCore core { s.coreOf core with l1 := [] })) ∧
    let ctr : Nat := (o.imm24.extractLsb' 21 3).toNat
    (o.csr ∈ laneCsrs → CtrRoom g ctr → ∃ t, ∃ v : Nat → Word, exec (.csrr o) s = .next t ∧
      ResultDue s t gid g c ctr (if o.nw then [] else (lanesOf (active g c o)).flatMap (fun i => loadWrites g i 2 o.d (natLe 4 (v i).toNat))) ∧
      ∀ i, (o.csr = 0x138 → v i = (SMap.find? g.srstate i).getD (seeded g.srseed i)) ∧ (∀ k < 4, o.csr = 0x140 + k → v i = g.x i k) ∧
        (o.csr = 0x144 → ∀ k < 32, (v i).getLsbD k = (g.p k).getLsbD i) ∧
        (o.csr = 0x147 → v i = (shownPop g).elim 0 (fun e => SMap.get 0 e i)) ∧ (o.csr = 0x14A → v i = shownEntry g i))

/-- R324, R240-R242, R107, R153, R154, R160, R178, R203, R206, R213, R398: csrw writes the word of its number and nothing else, once when a lane is active, or in each active lane. -/
def Sys2Proof.Claims.ControlRegisterWrites : Prop :=
  ∀ s gid g c o, ReadyCsr s gid g c o true →
    let core := coreOfGid gid
    let v := low (sca g false o.a)
    let k₀ := shownSlot g
    let slot := g.cslot k₀
    let view := (g.waitst.extractLsb' 0 3).toNat
    let hdr := shownHeader g
    (∀ n g', (n, g') ∈ (List.range 2).flatMap (fun k =>
        [(0x100 + k, { g with c0 := { g.c0 with mask := splice g.c0.mask k v } }), (0x102 + k, { g with c1 := { g.c1 with mask := splice g.c1.mask k v } }),
         (0x104 + k, { g with c0 := { g.c0 with pc := splice g.c0.pc k v } }), (0x106 + k, { g with c1 := { g.c1 with pc := splice g.c1.pc k v } }),
         (0x10A + k, { g with ssplit := splice g.ssplit k v }), (0x116 + k, { g with trec := splice g.trec (6 + k) v }),
         (0x120 + k, g.setCslot k₀ { slot with park := { slot.park with mask := splice slot.park.mask k v } }),
         (0x122 + k, g.setCslot k₀ { slot with park := { slot.park with pc := splice slot.park.pc k v } }),
         (0x12C + k, { g with gsavep := splice g.gsavep k v })]) ++
        [(0x108, { g with cstat := v }), (0x124, g.setCslot k₀ { slot with park := { slot.park with idx := v } }),
         (0x125, g.setCslot k₀ { slot with park := { slot.park with seq := v } }), (0x146, { g with qpopsel := (v.extractLsb' 0 3).toNat }),
         (0x149, { g with qentsel := (v.extractLsb' 0 5).toNat })] → o.csr = n → Writes s s gid g g' c o (.csrw o)) ∧
    (o.csr = 0x129 →
      (view = 0 → (slot.wait.kind = 4 ∨ slot.wait.kind = 5) → Writes s s gid g (g.setCslot k₀ { slot with wait := { slot.wait with ticket := some v } }) c o (.csrw o)) ∧
      (view = 0 → slot.wait.kind ≠ 4 → slot.wait.kind ≠ 5 →
        Writes s s gid g (g.setCslot k₀ { slot with wait := { slot.wait with deadline := some (s.clock + v.toNat) } }) c o (.csrw o)) ∧
      (view = 1 → Writes s s gid g { g with wp := v.extractLsb' 0 16, tp := v.extractLsb' 16 16 } c o (.csrw o)) ∧
      (view = 2 → Writes s s gid g { g with bhdr := splice hdr 0 v, bound := g.bound.map (fun b => (splice hdr 0 v, b.2)) } c o (.csrw o)) ∧
      (view = 3 → let h : DWord := (v.extractLsb' 0 24).setWidth 32 ++ wordOf hdr 0
        Writes s s gid g { g with bhdr := h, blogn := (v.extractLsb' 24 4).toNat, bound := if v.getLsbD 31 then some (h, (v.extractLsb' 24 4).toNat) else none } c o (.csrw o)) ∧
      (4 ≤ view → Writes s s gid g g c o (.csrw o))) ∧
    (o.csr = 0x145 → (∀ k < 8, v.extractLsb' (3 * k) 3 ≠ 7) → g.queues.length = 8 → ∃ g', Writes s s gid g g' c o (.csrw o) ∧ g' = { g with queues := g'.queues } ∧
      ∀ k < 8, g'.q k = { g.q k with port := (v.extractLsb' (3 * k) 3).toNat }) ∧
    (∀ tid t₀, g.team = some tid → SMap.find? s.teams tid = some t₀ → let b := t₀.obj t₀.bosel
      let put (x : BarObj) : State := s.setTeam tid (t₀.setObj t₀.bosel { x with event := some s.clock })
      (o.csr = 0x130 → Writes s (s.setTeam tid { t₀ with bosel := (v.extractLsb' 0 4).toNat }) gid g g c o (.csrw o)) ∧
      (o.csr = 0x131 → Writes s (put { b with exparr := v.extractLsb' 0 8, arr := v.extractLsb' 8 8, phase := v.getLsbD 16 }) gid g g c o (.csrw o)) ∧
      (o.csr = 0x132 → Writes s (put { b with expb := v }) gid g g c o (.csrw o)) ∧ (o.csr = 0x133 → Writes s (put { b with landb := v }) gid g g c o (.csrw o))) ∧
    (∀ n x, ctxNamed s g core = some n → s.ctxOf? n = some x →
      (∀ k < 2, o.csr = 0x180 + k → ∃ s', Writes s s' gid g g c o (.csrw o) ∧ s' = { s with ctxs := s'.ctxs } ∧ (∀ m, m ≠ n → s'.ctxOf? m = s.ctxOf? m) ∧
        s'.ctxOf? n = some { x with svbase := splice x.svbase k v &&& 0x00FFFFFFFFFFE000 }) ∧
      (∀ k < 2, o.csr = 0x182 + k → ∃ s', Writes s s' gid g g c o (.csrw o) ∧ s' = { s with ctxs := s'.ctxs } ∧ (∀ m, m ≠ n → s'.ctxOf? m = s.ctxOf? m) ∧
        s'.ctxOf? n = some { x with rsetbase := splice x.rsetbase k v }) ∧
      (o.csr = 0x1C9 → ∃ s', Writes s s' gid g g c o (.csrw o) ∧ s' = { s with ctxs := s'.ctxs } ∧ (∀ m, m ≠ n → s'.ctxOf? m = s.ctxOf? m) ∧
        s'.ctxOf? n = some { x with kinst1 := v })) ∧
    (∀ n, clusterNamed s core = some n → o.csr = 0x1C2 → let x := s.clusterOf n
      Writes s (s.setCluster n { x with sppsel := (x.sppsel &&& 0x80000000) ||| (v &&& 0xF) }) gid g g c o (.csrw o)) ∧
    ((o.csr ∈ [0x180, 0x181, 0x182, 0x183, 0x1C9] ∧ ctxNamed s g core = none) ∨ (o.csr = 0x1C2 ∧ clusterNamed s core = none) →
      Writes s (missed s core) gid g g c o (.csrw o)) ∧
    (o.csr ∈ laneCsrs → ∃ t g', exec (.csrw o) s = .next t ∧ Retired s t gid c g' none ∧
      let act := active g c o
      let x (i : Nat) : Word := low (vec g c i false o.a)
      (o.csr = 0x138 → g' = { g with srstate := g'.srstate } ∧ ∀ i, SMap.find? g'.srstate i = if act.getLsbD i then some (x i) else SMap.find? g.srstate i) ∧
      (∀ k < 4, o.csr = 0x140 + k → g' = { g with xregs := g'.xregs } ∧ ∀ i j, j < 4 → g'.x i j = if act.getLsbD i ∧ j = k then x i else g.x i j) ∧
      (o.csr = 0x144 → g' = { g with preds := g'.preds } ∧ (∀ n, 32 ≤ n → g'.p n = g.p n) ∧
        ∀ n < 32, ∀ i, (g'.p n).getLsbD i = if act.getLsbD i then (x i).getLsbD n else (g.p n).getLsbD i) ∧
      (o.csr = 0x147 → g.qpopsel < g.queues.length → g' = { g with queues := g'.queues } ∧
        (∀ n, n ≠ g.qpopsel → g'.q n = g.q n) ∧ (g'.q g.qpopsel).port = (g.q g.qpopsel).port ∧ (g'.q g.qpopsel).fifo = (g.q g.qpopsel).fifo ∧
        ((g.q g.qpopsel).pop.length ≤ 1 → ∀ i, (shownPop g').elim 0 (fun e => SMap.get 0 e i) =
          if act.getLsbD i then x i else (shownPop g).elim 0 (fun e => SMap.get 0 e i))) ∧
      (o.csr = 0x14A → g.qpopsel < g.queues.length → g' = { g with queues := g'.queues } ∧ (∀ n, n ≠ g.qpopsel → g'.q n = g.q n) ∧
        (g'.q g.qpopsel).port = (g.q g.qpopsel).port ∧ (g'.q g.qpopsel).pop = (g.q g.qpopsel).pop ∧
        (∀ j, j ≠ g.qentsel → (g'.q g.qpopsel).fifo[j]? = (g.q g.qpopsel).fifo[j]?) ∧ (g'.q g.qpopsel).fifo.length = (g.q g.qpopsel).fifo.length ∧
        (g.qentsel < (g.q g.qpopsel).fifo.length → ∀ i, shownEntry g' i = if act.getLsbD i then x i else shownEntry g i) ∧
        (let e (g : Group) : SMap Word := SMap.get [] (g.q g.qpopsel).staged g.qentsel
         (g.q g.qpopsel).fifo.length ≤ g.qentsel → ∀ i, SMap.find? (e g') i = if act.getLsbD i then some (x i) else SMap.find? (e g) i)))

/-- R225, R234, R154, R398, R213, R212, R242, R193, R195, R101, R241: the registers whose writes have rules of their own. -/
def Sys2Proof.Claims.RegistersWithWriteRules : Prop :=
  ∀ s gid g c o, ReadyCsr s gid g c o true →
    let core := coreOfGid gid
    let v := low (sca g false o.a)
    (o.csr = 0x000 → ∃ g', Writes s s gid g g' c o (.fpcsrWrite o) ∧ g' = { g with fpcsr := g'.fpcsr } ∧
      g'.fpcsr.extractLsb' 0 3 = (if v.extractLsb' 0 3 ≤ 4 then v.extractLsb' 0 3 else g.fpcsr.extractLsb' 0 3) ∧
      g'.fpcsr.extractLsb' 3 2 = v.extractLsb' 3 2 ∧ g'.fpcsr.extractLsb' 5 3 = 0 ∧ g'.fpcsr.extractLsb' 8 5 = v.extractLsb' 8 5 ∧ g'.fpcsr.extractLsb' 13 19 = 0) ∧
    (o.csr = 0x001 → ∃ g', Writes s s gid g g' c o (.srseedWrite o) ∧ g' = { g with srseed := v, srstate := g'.srstate } ∧
      ∀ i < 64, (SMap.find? g'.srstate i).getD (seeded g'.srseed i) = seeded v i) ∧
    (o.csr = 0x148 → g.qpopsel < g.queues.length → let r := g.q g.qpopsel
      (32 < v.toNat → Writes s s gid g g c o (.qlevelWrite o)) ∧
      (v.toNat ≤ 32 → ∃ f, Writes s s gid g (g.setQ g.qpopsel { r with fifo := f, staged := [] }) c o (.qlevelWrite o) ∧ f.length = v.toNat ∧
        ∀ j < v.toNat, f[j]? = if j < r.fifo.length then r.fifo[j]? else some (SMap.get [] r.staged j))) ∧
    (o.csr = 0x128 → let k := (v.extractLsb' 3 1).toNat
      let x := g.cslot k
      let kind := (v.extractLsb' 4 4).toNat
      let target := (v.extractLsb' 8 4).toNat
      let g₁ : Group := { g with waitst := v &&& 0xF }
      let same : Prop := x.wait.code = kind ∧ (kind = 0 ∨ x.wait.target = target)
      (k ≠ shownSlot g ∨ same → Writes s s gid g g₁ c o (.waitstViewWrite o)) ∧
      (k = shownSlot g → ¬ same → Writes s s gid g (g₁.setCslot k { x with wait := { x.wait with kind := kind, target := target } }) c o (.waitstViewWrite o))) ∧
    (∀ k < 2, o.csr = 0x002 + k → let gone := g.lmask &&& ~~~(splice g.lmask k v)
      g.lmask &&& ~~~gone ≠ 0 → Writes s s gid g { g with
        lmask := g.lmask &&& ~~~gone, fmask := g.fmask &&& ~~~gone, entryMask := g.entryMask &&& ~~~gone,
        s0 := { g.s0 with mask := g.s0.mask &&& ~~~gone }, s1 := { g.s1 with mask := g.s1.mask &&& ~~~gone } } c o (.lmaskWrite o)) ∧
    (o.csr = 0x12A → g.leaving = false →
      (v ≠ 1 → Writes s s gid g g c o (.gsaveWrite o)) ∧
      (v = 1 → g.sq ≠ [] → Writes s s gid g { g with leaving := true } c o (.gsaveWrite o)) ∧
      ∀ tid t₀, v = 1 → active g c o ≠ 0 → g.sq = [] → g.team = some tid → SMap.find? s.teams tid = some t₀ → ∃ t t₁, exec (.gsaveWrite o) s = .next t ∧
        SMap.find? t.groups gid = none ∧ (∀ n, n ≠ gid → SMap.find? t.groups n = SMap.find? s.groups n) ∧ t.mem = s.mem ∧
        SMap.find? t.teams tid = some t₁ ∧ ∃ x : SavedGroup, t₁ = { t₀ with left := t₀.left ++ [x] } ∧
          (x.idx, x.gid, x.slices, x.gsavep, x.held) = (g.gidx, gid, g.slices, g.gsavep, g.held)) ∧
    (∀ k < 2, o.csr = 0x1CC + k → let x := s.coreOf core
      Writes s (s.setCore core { x with tgtsel := splice x.tgtsel k (if k = 0 then v &&& 0x7FFFFF else v &&& 0x7FF) }) gid g g c o (.tgtselWrite o)) ∧
    (∀ n, coreNamed s core = some n → let x := s.coreOf n
      (o.csr = 0x1C0 → Writes s (s.setCore n { x with progwin := window x.progwin v }) gid g g c o (.progwinWrite o)) ∧
      (o.csr = 0x1C1 → Writes s (s.setCore n { x with progfault := window x.progfault v }) gid g g c o (.progfaultWrite o))) ∧
    (∀ i, (i, o.csr) ∈ [(Instr.progwinWrite o, 0x1C0), (.progfaultWrite o, 0x1C1)] → coreNamed s core = none → Writes s (missed s core) gid g g c o i) ∧
    (o.csr = 0x1C8 → ctxNamed s g core = none → Writes s (missed s core) gid g g c o (.kinstInstall o)) ∧
    (∀ k < 2, o.csr = 0x1C4 + k →
      (clusterNamed s core = none → Writes s (missed s core) gid g g c o (.sppdataWrite o)) ∧
      ∀ n, clusterNamed s core = some n →
        let x := s.clusterOf n
        let j := (x.sppsel.extractLsb' 0 4).toNat
        let old : DWord := SMap.get 0 x.spp j
        let e := splice old k v
        let base (y : DWord) : Nat := (y.extractLsb' 16 10).toNat
        let size (y : DWord) : Nat := (y.extractLsb' 26 11).toNat
        let bad : Prop := 1024 < base e + size e ∨ size e = 0 ∨ e.extractLsb' 37 26 ≠ 0 ∨ ∃ m y, (m, y) ∈ x.spp ∧ m ≠ j ∧ y.getLsbD 63 = true ∧
          (y.extractLsb' 0 16 = e.extractLsb' 0 16 ∨ (base y < base e + size e ∧ base e < base y + size y))
        ∃ x', Writes s (s.setCluster n x') gid g g c o (.sppdataWrite o) ∧ x' = { x with spp := x'.spp, sppsel := x'.sppsel, scratch := x'.scratch } ∧
          x'.sppsel.extractLsb' 0 31 = (x.sppsel.extractLsb' 0 4).setWidth 31 ∧
          (∀ m, m ≠ j → (SMap.get 0 x'.spp m : DWord) = SMap.get 0 x.spp m) ∧
          (e.getLsbD 63 = false → x'.sppsel.getLsbD 31 = false ∧ SMap.get 0 x'.spp j = e &&& 0x0000001FFFFFFFFF ∧ x'.scratch = x.scratch) ∧
          (e.getLsbD 63 = true → bad → x'.sppsel.getLsbD 31 = true ∧ x'.spp = x.spp ∧ x'.scratch = x.scratch) ∧
          (e.getLsbD 63 = true → ¬ bad → x'.sppsel.getLsbD 31 = false ∧ SMap.get 0 x'.spp j = e ∧ ∀ a, readByte x'.scratch a =
            if (old.getLsbD 63 = false ∨ old.extractLsb' 0 37 ≠ e.extractLsb' 0 37) ∧ 65536 * base e ≤ a ∧ a < 65536 * (base e + size e) then 0
            else readByte x.scratch a)) ∧
    (∀ r < 3, let x := s.ring (ringAt r)
      (o.csr = 0x209 + 2 * r → Writes s (s.setRing (ringAt r) { x with tail := v }) gid g g c o (.ringTailWrite o)) ∧
      ∀ k < 2, o.csr = 0x200 + 2 * r + k → let y := splice x.ptr k v
        let kept : Prop := (k = 0 ∧ ¬ (4 ≤ (v.extractLsb' 0 5).toNat ∧ (v.extractLsb' 0 5).toNat ≤ 20)) ∨ y.extractLsb' 46 10 ≠ 0
        (kept → Writes s (s.setRing (ringAt r) x) gid g g c o (.ringPointerWrite o)) ∧
        (¬ kept → Writes s (s.setRing (ringAt r) { x with ptr := y &&& 0x00FFFFFFFFFFF01F }) gid g g c o (.ringPointerWrite o)))

/-- R178: the write of KINST's word 0 waits for the group's earlier stores; then it reads the descriptor and installs the kernel, or rejects it and installs nothing. -/
def Sys2Proof.Claims.KernelsAreInstalled : Prop :=
  ∀ s gid g c o n x lane, ReadyCsr s gid g c o true → o.csr = 0x1C8 → ctxNamed s g (coreOfGid gid) = some n → s.ctxOf? n = some x →
    (active g c o).getLsbD lane = true → (∀ j < lane, (active g c o).getLsbD j = false) →
    let addr := (x.kinst1 ++ low (sca g false o.a)).toNat
    (storesDone s gid g = false → exec (.kinstInstall o) s = .next s) ∧
    (storesDone s gid g = true → (addr % 64 ≠ 0 ∨ 2 ^ 56 ≤ addr) → ∃ t s', exec (.kinstInstall o) s = .next t ∧ Retired s' t gid c g none ∧
      s' = { s with ctxs := s'.ctxs } ∧ (∀ m, m ≠ n → s'.ctxOf? m = s.ctxOf? m) ∧ s'.ctxOf? n = some { x with kinst0 := 1 }) ∧
    ∀ a s₁, storesDone s gid g = true → addr % 64 = 0 → addr < 2 ^ 56 → Access s gid g 64 .load false [(lane, addr)] [(lane, a)] s₁ →
      Settled s₁ gid g 64 a → Uncached s₁ gid a →
      let d : BitVec 512 := BitVec.ofNat 512 (leNat (readPlace s a.place a.addr 64))
      ∃ t s₂ s₃ x', exec (.kinstInstall o) s = .next t ∧ Reached s s₂ ∧ s₂.ctxOf? n = some { x with touched := x'.touched } ∧
        s₃ = { s₂ with ctxs := s₃.ctxs } ∧ (∀ m, m ≠ n → s₃.ctxOf? m = s₂.ctxOf? m) ∧ s₃.ctxOf? n = some x' ∧
        (kernelOk x.kernels d = false → x' = { x with kinst0 := 1, touched := x'.touched } ∧ Retired s₃ t gid c g none) ∧
        (kernelOk x.kernels d = true →
          let k : Kernel := { desc := d, order := s.clock, waiting := List.range (d.extractLsb' 128 16).toNat, saved := [], ended := 0, unplaceable := false }
          x' = { x with kinst0 := 0, touched := x'.touched, kernels := SMap.put x.kernels (d.extractLsb' 220 4).toNat k } ∧
            Retired (checkPlaceable s₃) t gid c g none)

end

namespace Sys2Proof.Claims

open Machine Form

/-! ## What a core does by itself -/

/-- Only the group `gid` of `s` differs in `t`: it holds `g'`. -/
def GroupIs (s t : State) (gid : Nat) (g' : Group) : Prop :=
  t = { s with groups := t.groups } ∧ SMap.find? t.groups gid = some g' ∧ ∀ n, n ≠ gid → SMap.find? t.groups n = SMap.find? s.groups n
/-- R189: `g'` is `g`, but that a fragment that has become eligible counts its age anew. -/
def AgedFrom (g g' : Group) : Prop := g' = { g with s0 := { g.s0 with since := g'.s0.since }, s1 := { g.s1 with since := g'.s1.since } }
/-- R206: a parking. -/
def parkedAt (x : Slot) (mask pc : DWord) (idx : Nat) (seq : Word) (ipc : DWord) : Slot :=
  { x with park := { active := true, mask := mask, pc := pc, idx := BitVec.ofNat 32 idx, seq := seq, ipc := ipc, replay := false } }
/-- R190: what a live slot of lanes `lanes` waits for has come about; kinds 1 future, 2 barrier object, 3 tree, 6 queue, 18 wfi. -/
def Over (s : State) (core gid : Nat) (g : Group) (lanes : DWord) (w : Wait) : Prop :=
  (w.kind = 1 ∧ 2 ≤ (futureOf s g.ctx w.handle).1) ∨
  (w.kind = 2 ∧ ∃ tid t₀, g.team = some tid ∧ SMap.find? s.teams tid = some t₀ ∧ (t₀.obj w.target).phase ≠ g.wp.getLsbD w.target ∧
    ¬ Arriving gid g (t₀.obj w.target) w.target lanes w.ipc) ∨
  (w.kind = 3 ∧ (s.coreOf core).seen.getLsbD w.target ≠ g.tp.getLsbD w.target) ∨
  (w.kind = 6 ∧ (g.q w.target).fifo ≠ []) ∨
  (w.kind = 18 ∧ (s.fr.head ≠ s.fr.tail ∨ s.hfq.head ≠ s.hfq.tail ∨ s.evq.head ≠ s.evq.tail ∨ (s.coreOf core).wake = true))
/-- A wait of live slot `k` that has not ended. -/
def Waiting' (s : State) (core slot k : Nat) (g : Group) : Prop :=
  slot < 64 ∧ k < 2 ∧ SMap.find? s.groups (64 * core + slot) = some g ∧ (g.slot k).mask ≠ 0 ∧ (g.slot k).wait.ended = false ∧ (g.slot k).wait.kind ≠ 0
/-- R190: the wait has ended as `w` says, so the fragment may issue again. -/
def woken (s : State) (g : Group) (k : Nat) (w : Wait) : Group := g.setSlot k { g.slot k with wait := { w with ended := true }, since := s.clock }
/-- R201: the record of a trap of a whole group. -/
def groupRec (g : Group) (cause reason : Nat) (info : Word) : TrapReq :=
  let k := if g.s0.mask = 0 then 1 else 0
  { cause := cause, reason := reason, info := info, tmask := g.lmask, cpc := (g.slot k).pc, ipc := (g.slot k).pc, idx := 0, rpc := (g.slot k).pc,
    slot := k, run := g.lmask, abandon := false }
/-- The record of a held trap that the fragment of a live slot takes for the lanes `tmask`: one other than PROGRESS abandons a wait that goes on. -/
def heldRec (g : Group) (k : Nat) (h : Held) (tmask : DWord) : TrapReq :=
  let x := g.slot k
  { cause := h.cause, reason := h.reason, info := h.info, tmask := tmask, cpc := h.cpc, ipc := h.ipc, idx := h.idx, rpc := x.pc, slot := k, run := x.mask,
    abandon := h.cause ≠ 0x08 && x.wait.kind != 0 && !x.wait.ended }
/-- R108, R207: the held trap `h` is due at live slot `k`: its lowest live lane stands there, not parked; MEMFATAL (0x0D) of a cancelled parking is due at the parking. -/
def DueAt (g : Group) (h : Held) (k : Nat) : Prop :=
  k < 2 ∧ h.cause ≠ 0x10 ∧
  ((h.cause ≠ 0x0D ∧ ∃ l, (h.mask &&& g.lmask).getLsbD l = true ∧ (∀ j < l, (h.mask &&& g.lmask).getLsbD j = false) ∧
      (g.slot k).mask.getLsbD l = true ∧ (g.slot k).park.active = false ∧ (k = 1 → g.s0.mask.getLsbD l = false)) ∨
   (h.cause = 0x0D ∧ h.mask &&& g.lmask ≠ 0 ∧ (g.slot k).park.active = true ∧ (g.slot k).park.replay = false ∧ (g.slot k).park.seq = h.info ∧
      (k = 1 → g.s0.park.active = false)))
/-- R38: the record of a lane's fault. -/
def laneRec (gid : Nat) (g : Group) (akind cause va : Nat) (win : Bool) (level : Nat) (entry : DWord) (pc lanes : DWord) (seq : Word) : FaultRec :=
  { cause := cause, akind := akind, level := level, straddle := false, sup := g.sup, win := win, ctx := g.ctx, core := coreOfGid gid, va := va,
    pc := pc.toNat, lanes := lanes, entry := entry.toNat, ftag := 0, ffmt := 0, slot := slotOfGid gid, seq := seq.toNat }

end Sys2Proof.Claims

section

open Sys2Proof Sys2Proof.Machine Sys2Proof.Claims Sys2Proof.Form

/-! ## What a core does by itself -/

/-- R166, R188, R189, R207, R215, R216: a free issue slot takes the clause of the candidate that comes first; the clause is in issue, waits for a thaw, parks at a fetch fault, or raises ILLCLAUSE. -/
def Sys2Proof.Claims.ClausesIssue : Prop :=
  ∀ s core part islot y, part < 4 → islot < 4 → s.resetting = false → s.coreEnabled core = true →
    (∀ e ∈ s.groups, e.1 / 16 = 4 * core + part → ∀ c, e.2.clause = some c → min 3 (c.hdr.extractLsb' 21 3).toNat ≠ islot) →
    y ∈ candidates s core part islot → (∀ z ∈ candidates s core part islot, z ≠ y → y.before ((s.coreOf core).rr.getD part 0) z = true) →
    let s₀ := s.setCore core { s.coreOf core with rr := (s.coreOf core).rr.set part ((y.gid % 16 + 1) % 16) }
    let k := y.choice.k
    let g : Group := { y.g with pass := y.choice.pass, pslot := y.choice.pslot }
    let x := g.slot k
    (∀ s', fetchClause s₀ y.gid g y.ctx x.pc.toNat = (.wait, s') → exec (.clauseIssue core part islot) s = .next s') ∧
    (∀ cause level e tag fmt va pc straddle s', fetchClause s₀ y.gid g y.ctx x.pc.toNat = (.fault cause level e tag fmt va pc straddle, s') →
      ∃ t s₁ g', exec (.clauseIssue core part islot) s = .next t ∧ GroupIs s₁ t y.gid g' ∧
        AgedFrom (g.flush.setSlot k (parkedAt x x.mask x.pc 0 s'.seqNo x.pc)) g' ∧
        s₁ = postFault { s' with seqNo := s'.seqNo + 1 }
          { cause := cause, akind := 3, level := level, straddle := straddle, sup := g.sup, win := false, ctx := g.ctx, core := coreOfGid y.gid, va := va,
            pc := pc, lanes := x.mask, entry := e.toNat, ftag := tag.toNat, ffmt := fmt.toNat, slot := slotOfGid y.gid, seq := s'.seqNo.toNat }) ∧
    (∀ hdr ws s', fetchClause s₀ y.gid g y.ctx x.pc.toNat = (.ok hdr ws, s') → 
      (clauseIll hdr ws = true → Enters s' g → ∃ t, exec (.clauseIssue core part islot) s = .next t ∧ Trapped s' t y.gid g
        { cause := 0x01, reason := 0, info := 0, tmask := x.mask, cpc := x.pc, ipc := x.pc, idx := 0, rpc := x.pc, slot := k, run := x.mask, abandon := false }) ∧
      (clauseIll hdr ws = false → ∃ t g' m, exec (.clauseIssue core part islot) s = .next t ∧ GroupIs { s' with mgmt := { s'.mgmt with counters := m } } t y.gid g' ∧
        SMap.get 0 m g.ctx = SMap.get 0 s'.mgmt.counters g.ctx + 1 ∧
        g' = { g with
          srstate := g'.srstate, s0 := g'.s0, s1 := g'.s1, fmask := x.mask &&& g.lmask, rotc := if g.spill = [] then 0 else g.rotc + 1
          clause := some { pc := x.pc, hdr := hdr, words := ws, idx := 0, ipc := x.pc + 4, slot := k, lats := [],
                           replay := if x.park.active then some (x.park.idx.toNat, x.park.mask) else none } } ∧
        g'.slot (1 - k) = g.slot (1 - k) ∧
        g'.slot k = { x with park := { x.park with active := false, replay := false }, first := some (x.first.getD s.clock), rng := (g'.slot k).rng } ∧
        (x.first = none → g'.srstate = g.srstate) ∧ (x.first ≠ none → ∀ i v, x.rng.filter (fun e => e.1 = i) = [(i, v)] → SMap.find? g'.srstate i = some v)))

/-- R190, R194, R252, R359, R361, R403: a result that arrives is written and its counter goes down by one; a wait ends when what it waits for has come about, and not before; a bounded wait and a wfi end at their deadline; a tree's release reaches a core. -/
def Sys2Proof.Claims.ResultsArriveAndWaitsEnd : Prop :=
  (∀ s core slot g n p, slot < 64 → SMap.find? s.groups (64 * core + slot) = some g → g.pending[n]? = some p →
    ∃ t g', exec (.variableLatencyResult core slot n) s = .next t ∧ GroupIs s t (64 * core + slot) g' ∧
      AgedFrom { p.writes.foldl Group.applyWrite g with
        pending := g.pending.eraseIdx n, counters := g.counters.set p.ctr (g.counters.getD p.ctr 0 - 1) } g' ∧
      (∀ lane reg v, p.writes = [.v lane reg v] → ∀ i r, r < 512 → reg < 512 → g'.v i r = if i = lane ∧ r = reg then v else g.v i r) ∧
      (∀ f, p.writes = [.flags f] → g'.fpcsr = g.fpcsr ||| f)) ∧
  (∀ s core slot k g, Waiting' s core slot k g → let w := (g.slot k).wait
    let gid := 64 * core + slot
    (w.kind ∉ [4, 5] → Over s core gid g (g.slot k).mask w → ∃ t, exec (.waitEnd core slot k) s = .next t ∧ GroupIs s t gid (woken s g k w)) ∧
    (w.kind ∉ [4, 5] → ¬ Over s core gid g (g.slot k).mask w → exec (.waitEnd core slot k) s = .next s) ∧
    ∀ n, w.ticket = some n → w.kind ∈ [4, 5] →
      (∀ f l, (lanesGo s gid g 64 .acquire true [(0, slotAt w.hdr w.logn n.toNat)]).bad = f :: l →
        ∃ t, exec (.waitEnd core slot k) s = .next t ∧ GroupIs s t gid (woken s g k w)) ∧
      ∀ a s₂, Access s gid g 64 .acquire true [(0, slotAt w.hdr w.logn n.toNat)] [(0, a)] s₂ → Settled s₂ gid g 64 a →
        let ready := s.num (a.addr + 60) 4 = 2 * lap w.logn n.toNat + (if w.kind = 5 then 1 else 0)
        ∃ s₁, Reached s s₁ ∧
          (ready → w.kind = 4 → ∃ t, exec (.waitEnd core slot k) s = .next t ∧
            GroupIs (s₁.setCore core { s₁.coreOf core with faultcnt := s.clock }) t gid (woken s g k w)) ∧
          (ready → w.kind = 5 → ∃ t, exec (.waitEnd core slot k) s = .next t ∧ GroupIs s₁ t gid (woken s g k w)) ∧
          (¬ ready → exec (.waitEnd core slot k) s = .next s₁)) ∧
  (∀ s core slot k g d, Waiting' s core slot k g → let w := (g.slot k).wait
    w.kind = 2 → w.deadline = some d →
    (s.clock < d → exec (.bwaitTimeout core slot k) s = .next s) ∧
    (d ≤ s.clock → Over s core (64 * core + slot) g (g.slot k).mask w → ∃ t, exec (.bwaitTimeout core slot k) s = .next t ∧ GroupIs s t (64 * core + slot) (woken s g k w)) ∧
    (d ≤ s.clock → ¬ Over s core (64 * core + slot) g (g.slot k).mask w → ∃ t, exec (.bwaitTimeout core slot k) s = .next t ∧
      GroupIs s t (64 * core + slot) (woken s g k { w with deadline := some 0 }))) ∧
  (∀ s core g d, Waiting' s core 0 0 g → g.s0.wait.kind = 18 → g.s0.wait.deadline = some d →
    (s.clock < d → exec (.wfiTimeout core) s = .next s) ∧
    (d ≤ s.clock → ∃ t, exec (.wfiTimeout core) s = .next t ∧ GroupIs s t (64 * core) (woken s g 0 g.s0.wait))) ∧
  ∀ s tree core, tree < 16 → core < 1152 →
    exec (.treeReleaseSeen tree core) s = .next (s.setCore core { s.coreOf core with seen := withBit (s.coreOf core).seen tree (s.trees.getLsbD tree) })

/-- R108, R194, R205, R207: illbarrierDelivery completes: for every core, slot and state in which the slot's group, in user mode and not halted, stands at a clause boundary or waits, with no spilled fragment, and the first trap that it holds concerns lanes that still live and is due at a live slot, a next state follows: that slot's fragment has taken the trap, and the group holds the others. -/
def Sys2Proof.Claims.IllbarrierDeliveryCompletes : Prop :=
  ∀ s core slot g h rest k, slot < 64 → SMap.find? s.groups (64 * core + slot) = some g → g.clause = none → g.halted = false → Enters s g →
    g.held = h :: rest → (∀ x ∈ rest, g.stale x = false) → (h.cause = 0x08 → (g.slot k).wait.kind = 4) → DueAt g h k →
    ∃ t, exec (.illbarrierDelivery core slot) s = .next t ∧
      Trapped s t (64 * core + slot) { g with held := rest } (heldRec g k h (if h.cause = 0x0D then h.mask else (g.slot k).mask))

/-- R205, R219: dielossEntry completes: for every core, slot and state in which the slot's group, in user mode and not halted, stands at a clause boundary, waits or is parked, with no spilled fragment, and holds DIELOSS, a next state follows: the whole group has taken it. A group in a frontier parking (R446) takes it from where it stood before. -/
def Sys2Proof.Claims.DielossEntryCompletes : Prop :=
  (∀ s core slot g h, slot < 64 → SMap.find? s.groups (64 * core + slot) = some g → g.clause = none → g.halted = false → Enters s g →
    g.held.find? (fun x => x.cause = 0x10) = some h → ∃ t, exec (.dielossEntry core slot) s = .next t ∧
      Trapped s t (64 * core + slot) { g with held := g.held.erase h } (groupRec g 0x10 h.reason h.info)) ∧
  ∀ s core slot g h, slot < 64 → SMap.find? s.groups (64 * core + slot) = some g → g.clause = none → g.halted = false → g.fpark ≠ none → g.spill = [] →
    (s.ctxOf? g.ctx).isSome = true → g.held.find? (fun x => x.cause = 0x10) = some h →
    let g₀ : Group := { g with fpark := none, sup := false, s0 := g.k0, s1 := g.k1, k0 := Slot.empty, k1 := Slot.empty,
                               rotc := (g.cstat.extractLsb' 0 6).toNat, pass := (g.cstat.extractLsb' 12 5).toNat, pslot := (g.cstat.extractLsb' 17 1).toNat }
    ∃ t, exec (.dielossEntry core slot) s = .next t ∧
      Trapped s t (64 * core + slot) { g₀ with held := g.held.erase h } (groupRec g₀ 0x10 h.reason h.info)

/-- R205, R211: preemptEntry completes: for every core, slot and state in which the slot's group belongs to a team that is being pre-empted and has no clause in issue, a next state follows. In user mode, with no spilled fragment, no DIELOSS held and no held trap due at a live slot, the whole group has taken PREEMPT; a halted group stands in PREEMPT's handler with its fragment state as it was captured. A group of a team that is not chosen keeps everything. -/
def Sys2Proof.Claims.PreemptEntryCompletes : Prop :=
  (∀ s core slot g tid t₀, slot < 64 → SMap.find? s.groups (64 * core + slot) = some g → g.clause = none → g.team = some tid →
    SMap.find? s.teams tid = some t₀ → t₀.preempt = true →
    (g.halted = false → Enters s g → (∀ h ∈ g.held, h.cause ≠ 0x10 ∧ g.dueSlot h = none) →
      ∃ t, exec (.preemptEntry core slot) s = .next t ∧ Trapped s t (64 * core + slot) g (groupRec g 0x09 0 0)) ∧
    (g.halted = true → ∀ ctx, s.ctxOf? g.ctx = some ctx → ∃ t g', exec (.preemptEntry core slot) s = .next t ∧ GroupIs s t (64 * core + slot) g' ∧
      g'.halted = false ∧ g'.tcause = 0x09 ∧ g'.fmask = g.lmask ∧ g'.s0.mask = g.lmask ∧ g'.s0.pc = ctx.svbase + 0x900 ∧ g'.s1 = Slot.empty ∧
      g'.c0 = g.c0 ∧ g'.c1 = g.c1 ∧ g'.cstat = g.cstat ∧ g'.k0 = g.k0 ∧ g'.k1 = g.k1 ∧ g'.held = g.held)) ∧
  ∀ s core slot g tid t₀, SMap.find? s.groups (64 * core + slot) = some g → g.team = some tid → SMap.find? s.teams tid = some t₀ →
    t₀.preempt = false → exec (.preemptEntry core slot) s = .next s

/-- R194, R195: progressFault completes: for every core and state in which the core's progress-fault counter has reached its limit and one group of it, with no clause in issue and no spilled fragment, waits in a blocking post, a next state follows: the post that waits has taken PROGRESS, and the counter has restarted. Before the limit, and while the counter is off, nothing happens. -/
def Sys2Proof.Claims.ProgressFaultCompletes : Prop :=
  ∀ s core, core < 1152 → let x := s.coreOf core
    (x.progfault.getLsbD 6 = false ∨ s.clock < x.faultcnt + 2 ^ (x.progfault.extractLsb' 0 6).toNat → exec (.progressFault core) s = .next s) ∧
    ∀ slot g k, slot < 64 → SMap.find? s.groups (64 * core + slot) = some g → (64 * core + slot, g) ∈ s.groups →
      let s₀ := s.setCore core { x with faultcnt := s.clock }
      let w := (g.slot k).wait
      x.progfault.getLsbD 6 = true → x.faultcnt + 2 ^ (x.progfault.extractLsb' 0 6).toNat ≤ s.clock → Enters s g → g.clause = none →
      postWaits s (64 * core + slot) g = some k → postWaits s₀ (64 * core + slot) g = some k →
      (∀ e ∈ s.groups, coreOfGid e.1 = core → (postWaits s e.1 e.2).isSome = true → e = (64 * core + slot, g)) →
      ∃ t, exec (.progressFault core) s = .next t ∧ Trapped s₀ t (64 * core + slot) g
        (heldRec g k { cause := 0x08, reason := 0, info := 0, mask := (g.slot k).mask, cpc := (g.slot k).pc, ipc := w.ipc, idx := w.idx } (g.slot k).mask)

/-- R176-R180, R184-R186, R191, R192, R212: the first waiting team that fits starts on the lowest core, each group in its partition with its six words; a saved team returns its resources and waits again; the progress swap chooses the team of the lowest priority, the last admitted among equals. -/
def Sys2Proof.Claims.TeamsComeAndGo : Prop :=
  (∀ s cluster before w behind core place, cluster < 72 → s.resetting = false → waitingTeams s cluster = before ++ w :: behind →
    (∀ x ∈ before, admitPlace s cluster x = none) → admitPlace s cluster w = some (core, place) →
    (∀ sv n, w.saved = some sv → n < place.length → ∃ e ∈ sv.groups, e.idx = n) →
    ∃ t t₀, ∃ gids : List Nat, exec (.teamAdmit cluster) s = .next t ∧ t.mem = s.mem ∧ core / 16 = cluster ∧ place.length = (w.desc.extractLsb' 144 8).toNat ∧
      SMap.find? t.teams (teamKey w.ctx w.kid w.tidx) = some t₀ ∧ (∀ n, n ≠ teamKey w.ctx w.kid w.tidx → SMap.find? t.teams n = SMap.find? s.teams n) ∧
      (t₀.ctx, t₀.kid, t₀.tidx, t₀.core, t₀.shared, t₀.sharedBytes) = (w.ctx, w.kid, w.tidx, core, [], 1024 * (w.desc.extractLsb' 168 11).toNat) ∧
      (∀ n < 16, t₀.obj n = BarObj.init (w.desc.extractLsb' 144 8).toNat) ∧
      (∀ x, s.ctxOf? w.ctx = some x → ∃ x', t.ctxOf? w.ctx = some x' ∧ x' = { x with kernels := x'.kernels, touched := x.touched ||| BitVec.twoPow 144 cluster }) ∧
      gids.length = place.length ∧ gids.Nodup ∧ (∀ n, n ∉ gids → SMap.find? t.groups n = SMap.find? s.groups n) ∧
      ∀ n gid p, gids[n]? = some gid → place[n]? = some p → gid / 16 = 4 * (core + p.1) + p.2 ∧ SMap.find? s.groups gid = none ∧
        (∀ e ∈ s.teams, ∀ x ∈ e.2.left, x.gid ≠ gid) ∧
        (∀ sv e x, w.saved = some sv → sv.groups.find? (fun e => e.idx = n) = some e → s.ctxOf? w.ctx = some x → ∃ g, SMap.find? t.groups gid = some g ∧ g.sup = true ∧
          g.tcause = 0x11 ∧ g.s0.pc = x.svbase + 0x1100 ∧ g.s0.mask = g.lmask ∧ g.gidx = n ∧ g.tidx = w.tidx ∧ g.s 0x40 = e.gsavep.extractLsb' 0 32 ∧ g.s 0x41 = e.gsavep.extractLsb' 32 32 ∧ g.held = e.held) ∧
        (w.saved = none → ∃ g, SMap.find? t.groups gid = some g ∧ (∀ i, w.desc.extractLsb' 152 2 ≠ 3 → (g.lmask.getLsbD i ↔ i < 16 * 2 ^ (w.desc.extractLsb' 152 2).toNat)) ∧ g.s0.pc = (w.desc.extractLsb' 0 56).setWidth 64 ∧ g.s0.mask = g.lmask ∧
          g.sup = false ∧ g.gidx = n ∧ g.tidx = w.tidx ∧ g.s 0 = w.desc.extractLsb' 64 32 ∧ g.s 1 = (w.desc.extractLsb' 96 24).setWidth 32 ∧ g.s 2 = BitVec.ofNat 32 w.tidx ∧
          g.s 3 = BitVec.ofNat 32 n ∧ g.s 4 = (w.desc.extractLsb' 128 16).setWidth 32 ∧ g.s 5 = (w.desc.extractLsb' 144 8).setWidth 32)) ∧
  (∀ s team t₀, SMap.find? s.teams team = some t₀ → 
    (t₀.left = [] ∨ (∃ e ∈ s.groups, e.2.team = some team) ∨ teamQuiet s team t₀ = false → exec (.teamSaveComplete team) s = .next s) ∧
    ∀ x k, t₀.left ≠ [] → (∀ e ∈ s.groups, e.2.team ≠ some team) → teamQuiet s team t₀ = true → s.ctxOf? t₀.ctx = some x → SMap.find? x.kernels t₀.kid = some k →
      ∃ t s₁, exec (.teamSaveComplete team) s = .next t ∧ t = checkPlaceable s₁ ∧ s₁ = { s with teams := s₁.teams, seqs := s₁.seqs, ctxs := s₁.ctxs, cores := s₁.cores } ∧
        s₁.teams = SMap.del s.teams team ∧ (∀ n, t₀.seq = some n → s₁.seqOf (4 * t₀.core + n) = Seq.init) ∧
        let sv : SavedTeam := { tidx := t₀.tidx, groups := t₀.left, mbase := t₀.mbase, mseq := t₀.mseq }
        let k' : Kernel := { k with saved := k.saved ++ [sv] }
        s₁.ctxOf? t₀.ctx = some { x with kernels := SMap.put x.kernels t₀.kid k' }) ∧
  ∀ s core, core < 1152 → let x := s.coreOf core
    let can (e : Nat × Team) : Prop := e ∈ s.teams ∧ (e.2.core = core ∨ (e.2.paired = true ∧ e.2.core + 1 = core)) ∧ e.2.preempt = false ∧
      ∃ w ∈ waitingTeams s (core / 16), e.2.prio ≤ w.prio ∧ (fits s w.desc (if w.desc.getLsbD 154 then core / 2 * 2 else core) (some e.1)).isSome = true
    let s' := s.setCore core { x with wincnt := s.clock }
    (x.progwin.getLsbD 6 = false ∨ s.clock < x.wincnt + 2 ^ (x.progwin.extractLsb' 0 6).toNat → exec (.progressSwap core) s = .next s) ∧
    (x.progwin.getLsbD 6 = true → x.wincnt + 2 ^ (x.progwin.extractLsb' 0 6).toNat ≤ s.clock →
      ((∀ e, ¬ can e) → exec (.progressSwap core) s = .next s') ∧
      ∀ tid t₀, can (tid, t₀) → SMap.find? s.teams tid = some t₀ →
        (∀ e, can e → e ≠ (tid, t₀) → t₀.prio < e.2.prio ∨ (t₀.prio = e.2.prio ∧ e.2.admitted < t₀.admitted)) →
        exec (.progressSwap core) s = .next { s' with teams := SMap.put s.teams tid { t₀ with preempt := true } })

/-- R31, R32, R34, R37: a walk that has a place in the cluster's queue: one of no context is dropped; while its context is being shot down, or while it has no walker or a read of it waits, it keeps its place; otherwise it ends, and leaves its leaf in the cluster's TLB unless it fails or its key does not permit it. -/
def Sys2Proof.Claims.PrefetchWalks : Prop :=
  ∀ s cl ctx (va : DWord), let page := va.toNat / 65536
    let x := s.clusterOf cl
    let Over (t : State) : Prop := Reached s t ∧ (∀ k, k ≠ cl → t.clusterOf k = s.clusterOf k) ∧ (t.clusterOf cl).walks = x.walks.erase (ctx, page)
    ((ctx, page) ∉ x.walks → exec (.translationWalk cl ctx va) s = .next s) ∧
    ((ctx, page) ∈ x.walks → s.ctxOf? ctx = none → ∃ t, exec (.translationWalk cl ctx va) s = .next t ∧ Over t ∧ (t.clusterOf cl).tlb = x.tlb) ∧
    ∀ c, (ctx, page) ∈ x.walks → s.ctxOf? ctx = some c →
      ((∃ t ∈ s.tlbinvs, (t.kind < 2 ∧ t.ctx = ctx) ∨ (t.kind = 2 ∧ c.kind = 0)) → exec (.translationWalk cl ctx va) s = .next s) ∧
      ((∀ t ∈ s.tlbinvs, ¬ ((t.kind < 2 ∧ t.ctx = ctx) ∨ (t.kind = 2 ∧ c.kind = 0))) →
        let r := walkReady (askAgain s (.walker cl ctx page)) (some cl) ctx c (65536 * page)
        let w := walk r.2 (r.2.clusterOf cl).walkc ctx c (65536 * page)
        (r.1 = false → exec (.translationWalk cl ctx va) s = .next r.2 ∧ SameMemory s r.2 ∧ (r.2.clusterOf cl).walks = x.walks) ∧
        (r.1 = true → ∃ t, exec (.translationWalk cl ctx va) s = .next t ∧ Over t ∧
          (∀ f, w = .error f → (t.clusterOf cl).tlb = x.tlb) ∧
          ∀ level e met, w = .ok (level, e, met) →
            (e.extractLsb' 19 8 ≠ c.ckey → (t.clusterOf cl).tlb = x.tlb) ∧
            (e.extractLsb' 19 8 = c.ckey →
              { ctx := ctx, level := level, page := 65536 * page / 2 ^ (16 + 10 * level) * 2 ^ (16 + 10 * level), leaf := e : TlbEntry } ∈ (t.clusterOf cl).tlb)))

/-- R33, R38, R206, R343: a lane of a load or store that faults parks the fragment at the instruction: a pointer that is no address (0x01), the window region named by .g (0x02), or what translation answers; its record goes to the fault-record ring, and no byte is stored. -/
def Sys2Proof.Claims.MemoryFaultsPark : Prop :=
  ∀ s gid g c o n ctx, ∀ i akind acc, (i, akind, acc) ∈ [(Instr.ld o, 0, Acc.load), (.st o, 1, Acc.store)] → n < 64 →
    Ready s gid g c (active g c o) (zOpd (akind = 0) (if akind = 0 ∧ (o.var = 5 ∨ o.var = 6) then 2 else o.var) o.d :: addrOpds o true) →
    (akind = 0 → CtrRoom g o.ctr) → g.sq.length < 32 → active g c o = BitVec.twoPow 64 n → s.ctxOf? g.ctx = some ctx →
    let p := laneAddr g c o true (decide (akind = 0)) n
    p % zBytes o.var = 0 →
    let Parks (s₀ : State) (cause va : Nat) (level : Nat) (entry : DWord) : Prop :=
      ∃ t s₁ s₂ g', exec i s = .next t ∧ Reached s₀ s₁ ∧ OnlyGroup s₂ t gid ∧ SMap.find? t.groups gid = some g' ∧
        AgedFrom { g.flush.setSlot c.slot (parkedAt (g.slot c.slot) (BitVec.twoPow 64 n) c.pc c.idx s.seqNo c.ipc) with clause := none } g' ∧
        s₂ = postFault { s₁ with seqNo := s.seqNo + 1 } (laneRec gid g akind cause va false level entry c.ipc (BitVec.twoPow 64 n) s.seqNo)
    (2 ^ 56 ≤ p → Parks s 0x01 p 0 0) ∧
    (0x00FFF00000000000 ≤ p → p < 2 ^ 56 → o.space = 1 → Parks s 0x02 p 0 0) ∧
    ∀ f s₁, p < 0x00FFF00000000000 → translate s (some (coreOfGid gid)) (clusterOfCore (coreOfGid gid)) g.ctx ctx p acc g.sup = (.fault f, s₁) →
      s₁.seqNo = s.seqNo → Parks s₁ f.cause p f.level f.entry

end

namespace Sys2Proof.Claims

open Machine Form

/-! ## Homes, rings, CXL and replica pages -/

/-- R72, R439: what follows a change of a stack's FREE or LOWMARK: the low-space event, once, while it is enabled and FREE is below LOWMARK. -/
def LowSpace (s t : State) (stack : Nat) : Prop :=
  let x := s.stackOf stack
  if x.freeSub < x.lowmark.toNat ∧ x.lowev = true then
    (if x.lowPosted then t = s else t = postEvent (s.setStack stack { x with lowPosted := true }) 0x07 stack 0)
  else t = s.setStack stack { x with lowPosted := false }
/-- R72: FREE of a stack has become `n`. -/
def FreeIs (s t : State) (stack n : Nat) : Prop := ∃ s₁, LowSpace s₁ t stack ∧ s₁ = s.setStack stack { s.stackOf stack with freeSub := n }
/-- R241: where a ring's next entry of `n` bytes lies. -/
def entryAt (r : RingSt) (n : Nat) : Nat := 4096 * (r.ptr.extractLsb' 12 44).toNat + n * (r.head.toNat % 2 ^ (r.ptr.extractLsb' 0 5).toNat)
/-- R87, R241: the ring has a valid pointer and room, its slot lies in an allocated frame of key 0 (and not in a frost sub-frame), and no request of class 0 or 1 waits at the slot's home. -/
structure CanWrite (s : State) (r : RingSt) (n : Nat) : Prop where
  logn  : 4 ≤ (r.ptr.extractLsb' 0 5).toNat ∧ (r.ptr.extractLsb' 0 5).toNat ≤ 20
  room  : (r.head - r.tail).toNat < 2 ^ (r.ptr.extractLsb' 0 5).toNat
  alloc : (s.dirOf (entryAt r n / 65536)).state ≠ 0
  key   : (s.dirOf (entryAt r n / 65536)).ktag = 0
  warm  : (s.dirOf (entryAt r n / 65536)).frost.getLsbD (entryAt r n / 4096 % 16) = false
  turn  : homeClear s 1 (entryAt r n) n = true
/-- What a write at a home changes beside memory: the check symbols and poison records of its granules, a frosting that it cancels, open rows, and what expanders owe. -/
def AtHome (s t : State) : Prop :=
  t = { s with mem := t.mem, upsets := t.upsets, poison := t.poison, frosting := t.frosting, memStacks := t.memStacks, cxl := t.cxl } ∧ t.frosting.length = s.frosting.length
/-- R241: the entry `x` of `n` bytes stands in memory, and the head has advanced; nothing else has changed but what waits. Where no stored bit differs from what was written, every other byte of memory is as it was (R52 writes the rest of a granule back as it is read). -/
def EntryWritten (s t : State) (k : Ring) (n : Nat) (x : BitVec 512) (waiting : List (BitVec 512)) : Prop :=
  let r := s.ring k
  AtHome s { t with fr := s.fr, hfq := s.hfq, evq := s.evq } ∧ t.ring k = { r with head := r.head + 1, waiting := waiting } ∧
    (∀ j, j ≠ k → t.ring j = s.ring j) ∧
    ∀ a, (entryAt r n ≤ a ∧ a < entryAt r n + n → readByte t.mem a = x.extractLsb' (8 * (a - entryAt r n)) 8) ∧
      (¬ (entryAt r n ≤ a ∧ a < entryAt r n + n) → s.upsets = [] → readByte t.mem a = readByte s.mem a)
/-- R69: at most a thaw has been started. -/
def ThawStarted (s t : State) : Prop := t = s ∨ ∃ x, t = { s with thaws := s.thaws ++ [x] }
/-- R161: a request to the switch whose answer somebody asks for: a read, an atomic with return, a write of a job. -/
def Asked (r : RepReq) : Prop := r.write = false ∨ r.atom ≠ none ∨ 90112 ≤ r.gid
/-- R114, R161: what the switch's answer does to an outstanding request: what has been performed everywhere goes to the replica on this module, in the order of the answers; an answer that is asked for is kept; a store that was refused faults. -/
def Answered (s t : State) (r : RepReq) (status : Nat) (data : List Byte) : Prop :=
  (Asked r → t.reps = s.reps.map (fun x => if x = r then { x with got := some (status, data) } else x)) ∧
  (¬ Asked r → t.reps = s.reps.erase r) ∧
  (status = 0 → t = { s with reps := t.reps, homeQ := t.homeQ } ∧ t.homeQ = s.homeQ ++ ((r.reqs ++ r.atomReq data).filter (fun q => q.dst.addr < 2 ^ 46)).map
    (fun q => { q with cls := 3, arrival := s.clock, dst := { q.dst with rep := none } })) ∧
  (status ≠ 0 → Asked r ∨ r.reqs = [] → t = { s with reps := t.reps }) ∧
  (status ≠ 0 → ¬ Asked r → ∀ q l gid, r.reqs = q :: l → q.src = .group gid →
    ∃ f, t = postFault { s with reps := s.reps.erase r, seqNo := s.seqNo + 1 } f ∧ f.cause = 0x0F ∧ f.ctx = q.dst.ctx ∧
      f.va = q.dst.va.toNat ∧ f.core = coreOfGid gid ∧ f.seq = s.seqNo.toNat ∧ f.lanes = 0)

end Sys2Proof.Claims

section

open Sys2Proof Sys2Proof.Machine Sys2Proof.Claims Sys2Proof.Form

/-! ## Homes, rings, CXL and replica pages -/

/-- R61, R69-R72, R87, R88: a thaw that an engine has taken, at its turn, clears its FROST bit, stores the data that its image decodes to and takes a sub-frame from FREE, or waits for one; an idle bank and the banks of a refresh precharge, but for one at which a host request waits, 8 times at most; a background request that has waited 50 µs is served as normal. Memory reads as before but for the low-space event. -/
def Sys2Proof.Claims.ThawsBanksAndAging : Prop :=
  (∀ s frame sub w, let start := 65536 * frame + 4096 * sub
    let stack := s.homeStack start
    let x := s.stackOf stack
    let unit := start / 32
    let bad : Prop := (∃ e ∈ s.poison, unit ≤ e.1 ∧ e.1 < unit + 128) ∨ imageDecode s start = none
    let turn := engineAsk s (thawParty (subKey frame sub)) w.cls start 4096
    ((thawOrder s stack).take 8).find? (fun t => t.frame = frame && t.sub = sub) = some w →
    (x.freeSub = 0 → exec (.thawComplete frame sub) s = .next s) ∧
    turn.2 = { s with homeQ := turn.2.homeQ, memStacks := turn.2.memStacks } ∧ Requests turn.2 = Requests s ∧
    (x.freeSub ≠ 0 → turn.1 = false → exec (.thawComplete frame sub) s = .next turn.2) ∧
    (x.freeSub ≠ 0 → turn.1 = true → SMap.get 0 s.images (16 * frame + sub) ≤ 8 →
      ∃ t s₁, exec (.thawComplete frame sub) s = .next t ∧ FreeIs s₁ t stack (x.freeSub - 1) ∧
      s₁ = { s with dir := s₁.dir, images := s₁.images, thaws := s.thaws.erase w, poison := s₁.poison, mem := s₁.mem, upsets := s₁.upsets, homeQ := turn.2.homeQ, memStacks := s₁.memStacks } ∧
      (s.upsets = [] → s₁.mem = s.mem ∧ s₁.upsets = []) ∧
      (s.upsets ≠ [] → ∀ a, readByte s₁.mem a = if start ≤ a ∧ a < start + 4096 then (frostData s start 4096).getD (a - start) 0 else readByte s.mem a) ∧
      s₁.dirOf frame = { s.dirOf frame with frost := (s.dirOf frame).frost &&& ~~~BitVec.twoPow 16 sub } ∧ (∀ f, f ≠ frame → s₁.dirOf f = s.dirOf f) ∧
      (∀ k, SMap.find? s₁.images k = if k = 16 * frame + sub then none else SMap.find? s.images k) ∧
      ∀ k, (SMap.find? s₁.poison k).isSome = true ↔ (SMap.find? s.poison k).isSome = true ∨ (unit ≤ k ∧ k < unit + 128 ∧ bad))) ∧
  (∀ s stack bank row at', SMap.find? (s.stackOf stack).banks bank = some (row, at') →
    let hit : Prop := ∃ r ∈ s.homeQ, s.homeStack r.dst.addr = stack ∧ bank ∈ r.banks s ∧ s.placeOf r.dst.addr Config.placeRow = row
    (s.clock < at' ∨ hit → exec (.bankIdleExpiry stack bank) s = .next s) ∧
    (at' ≤ s.clock → ¬ hit → exec (.bankIdleExpiry stack bank) s =
      .next (s.setStack stack { s.stackOf stack with banks := SMap.del (s.stackOf stack).banks bank }))) ∧
  (∀ s stack first count, let x := s.stackOf stack
    let waits (b : Nat) : Prop := (∃ r ∈ s.homeQ, r.cls = 0 ∧ s.homeStack r.dst.addr = stack ∧ r.idle s = false ∧ b ∈ r.banks s) ∧ SMap.get 0 x.postponed b < 8
    ∃ t, exec (.refresh stack first count) s = .next t ∧ t = { s with memStacks := t.memStacks } ∧
    (∀ k, k ≠ stack → t.stackOf k = s.stackOf k) ∧ t.stackOf stack = { x with banks := (t.stackOf stack).banks, postponed := (t.stackOf stack).postponed } ∧
    ∀ b, (first ≤ b ∧ b < first + count → ¬ waits b → SMap.find? (t.stackOf stack).banks b = none ∧ SMap.get 0 (t.stackOf stack).postponed b = 0) ∧
      (first ≤ b ∧ b < first + count → waits b → SMap.find? (t.stackOf stack).banks b = SMap.find? x.banks b ∧
        SMap.get 0 (t.stackOf stack).postponed b = SMap.get 0 x.postponed b + 1) ∧
      (¬ (first ≤ b ∧ b < first + count) → SMap.find? (t.stackOf stack).banks b = SMap.find? x.banks b ∧
        SMap.get 0 (t.stackOf stack).postponed b = SMap.get 0 x.postponed b)) ∧
  ∀ s n r, s.homeQ[n]? = some r →
    (r.cls = 4 → r.arrival + 112500 ≤ s.clock → exec (.backgroundAging n) s = .next { s with homeQ := s.homeQ.set n { r with cls := 3, aged := true } }) ∧
    (r.cls ≠ 4 ∨ s.clock < r.arrival + 112500 → exec (.backgroundAging n) s = .next s)

/-- R241, R38, R416: a record or event is written at the head of its ring when the ring can take it and nothing waits before it, else it waits; the oldest that waits is written once the ring can take it. -/
def Sys2Proof.Claims.RingsAreWritten : Prop :=
  (∀ s k x, let r := s.ring k
    (r.waiting = [] → CanWrite s r 64 → EntryWritten s (ringPost s k x) k 64 x []) ∧
    (r.waiting ≠ [] ∨ ¬ CanWrite s r 64 → ∃ s₁, ThawStarted s s₁ ∧ ringPost s k x = s₁.setRing k { r with waiting := r.waiting ++ [x] })) ∧
  ∀ s k, let r := s.ring k
    let n : Nat := if k = .hfq then 32 else 64
    (r.waiting = [] → exec (.ringWriteResume k) s = .next s) ∧
    ∀ x rest, r.waiting = x :: rest →
      (CanWrite s r n → ∃ t, exec (.ringWriteResume k) s = .next t ∧ EntryWritten s t k n x rest) ∧
      (¬ CanWrite s r n → ∃ t, exec (.ringWriteResume k) s = .next t ∧ ThawStarted s t)

/-- R73, R74, R76, R77, R161, R439: a CXL port trains; an expander's data and acknowledgements arrive; a snoop takes a line out of every L1 and is answered once the merges into the line have completed; the switch answers, and a request it does not answer in time faults. -/
def Sys2Proof.Claims.CxlAndReplicaAnswers : Prop :=
  (∀ s port d, port < 8 →
    (s.mgmt.life.getD (16 + port) 0 ≠ 0 → exec (.cxlLinkTraining port d) s = .next s) ∧
    (s.mgmt.life.getD (16 + port) 0 = 0 →
      (d.cache = true → exec (.cxlLinkTraining port d) s = .next (postEvent (s.setCxl port { CxlPort.init with ioOnly := true }) 0x0B port 0)) ∧
      (d.cache = false → d.type3 = false → exec (.cxlLinkTraining port d) s = .next (s.setCxl port { CxlPort.init with ioOnly := true })) ∧
      (d.cache = false → d.type3 = true → exec (.cxlLinkTraining port d) s = .next (s.setCxl port { CxlPort.init with trained := true, hdmDb := d.hdmDb })))) ∧
  (∀ s n bad data p line, (cxlOwed s)[n]? = some (p, true, line) → (bad = true ∨ data.length = 64) →
    let x := s.cxlOf p
    let plain := plainText (s.dirOf (line / 1024)).ktag (2 * line) (data.map (·.toNat))
    (x.asked.find? (fun r => r.line = line && !r.conflict) = none → exec (.cxlCompletion n bad data) s = .next s) ∧
    ∀ r, x.asked.find? (fun r => r.line = line && !r.conflict) = some r →
      ∃ t, exec (.cxlCompletion n bad data) s = .next t ∧ t = { s with mem := t.mem, poison := t.poison, cxl := t.cxl } ∧ (∀ q, q ≠ p → t.cxlOf q = s.cxlOf q) ∧
      t.cxlOf p = { x with asked := x.asked.erase r, ready := x.ready ++ [line] } ∧
      ((∃ u ∈ x.unacked, u.line = line) → t.mem = s.mem ∧ t.poison = s.poison) ∧
      ((∀ u ∈ x.unacked, u.line ≠ line) → bad = false → t.poison = s.poison ∧
        ∀ a, readByte t.mem a = if 64 * line ≤ a ∧ a < 64 * line + plain.length then BitVec.ofNat 8 (plain.getD (a - 64 * line) 0) else readByte s.mem a) ∧
      ((∀ u ∈ x.unacked, u.line ≠ line) → bad = true → t.mem = s.mem ∧
        ∀ k, (SMap.find? t.poison k).isSome = true ↔ (SMap.find? s.poison k).isSome = true ∨ k = 2 * line ∨ k = 2 * line + 1)) ∧
  (∀ s n bad data p line u, (cxlOwed s)[n]? = some (p, false, line) → (s.cxlOf p).unacked.find? (fun u => u.line = line) = some u →
    exec (.cxlCompletion n bad data) s = .next (s.setCxl p { s.cxlOf p with unacked := (s.cxlOf p).unacked.erase u })) ∧
  (∀ s port line kind, let x := s.cxlOf port
    (x.hdmDb = false → exec (.bisnp port line kind) s = .next s) ∧
    (x.hdmDb = true → ∃ t merged, exec (.bisnp port line kind) s = .next t ∧
      t = { s with cxl := t.cxl, cores := t.cores, clusters := t.clusters, homeQ := s.homeQ ++ merged } ∧ (∀ q, q ≠ port → t.cxlOf q = s.cxlOf q) ∧
      t.cxlOf port = { x with asked := x.asked.map (fun r => if r.line = line then { r with conflict := true } else r)
                              ready := x.ready.filter (fun l => l ≠ line), snoops := x.snoops ++ [line], filter := SMap.del x.filter line } ∧
      t.cores = (s.cores.map (fun e => (e.1, { e.2 with l1 := SMap.del e.2.l1 (line / 2) }))).filter (fun e => e.2 != CoreSt.init) ∧
      (∀ r ∈ merged, r.dst.addr / 64 = line ∧ ∃ k, r.src = .shadow k) ∧
      (∀ e ∈ s.clusters, ∀ x ∈ (t.clusterOf e.1).shadow, x.dst.addr / 64 ≠ line))) ∧
  (∀ s port, let x := s.cxlOf port
    let held (l : Nat) : Prop := (∃ r ∈ s.homeQ, r.dst.addr / 64 = l ∧ ∃ k, r.src = .shadow k) ∨ ∃ u ∈ x.unacked, u.line = l ∧ 86528 ≤ u.gid ∧ u.gid < hostGid
    let t := answerSnoops s port
    t = { s with cxl := t.cxl } ∧ (∀ q, q ≠ port → t.cxlOf q = s.cxlOf q) ∧
    (∀ l, l ∈ (t.cxlOf port).snoops ↔ l ∈ x.snoops ∧ held l) ∧ (t.cxlOf port).ready = x.ready ∧ (t.cxlOf port).unacked = x.unacked ∧
    ∀ r, r ∈ x.asked → (r.line ∈ x.snoops → ¬ held r.line → { r with conflict := false } ∈ (t.cxlOf port).asked) ∧
      (r.line ∉ x.snoops ∨ held r.line → r ∈ (t.cxlOf port).asked)) ∧
  (∀ s port tag status data r, s.reps.find? (fun r => r.port = port && r.tag = tag && r.got.isNone) = some r →
    ∃ t, exec (.fezalCompletion port tag status data) s = .next t ∧ Answered s t r status data) ∧
  ∀ s n r, s.reps[n]? = some r →
    (r.got ≠ none ∨ s.clock < r.since + 225000 → exec (.replicaAckTimeout n) s = .next s) ∧
    (r.got = none → r.since + 225000 ≤ s.clock →
      ∃ s₁, Answered s s₁ r 3 [] ∧ exec (.replicaAckTimeout n) s = .next (postEvent s₁ 0x0D r.desc r.va.toNat))

end

namespace Sys2Proof.Claims

open Machine Form

/-! ## The frame engines -/

/-- R65, R83: the n-th job of the frame engines is of type `ty` and may start or go on, and its card breaks no limit. -/
structure FeReady (s : State) (n ty : Nat) (j : FeJob) : Prop where
  job   : s.feQ[n]? = some j
  type  : j.ty = ty
  reset : s.resetting = false ∨ j.started = true
  first : ∀ x ∈ s.feQ.take n, x.target ≠ j.target
  card  : feOk s j = true
/-- R63, R416: the job is over: it has left its queue, and its completion record is posted. -/
def FeEnd (s t : State) (n : Nat) (j : FeJob) (status : Nat) (mask : BitVec 16) (data : BitVec 256) : Prop :=
  ∃ (x : BitVec 512) (q : List HomeReq), q.filter (fun r => !r.looks) = Requests s ∧
    t = ringPost { s with feQ := s.feQ.eraseIdx n, homeQ := q } .evq x ∧ x.extractLsb' 0 8 = 0x01 ∧ x.extractLsb' 8 8 = BitVec.ofNat 8 status ∧
    x.extractLsb' 16 16 = mask ∧ x.extractLsb' 32 32 = 0 ∧ x.extractLsb' 64 64 = j.addr ∧ x.extractLsb' 128 36 = BitVec.ofNat 36 j.object ∧
    x.extractLsb' 164 28 = 0 ∧ x.extractLsb' 192 64 = BitVec.ofNat 64 s.clock ∧ x.extractLsb' 256 256 = data
/-- R43: the directory entry of a frame has become `d`, and no remap cache or host path that its directory stack has recorded holds the old one; nothing else has changed. -/
def NewEntry (s t : State) (f : Nat) (d : DirEntry) : Prop :=
  let held := SMap.get [] (s.stackOf (f % 72)).holders f
  t = { s with dir := t.dir, clusters := t.clusters, memStacks := t.memStacks } ∧ t.dirOf f = d ∧ (∀ k, k ≠ f → t.dirOf k = s.dirOf k) ∧
  (∀ h ∈ held, (h < 72 → f ∉ (t.clusterOf h).remap) ∧ (72 ≤ h → f ∉ (t.stackOf (h - 72)).hostRemap)) ∧
  (∀ k, t.clusterOf k = { s.clusterOf k with remap := (t.clusterOf k).remap } ∧ (k ∉ held → t.clusterOf k = s.clusterOf k) ∧
    ∀ x, x ≠ f → (x ∈ (t.clusterOf k).remap ↔ x ∈ (s.clusterOf k).remap)) ∧
  (∀ k, t.stackOf k = { s.stackOf k with hostRemap := (t.stackOf k).hostRemap, holders := (t.stackOf k).holders } ∧
    ∀ x, x ≠ f → (x ∈ (t.stackOf k).hostRemap ↔ x ∈ (s.stackOf k).hostRemap)) ∧
  SMap.get [] (t.stackOf (f % 72)).holders f = []
/-- R53-R56, R64, R67, R74: the frame's bytes are 0 and encoded anew, it has no poison records, and the images of its frost sub-frames take no units; a CXL frame's lines are on their way to its expander. -/
def Zeroed (s t : State) (f : Nat) : Prop :=
  t = { s with mem := t.mem, poison := t.poison, images := t.images, upsets := t.upsets, cxl := t.cxl } ∧
  (∀ a, readByte t.mem a = if 65536 * f ≤ a ∧ a < 65536 * (f + 1) then 0 else readByte s.mem a) ∧
  (∀ k, SMap.find? t.poison k = if 2048 * f ≤ k ∧ k < 2048 * (f + 1) then none else SMap.find? s.poison k) ∧
  (∀ k, SMap.find? t.images k = if 16 * f ≤ k ∧ k < 16 * (f + 1) then (SMap.find? s.images k).map (fun _ => 0) else SMap.find? s.images k) ∧
  (∀ k, SMap.find? t.upsets k = if (65536 * f ≤ k ∧ k < 65536 * (f + 1)) ∨ (2 ^ 46 + 8192 * f ≤ k ∧ k < 2 ^ 46 + 8192 * (f + 1)) then none else SMap.find? s.upsets k) ∧
  ((s.dirOf f).fmt ≠ 5 → t.cxl = s.cxl) ∧
  ((s.dirOf f).fmt = 5 → ∀ i < 1024, ∃ u ∈ (t.cxlOf (cxlPortOf (s.homeStack (65536 * f)))).unacked, u.line = 1024 * f + i ∧ u.mask = BitVec.allOnes 64)
/-- What a read of a range by an engine may change: places in the homes' queues, open rows, what has been found uncorrectable. -/
def EngineRead (s t : State) : Prop :=
  t = { s with homeQ := t.homeQ, memStacks := t.memStacks, poison := t.poison } ∧ Requests t = Requests s
/-- R47, R72: each stack of the list gives (`up` false) or takes back (`up` true) one sub-frame, in turn. -/
def Moved (up : Bool) : State → List Nat → State → Prop
  | s, [], t => t = s
  | s, st :: l, t => ∃ s₁, FreeIs s s₁ st (if up then (s.stackOf st).freeSub + 1 else (s.stackOf st).freeSub - 1) ∧ Moved up s₁ l t
/-- R64, R72: a stack set has room for a frame of a format. -/
def Room (s : State) (fmt : BitVec 3) (p : BitVec 2 × BitVec 7 × BitVec 16) (f : Nat) : Prop :=
  if fmt = 5 then (s.dir.filter (fun (e : Nat × DirEntry) => e.2.state ≠ 0 && e.2.fmt = 5 && e.2.snum.toNat = p.2.1.toNat)).length < 2 ^ 25
  else ∀ st ∈ frameStacks p f, ((frameStacks p f).filter (fun x => x = st)).length ≤
    (if s.lost.getLsbD (72 + st) then 0 else (s.stackOf st).freeSub - (s.stackOf st).thawres.toNat)
/-- R374: the format, key tag and frame that a card names. -/
def feFmt (j : FeJob) : BitVec 3 := j.card.extractLsb' 62 3
def feKey (j : FeJob) : BitVec 8 := j.card.extractLsb' 88 8
def feFrame (j : FeJob) : Nat := (j.card.extractLsb' 32 30).toNat
/-- R56, R220: a range of a frame that cannot be copied: poisoned data, or a stack that is lost. -/
def Uncopyable (s : State) (addr n : Nat) : Prop := badSource s addr n = true

end Sys2Proof.Claims

section

open Sys2Proof Sys2Proof.Machine Sys2Proof.Claims Sys2Proof.Form

/-! ## The frame engines -/

/-- R63, R64, R72, R374, R416, R42: frames are allocated, freed, cleared and settled, entries and registers are read and written, poisoned granules are logged; each job posts its record, with status 3 for a card that breaks a limit, 1 for a frame in the wrong state, 2 without room. -/
def Sys2Proof.Claims.FrameJobs : Prop :=
  (∀ s n j, s.feQ[n]? = some j → (s.resetting = false ∨ j.started = true) → (∀ x ∈ s.feQ.take n, x.target ≠ j.target) → feOk s j = false →
    ∀ i ty, (i, ty) ∈ [(Instr.falloc n, 0x20), (.ffree n, 0x21), (.fclear n, 0x22), (.fmigr n, 0x23), (.fsettle n, 0x24), (.ffrost n, 0x25), (.fthaw n, 0x26),
      (.fscrub n, 0x27), (.hmwrite n, 0x28), (.fread n, 0x2A)] → j.ty = ty → ∃ t, exec i s = .next t ∧ FeEnd s t n j 3 0 0) ∧
  (∀ s n j, FeReady s n 0x20 j → let f := feFrame j
    (feSet s j = none → ∃ t, exec (.falloc n) s = .next t ∧ FeEnd s t n j 3 0 0) ∧
    ∀ p, feSet s j = some p →
      (6 ≤ (feFmt j).toNat ∨ setFits s (feFmt j) p = false → ∃ t, exec (.falloc n) s = .next t ∧ FeEnd s t n j 3 0 0) ∧
      ((feFmt j).toNat < 6 → setFits s (feFmt j) p = true →
        ((s.dirOf f).state ≠ 0 → ∃ t, exec (.falloc n) s = .next t ∧ FeEnd s t n j 1 0 0) ∧
        ((s.dirOf f).state = 0 → ¬ Room s (feFmt j) p f → ∃ t, exec (.falloc n) s = .next t ∧ FeEnd s t n j 2 0 0) ∧
        ((s.dirOf f).state = 0 → Room s (feFmt j) p f → ∃ t s₁ s₂ s₃, exec (.falloc n) s = .next t ∧
          NewEntry s s₁ f { DirEntry.free with state := 1, fmt := feFmt j, ktag := feKey j, skind := p.1, snum := p.2.1, smask := p.2.2 } ∧ Zeroed s₁ s₂ f ∧
          Moved false s₂ (if feFmt j = 5 then [] else frameStacks p f) s₃ ∧ FeEnd s₃ t n j 0 0 0))) ∧
  (∀ s n j, FeReady s n 0x21 j → let f := feFrame j
    let d := s.dirOf f
    (d.state ≠ 1 → ∃ t, exec (.ffree n) s = .next t ∧ FeEnd s t n j 1 0 0) ∧
    (d.state = 1 → ∃ t s₁ s₂ s₃, exec (.ffree n) s = .next t ∧ Zeroed s s₁ f ∧ NewEntry s₁ s₂ f DirEntry.free ∧
      Moved true { s₂ with images := SMap.delRange s₂.images (16 * f) 16, thaws := s₂.thaws.filter (fun t => t.frame ≠ f) } (heldSubs d f) s₃ ∧
      FeEnd s₃ t n j 0 0 0)) ∧
  (∀ s n j, FeReady s n 0x22 j → let f := feFrame j
    ((s.dirOf f).state = 0 → ∃ t, exec (.fclear n) s = .next t ∧ FeEnd s t n j 1 0 0) ∧
    ((s.dirOf f).state ≠ 0 → ∃ t s₁, exec (.fclear n) s = .next t ∧ Zeroed s s₁ f ∧ FeEnd (s₁.setDir f { s.dirOf f with ktag := feKey j }) t n j 0 0 0)) ∧
  (∀ s n j, FeReady s n 0x24 j → let f := feFrame j
    ((s.dirOf f).state ≠ 1 → ∃ t, exec (.fsettle n) s = .next t ∧ FeEnd s t n j 1 0 0) ∧
    ((s.dirOf f).state = 1 → ∃ t s₁, exec (.fsettle n) s = .next t ∧ NewEntry s s₁ f { s.dirOf f with pv := false } ∧ FeEnd s₁ t n j 0 0 0)) ∧
  (∀ s n j, FeReady s n 0x2A j → 
    (j.range = false → ∃ t x, exec (.fread n) s = .next t ∧ FeEnd s t n j 0 0 x ∧ let d := s.dirOf (feFrame j)
      x.extractLsb' 0 2 = d.state ∧ x.extractLsb' 2 3 = d.fmt ∧ x.extractLsb' 5 3 = d.prevfmt ∧ x.getLsbD 8 = d.pv ∧ x.extractLsb' 9 8 = d.ktag ∧
      x.extractLsb' 17 2 = d.skind ∧ x.extractLsb' 19 7 = d.snum ∧ x.extractLsb' 26 16 = d.smask ∧ x.extractLsb' 42 16 = d.frost ∧ x.extractLsb' 58 6 = 0 ∧
      x.extractLsb' 64 2 = d.dkind ∧ x.extractLsb' 66 7 = d.dnum ∧ x.extractLsb' 73 16 = d.dmask ∧ x.extractLsb' 89 3 = d.dfmt ∧ x.extractLsb' 92 8 = d.cursor ∧
      x.extractLsb' 100 156 = 0) ∧
    (j.range = true → let x := s.stackOf j.stack
      (j.reg = 0 → ∃ t, exec (.fread n) s = .next t ∧ FeEnd s t n j 0 0 (x.mcidle.setWidth 256)) ∧
      (j.reg = 1 → ∃ t y, exec (.fread n) s = .next t ∧ FeEnd s t n j 0 0 y ∧ y.extractLsb' 0 16 = x.thawres ∧ y.extractLsb' 16 16 = x.lowmark ∧
        y.getLsbD 32 = x.lowev ∧ y.extractLsb' 33 6 = 0 ∧ y.extractLsb' 39 25 = BitVec.ofNat 25 x.freeSub ∧ y.extractLsb' 64 192 = 0) ∧
      (2 ≤ j.reg → ∃ t, exec (.fread n) s = .next t ∧ FeEnd s t n j 3 0 0))) ∧
  (∀ s n j bs s', FeReady s n 0x29 j → feRead s j = (.ok, bs, s') → let x := s'.stackOf j.stack
    (j.reg = 0 → 4 ≤ (cardRegion j.card 0).bytes → ∃ t, exec (.sregwMcidle n) s = .next t ∧
      FeEnd (s'.setStack j.stack { x with mcidle := BitVec.ofNat 32 (leNat bs % 256) }) t n j 0 0 0) ∧
    (j.reg = 1 → 8 ≤ (cardRegion j.card 0).bytes → ∃ t s₁, exec (.sregwFrostctl n) s = .next t ∧ FeEnd s₁ t n j 0 0 0 ∧
      let v := leNat bs
      LowSpace (s'.setStack j.stack { x with thawres := BitVec.ofNat 16 v, lowmark := BitVec.ofNat 16 (v / 2 ^ 16), lowev := v / 2 ^ 32 % 2 == 1 }) s₁ j.stack)) ∧
  (∀ s n j, FeReady s n 0x29 j → 
    (2 ≤ j.reg → ∃ t, exec (.sregwMcidle n) s = .next t ∧ FeEnd s t n j 3 0 0) ∧
    ∀ i bs s', (i, j.reg) ∈ [(Instr.sregwMcidle n, 0), (.sregwFrostctl n, 1)] → (if j.reg = 0 then 4 else 8) ≤ (cardRegion j.card 0).bytes → feRead s j = (.error, bs, s') →
      ∃ t, exec i s = .next t ∧ FeEnd s' t n j 5 0 0) ∧
  ∀ s n j, FeReady s n 0x27 j → j.range = false → let f := feFrame j
    let clear := homeClear s 4 (65536 * f) 65536
    (clear = false → exec (.fscrub n) s = .next s) ∧
    (clear = true → ∃ t, exec (.fscrub n) s = .next t ∧ FeEnd (scrubRange s (65536 * f) 65536) t n j 0 0 0) ∧
    (clear = true → s.upsets = [] → (∀ e ∈ s.poison, e.1 < 2048 * f ∨ 2048 * (f + 1) ≤ e.1) → ∃ t, exec (.fscrub n) s = .next t ∧ FeEnd s t n j 0 0 0) ∧
    ∀ u, clear = true → s.upsets = [] → s.poison = [(u, ())] → u / 2048 = f → (s.dirOf f).frost = 0 → let g := granuleBytes (s.dirOf f).fmt
      ∃ t, exec (.fscrub n) s = .next t ∧ FeEnd (postEvent s 0x0E f (32 * u / g * g / 4096 % 16 + 16 * (32 * u / g * g % 4096 / g))) t n j 0 0 0

/-- R56, R64, R439: a scrubbed granule that is not frost: an uncorrectable one is recorded and logged, and stays as it is; one with corrected codewords counts them and is written back as it is read, so that nothing is left to correct; a clean one stays. -/
def Sys2Proof.Claims.ScrubbedGranules : Prop :=
  ∀ s a, let g := granuleBytes (s.fmtAt a)
    let st := s.homeStack a
    a % g = 0 → a < 2 ^ 46 → (s.dirOf (a / 65536)).frost.getLsbD (a / 4096 % 16) = false → poisoned s a g = false →
    (s.decodeGranule a = none → s.upsets ≠ [] → scrubGranule g s a =
      postEvent { s with poison := (sense s a g []).poison } 0x0E (a / 65536) (a / 4096 % 16 + 16 * (a % 4096 / g)) ∧ poisoned (sense s a g []) a g = true) ∧
    (∀ left, s.decodeGranule a = some (left, 0) → scrubGranule g s a = s) ∧
    ∀ left k, s.decodeGranule a = some (left, k) → k ≠ 0 → s.upsets ≠ [] → ∃ t, scrubGranule g s a = t ∧
      t = { s with mem := t.mem, upsets := t.upsets, memStacks := t.memStacks } ∧ (t.stackOf st).corrected = (s.stackOf st).corrected + k ∧
      (∀ b, readByte t.mem b = if a ≤ b ∧ b < a + g then s.sensedByte b else readByte s.mem b) ∧ t.decodeGranule a = some (List.replicate g 0, 0)

/-- R58-R60, R64: a migration starts with its destination's space taken, copies block after block, cuts over in one update and then releases its source; uncorrectable data ends it at the source. Memory, read by frame-space address, stays as it was. -/
def Sys2Proof.Claims.MigrationKeepsOneHome : Prop :=
  (∀ s n j, FeReady s n 0x23 j → let f := feFrame j
    let d := s.dirOf f
    let runs := s.feQ.set n { j with started := true }
    (d.state = 2 → exec (.fmigr n) s = .next s) ∧
    (d.state ≠ 2 → feSet s j = none → ∃ t, exec (.fmigr n) s = .next t ∧ FeEnd s t n j 3 0 0) ∧
    ∀ p, d.state ≠ 2 → feSet s j = some p →
      (6 ≤ (feFmt j).toNat ∨ setFits s (feFmt j) p = false → ∃ t, exec (.fmigr n) s = .next t ∧ FeEnd s t n j 3 0 0) ∧
      ((feFmt j).toNat < 6 → setFits s (feFmt j) p = true →
        (d.state ≠ 1 → ∃ t, exec (.fmigr n) s = .next t ∧ FeEnd s t n j 1 0 0) ∧
        (d.state = 1 → Uncopyable s (65536 * f) 65536 → ∃ t, exec (.fmigr n) s = .next t ∧ FeEnd s t n j 5 0 0) ∧
        (d.state = 1 → ¬ Uncopyable s (65536 * f) 65536 →
          (¬ Room s (feFmt j) p f → ∃ t, exec (.fmigr n) s = .next t ∧ FeEnd s t n j 2 0 0) ∧
          (Room s (feFmt j) p f → d.frost ≠ 0 → ∃ t, exec (.fmigr n) s = .next t ∧ t = { s with feQ := runs, thaws := t.thaws } ∧
            ∀ i < 16, d.frost.getLsbD i = true → ∃ x ∈ t.thaws, x.frame = f ∧ x.sub = i) ∧
          (Room s (feFmt j) p f → d.frost = 0 → ∃ t s₁, exec (.fmigr n) s = .next t ∧
            NewEntry { s with feQ := runs } s₁ f { d with state := 2, dkind := p.1, dnum := p.2.1, dmask := p.2.2, dfmt := feFmt j, cursor := 0 } ∧
            Moved false s₁ (if feFmt j = 5 then [] else frameStacks p f) t)))) ∧
  (∀ s f, let d := s.dirOf f
    let a := 65536 * f + 512 * d.cursor.toNat
    let turn := engineAsk s (feParty f) (blockClass s a) a 512
    let r := sense turn.2 a 512 []
    (d.state ≠ 2 ∨ 128 ≤ d.cursor.toNat → exec (.copyBlockComplete f) s = .next s) ∧
    (d.state = 2 → d.cursor.toNat < 128 → EngineRead s r ∧
      (turn.1 = false → exec (.copyBlockComplete f) s = .next turn.2) ∧
      (turn.1 = true → ¬ Uncopyable r a 512 → d.fmt ≠ 5 → d.dfmt ≠ 5 →
        ∃ t, exec (.copyBlockComplete f) s = .next t ∧ NewEntry r t f { d with cursor := d.cursor + 1 }) ∧
      ∀ n j, turn.1 = true → Uncopyable r a 512 → feOf s 0x23 f = some (n, j) → ∃ t s₁ s₂, exec (.copyBlockComplete f) s = .next t ∧
        NewEntry r s₁ f { d with state := 1, dkind := 0, dnum := 0, dmask := 0, dfmt := 0, cursor := 0 } ∧
        Moved true s₁ (if d.dfmt = 5 then [] else frameStacks (d.dkind, d.dnum, d.dmask) f) s₂ ∧ FeEnd s₂ t n j 5 0 0)) ∧
  (∀ s f n j, feOf s 0x23 f = some (n, j) → let d := s.dirOf f
    let done : Prop := d.state = 2 ∧ d.cursor = 128 ∧ (d.dfmt = 5 → ∀ u ∈ (s.cxlOf (cxlPortOf d.dnum.toNat)).unacked, u.line / 1024 ≠ f)
    (¬ done → exec (.cutover f) s = .next s) ∧
    (done → ∃ t s₀ s₁ d', exec (.cutover f) s = .next t ∧ s₀ = { s with mem := s₀.mem, upsets := s₀.upsets } ∧ (s.upsets = [] → s₀ = s) ∧ NewEntry s₀ s₁ f d' ∧
      d' = { d with state := 1, skind := d.dkind, snum := d.dnum, smask := d.dmask, fmt := d.dfmt, prevfmt := d'.prevfmt, pv := d'.pv } ∧
      (d.dfmt = d.fmt → d'.prevfmt = d.prevfmt ∧ d'.pv = d.pv) ∧ (d.dfmt ≠ d.fmt → d'.prevfmt = d.fmt ∧ d'.pv = true) ∧
      FeEnd { s₁ with releases := SMap.put s.releases f (SMap.get [] s.releases f ++ heldSubs d f)
                      homeQ := s.homeQ.map (fun r => if r.dst.addr / 65536 = f ∧ r.looks = false then { r with forwarded := true } else r) } t n j 0 0 0)) ∧
  ∀ s f l, SMap.find? s.releases f = some l →
    ((∃ r ∈ s.homeQ, r.dst.addr / 65536 = f ∧ r.forwarded = true) → exec (.sourceRelease f) s = .next s) ∧
    ((∀ r ∈ s.homeQ, r.dst.addr / 65536 = f → r.forwarded = false) → ∃ t, exec (.sourceRelease f) s = .next t ∧ Moved true { s with releases := SMap.del s.releases f } l t)

/-- R66-R69: FFROST images the named sub-frames that can be imaged in at most 7 units and are not frost yet; each becomes frost in one update that releases its copy, unless a write has cancelled it; FTHAW starts thaws; the records name what was done. -/
def Sys2Proof.Claims.FrostAndThaw : Prop :=
  (∀ s n j, FeReady s n 0x25 j → let f := feFrame j
    let d := s.dirOf f
    let turn := engineAsk s j.party 4 (65536 * f) 65536
    let r := frostRead turn.2 d f (j.card.extractLsb' 96 16).toNat
    let subs := (List.range 16).filter (fun i => (j.card.extractLsb' 96 16).getLsbD i && frostable r d f i)
    (j.started = true → exec (.ffrost n) s = .next s) ∧
    (j.started = false → d.state ≠ 1 → ∃ t, exec (.ffrost n) s = .next t ∧ FeEnd s t n j 1 0 0) ∧
    (j.started = false → d.state = 1 → d.fmt = 5 → ∃ t, exec (.ffrost n) s = .next t ∧ FeEnd s t n j 3 0 0) ∧
    (j.started = false → d.state = 1 → d.fmt ≠ 5 → EngineRead s r ∧
      (turn.1 = false → exec (.ffrost n) s = .next turn.2) ∧
      (turn.1 = true → subs = [] → ∃ t, exec (.ffrost n) s = .next t ∧ FeEnd r t n j 0 0 0) ∧
      (turn.1 = true → subs ≠ [] → exec (.ffrost n) s = .next { r with
        feQ := s.feQ.set n { j with started := true },
        frosting := s.frosting ++ subs.map (fun i => { frame := f, sub := i, units := imageUnits r f i, cancelled := false }) }))) ∧
  (∀ s f sub x, s.frosting.find? (fun x => x.frame = f && x.sub = sub) = some x →
    let stack := s.homeStack (65536 * f + 4096 * sub)
    let last (s' t : State) : Prop :=
      (feOf s' 0x25 f = none ∨ (∃ y ∈ s'.frosting, y.frame = f) → t = s') ∧
      ∀ n j, feOf s' 0x25 f = some (n, j) → (∀ y ∈ s'.frosting, y.frame ≠ f) → FeEnd s' t n j 0 j.mask 0
    ∃ t, exec (.subframeFrosted f sub) s = .next t ∧
      (x.cancelled = true → last { s with frosting := s.frosting.erase x } t) ∧
      (x.cancelled = false → ∃ s₁ s₂, FreeIs s₁ s₂ stack ((s.stackOf stack).freeSub + 1) ∧ last s₂ t ∧
        (s.upsets = [] → s₁.mem = s.mem ∧ s₁.upsets = []) ∧
        s₁ = { s with frosting := s.frosting.erase x, dir := s₁.dir, images := SMap.put s.images (16 * f + sub) x.units, mem := s₁.mem, upsets := s₁.upsets,
                      feQ := s.feQ.map (fun j => if j.ty = 0x25 ∧ j.started = true ∧ j.frame = f then { j with mask := j.mask ||| BitVec.twoPow 16 sub } else j) } ∧
        s₁.dirOf f = { s.dirOf f with frost := (s.dirOf f).frost ||| BitVec.twoPow 16 sub } ∧ ∀ k, k ≠ f → s₁.dirOf k = s.dirOf k)) ∧
  ∀ s n j, FeReady s n 0x26 j → let f := feFrame j
    let d := s.dirOf f
    let m := j.card.extractLsb' 96 16 &&& d.frost
    (j.started = true → d.frost &&& j.mask = 0 → ∃ t, exec (.fthaw n) s = .next t ∧ FeEnd s t n j 0 j.mask 0) ∧
    (j.started = true → d.frost &&& j.mask ≠ 0 → exec (.fthaw n) s = .next s) ∧
    (j.started = false → d.state = 0 → ∃ t, exec (.fthaw n) s = .next t ∧ FeEnd s t n j 1 0 0) ∧
    (j.started = false → d.state ≠ 0 → m = 0 → ∃ t, exec (.fthaw n) s = .next t ∧ FeEnd s t n j 0 0 0) ∧
    (j.started = false → d.state ≠ 0 → m ≠ 0 → ∃ t, exec (.fthaw n) s = .next t ∧
      t = { s with feQ := s.feQ.set n { j with started := true, mask := m }, thaws := t.thaws } ∧
      (∀ x ∈ s.thaws, x ∈ t.thaws) ∧ ∀ i < 16, m.getLsbD i = true → ∃ x ∈ t.thaws, x.frame = f ∧ x.sub = i)

/-- R27-R29, R374: HMWRITE reads the entry and refuses one that breaks R28; the replicas of all 72 stacks come to hold it, and the write is complete once no access of the old entry is left: the map then holds it. -/
def Sys2Proof.Claims.HostMapWrites : Prop :=
  (∀ s n j, FeReady s n 0x28 j →
    (j.started = true → exec (.hmwrite n) s = .next s) ∧
    (j.started = false → (cardRegion j.card 0).bytes ≠ 8 → ∃ t, exec (.hmwrite n) s = .next t ∧ FeEnd s t n j 3 0 0) ∧
    ∀ bs s', j.started = false → (cardRegion j.card 0).bytes = 8 → feRead s j = (.ok, bs, s') → s'.worlds = s.worlds → s'.feQ = s.feQ →
      let e : DWord := BitVec.ofNat 64 (leNat bs)
      let fits : Prop := e.extractLsb' 22 5 = 0 ∧ e.extractLsb' 57 7 = 0 ∧ (e.getLsbD 2 = true → e.getLsbD 1 = true) ∧ (e.extractLsb' 12 3).toNat < 6 ∧
        (e.getLsbD 3 = true → hostKey s j.host = some (e.extractLsb' 4 8).toNat) ∧ (e.getLsbD 3 = false → e.extractLsb' 4 8 = 0)
      (¬ fits → ∃ t, exec (.hmwrite n) s = .next t ∧ FeEnd s' t n j 4 0 0) ∧
      (fits → exec (.hmwrite n) s = .next { s' with
        feQ := s.feQ.set n { j with started := true },
        hmWrites := s'.hmWrites ++ [{ host := j.host, hfn := j.hfn, entry := e, addr := j.addr, done := [] }] })) ∧
  ∀ s host hfn w, s.hmWrites.find? (fun w => w.host = host && w.hfn = hfn) = some w →
    let busy : Prop := ∃ r ∈ s.homeQ, ∃ h, r.src = .host h ∧ h.peer = false ∧ h.host = host ∧ h.addr.toNat / 65536 = hfn
    (w.done.length < 72 → exec (.hmwriteComplete host hfn) s =
      .next { s with hmWrites := s.hmWrites.map (fun x => if x = w then { w with done := List.range 72 } else x) }) ∧
    (72 ≤ w.done.length → busy → exec (.hmwriteComplete host hfn) s = .next s) ∧
    (72 ≤ w.done.length → ¬ busy → ∃ t s₁, exec (.hmwriteComplete host hfn) s = .next t ∧
      s₁ = { s.setHost host { s.hostOf host with map := SMap.set 0 (s.hostOf host).map hfn w.entry } with hmWrites := s.hmWrites.erase w } ∧
      ((∀ j ∈ s.feQ, ¬ (j.ty = 0x28 ∧ j.started = true ∧ j.host = host ∧ j.hfn = hfn)) → t = s₁) ∧
      ∀ n j, s.feQ[n]? = some j → j.ty = 0x28 → j.started = true → j.host = host → j.hfn = hfn →
        (∀ x ∈ s.feQ.take n, ¬ (x.ty = 0x28 ∧ x.started = true ∧ x.host = host ∧ x.hfn = hfn)) → FeEnd s₁ t n j 0 0 0)

end

namespace Sys2Proof.Claims

open Machine Form

/-! ## Jobs under way -/

/-- R144: the job of a slot may start (its edges are resolved and its engine is free), go on after pfrep, or go on. -/
structure MayStart (s : State) (sched slot ty : Nat) (j : Job) : Prop where
  type : (j.card.extractLsb' 0 8).toNat = ty
  may  : (j.state = .running ∧ j.phase < 3) ∨
    ((∀ e ∈ s.jobs, ¬ (e.1 = sched ∧ e.2.1 ≠ slot ∧ e.2.2.engine = j.engine ∧ e.2.2.state = .running)) ∧
      ((j.state = .parked ∧ j.resume = true) ∨ (j.state = .pending ∧ ∀ e ∈ j.edges, let i := s.job (e.1 / 256) (e.1 % 256)
        i.gen ≠ e.2.1 ∨ i.live = false ∨ (e.2.2 = true ∧ i.readsDone = true))))
/-- R102, R144: the job of a slot of `s` runs in `s₀`, as it starts (`j`, its scratchpad regions resolved) or as it stands; what it asked for in an earlier attempt, and asks for no more, has lapsed in `s₀`. -/
structure MayRun (s s₀ : State) (sched slot ty : Nat) (j : Job) : Prop where
  start : if (s.job sched slot).state = .pending then startJob s (s.job sched slot) = some j else s.job sched slot = j
  may   : MayStart s sched slot ty j
  asks  : s₀ = askAgain s (.party (jobGid sched slot))
/-- R102: a region of a job lies in a scratchpad, and not in the part that the job's context has there. -/
def OutOfPart (s : State) (ctx : Nat) (r : Region) : Prop :=
  ∃ cl, r.place = .scratch cl ∧ ∀ b size, scratchEntry (s.clusterOf cl) ctx = some (b, size) → size < r.base + r.extent
/-- R144: the job runs. -/
def runs (j : Job) : Job := { j with state := .running, resume := false, edges := [] }
/-- A job has made its last access. -/
def ended (j : Job) (status : Nat) : Job := { runs j with phase := 3, status := status, readsDone := true }
/-- R146, R375: pieces are read one after another: the bytes. -/
def JobReads (sched slot : Nat) (j : Job) (p : Place) : State → List (Nat × Nat) → List Byte → State → Prop
  | s, [], bs, t => bs = [] ∧ t = s
  | s, x :: ps, bs, t => ∃ b s₁ rest, jobRead s (jobActor s sched slot j) p x.1 x.2 = (.ok, b, s₁) ∧
      JobReads sched slot j p s₁ ps rest t ∧ bs = b ++ rest
/-- R151, R375: pieces of region `w` are written one after another from the bytes, by `who`; each counts into the job's barrier object. -/
def JobWrites (who : Actor) (j : Job) (w : Region) : State → List (Nat × Nat) → List Byte → State → Prop
  | s, [], _, t => t = s
  | s, x :: ps, bs, t => ∃ s₁, jobWrite s who w.place x.1 (bs.take x.2) (w.rowAt x.1) = (.ok, s₁) ∧
      JobWrites who j w (jobCount s₁ j x.2) ps (bs.drop x.2) t
/-- R375: one element of a GATHER (`scatter` false) or SCATTER after another: the index selects within the table, and the element is copied. -/
def Transfers (sched slot : Nat) (j : Job) (scatter : Bool) (r0 r1 w : Region) (z : Nat) : List Nat → State → State → Prop
  | [], s, t => t = s
  | k :: ks, s, t => ∃ ib bs s₁ s₂ s₃, readRun sched slot s j r0.place (r0.first + 4 * k) 4 = (.ok, ib, s₁) ∧
      leNat ib < (if scatter then w else r1).len / z ∧ (if scatter then r1 else w).holds (z * k) z = true ∧
      readRun sched slot s₁ j r1.place (r1.first + z * (if scatter then k else leNat ib)) z = (.ok, bs, s₂) ∧
      writeRun sched slot s₂ j w.place (w.first + z * (if scatter then leNat ib else k)) bs = (.ok, s₃) ∧ Transfers sched slot j scatter r0 r1 w z ks (jobCount s₃ j z) t
/-- R376: the elements of a GATHER to a queue, read one after another. -/
def Takes (sched slot : Nat) (j : Job) (r0 r1 : Region) (z : Nat) : List Nat → State → List Byte → State → Prop
  | [], s, bs, t => bs = [] ∧ t = s
  | k :: ks, s, bs, t => ∃ ib b rest s₁ s₂, readRun sched slot s j r0.place (r0.first + 4 * k) 4 = (.ok, ib, s₁) ∧ leNat ib < r1.len / z ∧
      readRun sched slot s₁ j r1.place (r1.first + z * leNat ib) z = (.ok, b, s₂) ∧ Takes sched slot j r0 r1 z ks s₂ rest t ∧ bs = b ++ rest
/-- R85: from block `k` on the 512-byte blocks of frame `f` get their turn and are written from a page of bytes. -/
def Blocks (who : Actor) (ctx f : Nat) (page : List Byte) : Nat → Nat → State → State → Prop
  | 0, _, s, t => t = s
  | n + 1, k, s, t => ∃ (x : GAddr) (s₁ : State),
      let at' : GAddr :=
        { place := .glob, addr := 65536 * f + 512 * k, key := (s.dirOf f).ktag, gc := (s.dirOf f).fmt, cp := 1, rep := none, va := 0, ctx := ctx }
      actorHome (reach s ctx who.cl at'.addr) who 0 at' 512 .store 0 [(at'.addr, 512)] = (.ok, some x, s₁) ∧
      Blocks who ctx f page n (k + 1) (storeFrame s₁ who.id (65536 * f + 512 * k) ((page.drop (512 * k)).take 512)) t
/-- R376: queue entries of `width` lanes hold the words of `bs`, 0 beyond them. -/
def Entries (out : List (SMap Word)) (width : Nat) (bs : List Byte) : Prop :=
  out.length = (bs.length / 4 + width - 1) / width ∧
  ∀ e i, e < out.length → i < width → SMap.get 0 (out.getD e []) i =
    if width * e + i < bs.length / 4 then BitVec.ofNat 32 (leNat ((bs.drop (4 * (width * e + i))).take 4)) else 0
/-- R377: an element of a member's buffer, and two elements combined. -/
def collElem (op : Nat) (bs : List Byte) (k : Nat) : Nat :=
  let e : Nat := if op = 2 then 8 else 4
  leNat ((bs.drop (e * k)).take e)
def combine (op a b : Nat) : Nat :=
  match op with
  | 1 => (fAdd Fmt.f32 0 false a b).bits
  | 2 => (fAdd Fmt.f64 0 false a b).bits
  | 3 => (a + b) % 2 ^ 32
  | _ => (fMinMax Fmt.f32 false true true a b).bits
/-- R84: the image of a page of a compartment in a version (DESIGN CHOICE, log entry 8). -/
def Image (c : Ctx) (page v : Nat) : List Byte := sealImage (256 * c.world.toNat + c.ckey.toNat) page v

end Sys2Proof.Claims

section

open Sys2Proof Sys2Proof.Machine Sys2Proof.Claims Sys2Proof.Form

/-! ## Jobs under way -/

/-- R144, R146, R151, R375, R56: COPY reads every byte before it writes any, FILL writes its value to every 4-byte unit; a fault parks the job with its record, uncorrectable data ends it with status 1. Bytes come from and go to the places that the regions name. -/
def Sys2Proof.Claims.CopiesAndFills : Prop :=
  (∀ s s₀ sched slot j r w, MayRun s s₀ sched slot 0x01 j → j.rd0 = some r → j.wr = some w →
    let who := jobActor s₀ sched slot j
    (∀ bs s', j.phase = 0 → JobReads sched slot j r.place s₀ (r.pieces.drop j.unit) bs s' →
      exec (.copy sched slot) s = .next (s'.setJob sched slot { runs j with phase := 1, unit := 0, buf := j.buf ++ bs })) ∧
    (∀ s', j.phase = 1 → j.unit = 0 → j.counted = 0 → JobWrites who j w s₀ w.pieces j.buf s' → ∃ n,
      exec (.copy sched slot) s = .next (s'.setJob sched slot { runs j with phase := 3, unit := 0, counted := n })) ∧
    ∀ a n ps b s', j.phase = 0 → j.unit = 0 → j.buf = [] → r.pieces = (a, n) :: ps →
      (∀ cause va level e tag fmt, jobRead s₀ who r.place a n = (.fault cause va level e tag fmt, b, s') →
        ∃ f : FaultRec, exec (.copy sched slot) s =
          .next ((postFault { s' with seqNo := s'.seqNo + 1 } f).setJob sched slot { runs j with state := .parked, pseq := s'.seqNo }) ∧
          f.akind = 5 ∧ f.cause = cause ∧ f.va = va ∧ f.level = level ∧ f.entry = e.toNat ∧ f.ctx = j.ctx ∧ f.core = coreOfGid j.gid ∧ f.pc = j.pc ∧
          f.lanes = 0 ∧ f.seq = s'.seqNo.toNat) ∧
      (jobRead s₀ who r.place a n = (.wait, b, s') → exec (.copy sched slot) s = .next (s'.setJob sched slot (runs j))) ∧
      (jobRead s₀ who r.place a n = (.error, b, s') → exec (.copy sched slot) s = .next (s'.setJob sched slot (ended j 1)))) ∧
  (∀ s s₀ sched slot j w s', MayRun s s₀ sched slot 0x02 j → j.wr = some w → j.unit = 0 → j.counted = 0 →
    JobWrites (jobActor s₀ sched slot j) j w s₀ w.pieces
      ((List.range (w.len * w.rows)).map (fun i => j.card.extractLsb' (32 + 8 * (i % 4)) 8)) s' → ∃ n,
    exec (.fill sched slot) s = .next (s'.setJob sched slot { runs j with phase := 3, unit := 0, counted := n })) ∧
  ∀ s (b : Actor) p a n (bs : List Byte) row,
    (∀ k t₀, p = .shared k → SMap.find? s.teams k = some t₀ → a + n ≤ t₀.sharedBytes → bs.length = n →
      jobRead s b p a n = (.ok, readPlace s p a n, s) ∧ jobWrite s b p a bs row = (.ok, writePlace s p a bs)) ∧
    (∀ x s₁, p = .glob → jobTarget s b a n .load (a, n) = (.ok, some x, s₁) → x.rep = none → frameCxl s₁ x.addr = none → frontierOther s₁ b.self x = false →
      ∃ t, jobRead s b p a n = (.ok, s₁.bytes x.addr n, t) ∧ t = { s₁ with memStacks := t.memStacks }) ∧
    ∀ x s₁, p = .glob → bs.length = n → jobTarget s b a n .store row = (.ok, some x, s₁) → x.rep = none → x.place = .glob →
      ∃ t, jobWrite s b p a bs row = (.ok, t) ∧
        ∀ k, (x.addr ≤ k ∧ k < x.addr + n → readByte t.mem k = bs.getD (k - x.addr) 0) ∧
          (k < x.addr ∨ x.addr + n ≤ k → s₁.upsets = [] → readByte t.mem k = readByte s₁.mem k)

/-- R102, R144: a job whose scratchpad region lies outside its context's part when it would start ends with ERROR, and moves no bytes. -/
def Sys2Proof.Claims.JobsOutsideTheirPart : Prop :=
  ∀ s sched slot, let j := s.job sched slot
    ∀ i ty, (i, ty) ∈ [(Instr.copy sched slot, 0x01), (.fill sched slot, 0x02), (.gather sched slot, 0x03), (.scatter sched slot, 0x04),
        (.collective sched slot [], 0x05), (.gateJob sched slot, 0x06), (.seal sched slot, 0x10), (.unseal sched slot, 0x11)] →
      j.state = .pending → MayStart s sched slot ty j →
      (∃ r, (j.rd0 = some r ∨ j.rd1 = some r ∨ j.wr = some r) ∧ OutOfPart s j.ctx r) → exec i s = .next (s.setJob sched slot (ended j 1))

/-- R373, R375-R377, R154: GATHER and SCATTER move the elements that the indexes name, to memory or as queue entries, and end with status 2 at an index beyond the table; a COLLECTIVE combines the members' elements in ascending rank once all have come. -/
def Sys2Proof.Claims.GathersScattersAndCollectives : Prop :=
  (∀ s s₀ sched slot j r0 r1 w s', ∀ i ty scatter, (i, ty, scatter) ∈ [(Instr.gather sched slot, 0x03, false), (.scatter sched slot, 0x04, true)] →
    MayRun s s₀ sched slot ty j → j.rd0 = some r0 → j.rd1 = some r1 → j.wr = some w → j.phase ≠ 3 → j.unit = 0 → j.counted = 0 →
    let z : Nat := match (j.card.extractLsb' 32 2).toNat with | 0 => 4 | 1 => 8 | 2 => 16 | _ => 64
    (Transfers sched slot j scatter r0 r1 w z (List.range (r0.len / 4)) s₀ s' → ∃ n, exec i s =
      .next (s'.setJob sched slot { ended j 0 with unit := r0.len / 4, counted := n, out := [], buf := [] })) ∧
    ∀ ib, 4 ≤ r0.len → readRun sched slot s₀ j r0.place r0.first 4 = (.ok, ib, s') → (if scatter then w else r1).len / z ≤ leNat ib →
      exec i s = .next (s'.setJob sched slot { ended j 2 with out := [], buf := [] })) ∧
  (∀ s s₀ sched slot j r0 r1 bs s', MayRun s s₀ sched slot 0x03 j → j.rd0 = some r0 → j.rd1 = some r1 → j.wr = none → j.phase ≠ 3 → j.unit = 0 → j.buf = [] →
    Takes sched slot j r0 r1 4 (List.range (r0.len / 4)) s₀ bs s' → j.card.extractLsb' 32 2 = 0 → ∃ out, exec (.gather sched slot) s =
      .next (s'.setJob sched slot { ended j 0 with unit := r0.len / 4, out := out, buf := [] }) ∧ Entries out (jobWidth s j) bs) ∧
  ∀ s s₀ sched slot j peers c r w, MayRun s s₀ sched slot 0x05 j → SMap.find? s.colls (j.card.extractLsb' 32 8).toNat = some c → c.ctx = j.ctx → j.rd0 = some r → j.wr = some w →
    let op := (j.card.extractLsb' 40 3).toNat
    let e : Nat := if op = 2 then 8 else 4
    let total := r.len * r.rows
    let n := total / e
    (∀ bs s', j.phase = 0 → j.card.getLsbD 43 = false → JobReads sched slot j r.place s₀ (r.pieces.drop j.unit) bs s' →
      exec (.collective sched slot peers) s = .next (s'.setJob sched slot { runs j with phase := 1, unit := 0, buf := j.buf ++ bs })) ∧
    (∀ gid g q, j.phase = 0 → j.card.getLsbD 43 = true → jobGroup s j = some (gid, g) → SMap.find? s.groups gid = some g →
      ¬ (g.sup = true ∧ (g.tcause = 0x09 ∨ g.tcause = 0x11)) → q < g.queues.length → (g.q q).port = 4 → (∀ k < q, (g.q k).port ≠ 4) →
      let taken := (g.q q).fifo.take ((total - j.buf.length + 4 * g.width - 1) / (4 * g.width))
      ∃ bs t, exec (.collective sched slot peers) s = .next t ∧ bs.length = 4 * g.width * taken.length ∧
        (∀ k x lane, taken[k]? = some x → lane < g.width → (bs.drop (4 * (g.width * k + lane))).take 4 = natLe 4 (SMap.get 0 x lane).toNat) ∧
        SMap.find? t.groups gid = some (g.setQ q { g.q q with fifo := (g.q q).fifo.drop taken.length }) ∧ (∀ m, m ≠ gid → SMap.find? t.groups m = SMap.find? s.groups m) ∧
        t.job sched slot = if total ≤ (j.buf ++ bs).length then { runs j with buf := (j.buf ++ bs).take total, phase := 1 } else { runs j with buf := j.buf ++ bs }) ∧
    (j.phase = 1 → (∃ k < c.members.length, k ≠ c.rank ∧ ∀ p ∈ peers, p.rank ≠ k) → exec (.collective sched slot peers) s = .next (s₀.setJob sched slot (runs j))) ∧
    (j.phase = 1 → c.rank < c.members.length → (∀ k < c.members.length, k ≠ c.rank → ∃ p ∈ peers, p.rank = k) →
      let data (k : Nat) : List Byte := if k = c.rank then j.buf else (peers.find? (fun p => p.rank = k)).elim [] (fun p => p.data)
      (∀ k < c.members.length, k ≠ c.rank → ∀ p, peers.find? (fun p => p.rank = k) = some p → p.n = n ∧ p.data.length = j.buf.length) → j.buf.length = e * n →
      ∃ bs : List Byte, bs.length = e * n ∧ (op = 0 → bs = data 0) ∧
        (1 ≤ op → op ≤ 4 → ∀ k < n, collElem op bs k =
          (List.range (c.members.length - 1)).foldl (fun a m => combine op a (collElem op (data (m + 1)) k)) (collElem op (data 0) k)) ∧
        (j.card.getLsbD 44 = false → exec (.collective sched slot peers) s = .next (s₀.setJob sched slot { runs j with phase := 2, unit := 0, buf := bs })) ∧
        (j.card.getLsbD 44 = true → ∃ out, Entries out (jobWidth s j) bs ∧ exec (.collective sched slot peers) s = .next (s₀.setJob sched slot { ended j 0 with out := out }))) ∧
    ∀ s', j.phase = 2 → j.unit = 0 → j.counted = 0 → JobWrites (jobActor s₀ sched slot j) j w s₀ w.pieces j.buf s' → ∃ m,
      exec (.collective sched slot peers) s = .next (s'.setJob sched slot { runs j with phase := 3, unit := 0, counted := m })

/-- R84-R86, R159: a gate reads in the issuing context, writes in the destination's, under the destination's key, and then, once its writes and its die's shadow reductions have been performed, adds 1 to its counter; SEAL takes the next version of its compartment and writes the image; UNSEAL gives the frame the page and deletes the version, or clears the frame, ends the compartment's contexts with cause INTEGRITY and tells the host. The sealing itself is idealised (DESIGN CHOICE, log entry 8). -/
def Sys2Proof.Claims.GatesAndSealedPages : Prop :=
  (∀ s s₀ sched slot j r x d, MayRun s s₀ sched slot 0x06 j → j.rd0 = some r → s.ctxOf? j.ctx = some x → gateOk s x j.card = some d →
    (∀ e ∈ s.ctxs, e.2.dead = false) →
    let who : Actor := { jobActor s₀ sched slot j with ctx := d.dctxn, key := some (BitVec.ofNat 8 d.dkey), self := noAlias }
    (∀ bs s', j.phase = 0 → JobReads sched slot j r.place s₀ (r.pieces.drop j.unit) bs s' →
      exec (.gateJob sched slot) s = .next (s'.setJob sched slot { runs j with phase := 1, unit := 0, buf := j.buf ++ bs })) ∧
    (∀ s', j.phase = 1 → j.unit = 0 → j.counted = 0 → let w : Region := { r with base := d.dbase.toNat + (j.card.extractLsb' 32 40).toNat }
      JobWrites who j w s₀ w.pieces j.buf s' → ∃ n,
      exec (.gateJob sched slot) s = .next (s'.setJob sched slot { runs j with phase := 2, unit := 0, counted := n })) ∧
    (j.phase = 2 → (∃ y ∈ s.homeQ, y.src = .job sched slot) → exec (.gateJob sched slot) s = .next (s₀.setJob sched slot (runs j))) ∧
    ∀ s₁, j.phase = 2 → (∀ y ∈ s.homeQ, y.src ≠ .job sched slot) →
      (jobReleased s₀ j = (false, s₁) → exec (.gateJob sched slot) s = .next (s₁.setJob sched slot (runs j))) ∧
      ∀ a s₂, jobReleased s₀ j = (true, s₁) →
        jobTarget s₁ who d.naddr.toNat 8 .atomic (d.naddr.toNat, 8) = (.ok, some a, s₂) → a.place = .glob → a.rep = none → frameCxl s₂ a.addr = none →
        ∃ t, exec (.gateJob sched slot) s = .next t ∧ t.job sched slot = ended j 0 ∧
          readNat t.mem a.addr 8 = (s₂.num a.addr 8 + 1) % 2 ^ 64 ∧ (s₂.upsets = [] → ∀ b, (b < a.addr ∨ a.addr + 8 ≤ b) → readByte t.mem b = readByte s₂.mem b)) ∧
  (∀ s s₀ sched slot j r w x, MayRun s s₀ sched slot 0x10 j → j.rd0 = some r → j.wr = some w → s.ctxOf? j.ctx = some x →
    (∀ bs s', j.phase = 0 → JobReads sched slot j r.place s₀ (r.pieces.drop j.unit) bs s' → s'.versions = s.versions → s'.evict = s.evict →
      let comp := 256 * x.world.toNat + x.ckey.toNat
      let mine (y : Version) : Bool := y.world = x.world && y.key = x.ckey && y.page.toNat = r.base
      let v := SMap.get 0 s.evict comp + 1
      (((∃ y ∈ s.versions, mine y = true) ∨ (s.versions.filter (fun y => y.stack = r.base / 65536 % 72)).length < 2 ^ 20) → ∃ y : Version,
        exec (.seal sched slot) s = .next ({ s' with evict := SMap.put s.evict comp v, versions := s.versions.filter (fun y => !mine y) ++ [y] }.setJob sched slot
          { runs j with phase := 1, unit := 0, buf := Image x r.base v }) ∧
        (y.world, y.key, y.page, y.v) = (x.world, x.ckey, BitVec.ofNat 64 r.base, BitVec.ofNat 64 v) ∧
        ∀ i, (SMap.find? y.plain i).getD 0 = (j.buf ++ bs).getD i 0) ∧
      ((∀ y ∈ s.versions, mine y = false) → 2 ^ 20 ≤ (s.versions.filter (fun y => y.stack = r.base / 65536 % 72)).length →
        exec (.seal sched slot) s = .next (s'.setJob sched slot { ended j 1 with unit := 0, buf := j.buf ++ bs }))) ∧
    ∀ s', j.phase = 1 → j.unit = 0 → j.counted = 0 → JobWrites (jobActor s₀ sched slot j) j w s₀ w.pieces j.buf s' → ∃ n,
      exec (.seal sched slot) s = .next (s'.setJob sched slot { runs j with phase := 3, unit := 0, counted := n })) ∧
  ∀ s s₀ sched slot j r x, MayRun s s₀ sched slot 0x11 j → j.rd0 = some r → s.ctxOf? j.ctx = some x →
    let f := (j.card.extractLsb' 32 30).toNat
    let page := (j.card.extractLsb' 64 56).toNat
    let who := jobActor s₀ sched slot j
    let mine (y : Version) : Bool := y.world = x.world && y.key = x.ckey && y.page.toNat = page
    let agrees (y : Version) : Bool := j.buf.take 32 = (Image x page y.v.toNat).take 32 && j.buf.drop 64 = (Image x page y.v.toNat).drop 64
    let here : Prop := (s.dirOf f).state ≠ 0 ∧ (s.dirOf f).ktag = x.ckey
    (∀ bs s', j.phase = 0 → JobReads sched slot j r.place s₀ (r.pieces.drop j.unit) bs s' →
      exec (.unseal sched slot) s = .next (s'.setJob sched slot { runs j with phase := 1, unit := 0, buf := j.buf ++ bs })) ∧
    (j.phase ≠ 0 → ¬ here → exec (.unseal sched slot) s = .next (s₀.setJob sched slot (ended j 1))) ∧
    (∀ y s', j.phase = 1 → here → s.versions.find? (fun y => mine y && agrees y) = some y →
      let bytes : List Byte := (List.range 65536).map (fun i => (SMap.find? y.plain i).getD 0)
      Blocks who j.ctx f bytes 128 0 { s₀ with versions := s.versions.filter (fun y => !mine y), unseals := s.unseals ++ [0] } s' →
      exec (.unseal sched slot) s = .next (s'.setJob sched slot { ended j 0 with unit := 128, buf := bytes })) ∧
    (∀ s', j.phase = 1 → here → (∀ y ∈ s.versions, mine y = true → agrees y = false) →
      let zeros : List Byte := List.replicate 65536 0
      Blocks who j.ctx f zeros 128 0 { s₀ with unseals := s.unseals ++ [1], ctxs := s.ctxs.map (fun e => (e.1,
        if e.2.world = x.world ∧ e.2.ckey = x.ckey then { e.2 with dead := true, raised := 0x10 } else e.2)) } s' →
      exec (.unseal sched slot) s = .next (s'.setJob sched slot { ended j 1 with unit := 128, buf := zeros })) ∧
    (∀ s', j.phase = 2 → here → j.unit ≤ 128 → Blocks who j.ctx f j.buf (128 - j.unit) j.unit s₀ s' →
      exec (.unseal sched slot) s = .next (s'.setJob sched slot { ended j j.status with unit := 128 })) ∧
    ∀ ctx bytes s' t, bytes.length = 65536 → Blocks who ctx f bytes 128 0 s' t →
      ∀ b, readByte t.mem b = if 65536 * f ≤ b ∧ b < 65536 * (f + 1) then bytes.getD (b - 65536 * f) 0 else readByte s'.mem b

/-- R143, R144, R147, R154, R161, R376: a job's reads are performed; it is complete, as a release at its scope, once its writes and entries are; its entries go to the group's queue register while that has room. -/
def Sys2Proof.Claims.JobsComplete : Prop :=
  (∀ s sched slot, let j := s.job sched slot
    (j.state = .running → 1 ≤ j.phase → j.readsDone = false → exec (.jobReadsPerformed sched slot) s = .next (s.setJob sched slot { j with readsDone := true })) ∧
    (j.state ≠ .running ∨ j.phase = 0 ∨ j.readsDone = true → exec (.jobReadsPerformed sched slot) s = .next s)) ∧
  (∀ s sched slot, let j := s.job sched slot
    let owed : Prop := (∃ r ∈ s.homeQ, r.src = .job sched slot) ∨ ∃ r ∈ s.reps, r.gid = jobGid sched slot ∧ r.write = true
    let s₁ := if 4 ≤ j.scope ∧ j.cluster < 72 then mergeShadows s j.cluster (fun _ => true) else s
    let die : Prop := 72 ≤ j.cluster ∨ (s₁.clusterOf j.cluster).shadow = [] ∧ ∀ r ∈ s₁.homeQ, r.src ≠ .shadow j.cluster
    let module : Prop := (∀ r ∈ s.reps, r.write = true → r.got ≠ none) ∧ ∀ e ∈ s.cxl, e.2.unacked = []
    (j.state ≠ .running ∨ j.phase ≠ 3 ∨ j.out ≠ [] ∨ owed → exec (.jobComplete sched slot) s = .next s) ∧
    (j.state = .running → j.phase = 3 → j.out = [] → ¬ owed →
      ((4 ≤ j.scope → die) ∧ (5 ≤ j.scope → module) → ∃ t, exec (.jobComplete sched slot) s = .next t ∧ t = { s₁ with scheds := t.scheds } ∧
          ∀ cl k, t.job cl k = if cl = sched ∧ k = slot then { j with state := .complete, readsDone := true, edges := [], buf := [], out := [], resume := false } else s.job cl k) ∧
      ((4 ≤ j.scope ∧ ¬ die) ∨ (5 ≤ j.scope ∧ ¬ module) → exec (.jobComplete sched slot) s = .next s₁))) ∧
  ∀ s sched slot x rest gid g q, (s.job sched slot).out = x :: rest → jobGroup s (s.job sched slot) = some (gid, g) →
    let j := s.job sched slot
    let port : Nat := if (j.card.extractLsb' 0 8).toNat = 0x05 then 3 else if j.engine = 4 then 1 else 2
    q < g.queues.length → (g.q q).port = port → (∀ k < q, (g.q k).port ≠ port) →
    let still : Prop := g.sup = true ∧ (g.tcause = 0x09 ∨ g.tcause = 0x11)
    (still ∨ 32 ≤ (g.q q).fifo.length → exec (.gatherEntryDelivery sched slot) s = .next s) ∧
    (¬ still → (g.q q).fifo.length < 32 → exec (.gatherEntryDelivery sched slot) s =
      .next ((s.setGroup gid (g.setQ q { g.q q with fifo := (g.q q).fifo ++ [x] })).setJob sched slot { j with out := rest }))

end

namespace Sys2Proof.Claims

open Machine Form

/-! ## The host path, management, losses and resets -/

/-- The transactions of a request. -/
def HostForm (h : HostReq) (i : Instr) (k : HostKind) : Prop :=
  (i, k) ∈ [(Instr.hostRead h, .read), (.hostWrite h, .write), (.hostPartialWrite h, .partialWrite), (.hostAtomic h, .atomic)]
/-- R433, R434: the tag is of the kind, its number lies below the window, and it is free. -/
structure TagFits (p : Port) (k : HostKind) (tag : BitVec 16) : Prop where
  kind   : tag.getLsbD 15 = decide (k ≠ .read)
  window : (tag.extractLsb' 0 15).toNat < (if k = .read then p.rdwin else p.wrwin)
  free   : tag ∉ p.tags
/-- R433: the payload of an atomic has the form that the table gives. -/
structure AtomicForm (p : List Byte) : Prop where
  kind : (p.getD 0 0).toNat ≤ 2
  word : (p.getD 1 0).toNat < 8
  pad  : ∀ i, i < 64 → i < p.length → (2 ≤ i ∧ i < 8) ∨ (16 ≤ i ∧ i < 24 ∧ p.getD 0 0 ≠ 2) ∨ 24 ≤ i → p.getD i 0 = 0
/-- R433: a transaction has been answered: its completion has left and its tag is free. -/
def Replied (s t : State) (h : HostReq) (status : Nat) (data : List Byte) : Prop :=
  t = { s with ports := t.ports, sent := s.sent ++ [{ port := h.port, tag := h.tag, status := status, data := data }] } ∧
  (∀ q, q ≠ h.port → t.portOf q = s.portOf q) ∧ t.portOf h.port = { s.portOf h.port with tags := (s.portOf h.port).tags.erase h.tag }
/-- R433: requests are answered one after another. -/
def AllReplied (s t : State) (hs : List HostReq) (status : Nat) : Prop :=
  t = { s with ports := t.ports, sent := s.sent ++ hs.map (fun h => { port := h.port, tag := h.tag, status := status, data := [] }) } ∧
  ∀ q, t.portOf q = { s.portOf q with tags := (hs.filter (fun h => h.port = q)).foldl (fun l h => l.erase h.tag) (s.portOf q).tags }
/-- R434: the tag of a request is outstanding. -/
def outstanding (s : State) (h : HostReq) : State := s.setPort h.port { s.portOf h.port with tags := (s.portOf h.port).tags ++ [h.tag] }
/-- R78: what a home is asked. -/
def asked (k : HostKind) (h : HostReq) : HomeOp :=
  match k with
  | .read => .hostRead
  | .write => .hostWrite (BitVec.allOnes 64) h.data
  | .partialWrite => .hostWrite h.mask h.data
  | .atomic => .hostAtomic h.data
/-- R43: the host path of a stack holds the directory entry of a frame, and the frame's directory stack has recorded that it does; nothing else has changed. -/
def EntryFetched (s t : State) (stack f : Nat) : Prop :=
  t = { s with memStacks := t.memStacks } ∧ (f ∈ (s.stackOf stack).hostRemap → t = s) ∧
  (f ∉ (s.stackOf stack).hostRemap → f ∈ (t.stackOf stack).hostRemap ∧ 72 + stack ∈ SMap.get [] (t.stackOf (f % 72)).holders f) ∧
  ∀ k, t.stackOf k = { s.stackOf k with hostRemap := (t.stackOf k).hostRemap, holders := (t.stackOf k).holders }
/-- R78, R79: a transaction goes on to a home, where it waits its turn as class `cls` at `addr` with a key and a granule class; in the RETRY window of its line it is answered with RETRY, and the reissued request closes the window. -/
def GoesHome (s t : State) (k : HostKind) (h : HostReq) (arrival cls addr : Nat) (key : BitVec 8) (gc : BitVec 3) : Prop :=
  ∃ s₁, EntryFetched s s₁ (portStack h.port) (addr / 65536) ∧
  let p := s.portOf h.port
  let line := addr / 64
  let a : GAddr := { place := .glob, addr := addr, key := key, gc := gc, cp := 1, rep := none, va := 0, ctx := 0 }
  let q : HomeReq := { cls := cls, arrival := arrival, src := .host h, dst := a, op := asked k h, pc := 0, aged := false }
  ((∃ tag, (line, tag) ∈ p.retry) → (line, h.tag) ∉ p.retry → Replied s₁ t h 5 []) ∧
  ((line, h.tag) ∈ p.retry ∨ (∀ tag, (line, tag) ∉ p.retry) → t = { s₁ with ports := t.ports, homeQ := s.homeQ ++ [q] } ∧
    (∀ n, n ≠ h.port → t.portOf n = s.portOf n) ∧ t.portOf h.port = { p with retry := p.retry.erase (line, h.tag) })
/-- R29: while a host-map write is in progress the replica of a stack may come to hold its new entry; nothing else has changed, and no stack loses one. -/
def ReplicaMay (s t : State) (stack host hfn : Nat) : Prop :=
  t = s ∨ t = { s with hmWrites := s.hmWrites.map (fun w => if w.host = host ∧ w.hfn = hfn ∧ stack ∉ w.done then { w with done := w.done ++ [stack] } else w) }
/-- R9, R29: the entry of a host frame in the replica of a stack: the new one of a write in progress once the stack holds it, else the map's. -/
def Shows (s : State) (stack host hfn : Nat) (e : DWord) : Prop :=
  let w := s.hmWrites.find? (fun w => w.host = host && w.hfn = hfn)
  (∀ x, w = some x → stack ∈ x.done → e = x.entry) ∧ ((∀ x, w = some x → stack ∉ x.done) → e = SMap.get 0 (s.hostOf host).map hfn)
/-- R27: the entry maps the host frame. -/
def Maps (s : State) (host hfn : Nat) (e : DWord) : Prop :=
  (s.hostOf host).hmbase ≤ hfn ∧ hfn < (s.hostOf host).hmbase + (s.hostOf host).hmcount ∧ e.getLsbD 0 = true
/-- R30: RD for a read, WR for a write or partial write, both for an atomic. -/
def Permits (k : HostKind) (e : DWord) : Prop :=
  (k = .read ∨ k = .atomic → e.getLsbD 1 = true) ∧ (k ≠ .read → e.getLsbD 2 = true)
/-- R30, R78: a host access that the entry `e` translates: one that it does not permit completes with MAPERR and logs an event; another goes to the home of the 64-byte block in the entry's frame. -/
def Translated (s t : State) (k : HostKind) (h : HostReq) (arrival : Nat) (e : DWord) : Prop :=
  (¬ Permits k e → ∃ s₁, Replied s s₁ h 2 [] ∧ t = if h.peer then s₁ else postEvent s₁ 0x09 (h.addr.toNat / 65536) 0) ∧
  (Permits k e → GoesHome s t k h arrival 0 (65536 * (e.extractLsb' 27 30).toNat + h.addr.toNat % 65536 / 64 * 64) (e.extractLsb' 4 8) (e.extractLsb' 12 3))
/-- R81: held requests are translated one after another. -/
def AllTranslated (e : DWord) : State → List (HostKind × HostReq × Nat) → State → Prop
  | s, [], t => t = s
  | s, x :: xs, t => ∃ s₁, Translated s s₁ x.1 x.2.1 x.2.2 e ∧ AllTranslated e s₁ xs t
/-- R81: an entry of the host-fault queue. -/
structure FaultEntry (x : BitVec 512) (k : HostKind) (h : HostReq) (now : Nat) : Prop where
  host     : (x.extractLsb' 0 6).toNat = h.host % 64
  kind     : (x.extractLsb' 6 2).toNat = (match k with | .read => 0 | .atomic => 2 | _ => 1)
  port     : (x.extractLsb' 8 4).toNat = h.port
  zero     : x.extractLsb' 12 4 = 0 ∧ x.extractLsb' 48 16 = 0 ∧ x.extractLsb' 116 12 = 0
  tag      : x.extractLsb' 16 16 = h.tag
  joined   : x.extractLsb' 32 16 = 0
  haddr    : x.extractLsb' 64 52 = h.addr
  arrival  : (x.extractLsb' 128 64).toNat = now % 2 ^ 64
  deadline : (x.extractLsb' 192 64).toNat = (now + 1800) % 2 ^ 64
/-- R81: the queue is set up, an entry is free, and the frame of the slot is allocated with key 0. -/
structure FaultQueueOpen (s : State) : Prop where
  logn  : 4 ≤ (s.hfq.ptr.extractLsb' 0 5).toNat ∧ (s.hfq.ptr.extractLsb' 0 5).toNat ≤ 20
  room  : (s.hfq.head - s.hfq.tail).toNat + s.hfq.waiting.length < 2 ^ (s.hfq.ptr.extractLsb' 0 5).toNat
  alloc : (s.dirOf (entryAt s.hfq 32 / 65536)).state ≠ 0
  key   : (s.dirOf (entryAt s.hfq 32 / 65536)).ktag = 0
/-- R81: a host access misses: answered with RESET during a compute-side reset; held with the entry pending for its frame; held with an entry of its own; or answered with UNMAPPED when the queue takes none. -/
def Missed (s t : State) (k : HostKind) (h : HostReq) : Prop :=
  let hfn := h.addr.toNat / 65536
  let r := s.hfq
  (s.resetting = true → Replied s t h 4 []) ∧
  (s.resetting = false →
    (∀ m, s.misses.find? (fun m => m.host = h.host && m.hfn = hfn) = some m →
      let n := min 65535 (m.joined + 1)
      let s₁ : State := { s with misses := s.misses.map (fun x => if x = m then { m with joined := n, heldReqs := m.heldReqs ++ [(k, h, s.clock)] } else x) }
      ((m.index - r.tail).toNat < (r.head - r.tail).toNat → AtHome s₁ t ∧
        let a := 4096 * (r.ptr.extractLsb' 12 44).toNat + 32 * (m.index.toNat % 2 ^ (r.ptr.extractLsb' 0 5).toNat) + 4
        readBytes t.mem a 2 = natLe 2 n ∧ (s.upsets = [] → ∀ b, b < a ∨ a + 2 ≤ b → readByte t.mem b = readByte s.mem b)) ∧
      ((r.head - r.tail).toNat ≤ (m.index - r.tail).toNat → t = { s₁ with hfq := { r with waiting := t.hfq.waiting } } ∧ t.hfq.waiting.length = r.waiting.length ∧
        ∀ i x y, r.waiting[i]? = some x → t.hfq.waiting[i]? = some y →
          (i ≠ (m.index - r.head).toNat → y = x) ∧
          (i = (m.index - r.head).toNat → (y.extractLsb' 32 16).toNat = n ∧ y.extractLsb' 0 32 = x.extractLsb' 0 32 ∧ y.extractLsb' 48 464 = x.extractLsb' 48 464))) ∧
    (s.misses.find? (fun m => m.host = h.host && m.hfn = hfn) = none →
      (¬ FaultQueueOpen s → ∃ s₁, Replied s s₁ h 1 [] ∧ t = postEvent s₁ 0x06 hfn 0) ∧
      (FaultQueueOpen s → ∃ x s₁, FaultEntry x k h s.clock ∧
        s₁ = { s with misses := s.misses ++ [{ host := h.host, hfn := hfn, arrival := s.clock, deadline := s.clock + 1800, joined := 0,
                                               index := r.head + BitVec.ofNat 32 r.waiting.length, heldReqs := [(k, h, s.clock)] }] } ∧
        (r.waiting = [] → CanWrite s r 32 → EntryWritten s₁ t .hfq 32 x []) ∧
        (r.waiting ≠ [] ∨ ¬ CanWrite s r 32 → ThawStarted { s₁ with hfq := { r with waiting := r.waiting ++ [x] } } t))))
/-- R30, R56: the home of a request finds the frame allocated with its key and, for a host, its granule class, and the stack present. -/
structure HomeAgrees (s : State) (h : HostReq) (r : HomeReq) : Prop where
  alloc  : (s.dirOf (r.dst.addr / 65536)).state ≠ 0
  key    : (s.dirOf (r.dst.addr / 65536)).ktag = r.dst.key
  format : h.peer = true ∨ (s.dirOf (r.dst.addr / 65536)).fmt = r.dst.gc ∨
    ((s.dirOf (r.dst.addr / 65536)).pv = true ∧ (s.dirOf (r.dst.addr / 65536)).prevfmt = r.dst.gc)
  stack  : s.lost.getLsbD (72 + s.homeStack r.dst.addr) = false
/-- R52, R56: no granule that a read touches, and none that a write or an atomic covers in part, is recorded as poisoned. -/
def Clean (s : State) (r : HomeReq) : Prop :=
  (r.op = .hostRead → poisoned s r.dst.addr 64 = false) ∧ (r.op ≠ .hostRead → ∀ w ∈ r.writes, poisonStops s (r.dst.addr + w.1) w.2 r.whole = false)
/-- R78: the home service of a request, in ns. -/
def serviceNanos (s : State) (r : HomeReq) : Nat :=
  let d := s.dirOf (r.dst.addr / 65536)
  if d.frost.getLsbD (r.dst.addr / 4096 % 16) then (if r.op = .hostRead then 297 else 700)
  else if r.op ≠ .hostRead ∧ d.state = 2 ∧ d.cursor.toNat = r.dst.addr % 65536 / 512 then 974
  else if r.forwarded then 360 else if d.fmt = 5 then 160 else 250
/-- R79: elapsed time, home service and the return of 140 ns exceed 1,500 ns (a cycle is 4/9 ns), and the decision has not been made yet. -/
def TooLate (s : State) (r : HomeReq) : Prop := r.decided = false ∧ 9 * (1500 - 140 - serviceNanos s r) < 4 * (s.clock - r.arrival)
/-- R79: a request of a port to a line. -/
def ofLine (port line : Nat) (x : HomeReq) : Bool :=
  match x.src with
  | .host h => h.port = port && x.dst.addr / 64 = line
  | _ => false
/-- R52, R433: a request has been performed: its completion has left; but for the bytes, only check symbols, open rows, poison, a frosting under way and what expanders owe may change. -/
def Performed (s t : State) (n : Nat) (h : HostReq) (data : List Byte) : Prop :=
  ∃ s₁, s₁ = { s with mem := t.mem, upsets := t.upsets, poison := t.poison, frosting := t.frosting, memStacks := t.memStacks, cxl := t.cxl, homeQ := s.homeQ.eraseIdx n } ∧ Replied s₁ t h 0 data
/-- R69, R70: the thaw of a sub-frame has been started for a host, unless it was under way. -/
def HostThaw (s t : State) (addr : Nat) : Prop :=
  let x : Thaw := { frame := addr / 65536, sub := addr / 4096 % 16, host := true, bg := false }
  ((∃ y ∈ s.thaws, y.frame = x.frame ∧ y.sub = x.sub) → t = s) ∧ ((∀ y ∈ s.thaws, ¬ (y.frame = x.frame ∧ y.sub = x.sub)) → t = { s with thaws := s.thaws ++ [x] })
/-- R433: the new value of the word of an atomic: fetch-add, exchange, compare-and-swap. -/
def atomicWord (p : List Byte) (old : Nat) : Nat :=
  let x := leNat ((p.drop 8).take 8)
  match (p.getD 0 0).toNat with
  | 0 => (old + x) % 2 ^ 64
  | 1 => x
  | _ => if old = x then leNat ((p.drop 16).take 8) else old
/-- R436: a command is answered with a status and data, and `f` of the state. -/
def replied (s : State) (m : Nat) (status : Nat) (data : List Byte) : State :=
  { s with mgmt := { s.mgmt with replies := s.mgmt.replies ++ [{ master := m, status := status, data := data }] } }
/-- R442: `n` bytes, zero beyond the list. -/
def padded (l : List Byte) (n : Nat) : List Byte := (l ++ List.replicate n 0).take n
/-- R219: the groups after a die or stack of touched bit `bit` is lost or reset: those of the contexts that have touched it hold a DIELOSS. -/
def heldLoss (s : State) (bit reason : Nat) (g : Group) : Group :=
  if (match s.ctxOf? g.ctx with | some c => c.touched.getLsbD bit | none => false) = true then
    { g with held := g.held ++ [{ cause := 0x10, reason := reason, info := BitVec.ofNat 32 bit, mask := 0, cpc := 0, ipc := 0, idx := 0 }] }
  else g
/-- R5, R404: a core of compute die `d`. -/
abbrev CoreOnDie (core d : Nat) : Prop := (core < 1152 ∧ core / 16 = d) ∨ core = 1280 + d
/-- R219-R221: from `s` to `t` compute die `d` has ceased. The tree bits of its cores stay (model's choice: log entry 26). -/
structure DieGone (s t : State) (d : Nat) : Prop where
  rest    : t = { s with groups := t.groups, orphans := t.orphans, teams := t.teams, seqs := t.seqs, cores := t.cores, clusters := t.clusters,
                         scheds := t.scheds, tlbinvs := t.tlbinvs, reps := t.reps }
  groups  : ∀ gid, SMap.find? t.groups gid = if CoreOnDie (coreOfGid gid) d then none else SMap.find? s.groups gid
  teams   : t.teams = s.teams.filter (fun e => e.2.core / 16 ≠ d) ∧ t.orphans = s.orphans.filter (fun x => ¬ CoreOnDie (coreOfGid x.gid) d)
  seqs    : ∀ k, t.seqOf k = if k / 64 = d then Seq.init else s.seqOf k
  cores   : t.cores = (s.cores.map (fun e => (e.1, if CoreOnDie e.1 d
    then { CoreSt.init with part := e.2.part, arrived := e.2.arrived, seen := e.2.seen } else e.2))).filter (fun e => e.2 ≠ CoreSt.init)
  cluster : ∀ k, t.clusterOf k = if k = d then Cluster.init else s.clusterOf k
  jobs    : SMap.find? t.scheds d = none ∧ (∀ k, k ≠ d → k ≠ 255 → SMap.find? t.scheds k = SMap.find? s.scheds k) ∧
    SMap.find? t.scheds 255 = (SMap.find? s.scheds 255).map (fun m => m.map (fun e => (e.1, if e.2.live = true ∧ e.2.cluster = d then e.2.end 1 else e.2)))
  waits   : t.tlbinvs = s.tlbinvs.filter (fun x => ¬ CoreOnDie (coreOfGid x.gid) d) ∧
    t.reps = s.reps.filter (fun r => (r.write = true ∧ r.reqs ≠ []) ∨ ¬ CoreOnDie (coreOfGid r.gid) d)
/-- R219: every group of the contexts that have touched a die or stack holds a DIELOSS; nothing else has changed. -/
def LossHeld (s t : State) (bit reason : Nat) : Prop :=
  t = { s with groups := t.groups } ∧ ∀ gid, SMap.find? t.groups gid = (SMap.find? s.groups gid).map (heldLoss s bit reason)
/-- R221, R222: the kernel of a compute die that is reset: with no checkpoint, or when the stack that kept it is lost, the die service core starts anew; else group and message state come from the checkpoint, and the messages since then are replayed in their order. -/
def KernelBack (s t : State) (die : Nat) : Prop :=
  let core := 1280 + die
  let k := SMap.get DieKernel.init s.dieKernels die
  let lost : Prop := s.lost.getLsbD (72 + checkpointStack die) = true
  (k.checkpoint = none ∨ lost → t = s.setGroup (64 * core) (Group.service core)) ∧
  ∀ g m, k.checkpoint = some (g, m) → ¬ lost → ∃ s₁, t = k.msgs.foldl (fun x msg => takeMessage x core msg) s₁ ∧
    s₁ = { (s.setGroup (64 * core) g).setCore core { s.coreOf core with msg := m } with dieKernels := SMap.put s.dieKernels die { k with replay := k.msgs } }
/-- R222: the service cores of dies that are not lost start anew, and no other group lives. -/
def ServiceRestart (s t : State) : Prop :=
  ∀ gid, SMap.find? t.groups gid =
    if 1280 ≤ coreOfGid gid ∧ s.lost.getLsbD (coreOfGid gid - 1280) = true then none else SMap.find? serviceGroups gid
/-- R83, R222: what a compute-side reset discards; the base dies, memory, the hosts' accesses, the frame engines and the rings go on. -/
def ComputeReset (s t : State) : Prop :=
  ∃ s₁, AllReplied s s₁ ((s.misses.flatMap (fun m => m.heldReqs)).map (fun x => x.2.1)) 4 ∧
    let x : State := { s₁ with misses := [], groups := [], orphans := [], teams := [], seqs := [], cores := [], clusters := [], ctxs := [] }
    t = { x with
      scheds := [], trees := 0, tlbinvs := [], cur := none, curSeq := none, reps := s.reps.filter (fun r => 2 ^ 20 ≤ r.gid), resetting := true,
      homeQ := s.homeQ.filter (fun r => match r.src with | .host _ => true | .party id => 2 ^ 20 ≤ id | _ => false),
      cxl := s.cxl.map (fun e => (e.1, { e.2 with ready := [], filter := [] })) }
/-- R158: a gate descriptor that the base dies accept for a world. -/
def GateFits (d : WorldDesc) (g : GateDesc) : Prop :=
  g.signed = true ∧ g.gid < 16 ∧ g.world = d.num ∧ g.resv = 0 ∧ g.resvHigh = 0 ∧ g.slen.toNat % 64 = 0 ∧ g.dctxn < 65536 ∧
    ((g.dir = 1 ∧ g.skey = d.modelKey ∧ g.dkey = d.dataKey) ∨ (g.dir = 2 ∧ g.skey = d.dataKey ∧ g.dkey = d.modelKey))
/-- R12, R28, R440: a world that may be created. -/
structure WorldFits (s : State) (d : WorldDesc) : Prop where
  signed : d.signed = true
  run    : ∀ x ∈ s.mgmt.life, x = 2
  num    : 1 ≤ d.num ∧ d.num < 256 ∧ SMap.find? s.worlds d.num = none
  keys   : d.modelKey ≠ d.dataKey ∧ ∀ k, k = d.modelKey ∨ k = d.dataKey → 1 ≤ k ∧ k < 256 ∧ ∀ e ∈ s.worlds, k ≠ e.2.modelKey ∧ k ≠ e.2.dataKey
  hosts  : ∀ h, some h = d.modelHost ∨ some h = d.dataHost → h < 64 ∧ ∀ e ∈ s.worlds, some h ≠ e.2.modelHost ∧ some h ≠ e.2.dataHost
  apart  : d.modelHost ≠ d.dataHost ∨ d.modelHost = none

end Sys2Proof.Claims

section

open Sys2Proof Sys2Proof.Machine Sys2Proof.Claims Sys2Proof.Form

/-! ## The host path, management, losses and resets -/

/-- R27, R29, R30, R78, R81, R433-R435, R440: a transaction at a port in RUN with a tag that fits is translated with its replica's entry, misses, or, a peer's, goes to its home; one that breaks a window or whose atomic is malformed logs a link event; a port not in RUN carries nothing. -/
def Sys2Proof.Claims.HostTransactions : Prop :=
  ∀ s h i k, HostForm h i k → h.port < 16 →
    let p := s.portOf h.port
    let hfn := h.addr.toNat / 65536
    (s.mgmt.life.getD h.port 0 ≠ 2 → exec i s = .next s) ∧
    (s.mgmt.life.getD h.port 0 = 2 →
      (¬ TagFits p k h.tag → exec i s = .next (postEvent s 0x0A h.port 0)) ∧
      (TagFits p k h.tag →
        (k = .atomic → h.data.length = 64 → ¬ AtomicForm h.data → ∃ t s₁, exec i s = .next t ∧ Replied (outstanding s h) s₁ h 2 [] ∧ t = postEvent s₁ 0x0A h.port 0) ∧
        (k ≠ .atomic ∨ (h.data.length = 64 ∧ AtomicForm h.data) →
          (h.peer = true → ∃ t, exec i s = .next t ∧
            (2 ^ 46 ≤ h.addr.toNat → Replied (outstanding s h) t h 2 []) ∧
            (h.addr.toNat < 2 ^ 46 → GoesHome (outstanding s h) t k h s.clock 3 (h.addr.toNat / 64 * 64) h.key 0)) ∧
          (h.peer = false → ∃ t u e, exec i s = .next t ∧ ReplicaMay (outstanding s h) u (portStack h.port) h.host hfn ∧ Shows u (portStack h.port) h.host hfn e ∧
            (Maps s h.host hfn e → Translated u t k h s.clock e) ∧
            (¬ Maps s h.host hfn e → Missed u t k h)))))

/-- R30, R52, R56, R59, R69, R71, R74, R78-R80, R220, R433: the host request whose turn it is: one that the directory refuses completes with MAPERR, one that meets a poisoned granule with UNCORR, one that could not meet its bound with RETRY, together with its line's; another reads or writes exactly its bytes, or waits for a thaw, a block being copied or an expander. A read of a frost sub-frame does not wait, and starts its thaw even when its image is uncorrectable. -/
def Sys2Proof.Claims.HomesServeHosts : Prop :=
  ∀ s n h r, homeTurn s n = some r → r.src = .host h → r.dst.place = .glob →
    let d := s.dirOf (r.dst.addr / 65536)
    let frost := d.frost.getLsbD (r.dst.addr / 4096 % 16)
    let write : Prop := (∃ m x, r.op = .hostWrite m x) ∨ ∃ x, r.op = .hostAtomic x
    let copying : Prop := d.state = 2 ∧ d.cursor.toNat = r.dst.addr % 65536 / 512 ∧ r.op ≠ .hostRead
    let s₀ := senseHost s r
    let off : State := { s₀ with homeQ := s.homeQ.eraseIdx n }
    let waiting : State := { s₀ with homeQ := s.homeQ.set n { r with decided := true } }
    let port := cxlPortOf (s.homeStack r.dst.addr)
    let held : Prop := d.fmt ≠ 5 ∨ r.dst.addr / 64 ∈ (s.cxlOf port).ready
    let inTime : Prop := r.decided = true ∨ 4 * (s.clock - r.arrival) ≤ 9 * 386
    s₀ = { s with poison := s₀.poison, memStacks := s₀.memStacks } ∧ (s.upsets = [] → s₀ = s) ∧
    (¬ HomeAgrees s h r → s.lost.getLsbD (72 + s.homeStack r.dst.addr) = false → inTime → ∃ t s₁, exec (.homeAccess n) s = .next t ∧
      Replied off s₁ h 2 [] ∧ t = if h.peer then s₁ else postEvent s₁ 0x09 (h.addr.toNat / 65536) 0) ∧
    (HomeAgrees { s with lost := 0 } h r → s.lost.getLsbD (72 + s.homeStack r.dst.addr) = true → inTime → ∃ t, exec (.homeAccess n) s = .next t ∧
      Replied off t h 3 []) ∧
    (HomeAgrees s h r → ¬ Clean s₀ r → frost = false → ¬ copying → r.op = .hostRead ∨ write → inTime → ∃ t, exec (.homeAccess n) s = .next t ∧
      Replied off t h 3 []) ∧
    (HomeAgrees s h r →
      (TooLate s r → ∃ t s₁, exec (.homeAccess n) s = .next t ∧
        AllReplied { s₀ with homeQ := s.homeQ.filter (fun x => !ofLine h.port (r.dst.addr / 64) x) } s₁
          ((s.homeQ.filter (ofLine h.port (r.dst.addr / 64))).filterMap (fun x => match x.src with | .host y => some y | _ => none)) 5 ∧
        t = s₁.setPort h.port { s₁.portOf h.port with retry := (s.portOf h.port).retry ++ [(r.dst.addr / 64, h.tag)] }) ∧
      (¬ TooLate s r →
        (r.op = .hostRead → frost = true →
          let bad : Prop := poisoned s r.dst.addr 64 = true ∨ imageDecode s r.dst.addr = none
          (bad → ∃ t s₁, exec (.homeAccess n) s = .next t ∧ Replied off s₁ h 3 [] ∧ HostThaw s₁ t r.dst.addr) ∧
          (¬ bad → ∃ t s₁, exec (.homeAccess n) s = .next t ∧ s₁.mem = s.mem ∧ Performed s s₁ n h (frostData s r.dst.addr 64) ∧ HostThaw s₁ t r.dst.addr)) ∧
        (frost = true → write → ∃ t, exec (.homeAccess n) s = .next t ∧ HostThaw waiting t r.dst.addr) ∧
        (frost = false → copying → write → exec (.homeAccess n) s = .next waiting) ∧
        (frost = false → ¬ copying → Clean s₀ r →
          (r.op = .hostRead → held → ∃ t, exec (.homeAccess n) s = .next t ∧ t.mem = s.mem ∧ t.upsets = s.upsets ∧ Performed s t n h (s.bytes r.dst.addr 64)) ∧
          (∀ m x, r.op = .hostWrite m x → x.length = 64 → ∃ t, exec (.homeAccess n) s = .next t ∧ Performed s t n h [] ∧
            ∀ a, (r.dst.addr ≤ a ∧ a < r.dst.addr + 64 ∧ m.getLsbD (a - r.dst.addr) = true → readByte t.mem a = x.getD (a - r.dst.addr) 0) ∧
              (¬ (r.dst.addr ≤ a ∧ a < r.dst.addr + 64 ∧ m.getLsbD (a - r.dst.addr) = true) → s.upsets = [] → readByte t.mem a = readByte s.mem a)) ∧
          (∀ x, r.op = .hostAtomic x → AtomicForm x → held →
            let w := r.dst.addr + 8 * (x.getD 1 0).toNat
            let old := s.num w 8
            ∃ t, exec (.homeAccess n) s = .next t ∧ Performed s t n h (natLe 64 old) ∧ readBytes t.mem w 8 = natLe 8 (atomicWord x old) ∧
              (s.upsets = [] → ∀ a, a < w ∨ w + 8 ≤ a → readByte t.mem a = readByte s.mem a)) ∧
          (r.op = .hostRead ∨ (∃ x, r.op = .hostAtomic x) → ¬ held → ∃ t, exec (.homeAccess n) s = .next t ∧ t = { waiting with cxl := t.cxl } ∧
            (∀ p, p ≠ port → t.cxlOf p = s.cxlOf p) ∧ t.cxlOf port = { s.cxlOf port with asked := (t.cxlOf port).asked } ∧
            ∃ q ∈ (t.cxlOf port).asked, q.line = r.dst.addr / 64 ∧ q.conflict = false))))

/-- R81, R434, R440: held requests go on once their frame is mapped; at the deadline what is still held completes with UNMAPPED and an event; windows change by training and by updates alone. -/
def Sys2Proof.Claims.MissesEndAndWindowsChange : Prop :=
  (∀ s host hfn m e, s.misses.find? (fun m => m.host = host && m.hfn = hfn) = some m → m.heldReqs ≠ [] →
    (∀ w ∈ s.hmWrites, w.host = host → w.hfn = hfn → ∀ k < 72, k ∈ w.done) → Shows s 0 host hfn e →
    let rest : State := { s with misses := s.misses.erase m }
    (Maps s host hfn e → ∃ t, exec (.heldMissRetranslate host hfn) s = .next t ∧ AllTranslated e rest m.heldReqs t) ∧
    (Maps s host hfn e → m.deadline ≤ s.clock → ∃ t, exec (.hostFaultDeadline host hfn) s = .next t ∧ AllTranslated e rest m.heldReqs t) ∧
    (¬ Maps s host hfn e → exec (.heldMissRetranslate host hfn) s = .next s) ∧
    (¬ Maps s host hfn e → m.deadline ≤ s.clock → ∃ t s₁, exec (.hostFaultDeadline host hfn) s = .next t ∧
      AllReplied { s with misses := s.misses.filter (fun x => ¬ (x.host = host ∧ x.hfn = hfn)) } s₁ (m.heldReqs.map (fun x => x.2.1)) 1 ∧ t = postEvent s₁ 0x05 hfn 0) ∧
    (s.clock < m.deadline → exec (.hostFaultDeadline host hfn) s = .next s)) ∧
  (∀ s host hfn, s.misses.find? (fun m => m.host = host && m.hfn = hfn) = none →
    exec (.heldMissRetranslate host hfn) s = .next s ∧ exec (.hostFaultDeadline host hfn) s = .next s) ∧
  ∀ s port rd wr, port < 16 → rd.toNat ≤ 32768 → wr.toNat ≤ 32768 →
    let p := s.portOf port
    (s.mgmt.life.getD port 0 = 2 → exec (.windowUpdate port rd wr) s = .next (s.setPort port { p with rdwin := rd.toNat, wrwin := wr.toNat })) ∧
    (s.mgmt.life.getD port 0 ≠ 2 → exec (.windowUpdate port rd wr) s = .next s) ∧
    (p.trained = false → s.mgmt.life.getD port 0 = 0 →
      exec (.linkTraining port rd wr) s = .next (s.setPort port { p with trained := true, rdwin := rd.toNat, wrwin := wr.toNat })) ∧
    (p.trained = false → s.mgmt.life.getD port 0 ≠ 0 → exec (.linkTraining port rd wr) s = .next s) ∧
    (p.trained = true → exec (.linkTraining port rd wr) s = .next (postEvent s 0x0A port 0))

/-- R3, R7, R12, R83, R219-R222, R439, R444: a lost or reset die ceases, and exactly the contexts that have touched it hold DIELOSS; a module reset takes everything but lost dies and what has yet to arrive to its reset value; a compute-side reset discards the compute side and ends with the resident kernel's restart. -/
def Sys2Proof.Claims.LossesAndResets : Prop :=
  (∀ s bit, bit < 144 → s.lost.getLsbD bit = false → ∃ s₁ s₂, LossHeld { s with lost := s.lost ||| BitVec.twoPow 144 bit } s₁ bit 0 ∧
    (bit < 72 → DieGone s₁ s₂ bit) ∧ (72 ≤ bit → s₂ = s₁) ∧ exec (.dieLost bit) s = .next (checkPlaceable (postEvent s₂ 0x08 bit 0))) ∧
  (∀ s bit, 144 ≤ bit ∨ s.lost.getLsbD bit = true → exec (.dieLost bit) s = .next s) ∧
  (∀ s die, die < 72 → s.lost.getLsbD die = false → ∃ s₁ s₂ s₃, LossHeld s s₁ die 1 ∧ DieGone s₁ s₂ die ∧ KernelBack s₂ s₃ die ∧
    exec (.warmReset die) s = .next (if s.resetting then s₂ else checkPlaceable s₃)) ∧
  (∀ s, ∃ t, exec .moduleReset s = .next t ∧ t = { State.reset with inputs := s.inputs, lost := s.lost, groups := t.groups, ctxs := [(0, Ctx.kernelOn s.lost)] } ∧ ServiceRestart s t) ∧
  (∀ s, s.resetting = true → ∃ t, exec .computeResetEnd s = .next t ∧
    t = { s with resetting := false, ctxs := [(0, Ctx.kernelOn s.lost)], groups := t.groups } ∧ ServiceRestart s t) ∧
  (∀ s, s.resetting = false → exec .computeResetEnd s = .next s) ∧
  ∀ s bit, bit < 144 → ∃ s₁, ComputeReset s s₁ ∧ exec (.thermalTrip bit) s = .next (postEvent s₁ 0x0C bit 0)

/-- R436: a command that the table does not allow to its issuer is DENIED and changes nothing. -/
def Sys2Proof.Claims.CommandsAreDenied : Prop :=
  ∀ s m heir iface reg c watts, m ≤ 81 →
    let owner : Prop := s.mgmt.owner = some m
    ∀ i, ∀ ok : Prop, (i, ok) ∈ [(Instr.claim m, s.mgmt.owner = none ∨ ∃ till, s.mgmt.handover = some (m, till) ∧ s.clock ≤ till), (.handover m heir, owner),
        (.reclaim m, m = 0), (.lifecycle m iface, owner), (.creset m, owner ∨ m = 81), (.setcoll m reg c, m = 81), (.powercap m watts, owner)] →
      ¬ ok → exec i s = .next (replied s m 1 [])

/-- R83, R436-R438, R440-R442, R444: what the management commands answer and do when their issuer may give them, and the events that belong to them. -/
def Sys2Proof.Claims.CommandsAndTheirEvents : Prop :=
  (∀ s m ctx c (nonce : BitVec 384), m ≤ 81 → s.ctxOf? ctx = some c →
    ∃ life, life.length = 16 ∧ (∀ i < s.mgmt.life.length, i < 64 → leNat life / 4 ^ i % 4 = (s.mgmt.life.getD i 0).toNat) ∧
      exec (.query m ctx) s = .next (replied s m 0 (padded Config.identity 16 ++ natLe 144 Config.enabledCores.toNat ++ life ++
        natLe 8 (if c.kind = 0 then SMap.get 0 s.mgmt.counters ctx else SMap.get 0 s.mgmt.snapshot ctx / 2 ^ 20 * 2 ^ 20))) ∧
      let report := natLe 48 nonce.toNat ++ padded Config.identity 208 ++ life ++ natLe 160 Config.enabledCores.toNat
      exec (.measure m nonce) s = .next (replied s m 0 (report ++ padded (Config.signature report) 96))) ∧
  (∀ s m, m ≤ 81 → s.mgmt.owner = none ∨ (∃ till, s.mgmt.handover = some (m, till) ∧ s.clock ≤ till) →
    exec (.claim m) s = .next (replied { s with mgmt := { s.mgmt with owner := some m, handover := none } } m 0 [])) ∧
  (∀ s, exec (.reclaim 0) s = .next (replied { s with mgmt := { s.mgmt with owner := some 0, handover := none } } 0 0 [])) ∧
  (∀ s m, m ≤ 81 → s.mgmt.owner = some m →
    (∀ heir, heir ≤ 80 → exec (.handover m heir) s = .next (replied { s with mgmt := { s.mgmt with handover := some (heir, s.clock + 2250000000) } } m 0 [])) ∧
    (∀ heir, 80 < heir → exec (.handover m heir) s = .next (replied s m 2 [])) ∧
    (∀ iface x, s.mgmt.life[iface]? = some x → x ≠ 2 → x ≠ 3 →
      exec (.lifecycle m iface) s = .next (replied { s with mgmt := { s.mgmt with life := s.mgmt.life.set iface (x + 1), debug := [] } } m 0 [])) ∧
    (∀ iface, s.mgmt.life[iface]? = none ∨ s.mgmt.life[iface]? = some 2 → exec (.lifecycle m iface) s = .next (replied s m 2 [])) ∧
    (∀ watts, 10000 ≤ watts → watts ≤ 21000 → exec (.powercap m watts) s = .next (replied { s with mgmt := { s.mgmt with cap := watts } } m 0 [])) ∧
    (∀ watts, watts < 10000 ∨ 21000 < watts → exec (.powercap m watts) s = .next (replied s m 2 []))) ∧
  (∀ s m, m ≤ 81 → s.mgmt.owner = some m ∨ m = 81 →
    (s.resetting = true → exec (.creset m) s = .next (replied s m 3 [])) ∧
    (s.resetting = false → ∃ t, ComputeReset s t ∧ exec (.creset m) s = .next (replied t m 0 []))) ∧
  (∀ s c, let fits : Prop := c.num < 256 ∧ (s.ctxOf? c.ctx).isSome = true ∧ 2 ≤ c.members.length ∧ c.members.length ≤ 64 ∧ c.rank < c.members.length ∧ c.port < 16
    (fits → ∃ t, exec (.setcoll 81 true c) s = .next (replied t 81 0 []) ∧ t = { s with colls := t.colls } ∧
      ∀ k, SMap.find? t.colls k = if k = c.num then some c else SMap.find? s.colls k) ∧
    (¬ fits → exec (.setcoll 81 true c) s = .next (replied s 81 2 [])) ∧
    (SMap.find? s.colls c.num = none → exec (.setcoll 81 false c) s = .next (replied s 81 2 [])) ∧
    (SMap.find? s.colls c.num ≠ none → ∃ t, exec (.setcoll 81 false c) s = .next (replied t 81 0 []) ∧ t = { s with colls := t.colls, scheds := t.scheds } ∧
      (∀ k, SMap.find? t.colls k = if k = c.num then none else SMap.find? s.colls k) ∧ (∀ k, k ≠ 255 → SMap.find? t.scheds k = SMap.find? s.scheds k) ∧
      SMap.find? t.scheds 255 = (SMap.find? s.scheds 255).map (fun m => m.map (fun e => (e.1,
        if e.2.live = true ∧ e.2.state ≠ .pending ∧ (e.2.card.extractLsb' 32 8).toNat = c.num then e.2.end 1 else e.2))))) ∧
  (∀ s, (∀ x till, s.mgmt.handover = some (x, till) → till < s.clock → exec .handoverExpiry s = .next { s with mgmt := { s.mgmt with handover := none } }) ∧
    ((∀ x till, s.mgmt.handover = some (x, till) → s.clock ≤ till) → exec .handoverExpiry s = .next s)) ∧
  (∀ s watts, (s.mgmt.cap < watts → s.mgmt.steps < 29 → exec (.arithmeticClockLowering watts) s = .next { s with mgmt := { s.mgmt with steps := s.mgmt.steps + 1 } }) ∧
    (watts ≤ s.mgmt.cap ∨ 29 ≤ s.mgmt.steps → exec (.arithmeticClockLowering watts) s = .next s)) ∧
  (∀ s, exec .counterWindowBoundary s = .next { s with mgmt := { s.mgmt with snapshot := s.mgmt.counters } }) ∧
  ∀ s addr, ((∀ x ∈ s.mgmt.life, x = 0) → exec (.debugAccess addr) s = .next { s with mgmt := { s.mgmt with debug := s.mgmt.debug ++ [addr] } }) ∧
    ((∃ x ∈ s.mgmt.life, x ≠ 0) → exec (.debugAccess addr) s = .next s)

/-- R12, R28, R158, R440: a tenant world is created with its numbers, keys, hosts and accepted gates, and ends with its bindings and its stored versions. -/
def Sys2Proof.Claims.WorldsComeAndGo : Prop :=
  (∀ s d, WorldFits s d → ∃ t gates, exec (.worldCreate d) s = .next t ∧ t = { s with worlds := t.worlds } ∧
    (∀ k, SMap.find? t.worlds k = if k = d.num then some { d with gates := gates } else SMap.find? s.worlds k) ∧
    (∀ g ∈ gates, g ∈ d.gates ∧ GateFits d g) ∧ (gates.map (fun g => g.gid)).Nodup ∧
    ∀ g ∈ d.gates, GateFits d g → ∃ g' ∈ gates, g'.gid = g.gid) ∧
  (∀ s d, ¬ WorldFits s d → exec (.worldCreate d) s = .next s) ∧
  ∀ s n, ∃ t, exec (.worldEnd n) s = .next t ∧
    t = { s with worlds := t.worlds, evict := t.evict, versions := s.versions.filter (fun v => v.world.toNat ≠ n) } ∧
    (∀ k, SMap.find? t.worlds k = if k = n then none else SMap.find? s.worlds k) ∧
    ∀ k, SMap.find? t.evict k = if k / 256 = n then none else SMap.find? s.evict k

end

section

open Sys2Proof Sys2Proof.Machine

/-! ## Granules, pins and codes -/

/-- R48-R51: the pins and beats of a granule's data bits and check bits, each used once; the gang of a granule; every sub-channel of a stack holds exactly two granule shares, 64 bytes, of a sub-frame. -/
def Sys2Proof.Claims.GranulesOnTheirPins : Prop :=
  (∀ gc : BitVec 3, gc.toNat < 5 → granuleBytes gc = 32 * 2 ^ gc.toNat ∧ gangWidth gc = 2 ^ gc.toNat ∧ gangCount gc * gangWidth gc = 64 ∧
    (∀ k < granuleBytes gc, ∀ i < 8, let p := dataPin gc k i
      p.sub < gangWidth gc ∧ p.pin < 32 ∧ p.beat < 8 ∧ (gc = 0 → p.pin = 8 * (k % 4) + i ∧ p.beat = k / 4) ∧ (gc ≠ 0 → 32 * p.sub + p.pin = k ∧ p.beat = i) ∧
      ∀ k' < granuleBytes gc, ∀ i' < 8, dataPin gc k' i' = p → k' = k ∧ i' = i) ∧
    ∀ c < granuleBytes gc / 8, ∀ i < 8, let p := checkPin c i
      p.sub < gangWidth gc ∧ p.pin < 4 ∧ 4 * p.sub + p.pin = c ∧ p.beat = i) ∧
  ∀ (s : State) a, a % 4096 = 0 → (s.fmtAt a).toNat < 5 → let g := granuleBytes (s.fmtAt a)
    (∀ i < 4096 / g, s.gangOf (a + g * i) = (s.placeOf a Config.placeGang + i) % gangCount (s.fmtAt a) ∧
      (∀ q, q ∈ s.subChannels (a + g * i) g ↔ q / gangWidth (s.fmtAt a) = s.gangOf (a + g * i)) ∧
      ∀ q, s.bankOf (a + g * i) q = s.bankOf a q ∧ s.placeOf (a + g * i) Config.placeRow = s.placeOf a Config.placeRow) ∧
    ∀ q < 64, ((List.range (4096 / g)).filter (fun i => (s.subChannels (a + g * i) g).contains q)).length = 2

/-- R54, R55: the generator is the product of x - α^0 to x - α^(m-1) over the field of 0x11D; data symbols followed by their check symbols are a multiple of it; the codewords of a granule take every data byte and every check symbol once, in the order and of the lengths of the table. -/
def Sys2Proof.Claims.GranulesAreCodewords : Prop :=
  (∀ x < 256, rsMul 2 x = (if x < 128 then 2 * x else (2 * x) ^^^ 0x11D) ∧ rsMul 1 x = x ∧ ∀ y < 256, ∀ z < 256, rsMul (x ^^^ y) z = rsMul x z ^^^ rsMul y z) ∧
  (∀ i, alpha (i + 1) = rsMul (alpha i) 2) ∧
  (∀ m x, x < 256 → polyHigh (rsGen m) x = (List.range m).foldl (fun acc i => rsMul acc (x ^^^ alpha i)) 1) ∧
  (∀ m data, 1 ≤ m → (∀ d ∈ data, d < 256) → (rsCheck m data).length = m ∧ ∀ i < m, polyHigh (data ++ rsCheck m data) (alpha i) = 0) ∧
  (∀ gc : BitVec 3, gc.toNat < 5 →
    ((codewords gc).flatMap (fun c => c.data)).Perm (List.range (granuleBytes gc)) ∧ ((codewords gc).flatMap (fun c => c.check)).Perm (List.range (granuleBytes gc / 8)) ∧
    (codewords gc).length = [1, 2, 2, 2, 4].getD gc.toNat 0 ∧
    (∀ c ∈ codewords gc, c.check.length = [4, 4, 8, 16, 16].getD gc.toNat 0 ∧ c.data.length + c.check.length = [36, 36, 72, 144, 144].getD gc.toNat 0 ∧
      ∀ i, (i + 1 < c.data.length → c.data.getD i 0 < c.data.getD (i + 1) 0) ∧ (i + 1 < c.check.length → c.check.getD i 0 < c.check.getD (i + 1) 0)) ∧
    (gc ≠ 0 → ∀ j c, (codewords gc)[j]? = some c → (∀ k ∈ c.data, k % 2 = j % 2 ∧ k / 256 = j / 2) ∧ ∀ k ∈ c.check, k % 2 = j % 2 ∧ k / 32 = j / 2)) ∧
  ∀ gc stored, gc.toNat < 5 → stored.length = granuleBytes gc → (∀ d ∈ stored, d < 256) → (checkSymbols gc stored).length = granuleBytes gc / 8 ∧
    ∀ c ∈ codewords gc, ∀ i < c.check.length,
      polyHigh (c.data.map (fun k => stored.getD k 0) ++ c.check.map (fun k => (checkSymbols gc stored).getD k 0)) (alpha i) = 0

end

/-! ## The obligations -/

section

open Sys2Proof Sys2Proof.Machine

/-- For every state in which the instruction is in issue with operands that do not trap: iadd, isub and ineg retire with the sum, difference or negation modulo 2^w in every active lane (and in the latch), iaddc and isubb with the 32-bit sum or difference and with the carry or borrow in their predicate in every active lane; every other register, predicate, flag, special register and byte is as before. -/
def Obligations.IntegerAddition : Prop :=
  Claims.AddSubtractNegate ∧ Claims.AddCarrySubtractBorrow

/-- iadds and isubs retire with the exact sum or difference clamped to the range of the type, iabs with the absolute value modulo 2^w, imin and imax with the smaller or larger in the type, in every active lane and in the latch; nothing else changes, no flag among it. -/
def Obligations.SaturationAndExtremes : Prop :=
  Claims.SaturatingAddSubtract ∧ Claims.AbsoluteMinimumMaximum

/-- imul, imulh, imad and imadw retire with the low product, the high product in the type, the sum with c, or the wide sum; ilea with a plus the shifted, sign- or zero-extended b, or plus the sign-extended immediate; in every active lane and in the latch, and nothing else changes. -/
def Obligations.MultipliesAndAddresses : Prop :=
  Claims.Multiplies ∧ Claims.AddressComputation

/-- shl, shr and sra retire with the shifted value, a count at or above the width giving 0 or sign copies; rotl, fshl and fshr with the rotation or the funnel of the 64-bit value, the count modulo 32; nothing else changes. -/
def Obligations.ShiftsAndRotates : Prop :=
  Claims.Shifts ∧ Claims.RotatesAndFunnels

/-- The five logic forms retire with their bitwise result; icmp writes its predicate with the relation in the type in every active lane, and no latch; isel writes a or b by its predicate. Nothing else changes. -/
def Obligations.LogicAndSelection : Prop :=
  Claims.BitwiseLogic ∧ Claims.CompareSelect

/-- bfe and bfi extract and insert the field at a position and length from registers or the immediate; popc and clz count, 32 bits wide in every type; brev reverses; bmix builds each result byte from a source byte under its control. Nothing else changes. -/
def Obligations.BitManipulation : Prop :=
  Claims.BitFields ∧ Claims.BitCountsAndReversal ∧ Claims.ByteMix

/-- The twenty short integer forms retire with the result of the operation that R274 names, in every lane of the fragment (they have no guard), with the literal sign- or zero-extended; nothing else changes. -/
def Obligations.ShortIntegers : Prop :=
  Claims.ShortIntegerForms

/-- fadd, fsub, fmul, ffma, fmin, fmax and fsign, long and short, retire with the rounded result of their read operands in every active lane, their flags ORed into FPCSR, and nothing else changed; an operand is read with the subnormal, absolute-value and negate steps in their order; the NaN that an operation answers is the first NaN operand made quiet. The signs of zero sums and NV beside a NaN follow the model's reading (DEDUCED, log entry 40). -/
def Obligations.FloatArithmetic : Prop :=
  Claims.FloatArithmeticForms ∧ Claims.FloatOperandModifiers ∧ Claims.FirstNaNIsReturned

/-- fcmp writes its predicate (of a paired format two) and no register; fclass, fgexp, frnd, f2i, i2f, fcvt and fscal retire with their results and flags in every active lane; every row of the table of required results holds of the functions that the instructions use. -/
def Obligations.FloatComparesAndConversions : Prop :=
  Claims.FloatCompare ∧ Claims.FloatConversionForms ∧ Claims.FloatBorderlineResults

/-- fdiv, frcp, fsqrt, frsq, fex2, flg2, fsin and fcos retire with one outstanding result for each active lane, and its flags, on their counter, and nothing else changes. -/
def Obligations.SpecialFunctions : Prop :=
  Claims.SfuForms

/-- vdot, vpack, vunpk, vamax and vscal in each of their variants retire with their result and flags in every active lane; nothing else changes. -/
def Obligations.NarrowFormats : Prop :=
  Claims.NarrowForms

/-- The rounded sum and product of finite operands equal the exact value where it has a code; otherwise the error is below one unit in the last place of the result, and under round to nearest at most half a unit. -/
def Obligations.RoundingIsFaithful : Prop :=
  Claims.RoundingIsFaithful

/-- mov, movi, movh and s2v retire with their value in every active lane; v2s writes the named lane's register, or 0 for a lane that is not live; idxset and idxadd write one index register in the active lanes; rgn only fills the region buffer. Nothing else changes. -/
def Obligations.MovesAndIndexRegisters : Prop :=
  Claims.Moves ∧ Claims.LaneToScalar ∧ Claims.IndexRegistersAndRegions

/-- plog, pmov and pmask write one predicate in the active lanes; the twelve scalar forms write their result once when a lane is active, and its split bit; nothing else changes, no flag among it. -/
def Obligations.PredicatesAndScalars : Prop :=
  Claims.PredicateForms ∧ Claims.ScalarForms

/-- In a converged group vote, xlane, redux, scan, match and bcast retire with the value that the active lanes give; in a group that is not converged each group-wide form, lxec, mstart and mstat raise CONVERGE with reason 0 before any effect, and on a service core ILLINSTR. -/
def Obligations.GroupWideOperations : Prop :=
  Claims.Vote ∧ Claims.GroupWideForms ∧ Claims.GroupWideFormsNeedConvergence

/-- lxec whose words are accepted runs each active lane's word (here additions of any registers): no lane sees what another lane's word wrote. Where a lane's word is not accepted it raises LXECWORD with those lanes and the lowest lane's word, and no word runs. -/
def Obligations.LaneWords : Prop :=
  Claims.LanesRunTheirOwnWords ∧ Claims.IllegalLaneWordsTrap

/-- bra, brc, brs, brx, call, callx and ret: each active lane that takes the branch stands at its target, every other lane of the fragment at the next instruction, and call and callx write that address; indirect targets that are no clause address raise MISALIGN for their lanes. exit makes the active lanes exited, the others fall through, and the group ends when no lane is live. yield and nop only retire. -/
def Obligations.ControlFlow : Prop :=
  Claims.Branches ∧ Claims.MisalignedTargetsTrap ∧ Claims.Exit ∧ Claims.HintsOnlyRetire

/-- In user mode with an active lane, trap and brkpt enter their handler for the fragment and syscall enters it for the lowest active lane, with the others still to follow: the saved fragments, the record, the mode and the vector are as an entry leaves them. With no active lane all three fall through. -/
def Obligations.SoftwareTrapsEnterTheirHandler : Prop :=
  Claims.SoftwareTraps

/-- Words written out bit by bit from the encoding tables of chapters 11 to 17 decode to the instructions they stand for. -/
def Obligations.WrittenOutWordsDecode : Prop :=
  Claims.WrittenOutWordsDecode

/-- For every well-formed core instruction, decoding its encoding answers it, with every field at every value that its form admits. -/
def Obligations.EncodedInstructionsDecode : Prop :=
  Claims.EncodedInstructionsDecode

/-- decode of encode is the instruction for every well-formed matrix-stream word; words that decode, core or matrix, decode to a well-formed instruction whose encoding is those words: no word has two readings. -/
def Obligations.WordsAreUnambiguous : Prop :=
  Claims.EncodedMatrixWordsDecode ∧ Claims.DecodedWordsAreTheirEncoding

/-- A word with an unassigned op6 or op9 decodes to nothing whatever its other bits, and so does an unguarded long word with guard bits. -/
def Obligations.UnassignedWordsAreRefused : Prop :=
  Claims.UnassignedWordsAreRefused

/-- When an input has arrived the step takes it; otherwise, when a group or sequencer is at hand whose bytes decode to an instruction, step is exec of that instruction, with the clock moved on and nobody at hand; bytes that are no instruction raise ILLINSTR. Whatever withFetchWord places, the very next step runs it. The order of arrivals, groups and the rest is the model's choice (log entry 1), and so is how a program comes to run (log entry 7). -/
def Obligations.StepRunsTheDecodedInstruction : Prop :=
  Claims.StepRunsTheDecodedInstruction ∧ Claims.PlacedWordRunsNext

/-- Every state has a next state: no step of the module is a fault or a refusal. -/
def Obligations.EveryStateHasANextState : Prop :=
  Claims.EveryStateHasANextState

/-- If frame space is in its canonical form and the step answers a next state, frame space is in its canonical form there. -/
def Obligations.StepKeepsMemoryForm : Prop :=
  Claims.StepKeepsMemoryForm

/-- At State.reset memory is in its canonical form, and the registers, cores, stacks, contexts and interfaces have the values that the manual gives for a module reset. -/
def Obligations.ResetLeaves : Prop :=
  Claims.ResetLeaves

/-- An operand byte reads the register, the latch, the scalar or the constant that its code names; an operand that traps raises ILLINSTR, REGBOUNDS or CONVERGE, in that order, and the instruction has no other effect. With no lane active nothing is read (model's reading, log entry 17). -/
def Obligations.OperandsReadAndTrap : Prop :=
  Claims.OperandReads ∧ Claims.OperandsTrapBeforeAnyEffect

/-- Any trap that a group takes in supervisor mode, trap and brkpt among them, halts the group with its record written, and the double-trap event is posted; the group does not vector. Where the event names context, core and slot is the model's choice (log entry 48). -/
def Obligations.TrapsInAHandlerHalt : Prop :=
  Claims.TrapsInAHandlerHalt

/-- Each active lane's address is its base plus the offset in its space. Where nothing under way touches the bytes, a load retires with each lane's value, as memory holds it at the lane's address, due on its counter; ldsh sends each lane's bytes to its offset in shared memory and counts them into its object. Nothing else changes but caches. -/
def Obligations.Loads : Prop :=
  Claims.LaneAddresses ∧ Claims.Loads ∧ Claims.LoadsToSharedMemory

/-- A store, a release store and a reduction retire with an entry at the tail of the group's store queue that holds each active lane's address and bytes, memory reading as before; a reduction at dev or sys to global memory combines in its die's shadow buffer or becomes an entry of it. -/
def Obligations.StoresEnterTheQueue : Prop :=
  Claims.StoresEnterTheQueue ∧ Claims.ReductionsCombineInTheShadowBuffer

/-- The store at the head of a queue whose release is due leaves it: shared and scratchpad bytes are written in lane order, global ones go to their homes. A home performs the requests of one instruction to a line together: exactly the bytes they name change. -/
def Obligations.StoresReachMemory : Prop :=
  Claims.StoresLeaveInOrder ∧ Claims.HomesPerformStoresAndReductions

/-- atom and acas with their queue empty and their release done update the addressed bytes lane by lane in ascending order and no other byte, and their old values are due on the counter; the combining functions are those of the types. With no active lane they retire (model's choice, log entry 33). -/
def Obligations.AtomicOperations : Prop :=
  Claims.AtomicFunctions ∧ Claims.Atomics

/-- A fence retires once the queue is empty and its release is done; at clu or wider the core's L1 is empty after it; no value changes. pref changes no value. waddr and paddr convert each active lane's value. (A fence without an active lane acts too: model's reading, log entry 33.) -/
def Obligations.FencesAndAddresses : Prop :=
  Claims.Fences ∧ Claims.PrefetchAndAddressConversion

/-- An arrival enters the queue as a marker and joins its object's running cycle when the marker leaves it; at the end of a cycle its bexps, its arrivals and its landed bytes count in that order, and one test ends the phase; an arrival beyond the expected ones leaves ILLBARRIER for its fragment; a wait that finds its phase complete takes the phase, acquires and retires, and otherwise waits; bwait and btest answer in their predicate. -/
def Obligations.Barriers : Prop :=
  Claims.BarrierArrivals ∧ Claims.BarrierCycles ∧ Claims.BarrierWaits ∧ Claims.BarrierExpectations

/-- Posts and takes that hold their ticket store the slot when it is ready and retire, and wait otherwise; the forms that do not block answer no and change nothing else when the slot is not ready; mbind binds a valid header. -/
def Obligations.Mailboxes : Prop :=
  Claims.PostsAndTakes ∧ Claims.TriesAndBinding

/-- A form that issues a job submits its card, read or built, once its stores have been performed, and its handle is due; while every slot is taken it waits. fwait waits while its handle is pending or running, ftest answers at once, fcanc removes a job that has not started. -/
def Obligations.JobsAndFutures : Prop :=
  Claims.JobsAreSubmitted ∧ Claims.Futures

/-- Queue registers are bound, read, popped and pushed; an empty queue waits and a full one stalls, and a port of the other direction raises ILLINSTR. -/
def Obligations.QueueRegisters : Prop :=
  Claims.QueueRegisters

/-- mstart starts the team's sequencer anew, mstat reads its registers; mstart of one that runs or is parked raises ILLINSTR, of a stream at no multiple of 8 MISALIGN. msave sends out the sequencer's image and leaves it idle once every byte has been performed; mrest of a well-formed image makes it the sequencer's state. -/
def Obligations.SequencerControl : Prop :=
  Claims.SequencerFromOutside ∧ Claims.SequencerSaveAndRestore

/-- Each of these words writes what its row says and nothing else; a malformed tile or record stops the stream, and bytes beyond the declared shared memory park it. -/
def Obligations.MatrixStreamWords : Prop :=
  Claims.StreamFlowWords ∧ Claims.TileWords

/-- mma, mmas and mconv whose B lies in shared memory accumulate the k-steps that are left into every element of the tile, with rows of A from the feeding group or held; one k-step sums its products exactly with the accumulator and rounds once, integer blocks modulo 2^32. A word or record that does not fit stops the stream. Held rows and NaN accumulators follow the model's readings (DEDUCED, log entries 37 and 40). -/
def Obligations.MatrixMultiplication : Prop :=
  Claims.MatrixMultiplyWords ∧ Claims.MatrixStepArithmetic

/-- A supervisor form raises ILLINSTR on a core kind that its row excludes and for an operand that user mode may not name; otherwise user mode takes PRIV. It has no other effect. -/
def Obligations.SupervisorFormsTrapInUserMode : Prop :=
  Claims.SupervisorFormsTrapInUserMode

/-- sret runs the next lane of a syscall, or resumes the fragments, or halts the group of a handler that left them inconsistent or served PREEMPT. pfrep and pfcan let what their SEQ names replay, go on or end, record the resolution of a saved parking, and answer 0 for a SEQ that names nothing. -/
def Obligations.HandlersReturnAndParkingsResolve : Prop :=
  Claims.ReturnFromAHandler ∧ Claims.ParkingResolution

/-- tlbinv removes the translations it names, waits until no access uses them, and then goes on; a walk that a prefetch asked for leaves its leaf in the cluster's TLB unless it fails or its key does not permit it. -/
def Obligations.TranslationsComeAndGo : Prop :=
  Claims.Shootdowns ∧ Claims.PrefetchWalks

/-- ctxld loads a descriptor into a context that is not live, changes a live one after a shootdown, answers why not, or tears a context down; wfi waits for a ring entry, the wake flag or its time; sipi acts on an enabled core of its kind and answers 1 for another. -/
def Obligations.ContextsWaitsAndSignals : Prop :=
  Claims.ContextsAreLoadedAndTornDown ∧ Claims.WaitsForInterruptsAndSignals

/-- csrr reads the word of its number (on a service core that of the target that TGTSEL names), a register held per lane in each active lane on the counter; an access of a register that is not there raises ILLINSTR, of a supervisor register in user mode PRIV. A user write of SSPLIT counts among the first (model's choice, log entry 22). -/
def Obligations.ControlRegisterReadsAndTraps : Prop :=
  Claims.ControlRegisterTraps ∧ Claims.ControlRegisterReads

/-- csrw writes the word of its number and nothing else; registers whose writes have rules take what their rule gives; a write of KINST's word 0 installs the kernel of its descriptor or rejects it. -/
def Obligations.ControlRegisterWritesAndTheirRules : Prop :=
  Claims.ControlRegisterWrites ∧ Claims.RegistersWithWriteRules ∧ Claims.KernelsAreInstalled

/-- A free issue slot takes the clause of the candidate that comes first; the clause is in issue, waits for a thaw, parks at a fetch fault, or raises ILLCLAUSE. -/
def Obligations.ClausesIssue : Prop :=
  Claims.ClausesIssue

/-- A result that arrives is written and its counter goes down by one; a wait ends when what it waits for has come about and not before; a bounded wait and a wfi end at their deadline; a tree's release reaches a core. -/
def Obligations.ResultsArriveAndWaitsEnd : Prop :=
  Claims.ResultsArriveAndWaitsEnd

/-- Each of the four event rows answers a next state for every state and operands that meet conditions on them alone, and its effect is the trap: illbarrierDelivery - the first held trap that is due is taken by the fragment of its lowest live lane at a clause boundary or in a wait, or by its cancelled parking; dielossEntry and preemptEntry - DIELOSS and PREEMPT are taken by the whole group (a frontier parking and a halted group included); progressFault - PROGRESS is taken by the post that waits, and the counter restarts. A lane of a load or store that faults parks the fragment at the instruction with its record on the fault-record ring, and no byte is stored. -/
def Obligations.TrapsOfEventsAndParkings : Prop :=
  Claims.IllbarrierDeliveryCompletes ∧ Claims.DielossEntryCompletes ∧ Claims.PreemptEntryCompletes ∧ Claims.ProgressFaultCompletes ∧ Claims.MemoryFaultsPark

/-- The first waiting team that fits starts on the lowest core, each group in its partition with its six words; a saved team returns its resources and waits again; the progress swap chooses the team of the lowest priority, the last admitted among equals. The choice of the lowest free slot is the model's (log entry 34). -/
def Obligations.TeamsComeAndGo : Prop :=
  Claims.TeamsComeAndGo

/-- Every data bit and check bit of a granule has its pin and beat, and no two share one; granule i of a sub-frame lies on gang (S + i) mod N, in one bank and row, and every sub-channel holds two shares of it. The generator of a code with m check symbols is the product of x - alpha^i for i below m over the field of 0x11D; data symbols with their check symbols are a multiple of it; the codewords of a granule take every data byte and check symbol once, in the order and the lengths of the table. -/
def Obligations.GranulesPinsAndCodes : Prop :=
  Claims.GranulesOnTheirPins ∧ Claims.GranulesAreCodewords

/-- A thaw clears its FROST bit and takes a sub-frame from FREE or waits for one; idle and refreshed banks precharge; an old background request is served as normal; a record or event is written at the head of its ring when the ring can take it, and waits otherwise. -/
def Obligations.StacksAndRings : Prop :=
  Claims.ThawsBanksAndAging ∧ Claims.RingsAreWritten

/-- A CXL port trains; an expander's data and acknowledgements arrive; a snoop takes a line out of every L1; the switch answers a replica access, and a request it does not answer in time faults. -/
def Obligations.CxlAndReplicaAnswers : Prop :=
  Claims.CxlAndReplicaAnswers

/-- Frames are allocated, freed, cleared and settled, entries and registers read and written, granules scrubbed (an uncorrectable one recorded and logged, a corrected one counted and written back), each job posting its record with the status its card and frame give; HMWRITE refuses an entry that breaks its rules, and a write is complete once no access of the old entry is left. -/
def Obligations.FrameEngineJobs : Prop :=
  Claims.FrameJobs ∧ Claims.ScrubbedGranules ∧ Claims.HostMapWrites

/-- A migration takes its destination's space, copies block after block, cuts over in one update and releases its source, memory read by frame-space address staying as it was; FFROST images the sub-frames that can be imaged, each becoming frost in one update unless a write has cancelled it; FTHAW starts thaws. -/
def Obligations.FramesMoveAndFrost : Prop :=
  Claims.MigrationKeepsOneHome ∧ Claims.FrostAndThaw

/-- COPY reads every byte before it writes any, FILL writes its value to every unit, GATHER and SCATTER move the elements that the indexes name, a COLLECTIVE combines the members' elements in ascending rank; a fault parks the job with its record, and uncorrectable data, a bad index or a scratchpad region outside the context's part ends it. -/
def Obligations.DataMovementJobs : Prop :=
  Claims.CopiesAndFills ∧ Claims.JobsOutsideTheirPart ∧ Claims.GathersScattersAndCollectives

/-- A gate reads in the issuing context, writes in the destination's under the destination's key, and then, as a release at dev, adds 1 to its counter; SEAL writes the image of the next version; UNSEAL gives the frame the page and deletes the version, or clears the frame and ends the compartment's contexts. A job's reads are performed; it is complete once its writes and entries are; its entries go to the group's queue. The sealing itself is idealised (log entry 8). -/
def Obligations.GatesSealsAndCompletion : Prop :=
  Claims.GatesAndSealedPages ∧ Claims.JobsComplete

/-- A transaction at a port in RUN whose tag fits is translated, misses, or goes to its home; one that breaks a window or whose atomic is malformed logs a link event. A home answers MAPERR, RETRY, or reads and writes exactly the bytes of the request. Held misses go on once their frame is mapped, and complete with UNMAPPED at their deadline. Windows change by training and updates alone. -/
def Obligations.HostAccesses : Prop :=
  Claims.HostTransactions ∧ Claims.HomesServeHosts ∧ Claims.MissesEndAndWindowsChange

/-- A lost or reset die ceases, and exactly the groups of contexts that have touched it hold DIELOSS; the kernel of a reset die goes on from its checkpoint, its messages replayed, or starts anew without one; a module reset takes everything to its reset value but what is lost and what has yet to arrive; a compute-side reset discards the compute side and ends with the resident kernel's restart; a tenant world is created with its numbers, keys, hosts and accepted gates, and ends. The tree bits of a lost die stay (model's choice, log entry 26). -/
def Obligations.LossesResetsAndWorlds : Prop :=
  Claims.LossesAndResets ∧ Claims.WorldsComeAndGo

/-- A command that the table does not allow to its issuer is DENIED and changes nothing; the others answer with the status and data of their rule and do what it says; handovers lapse, clocks are lowered, counter windows close, and debug accesses are taken only while every interface is open. The resident kernel's number among the masters and the layout of QUERY's data are the model's choices (log entries 27, 28). -/
def Obligations.ManagementCommands : Prop :=
  Claims.CommandsAreDenied ∧ Claims.CommandsAndTheirEvents

end
end

