-- ==== Sys2Proof/Laws/SMap.lean ====
section
/-! SUPPORT. Laws of sparse maps: reading after writing, and that every operation keeps the canonical form. Reading after writing holds of every list, canonical or not. -/

namespace Sys2Proof.SMap

variable {α : Type}

@[simp] theorem find?_nil (n : Nat) : find? ([] : SMap α) n = none := rfl

@[simp] theorem find?_put_same (m : SMap α) (n : Nat) (x : α) : find? (put m n x) n = some x := by
  induction m with
  | nil => simp [put, find?]
  | cons e m ih =>
    obtain ⟨k, v⟩ := e
    simp only [put]
    split
    · simp [find?]
    · split
      · next h => simp [find?, h]
      · next h => simp [find?, Ne.symm h, ih]

@[simp] theorem find?_put_other (m : SMap α) {n j : Nat} (x : α) (h : j ≠ n) : find? (put m n x) j = find? m j := by
  induction m with
  | nil => simp [put, find?, Ne.symm h]
  | cons e m ih =>
    obtain ⟨k, v⟩ := e
    simp only [put]
    split
    · simp [find?, Ne.symm h]
    · split
      · next hk => subst hk; simp [find?, Ne.symm h]
      · simp [find?, ih]

theorem find?_put (m : SMap α) (n j : Nat) (x : α) : find? (put m n x) j = if j = n then some x else find? m j := by
  split
  · next h => subst h; simp
  · next h => exact find?_put_other m x h

@[simp] theorem find?_del_same (m : SMap α) (n : Nat) : find? (del m n) n = none := by
  induction m with
  | nil => rfl
  | cons e m ih =>
    obtain ⟨k, v⟩ := e
    simp only [del, List.filter_cons] at ih ⊢
    split
    · next h => simp only [find?]; rw [if_neg (by simpa using h)]; exact ih
    · exact ih

@[simp] theorem find?_del_other (m : SMap α) {n j : Nat} (h : j ≠ n) : find? (del m n) j = find? m j := by
  induction m with
  | nil => rfl
  | cons e m ih =>
    obtain ⟨k, v⟩ := e
    simp only [del, List.filter_cons] at ih ⊢
    split
    · simp only [find?, ih]
    · next hk =>
      have : k = n := by simpa using hk
      subst this
      simp only [find?, if_neg (Ne.symm h), ih]

section
variable [DecidableEq α]

@[simp] theorem get_set_same (d : α) (m : SMap α) (n : Nat) (x : α) : get d (set d m n x) n = x := by
  unfold get set
  split
  · next h => simp [h]
  · simp

@[simp] theorem get_set_other (d : α) (m : SMap α) {n j : Nat} (x : α) (h : j ≠ n) : get d (set d m n x) j = get d m j := by
  unfold get set
  split <;> simp [h]

theorem get_set (d : α) (m : SMap α) (n j : Nat) (x : α) : get d (set d m n x) j = if j = n then x else get d m j := by
  split
  · next h => subst h; simp
  · next h => exact get_set_other d m x h

end

@[simp] theorem get_put_same (d : α) (m : SMap α) (n : Nat) (x : α) : get d (put m n x) n = x := by simp [get]

@[simp] theorem get_put_other (d : α) (m : SMap α) {n j : Nat} (x : α) (h : j ≠ n) : get d (put m n x) j = get d m j := by
  simp [get, h]

theorem find?_alter (m : SMap α) (n j : Nat) (f : α → α) :
    find? (alter m n f) j = if j = n then (find? m n).map f else find? m j := by
  unfold alter
  split
  · next v h => simp only [find?_put]; split <;> simp [h]
  · next h => split
              · next hj => subst hj; simp [h]
              · rfl

/-! ## The canonical form -/

theorem risesFrom_mono {lo lo' : Nat} (m : SMap α) (h : lo' ≤ lo) (hm : risesFrom lo m = true) : risesFrom lo' m = true := by
  cases m with
  | nil => rfl
  | cons e m =>
    obtain ⟨k, v⟩ := e
    simp only [risesFrom, Bool.and_eq_true, decide_eq_true_eq] at hm ⊢
    exact ⟨by omega, hm.2⟩

theorem risesFrom_put {lo n : Nat} (m : SMap α) (x : α) (h : lo ≤ n) (hm : risesFrom lo m = true) :
    risesFrom lo (put m n x) = true := by
  induction m generalizing lo with
  | nil => simp [put, risesFrom, h]
  | cons e m ih =>
    obtain ⟨k, v⟩ := e
    simp only [risesFrom, Bool.and_eq_true, decide_eq_true_eq] at hm
    simp only [put]
    split
    · simp only [risesFrom, Bool.and_eq_true, decide_eq_true_eq]; exact ⟨h, by omega, hm.2⟩
    · split
      · simp only [risesFrom, Bool.and_eq_true, decide_eq_true_eq]; exact hm
      · simp only [risesFrom, Bool.and_eq_true, decide_eq_true_eq]; exact ⟨hm.1, ih (by omega) hm.2⟩

theorem risesFrom_filter {lo : Nat} (m : SMap α) (p : Nat × α → Bool) (hm : risesFrom lo m = true) :
    risesFrom lo (m.filter p) = true := by
  induction m generalizing lo with
  | nil => rfl
  | cons e m ih =>
    obtain ⟨k, v⟩ := e
    simp only [risesFrom, Bool.and_eq_true, decide_eq_true_eq] at hm
    rw [List.filter_cons]
    split
    · simp only [risesFrom, Bool.and_eq_true, decide_eq_true_eq]; exact ⟨hm.1, ih hm.2⟩
    · exact risesFrom_mono _ (by omega) (ih hm.2)

theorem sorted_put (m : SMap α) (n : Nat) (x : α) (hm : sorted m = true) : sorted (put m n x) = true :=
  risesFrom_put m x (Nat.zero_le n) hm

theorem sorted_filter (m : SMap α) (p : Nat × α → Bool) (hm : sorted m = true) : sorted (m.filter p) = true :=
  risesFrom_filter m p hm

theorem sorted_del (m : SMap α) (n : Nat) (hm : sorted m = true) : sorted (del m n) = true := risesFrom_filter m _ hm

theorem sorted_alter (m : SMap α) (n : Nat) (f : α → α) (hm : sorted m = true) : sorted (alter m n f) = true := by
  unfold alter
  split
  · exact sorted_put m n _ hm
  · exact hm

theorem all_put (m : SMap α) (n : Nat) (x : α) (p : Nat × α → Bool) (hx : p (n, x) = true) (hm : m.all p = true) :
    (put m n x).all p = true := by
  induction m with
  | nil => simp [put, hx]
  | cons e m ih =>
    obtain ⟨k, v⟩ := e
    simp only [List.all_cons, Bool.and_eq_true] at hm
    simp only [put]
    split
    · simp only [List.all_cons, Bool.and_eq_true]; exact ⟨hx, hm.1, hm.2⟩
    · split
      · next h => subst h; simp only [List.all_cons, Bool.and_eq_true]; exact ⟨hx, hm.2⟩
      · simp only [List.all_cons, Bool.and_eq_true]; exact ⟨hm.1, ih hm.2⟩

theorem all_filter_of_all (m : SMap α) (q p : Nat × α → Bool) (hm : m.all p = true) : (m.filter q).all p = true := by
  simp only [List.all_eq_true] at hm ⊢
  exact fun e he => hm e (List.mem_filter.mp he).1

section
variable [DecidableEq α]

theorem wf_set (d : α) (m : SMap α) (n : Nat) (x : α) (hm : wf d m = true) : wf d (set d m n x) = true := by
  unfold wf at hm ⊢
  simp only [Bool.and_eq_true] at hm ⊢
  unfold set
  split
  · exact ⟨sorted_del m n hm.1, all_filter_of_all m _ _ hm.2⟩
  · next h => exact ⟨sorted_put m n x hm.1, all_put m n x _ (by simpa using h) hm.2⟩

theorem wf_filter (d : α) (m : SMap α) (p : Nat × α → Bool) (hm : wf d m = true) : wf d (m.filter p) = true := by
  unfold wf at hm ⊢
  simp only [Bool.and_eq_true] at hm ⊢
  exact ⟨sorted_filter m p hm.1, all_filter_of_all m _ _ hm.2⟩

theorem wf_delRange (d : α) (m : SMap α) (lo n : Nat) (hm : wf d m = true) : wf d (delRange m lo n) = true :=
  wf_filter d m _ hm

end

theorem find?_filter_key (m : SMap α) (p : Nat → Bool) (j : Nat) :
    find? (m.filter (fun e => p e.1)) j = if p j then find? m j else none := by
  induction m with
  | nil => simp
  | cons e m ih =>
    obtain ⟨k, v⟩ := e
    rw [List.filter_cons]
    by_cases hk : p k <;> simp only [hk, if_true, if_false, Bool.false_eq_true, find?, ih]
    · by_cases hj : k = j
      · subst hj; simp [hk]
      · simp [hj]
    · by_cases hj : k = j
      · subst hj; simp [hk]
      · simp [hj]

theorem find?_delRange (m : SMap α) (lo n j : Nat) :
    find? (delRange m lo n) j = if lo ≤ j ∧ j < lo + n then none else find? m j := by
  have h := find?_filter_key m (fun k => k < lo || lo + n ≤ k) j
  unfold delRange
  rw [h]
  by_cases hj : lo ≤ j ∧ j < lo + n
  · rw [if_pos hj, if_neg (by simp; omega)]
  · rw [if_neg hj, if_pos (by simp; omega)]

end Sys2Proof.SMap
end

