-- ==== Sys2Proof/Laws/Memory.lean ====
section
/-! SUPPORT. Laws of memory bytes: reading after writing, and that every memory operation keeps the canonical form. -/

namespace Sys2Proof.Machine

@[simp] theorem readByte_writeByte_same (m : Memory) (a : Nat) (b : Byte) : readByte (writeByte m a b) a = b :=
  SMap.get_set_same 0 m a b

@[simp] theorem readByte_writeByte_other (m : Memory) {a j : Nat} (b : Byte) (h : j ≠ a) :
    readByte (writeByte m a b) j = readByte m j := SMap.get_set_other 0 m b h

theorem readByte_writeBytes_outside (bs : List Byte) (m : Memory) (a j : Nat) (h : j < a ∨ a + bs.length ≤ j) :
    readByte (writeBytes m a bs) j = readByte m j := by
  induction bs generalizing m a with
  | nil => rfl
  | cons b bs ih =>
    simp only [List.length_cons] at h
    simp only [writeBytes]
    rw [ih _ _ (by omega), readByte_writeByte_other m b (by omega)]

theorem readByte_writeBytes_inside (bs : List Byte) (m : Memory) (a i : Nat) (h : i < bs.length) :
    readByte (writeBytes m a bs) (a + i) = bs[i] := by
  induction bs generalizing m a i with
  | nil => simp at h
  | cons b bs ih =>
    simp only [writeBytes]
    cases i with
    | zero => exact (readByte_writeBytes_outside bs (writeByte m a b) (a + 1) a (by omega)).trans (by simp)
    | succ i =>
      have h' : i < bs.length := by simpa using h
      have := ih (writeByte m a b) (a + 1) i h'
      rw [show a + (i + 1) = a + 1 + i by omega, this]; simp

theorem readBytes_writeBytes_same (bs : List Byte) (m : Memory) (a : Nat) :
    readBytes (writeBytes m a bs) a bs.length = bs := by
  induction bs generalizing m a with
  | nil => rfl
  | cons b bs ih =>
    simp only [writeBytes, List.length_cons, readBytes, ih]
    rw [readByte_writeBytes_outside bs (writeByte m a b) (a + 1) a (by omega)]; simp

theorem readByte_zeroBytes (m : Memory) (a n j : Nat) :
    readByte (zeroBytes m a n) j = if a ≤ j ∧ j < a + n then 0 else readByte m j := by
  unfold readByte zeroBytes SMap.get
  rw [SMap.find?_delRange]
  split <;> rfl

@[simp] theorem length_readBytes (m : Memory) (a n : Nat) : (readBytes m a n).length = n := by
  induction n generalizing a with
  | zero => rfl
  | succ n ih => simp [readBytes, ih]

theorem Memory.wf_writeByte (m : Memory) (a : Nat) (b : Byte) (h : m.wf = true) : Memory.wf (writeByte m a b) = true :=
  SMap.wf_set 0 m a b h

theorem Memory.wf_writeBytes (bs : List Byte) (m : Memory) (a : Nat) (h : m.wf = true) :
    Memory.wf (writeBytes m a bs) = true := by
  induction bs generalizing m a with
  | nil => exact h
  | cons b bs ih => exact ih _ _ (Memory.wf_writeByte m a b h)

theorem Memory.wf_zeroBytes (m : Memory) (a n : Nat) (h : m.wf = true) : Memory.wf (zeroBytes m a n) = true :=
  SMap.wf_delRange 0 m a n h

theorem reset_memory_wf : Memory.wf State.reset.mem = true := by decide

end Sys2Proof.Machine
end

