-- ==== Sys2Proof/Laws/State.lean ====
section
/-! SUPPORT. What each update of the state, and of a group, leaves as it was: one lemma for each field, and what the updated part reads as. -/

namespace Sys2Proof.Machine

/-! ## The state -/

@[simp] theorem State.setCore_clock (s : State) (c : Nat) (x : CoreSt) : (s.setCore c x).clock = s.clock := rfl
@[simp] theorem State.setCore_inputs (s : State) (c : Nat) (x : CoreSt) : (s.setCore c x).inputs = s.inputs := rfl
@[simp] theorem State.setCore_cur (s : State) (c : Nat) (x : CoreSt) : (s.setCore c x).cur = s.cur := rfl
@[simp] theorem State.setCore_curSeq (s : State) (c : Nat) (x : CoreSt) : (s.setCore c x).curSeq = s.curSeq := rfl
@[simp] theorem State.setCore_mem (s : State) (c : Nat) (x : CoreSt) : (s.setCore c x).mem = s.mem := rfl
@[simp] theorem State.setCore_dir (s : State) (c : Nat) (x : CoreSt) : (s.setCore c x).dir = s.dir := rfl
@[simp] theorem State.setCore_poison (s : State) (c : Nat) (x : CoreSt) : (s.setCore c x).poison = s.poison := rfl
@[simp] theorem State.setCore_upsets (s : State) (c : Nat) (x : CoreSt) : (s.setCore c x).upsets = s.upsets := rfl
@[simp] theorem State.setCore_memStacks (s : State) (c : Nat) (x : CoreSt) : (s.setCore c x).memStacks = s.memStacks := rfl
@[simp] theorem State.setCore_images (s : State) (c : Nat) (x : CoreSt) : (s.setCore c x).images = s.images := rfl
@[simp] theorem State.setCore_thaws (s : State) (c : Nat) (x : CoreSt) : (s.setCore c x).thaws = s.thaws := rfl
@[simp] theorem State.setCore_frosting (s : State) (c : Nat) (x : CoreSt) : (s.setCore c x).frosting = s.frosting := rfl
@[simp] theorem State.setCore_releases (s : State) (c : Nat) (x : CoreSt) : (s.setCore c x).releases = s.releases := rfl
@[simp] theorem State.setCore_homeQ (s : State) (c : Nat) (x : CoreSt) : (s.setCore c x).homeQ = s.homeQ := rfl
@[simp] theorem State.setCore_feQ (s : State) (c : Nat) (x : CoreSt) : (s.setCore c x).feQ = s.feQ := rfl
@[simp] theorem State.setCore_hmWrites (s : State) (c : Nat) (x : CoreSt) : (s.setCore c x).hmWrites = s.hmWrites := rfl
@[simp] theorem State.setCore_hosts (s : State) (c : Nat) (x : CoreSt) : (s.setCore c x).hosts = s.hosts := rfl
@[simp] theorem State.setCore_misses (s : State) (c : Nat) (x : CoreSt) : (s.setCore c x).misses = s.misses := rfl
@[simp] theorem State.setCore_fr (s : State) (c : Nat) (x : CoreSt) : (s.setCore c x).fr = s.fr := rfl
@[simp] theorem State.setCore_hfq (s : State) (c : Nat) (x : CoreSt) : (s.setCore c x).hfq = s.hfq := rfl
@[simp] theorem State.setCore_evq (s : State) (c : Nat) (x : CoreSt) : (s.setCore c x).evq = s.evq := rfl
@[simp] theorem State.setCore_seqNo (s : State) (c : Nat) (x : CoreSt) : (s.setCore c x).seqNo = s.seqNo := rfl
@[simp] theorem State.setCore_ctxs (s : State) (c : Nat) (x : CoreSt) : (s.setCore c x).ctxs = s.ctxs := rfl
@[simp] theorem State.setCore_worlds (s : State) (c : Nat) (x : CoreSt) : (s.setCore c x).worlds = s.worlds := rfl
@[simp] theorem State.setCore_evict (s : State) (c : Nat) (x : CoreSt) : (s.setCore c x).evict = s.evict := rfl
@[simp] theorem State.setCore_versions (s : State) (c : Nat) (x : CoreSt) : (s.setCore c x).versions = s.versions := rfl
@[simp] theorem State.setCore_groups (s : State) (c : Nat) (x : CoreSt) : (s.setCore c x).groups = s.groups := rfl
@[simp] theorem State.setCore_orphans (s : State) (c : Nat) (x : CoreSt) : (s.setCore c x).orphans = s.orphans := rfl
@[simp] theorem State.setCore_teams (s : State) (c : Nat) (x : CoreSt) : (s.setCore c x).teams = s.teams := rfl
@[simp] theorem State.setCore_seqs (s : State) (c : Nat) (x : CoreSt) : (s.setCore c x).seqs = s.seqs := rfl
@[simp] theorem State.setCore_clusters (s : State) (c : Nat) (x : CoreSt) : (s.setCore c x).clusters = s.clusters := rfl
@[simp] theorem State.setCore_scheds (s : State) (c : Nat) (x : CoreSt) : (s.setCore c x).scheds = s.scheds := rfl
@[simp] theorem State.setCore_trees (s : State) (c : Nat) (x : CoreSt) : (s.setCore c x).trees = s.trees := rfl
@[simp] theorem State.setCore_tlbinvs (s : State) (c : Nat) (x : CoreSt) : (s.setCore c x).tlbinvs = s.tlbinvs := rfl
@[simp] theorem State.setCore_lost (s : State) (c : Nat) (x : CoreSt) : (s.setCore c x).lost = s.lost := rfl
@[simp] theorem State.setCore_resetting (s : State) (c : Nat) (x : CoreSt) : (s.setCore c x).resetting = s.resetting := rfl
@[simp] theorem State.setCore_colls (s : State) (c : Nat) (x : CoreSt) : (s.setCore c x).colls = s.colls := rfl
@[simp] theorem State.setCore_ports (s : State) (c : Nat) (x : CoreSt) : (s.setCore c x).ports = s.ports := rfl
@[simp] theorem State.setCore_sent (s : State) (c : Nat) (x : CoreSt) : (s.setCore c x).sent = s.sent := rfl
@[simp] theorem State.setCore_reps (s : State) (c : Nat) (x : CoreSt) : (s.setCore c x).reps = s.reps := rfl
@[simp] theorem State.setCore_cxl (s : State) (c : Nat) (x : CoreSt) : (s.setCore c x).cxl = s.cxl := rfl
@[simp] theorem State.setCore_dieKernels (s : State) (c : Nat) (x : CoreSt) : (s.setCore c x).dieKernels = s.dieKernels := rfl
@[simp] theorem State.setCore_unseals (s : State) (c : Nat) (x : CoreSt) : (s.setCore c x).unseals = s.unseals := rfl
@[simp] theorem State.setCore_svcIn (s : State) (c : Nat) (x : CoreSt) : (s.setCore c x).svcIn = s.svcIn := rfl
@[simp] theorem State.setCore_svcOut (s : State) (c : Nat) (x : CoreSt) : (s.setCore c x).svcOut = s.svcOut := rfl
@[simp] theorem State.setCore_mgmt (s : State) (c : Nat) (x : CoreSt) : (s.setCore c x).mgmt = s.mgmt := rfl

@[simp] theorem State.setCluster_clock (s : State) (c : Nat) (x : Cluster) : (s.setCluster c x).clock = s.clock := rfl
@[simp] theorem State.setCluster_inputs (s : State) (c : Nat) (x : Cluster) : (s.setCluster c x).inputs = s.inputs := rfl
@[simp] theorem State.setCluster_cur (s : State) (c : Nat) (x : Cluster) : (s.setCluster c x).cur = s.cur := rfl
@[simp] theorem State.setCluster_curSeq (s : State) (c : Nat) (x : Cluster) : (s.setCluster c x).curSeq = s.curSeq := rfl
@[simp] theorem State.setCluster_mem (s : State) (c : Nat) (x : Cluster) : (s.setCluster c x).mem = s.mem := rfl
@[simp] theorem State.setCluster_dir (s : State) (c : Nat) (x : Cluster) : (s.setCluster c x).dir = s.dir := rfl
@[simp] theorem State.setCluster_poison (s : State) (c : Nat) (x : Cluster) : (s.setCluster c x).poison = s.poison := rfl
@[simp] theorem State.setCluster_upsets (s : State) (c : Nat) (x : Cluster) : (s.setCluster c x).upsets = s.upsets := rfl
@[simp] theorem State.setCluster_memStacks (s : State) (c : Nat) (x : Cluster) : (s.setCluster c x).memStacks = s.memStacks := rfl
@[simp] theorem State.setCluster_images (s : State) (c : Nat) (x : Cluster) : (s.setCluster c x).images = s.images := rfl
@[simp] theorem State.setCluster_thaws (s : State) (c : Nat) (x : Cluster) : (s.setCluster c x).thaws = s.thaws := rfl
@[simp] theorem State.setCluster_frosting (s : State) (c : Nat) (x : Cluster) : (s.setCluster c x).frosting = s.frosting := rfl
@[simp] theorem State.setCluster_releases (s : State) (c : Nat) (x : Cluster) : (s.setCluster c x).releases = s.releases := rfl
@[simp] theorem State.setCluster_homeQ (s : State) (c : Nat) (x : Cluster) : (s.setCluster c x).homeQ = s.homeQ := rfl
@[simp] theorem State.setCluster_feQ (s : State) (c : Nat) (x : Cluster) : (s.setCluster c x).feQ = s.feQ := rfl
@[simp] theorem State.setCluster_hmWrites (s : State) (c : Nat) (x : Cluster) : (s.setCluster c x).hmWrites = s.hmWrites := rfl
@[simp] theorem State.setCluster_hosts (s : State) (c : Nat) (x : Cluster) : (s.setCluster c x).hosts = s.hosts := rfl
@[simp] theorem State.setCluster_misses (s : State) (c : Nat) (x : Cluster) : (s.setCluster c x).misses = s.misses := rfl
@[simp] theorem State.setCluster_fr (s : State) (c : Nat) (x : Cluster) : (s.setCluster c x).fr = s.fr := rfl
@[simp] theorem State.setCluster_hfq (s : State) (c : Nat) (x : Cluster) : (s.setCluster c x).hfq = s.hfq := rfl
@[simp] theorem State.setCluster_evq (s : State) (c : Nat) (x : Cluster) : (s.setCluster c x).evq = s.evq := rfl
@[simp] theorem State.setCluster_seqNo (s : State) (c : Nat) (x : Cluster) : (s.setCluster c x).seqNo = s.seqNo := rfl
@[simp] theorem State.setCluster_ctxs (s : State) (c : Nat) (x : Cluster) : (s.setCluster c x).ctxs = s.ctxs := rfl
@[simp] theorem State.setCluster_worlds (s : State) (c : Nat) (x : Cluster) : (s.setCluster c x).worlds = s.worlds := rfl
@[simp] theorem State.setCluster_evict (s : State) (c : Nat) (x : Cluster) : (s.setCluster c x).evict = s.evict := rfl
@[simp] theorem State.setCluster_versions (s : State) (c : Nat) (x : Cluster) : (s.setCluster c x).versions = s.versions := rfl
@[simp] theorem State.setCluster_cores (s : State) (c : Nat) (x : Cluster) : (s.setCluster c x).cores = s.cores := rfl
@[simp] theorem State.setCluster_groups (s : State) (c : Nat) (x : Cluster) : (s.setCluster c x).groups = s.groups := rfl
@[simp] theorem State.setCluster_orphans (s : State) (c : Nat) (x : Cluster) : (s.setCluster c x).orphans = s.orphans := rfl
@[simp] theorem State.setCluster_teams (s : State) (c : Nat) (x : Cluster) : (s.setCluster c x).teams = s.teams := rfl
@[simp] theorem State.setCluster_seqs (s : State) (c : Nat) (x : Cluster) : (s.setCluster c x).seqs = s.seqs := rfl
@[simp] theorem State.setCluster_scheds (s : State) (c : Nat) (x : Cluster) : (s.setCluster c x).scheds = s.scheds := rfl
@[simp] theorem State.setCluster_trees (s : State) (c : Nat) (x : Cluster) : (s.setCluster c x).trees = s.trees := rfl
@[simp] theorem State.setCluster_tlbinvs (s : State) (c : Nat) (x : Cluster) : (s.setCluster c x).tlbinvs = s.tlbinvs := rfl
@[simp] theorem State.setCluster_lost (s : State) (c : Nat) (x : Cluster) : (s.setCluster c x).lost = s.lost := rfl
@[simp] theorem State.setCluster_resetting (s : State) (c : Nat) (x : Cluster) : (s.setCluster c x).resetting = s.resetting := rfl
@[simp] theorem State.setCluster_colls (s : State) (c : Nat) (x : Cluster) : (s.setCluster c x).colls = s.colls := rfl
@[simp] theorem State.setCluster_ports (s : State) (c : Nat) (x : Cluster) : (s.setCluster c x).ports = s.ports := rfl
@[simp] theorem State.setCluster_sent (s : State) (c : Nat) (x : Cluster) : (s.setCluster c x).sent = s.sent := rfl
@[simp] theorem State.setCluster_reps (s : State) (c : Nat) (x : Cluster) : (s.setCluster c x).reps = s.reps := rfl
@[simp] theorem State.setCluster_cxl (s : State) (c : Nat) (x : Cluster) : (s.setCluster c x).cxl = s.cxl := rfl
@[simp] theorem State.setCluster_dieKernels (s : State) (c : Nat) (x : Cluster) : (s.setCluster c x).dieKernels = s.dieKernels := rfl
@[simp] theorem State.setCluster_unseals (s : State) (c : Nat) (x : Cluster) : (s.setCluster c x).unseals = s.unseals := rfl
@[simp] theorem State.setCluster_svcIn (s : State) (c : Nat) (x : Cluster) : (s.setCluster c x).svcIn = s.svcIn := rfl
@[simp] theorem State.setCluster_svcOut (s : State) (c : Nat) (x : Cluster) : (s.setCluster c x).svcOut = s.svcOut := rfl
@[simp] theorem State.setCluster_mgmt (s : State) (c : Nat) (x : Cluster) : (s.setCluster c x).mgmt = s.mgmt := rfl

@[simp] theorem State.setStack_clock (s : State) (c : Nat) (x : Stack) : (s.setStack c x).clock = s.clock := rfl
@[simp] theorem State.setStack_inputs (s : State) (c : Nat) (x : Stack) : (s.setStack c x).inputs = s.inputs := rfl
@[simp] theorem State.setStack_cur (s : State) (c : Nat) (x : Stack) : (s.setStack c x).cur = s.cur := rfl
@[simp] theorem State.setStack_curSeq (s : State) (c : Nat) (x : Stack) : (s.setStack c x).curSeq = s.curSeq := rfl
@[simp] theorem State.setStack_mem (s : State) (c : Nat) (x : Stack) : (s.setStack c x).mem = s.mem := rfl
@[simp] theorem State.setStack_dir (s : State) (c : Nat) (x : Stack) : (s.setStack c x).dir = s.dir := rfl
@[simp] theorem State.setStack_poison (s : State) (c : Nat) (x : Stack) : (s.setStack c x).poison = s.poison := rfl
@[simp] theorem State.setStack_upsets (s : State) (c : Nat) (x : Stack) : (s.setStack c x).upsets = s.upsets := rfl
@[simp] theorem State.setStack_images (s : State) (c : Nat) (x : Stack) : (s.setStack c x).images = s.images := rfl
@[simp] theorem State.setStack_thaws (s : State) (c : Nat) (x : Stack) : (s.setStack c x).thaws = s.thaws := rfl
@[simp] theorem State.setStack_frosting (s : State) (c : Nat) (x : Stack) : (s.setStack c x).frosting = s.frosting := rfl
@[simp] theorem State.setStack_releases (s : State) (c : Nat) (x : Stack) : (s.setStack c x).releases = s.releases := rfl
@[simp] theorem State.setStack_homeQ (s : State) (c : Nat) (x : Stack) : (s.setStack c x).homeQ = s.homeQ := rfl
@[simp] theorem State.setStack_feQ (s : State) (c : Nat) (x : Stack) : (s.setStack c x).feQ = s.feQ := rfl
@[simp] theorem State.setStack_hmWrites (s : State) (c : Nat) (x : Stack) : (s.setStack c x).hmWrites = s.hmWrites := rfl
@[simp] theorem State.setStack_hosts (s : State) (c : Nat) (x : Stack) : (s.setStack c x).hosts = s.hosts := rfl
@[simp] theorem State.setStack_misses (s : State) (c : Nat) (x : Stack) : (s.setStack c x).misses = s.misses := rfl
@[simp] theorem State.setStack_fr (s : State) (c : Nat) (x : Stack) : (s.setStack c x).fr = s.fr := rfl
@[simp] theorem State.setStack_hfq (s : State) (c : Nat) (x : Stack) : (s.setStack c x).hfq = s.hfq := rfl
@[simp] theorem State.setStack_evq (s : State) (c : Nat) (x : Stack) : (s.setStack c x).evq = s.evq := rfl
@[simp] theorem State.setStack_seqNo (s : State) (c : Nat) (x : Stack) : (s.setStack c x).seqNo = s.seqNo := rfl
@[simp] theorem State.setStack_ctxs (s : State) (c : Nat) (x : Stack) : (s.setStack c x).ctxs = s.ctxs := rfl
@[simp] theorem State.setStack_worlds (s : State) (c : Nat) (x : Stack) : (s.setStack c x).worlds = s.worlds := rfl
@[simp] theorem State.setStack_evict (s : State) (c : Nat) (x : Stack) : (s.setStack c x).evict = s.evict := rfl
@[simp] theorem State.setStack_versions (s : State) (c : Nat) (x : Stack) : (s.setStack c x).versions = s.versions := rfl
@[simp] theorem State.setStack_cores (s : State) (c : Nat) (x : Stack) : (s.setStack c x).cores = s.cores := rfl
@[simp] theorem State.setStack_groups (s : State) (c : Nat) (x : Stack) : (s.setStack c x).groups = s.groups := rfl
@[simp] theorem State.setStack_orphans (s : State) (c : Nat) (x : Stack) : (s.setStack c x).orphans = s.orphans := rfl
@[simp] theorem State.setStack_teams (s : State) (c : Nat) (x : Stack) : (s.setStack c x).teams = s.teams := rfl
@[simp] theorem State.setStack_seqs (s : State) (c : Nat) (x : Stack) : (s.setStack c x).seqs = s.seqs := rfl
@[simp] theorem State.setStack_clusters (s : State) (c : Nat) (x : Stack) : (s.setStack c x).clusters = s.clusters := rfl
@[simp] theorem State.setStack_scheds (s : State) (c : Nat) (x : Stack) : (s.setStack c x).scheds = s.scheds := rfl
@[simp] theorem State.setStack_trees (s : State) (c : Nat) (x : Stack) : (s.setStack c x).trees = s.trees := rfl
@[simp] theorem State.setStack_tlbinvs (s : State) (c : Nat) (x : Stack) : (s.setStack c x).tlbinvs = s.tlbinvs := rfl
@[simp] theorem State.setStack_lost (s : State) (c : Nat) (x : Stack) : (s.setStack c x).lost = s.lost := rfl
@[simp] theorem State.setStack_resetting (s : State) (c : Nat) (x : Stack) : (s.setStack c x).resetting = s.resetting := rfl
@[simp] theorem State.setStack_colls (s : State) (c : Nat) (x : Stack) : (s.setStack c x).colls = s.colls := rfl
@[simp] theorem State.setStack_ports (s : State) (c : Nat) (x : Stack) : (s.setStack c x).ports = s.ports := rfl
@[simp] theorem State.setStack_sent (s : State) (c : Nat) (x : Stack) : (s.setStack c x).sent = s.sent := rfl
@[simp] theorem State.setStack_reps (s : State) (c : Nat) (x : Stack) : (s.setStack c x).reps = s.reps := rfl
@[simp] theorem State.setStack_cxl (s : State) (c : Nat) (x : Stack) : (s.setStack c x).cxl = s.cxl := rfl
@[simp] theorem State.setStack_dieKernels (s : State) (c : Nat) (x : Stack) : (s.setStack c x).dieKernels = s.dieKernels := rfl
@[simp] theorem State.setStack_unseals (s : State) (c : Nat) (x : Stack) : (s.setStack c x).unseals = s.unseals := rfl
@[simp] theorem State.setStack_svcIn (s : State) (c : Nat) (x : Stack) : (s.setStack c x).svcIn = s.svcIn := rfl
@[simp] theorem State.setStack_svcOut (s : State) (c : Nat) (x : Stack) : (s.setStack c x).svcOut = s.svcOut := rfl
@[simp] theorem State.setStack_mgmt (s : State) (c : Nat) (x : Stack) : (s.setStack c x).mgmt = s.mgmt := rfl

@[simp] theorem State.setDir_clock (s : State) (c : Nat) (x : DirEntry) : (s.setDir c x).clock = s.clock := rfl
@[simp] theorem State.setDir_inputs (s : State) (c : Nat) (x : DirEntry) : (s.setDir c x).inputs = s.inputs := rfl
@[simp] theorem State.setDir_cur (s : State) (c : Nat) (x : DirEntry) : (s.setDir c x).cur = s.cur := rfl
@[simp] theorem State.setDir_curSeq (s : State) (c : Nat) (x : DirEntry) : (s.setDir c x).curSeq = s.curSeq := rfl
@[simp] theorem State.setDir_mem (s : State) (c : Nat) (x : DirEntry) : (s.setDir c x).mem = s.mem := rfl
@[simp] theorem State.setDir_poison (s : State) (c : Nat) (x : DirEntry) : (s.setDir c x).poison = s.poison := rfl
@[simp] theorem State.setDir_upsets (s : State) (c : Nat) (x : DirEntry) : (s.setDir c x).upsets = s.upsets := rfl
@[simp] theorem State.setDir_memStacks (s : State) (c : Nat) (x : DirEntry) : (s.setDir c x).memStacks = s.memStacks := rfl
@[simp] theorem State.setDir_images (s : State) (c : Nat) (x : DirEntry) : (s.setDir c x).images = s.images := rfl
@[simp] theorem State.setDir_thaws (s : State) (c : Nat) (x : DirEntry) : (s.setDir c x).thaws = s.thaws := rfl
@[simp] theorem State.setDir_frosting (s : State) (c : Nat) (x : DirEntry) : (s.setDir c x).frosting = s.frosting := rfl
@[simp] theorem State.setDir_releases (s : State) (c : Nat) (x : DirEntry) : (s.setDir c x).releases = s.releases := rfl
@[simp] theorem State.setDir_homeQ (s : State) (c : Nat) (x : DirEntry) : (s.setDir c x).homeQ = s.homeQ := rfl
@[simp] theorem State.setDir_feQ (s : State) (c : Nat) (x : DirEntry) : (s.setDir c x).feQ = s.feQ := rfl
@[simp] theorem State.setDir_hmWrites (s : State) (c : Nat) (x : DirEntry) : (s.setDir c x).hmWrites = s.hmWrites := rfl
@[simp] theorem State.setDir_hosts (s : State) (c : Nat) (x : DirEntry) : (s.setDir c x).hosts = s.hosts := rfl
@[simp] theorem State.setDir_misses (s : State) (c : Nat) (x : DirEntry) : (s.setDir c x).misses = s.misses := rfl
@[simp] theorem State.setDir_fr (s : State) (c : Nat) (x : DirEntry) : (s.setDir c x).fr = s.fr := rfl
@[simp] theorem State.setDir_hfq (s : State) (c : Nat) (x : DirEntry) : (s.setDir c x).hfq = s.hfq := rfl
@[simp] theorem State.setDir_evq (s : State) (c : Nat) (x : DirEntry) : (s.setDir c x).evq = s.evq := rfl
@[simp] theorem State.setDir_seqNo (s : State) (c : Nat) (x : DirEntry) : (s.setDir c x).seqNo = s.seqNo := rfl
@[simp] theorem State.setDir_ctxs (s : State) (c : Nat) (x : DirEntry) : (s.setDir c x).ctxs = s.ctxs := rfl
@[simp] theorem State.setDir_worlds (s : State) (c : Nat) (x : DirEntry) : (s.setDir c x).worlds = s.worlds := rfl
@[simp] theorem State.setDir_evict (s : State) (c : Nat) (x : DirEntry) : (s.setDir c x).evict = s.evict := rfl
@[simp] theorem State.setDir_versions (s : State) (c : Nat) (x : DirEntry) : (s.setDir c x).versions = s.versions := rfl
@[simp] theorem State.setDir_cores (s : State) (c : Nat) (x : DirEntry) : (s.setDir c x).cores = s.cores := rfl
@[simp] theorem State.setDir_groups (s : State) (c : Nat) (x : DirEntry) : (s.setDir c x).groups = s.groups := rfl
@[simp] theorem State.setDir_orphans (s : State) (c : Nat) (x : DirEntry) : (s.setDir c x).orphans = s.orphans := rfl
@[simp] theorem State.setDir_teams (s : State) (c : Nat) (x : DirEntry) : (s.setDir c x).teams = s.teams := rfl
@[simp] theorem State.setDir_seqs (s : State) (c : Nat) (x : DirEntry) : (s.setDir c x).seqs = s.seqs := rfl
@[simp] theorem State.setDir_clusters (s : State) (c : Nat) (x : DirEntry) : (s.setDir c x).clusters = s.clusters := rfl
@[simp] theorem State.setDir_scheds (s : State) (c : Nat) (x : DirEntry) : (s.setDir c x).scheds = s.scheds := rfl
@[simp] theorem State.setDir_trees (s : State) (c : Nat) (x : DirEntry) : (s.setDir c x).trees = s.trees := rfl
@[simp] theorem State.setDir_tlbinvs (s : State) (c : Nat) (x : DirEntry) : (s.setDir c x).tlbinvs = s.tlbinvs := rfl
@[simp] theorem State.setDir_lost (s : State) (c : Nat) (x : DirEntry) : (s.setDir c x).lost = s.lost := rfl
@[simp] theorem State.setDir_resetting (s : State) (c : Nat) (x : DirEntry) : (s.setDir c x).resetting = s.resetting := rfl
@[simp] theorem State.setDir_colls (s : State) (c : Nat) (x : DirEntry) : (s.setDir c x).colls = s.colls := rfl
@[simp] theorem State.setDir_ports (s : State) (c : Nat) (x : DirEntry) : (s.setDir c x).ports = s.ports := rfl
@[simp] theorem State.setDir_sent (s : State) (c : Nat) (x : DirEntry) : (s.setDir c x).sent = s.sent := rfl
@[simp] theorem State.setDir_reps (s : State) (c : Nat) (x : DirEntry) : (s.setDir c x).reps = s.reps := rfl
@[simp] theorem State.setDir_cxl (s : State) (c : Nat) (x : DirEntry) : (s.setDir c x).cxl = s.cxl := rfl
@[simp] theorem State.setDir_dieKernels (s : State) (c : Nat) (x : DirEntry) : (s.setDir c x).dieKernels = s.dieKernels := rfl
@[simp] theorem State.setDir_unseals (s : State) (c : Nat) (x : DirEntry) : (s.setDir c x).unseals = s.unseals := rfl
@[simp] theorem State.setDir_svcIn (s : State) (c : Nat) (x : DirEntry) : (s.setDir c x).svcIn = s.svcIn := rfl
@[simp] theorem State.setDir_svcOut (s : State) (c : Nat) (x : DirEntry) : (s.setDir c x).svcOut = s.svcOut := rfl
@[simp] theorem State.setDir_mgmt (s : State) (c : Nat) (x : DirEntry) : (s.setDir c x).mgmt = s.mgmt := rfl

@[simp] theorem State.setHost_clock (s : State) (c : Nat) (x : HostMap) : (s.setHost c x).clock = s.clock := rfl
@[simp] theorem State.setHost_inputs (s : State) (c : Nat) (x : HostMap) : (s.setHost c x).inputs = s.inputs := rfl
@[simp] theorem State.setHost_cur (s : State) (c : Nat) (x : HostMap) : (s.setHost c x).cur = s.cur := rfl
@[simp] theorem State.setHost_curSeq (s : State) (c : Nat) (x : HostMap) : (s.setHost c x).curSeq = s.curSeq := rfl
@[simp] theorem State.setHost_mem (s : State) (c : Nat) (x : HostMap) : (s.setHost c x).mem = s.mem := rfl
@[simp] theorem State.setHost_dir (s : State) (c : Nat) (x : HostMap) : (s.setHost c x).dir = s.dir := rfl
@[simp] theorem State.setHost_poison (s : State) (c : Nat) (x : HostMap) : (s.setHost c x).poison = s.poison := rfl
@[simp] theorem State.setHost_upsets (s : State) (c : Nat) (x : HostMap) : (s.setHost c x).upsets = s.upsets := rfl
@[simp] theorem State.setHost_memStacks (s : State) (c : Nat) (x : HostMap) : (s.setHost c x).memStacks = s.memStacks := rfl
@[simp] theorem State.setHost_images (s : State) (c : Nat) (x : HostMap) : (s.setHost c x).images = s.images := rfl
@[simp] theorem State.setHost_thaws (s : State) (c : Nat) (x : HostMap) : (s.setHost c x).thaws = s.thaws := rfl
@[simp] theorem State.setHost_frosting (s : State) (c : Nat) (x : HostMap) : (s.setHost c x).frosting = s.frosting := rfl
@[simp] theorem State.setHost_releases (s : State) (c : Nat) (x : HostMap) : (s.setHost c x).releases = s.releases := rfl
@[simp] theorem State.setHost_homeQ (s : State) (c : Nat) (x : HostMap) : (s.setHost c x).homeQ = s.homeQ := rfl
@[simp] theorem State.setHost_feQ (s : State) (c : Nat) (x : HostMap) : (s.setHost c x).feQ = s.feQ := rfl
@[simp] theorem State.setHost_hmWrites (s : State) (c : Nat) (x : HostMap) : (s.setHost c x).hmWrites = s.hmWrites := rfl
@[simp] theorem State.setHost_misses (s : State) (c : Nat) (x : HostMap) : (s.setHost c x).misses = s.misses := rfl
@[simp] theorem State.setHost_fr (s : State) (c : Nat) (x : HostMap) : (s.setHost c x).fr = s.fr := rfl
@[simp] theorem State.setHost_hfq (s : State) (c : Nat) (x : HostMap) : (s.setHost c x).hfq = s.hfq := rfl
@[simp] theorem State.setHost_evq (s : State) (c : Nat) (x : HostMap) : (s.setHost c x).evq = s.evq := rfl
@[simp] theorem State.setHost_seqNo (s : State) (c : Nat) (x : HostMap) : (s.setHost c x).seqNo = s.seqNo := rfl
@[simp] theorem State.setHost_ctxs (s : State) (c : Nat) (x : HostMap) : (s.setHost c x).ctxs = s.ctxs := rfl
@[simp] theorem State.setHost_worlds (s : State) (c : Nat) (x : HostMap) : (s.setHost c x).worlds = s.worlds := rfl
@[simp] theorem State.setHost_evict (s : State) (c : Nat) (x : HostMap) : (s.setHost c x).evict = s.evict := rfl
@[simp] theorem State.setHost_versions (s : State) (c : Nat) (x : HostMap) : (s.setHost c x).versions = s.versions := rfl
@[simp] theorem State.setHost_cores (s : State) (c : Nat) (x : HostMap) : (s.setHost c x).cores = s.cores := rfl
@[simp] theorem State.setHost_groups (s : State) (c : Nat) (x : HostMap) : (s.setHost c x).groups = s.groups := rfl
@[simp] theorem State.setHost_orphans (s : State) (c : Nat) (x : HostMap) : (s.setHost c x).orphans = s.orphans := rfl
@[simp] theorem State.setHost_teams (s : State) (c : Nat) (x : HostMap) : (s.setHost c x).teams = s.teams := rfl
@[simp] theorem State.setHost_seqs (s : State) (c : Nat) (x : HostMap) : (s.setHost c x).seqs = s.seqs := rfl
@[simp] theorem State.setHost_clusters (s : State) (c : Nat) (x : HostMap) : (s.setHost c x).clusters = s.clusters := rfl
@[simp] theorem State.setHost_scheds (s : State) (c : Nat) (x : HostMap) : (s.setHost c x).scheds = s.scheds := rfl
@[simp] theorem State.setHost_trees (s : State) (c : Nat) (x : HostMap) : (s.setHost c x).trees = s.trees := rfl
@[simp] theorem State.setHost_tlbinvs (s : State) (c : Nat) (x : HostMap) : (s.setHost c x).tlbinvs = s.tlbinvs := rfl
@[simp] theorem State.setHost_lost (s : State) (c : Nat) (x : HostMap) : (s.setHost c x).lost = s.lost := rfl
@[simp] theorem State.setHost_resetting (s : State) (c : Nat) (x : HostMap) : (s.setHost c x).resetting = s.resetting := rfl
@[simp] theorem State.setHost_colls (s : State) (c : Nat) (x : HostMap) : (s.setHost c x).colls = s.colls := rfl
@[simp] theorem State.setHost_ports (s : State) (c : Nat) (x : HostMap) : (s.setHost c x).ports = s.ports := rfl
@[simp] theorem State.setHost_sent (s : State) (c : Nat) (x : HostMap) : (s.setHost c x).sent = s.sent := rfl
@[simp] theorem State.setHost_reps (s : State) (c : Nat) (x : HostMap) : (s.setHost c x).reps = s.reps := rfl
@[simp] theorem State.setHost_cxl (s : State) (c : Nat) (x : HostMap) : (s.setHost c x).cxl = s.cxl := rfl
@[simp] theorem State.setHost_dieKernels (s : State) (c : Nat) (x : HostMap) : (s.setHost c x).dieKernels = s.dieKernels := rfl
@[simp] theorem State.setHost_unseals (s : State) (c : Nat) (x : HostMap) : (s.setHost c x).unseals = s.unseals := rfl
@[simp] theorem State.setHost_svcIn (s : State) (c : Nat) (x : HostMap) : (s.setHost c x).svcIn = s.svcIn := rfl
@[simp] theorem State.setHost_svcOut (s : State) (c : Nat) (x : HostMap) : (s.setHost c x).svcOut = s.svcOut := rfl
@[simp] theorem State.setHost_mgmt (s : State) (c : Nat) (x : HostMap) : (s.setHost c x).mgmt = s.mgmt := rfl

@[simp] theorem State.setPort_clock (s : State) (c : Nat) (x : Port) : (s.setPort c x).clock = s.clock := rfl
@[simp] theorem State.setPort_inputs (s : State) (c : Nat) (x : Port) : (s.setPort c x).inputs = s.inputs := rfl
@[simp] theorem State.setPort_cur (s : State) (c : Nat) (x : Port) : (s.setPort c x).cur = s.cur := rfl
@[simp] theorem State.setPort_curSeq (s : State) (c : Nat) (x : Port) : (s.setPort c x).curSeq = s.curSeq := rfl
@[simp] theorem State.setPort_mem (s : State) (c : Nat) (x : Port) : (s.setPort c x).mem = s.mem := rfl
@[simp] theorem State.setPort_dir (s : State) (c : Nat) (x : Port) : (s.setPort c x).dir = s.dir := rfl
@[simp] theorem State.setPort_poison (s : State) (c : Nat) (x : Port) : (s.setPort c x).poison = s.poison := rfl
@[simp] theorem State.setPort_upsets (s : State) (c : Nat) (x : Port) : (s.setPort c x).upsets = s.upsets := rfl
@[simp] theorem State.setPort_memStacks (s : State) (c : Nat) (x : Port) : (s.setPort c x).memStacks = s.memStacks := rfl
@[simp] theorem State.setPort_images (s : State) (c : Nat) (x : Port) : (s.setPort c x).images = s.images := rfl
@[simp] theorem State.setPort_thaws (s : State) (c : Nat) (x : Port) : (s.setPort c x).thaws = s.thaws := rfl
@[simp] theorem State.setPort_frosting (s : State) (c : Nat) (x : Port) : (s.setPort c x).frosting = s.frosting := rfl
@[simp] theorem State.setPort_releases (s : State) (c : Nat) (x : Port) : (s.setPort c x).releases = s.releases := rfl
@[simp] theorem State.setPort_homeQ (s : State) (c : Nat) (x : Port) : (s.setPort c x).homeQ = s.homeQ := rfl
@[simp] theorem State.setPort_feQ (s : State) (c : Nat) (x : Port) : (s.setPort c x).feQ = s.feQ := rfl
@[simp] theorem State.setPort_hmWrites (s : State) (c : Nat) (x : Port) : (s.setPort c x).hmWrites = s.hmWrites := rfl
@[simp] theorem State.setPort_hosts (s : State) (c : Nat) (x : Port) : (s.setPort c x).hosts = s.hosts := rfl
@[simp] theorem State.setPort_misses (s : State) (c : Nat) (x : Port) : (s.setPort c x).misses = s.misses := rfl
@[simp] theorem State.setPort_fr (s : State) (c : Nat) (x : Port) : (s.setPort c x).fr = s.fr := rfl
@[simp] theorem State.setPort_hfq (s : State) (c : Nat) (x : Port) : (s.setPort c x).hfq = s.hfq := rfl
@[simp] theorem State.setPort_evq (s : State) (c : Nat) (x : Port) : (s.setPort c x).evq = s.evq := rfl
@[simp] theorem State.setPort_seqNo (s : State) (c : Nat) (x : Port) : (s.setPort c x).seqNo = s.seqNo := rfl
@[simp] theorem State.setPort_ctxs (s : State) (c : Nat) (x : Port) : (s.setPort c x).ctxs = s.ctxs := rfl
@[simp] theorem State.setPort_worlds (s : State) (c : Nat) (x : Port) : (s.setPort c x).worlds = s.worlds := rfl
@[simp] theorem State.setPort_evict (s : State) (c : Nat) (x : Port) : (s.setPort c x).evict = s.evict := rfl
@[simp] theorem State.setPort_versions (s : State) (c : Nat) (x : Port) : (s.setPort c x).versions = s.versions := rfl
@[simp] theorem State.setPort_cores (s : State) (c : Nat) (x : Port) : (s.setPort c x).cores = s.cores := rfl
@[simp] theorem State.setPort_groups (s : State) (c : Nat) (x : Port) : (s.setPort c x).groups = s.groups := rfl
@[simp] theorem State.setPort_orphans (s : State) (c : Nat) (x : Port) : (s.setPort c x).orphans = s.orphans := rfl
@[simp] theorem State.setPort_teams (s : State) (c : Nat) (x : Port) : (s.setPort c x).teams = s.teams := rfl
@[simp] theorem State.setPort_seqs (s : State) (c : Nat) (x : Port) : (s.setPort c x).seqs = s.seqs := rfl
@[simp] theorem State.setPort_clusters (s : State) (c : Nat) (x : Port) : (s.setPort c x).clusters = s.clusters := rfl
@[simp] theorem State.setPort_scheds (s : State) (c : Nat) (x : Port) : (s.setPort c x).scheds = s.scheds := rfl
@[simp] theorem State.setPort_trees (s : State) (c : Nat) (x : Port) : (s.setPort c x).trees = s.trees := rfl
@[simp] theorem State.setPort_tlbinvs (s : State) (c : Nat) (x : Port) : (s.setPort c x).tlbinvs = s.tlbinvs := rfl
@[simp] theorem State.setPort_lost (s : State) (c : Nat) (x : Port) : (s.setPort c x).lost = s.lost := rfl
@[simp] theorem State.setPort_resetting (s : State) (c : Nat) (x : Port) : (s.setPort c x).resetting = s.resetting := rfl
@[simp] theorem State.setPort_colls (s : State) (c : Nat) (x : Port) : (s.setPort c x).colls = s.colls := rfl
@[simp] theorem State.setPort_sent (s : State) (c : Nat) (x : Port) : (s.setPort c x).sent = s.sent := rfl
@[simp] theorem State.setPort_reps (s : State) (c : Nat) (x : Port) : (s.setPort c x).reps = s.reps := rfl
@[simp] theorem State.setPort_cxl (s : State) (c : Nat) (x : Port) : (s.setPort c x).cxl = s.cxl := rfl
@[simp] theorem State.setPort_dieKernels (s : State) (c : Nat) (x : Port) : (s.setPort c x).dieKernels = s.dieKernels := rfl
@[simp] theorem State.setPort_unseals (s : State) (c : Nat) (x : Port) : (s.setPort c x).unseals = s.unseals := rfl
@[simp] theorem State.setPort_svcIn (s : State) (c : Nat) (x : Port) : (s.setPort c x).svcIn = s.svcIn := rfl
@[simp] theorem State.setPort_svcOut (s : State) (c : Nat) (x : Port) : (s.setPort c x).svcOut = s.svcOut := rfl
@[simp] theorem State.setPort_mgmt (s : State) (c : Nat) (x : Port) : (s.setPort c x).mgmt = s.mgmt := rfl

@[simp] theorem State.setCxl_clock (s : State) (c : Nat) (x : CxlPort) : (s.setCxl c x).clock = s.clock := rfl
@[simp] theorem State.setCxl_inputs (s : State) (c : Nat) (x : CxlPort) : (s.setCxl c x).inputs = s.inputs := rfl
@[simp] theorem State.setCxl_cur (s : State) (c : Nat) (x : CxlPort) : (s.setCxl c x).cur = s.cur := rfl
@[simp] theorem State.setCxl_curSeq (s : State) (c : Nat) (x : CxlPort) : (s.setCxl c x).curSeq = s.curSeq := rfl
@[simp] theorem State.setCxl_mem (s : State) (c : Nat) (x : CxlPort) : (s.setCxl c x).mem = s.mem := rfl
@[simp] theorem State.setCxl_dir (s : State) (c : Nat) (x : CxlPort) : (s.setCxl c x).dir = s.dir := rfl
@[simp] theorem State.setCxl_poison (s : State) (c : Nat) (x : CxlPort) : (s.setCxl c x).poison = s.poison := rfl
@[simp] theorem State.setCxl_upsets (s : State) (c : Nat) (x : CxlPort) : (s.setCxl c x).upsets = s.upsets := rfl
@[simp] theorem State.setCxl_memStacks (s : State) (c : Nat) (x : CxlPort) : (s.setCxl c x).memStacks = s.memStacks := rfl
@[simp] theorem State.setCxl_images (s : State) (c : Nat) (x : CxlPort) : (s.setCxl c x).images = s.images := rfl
@[simp] theorem State.setCxl_thaws (s : State) (c : Nat) (x : CxlPort) : (s.setCxl c x).thaws = s.thaws := rfl
@[simp] theorem State.setCxl_frosting (s : State) (c : Nat) (x : CxlPort) : (s.setCxl c x).frosting = s.frosting := rfl
@[simp] theorem State.setCxl_releases (s : State) (c : Nat) (x : CxlPort) : (s.setCxl c x).releases = s.releases := rfl
@[simp] theorem State.setCxl_homeQ (s : State) (c : Nat) (x : CxlPort) : (s.setCxl c x).homeQ = s.homeQ := rfl
@[simp] theorem State.setCxl_feQ (s : State) (c : Nat) (x : CxlPort) : (s.setCxl c x).feQ = s.feQ := rfl
@[simp] theorem State.setCxl_hmWrites (s : State) (c : Nat) (x : CxlPort) : (s.setCxl c x).hmWrites = s.hmWrites := rfl
@[simp] theorem State.setCxl_hosts (s : State) (c : Nat) (x : CxlPort) : (s.setCxl c x).hosts = s.hosts := rfl
@[simp] theorem State.setCxl_misses (s : State) (c : Nat) (x : CxlPort) : (s.setCxl c x).misses = s.misses := rfl
@[simp] theorem State.setCxl_fr (s : State) (c : Nat) (x : CxlPort) : (s.setCxl c x).fr = s.fr := rfl
@[simp] theorem State.setCxl_hfq (s : State) (c : Nat) (x : CxlPort) : (s.setCxl c x).hfq = s.hfq := rfl
@[simp] theorem State.setCxl_evq (s : State) (c : Nat) (x : CxlPort) : (s.setCxl c x).evq = s.evq := rfl
@[simp] theorem State.setCxl_seqNo (s : State) (c : Nat) (x : CxlPort) : (s.setCxl c x).seqNo = s.seqNo := rfl
@[simp] theorem State.setCxl_ctxs (s : State) (c : Nat) (x : CxlPort) : (s.setCxl c x).ctxs = s.ctxs := rfl
@[simp] theorem State.setCxl_worlds (s : State) (c : Nat) (x : CxlPort) : (s.setCxl c x).worlds = s.worlds := rfl
@[simp] theorem State.setCxl_evict (s : State) (c : Nat) (x : CxlPort) : (s.setCxl c x).evict = s.evict := rfl
@[simp] theorem State.setCxl_versions (s : State) (c : Nat) (x : CxlPort) : (s.setCxl c x).versions = s.versions := rfl
@[simp] theorem State.setCxl_cores (s : State) (c : Nat) (x : CxlPort) : (s.setCxl c x).cores = s.cores := rfl
@[simp] theorem State.setCxl_groups (s : State) (c : Nat) (x : CxlPort) : (s.setCxl c x).groups = s.groups := rfl
@[simp] theorem State.setCxl_orphans (s : State) (c : Nat) (x : CxlPort) : (s.setCxl c x).orphans = s.orphans := rfl
@[simp] theorem State.setCxl_teams (s : State) (c : Nat) (x : CxlPort) : (s.setCxl c x).teams = s.teams := rfl
@[simp] theorem State.setCxl_seqs (s : State) (c : Nat) (x : CxlPort) : (s.setCxl c x).seqs = s.seqs := rfl
@[simp] theorem State.setCxl_clusters (s : State) (c : Nat) (x : CxlPort) : (s.setCxl c x).clusters = s.clusters := rfl
@[simp] theorem State.setCxl_scheds (s : State) (c : Nat) (x : CxlPort) : (s.setCxl c x).scheds = s.scheds := rfl
@[simp] theorem State.setCxl_trees (s : State) (c : Nat) (x : CxlPort) : (s.setCxl c x).trees = s.trees := rfl
@[simp] theorem State.setCxl_tlbinvs (s : State) (c : Nat) (x : CxlPort) : (s.setCxl c x).tlbinvs = s.tlbinvs := rfl
@[simp] theorem State.setCxl_lost (s : State) (c : Nat) (x : CxlPort) : (s.setCxl c x).lost = s.lost := rfl
@[simp] theorem State.setCxl_resetting (s : State) (c : Nat) (x : CxlPort) : (s.setCxl c x).resetting = s.resetting := rfl
@[simp] theorem State.setCxl_colls (s : State) (c : Nat) (x : CxlPort) : (s.setCxl c x).colls = s.colls := rfl
@[simp] theorem State.setCxl_ports (s : State) (c : Nat) (x : CxlPort) : (s.setCxl c x).ports = s.ports := rfl
@[simp] theorem State.setCxl_sent (s : State) (c : Nat) (x : CxlPort) : (s.setCxl c x).sent = s.sent := rfl
@[simp] theorem State.setCxl_reps (s : State) (c : Nat) (x : CxlPort) : (s.setCxl c x).reps = s.reps := rfl
@[simp] theorem State.setCxl_dieKernels (s : State) (c : Nat) (x : CxlPort) : (s.setCxl c x).dieKernels = s.dieKernels := rfl
@[simp] theorem State.setCxl_unseals (s : State) (c : Nat) (x : CxlPort) : (s.setCxl c x).unseals = s.unseals := rfl
@[simp] theorem State.setCxl_svcIn (s : State) (c : Nat) (x : CxlPort) : (s.setCxl c x).svcIn = s.svcIn := rfl
@[simp] theorem State.setCxl_svcOut (s : State) (c : Nat) (x : CxlPort) : (s.setCxl c x).svcOut = s.svcOut := rfl
@[simp] theorem State.setCxl_mgmt (s : State) (c : Nat) (x : CxlPort) : (s.setCxl c x).mgmt = s.mgmt := rfl

@[simp] theorem State.setSeq_clock (s : State) (c : Nat) (x : Seq) : (s.setSeq c x).clock = s.clock := rfl
@[simp] theorem State.setSeq_inputs (s : State) (c : Nat) (x : Seq) : (s.setSeq c x).inputs = s.inputs := rfl
@[simp] theorem State.setSeq_cur (s : State) (c : Nat) (x : Seq) : (s.setSeq c x).cur = s.cur := rfl
@[simp] theorem State.setSeq_curSeq (s : State) (c : Nat) (x : Seq) : (s.setSeq c x).curSeq = s.curSeq := rfl
@[simp] theorem State.setSeq_mem (s : State) (c : Nat) (x : Seq) : (s.setSeq c x).mem = s.mem := rfl
@[simp] theorem State.setSeq_dir (s : State) (c : Nat) (x : Seq) : (s.setSeq c x).dir = s.dir := rfl
@[simp] theorem State.setSeq_poison (s : State) (c : Nat) (x : Seq) : (s.setSeq c x).poison = s.poison := rfl
@[simp] theorem State.setSeq_upsets (s : State) (c : Nat) (x : Seq) : (s.setSeq c x).upsets = s.upsets := rfl
@[simp] theorem State.setSeq_memStacks (s : State) (c : Nat) (x : Seq) : (s.setSeq c x).memStacks = s.memStacks := rfl
@[simp] theorem State.setSeq_images (s : State) (c : Nat) (x : Seq) : (s.setSeq c x).images = s.images := rfl
@[simp] theorem State.setSeq_thaws (s : State) (c : Nat) (x : Seq) : (s.setSeq c x).thaws = s.thaws := rfl
@[simp] theorem State.setSeq_frosting (s : State) (c : Nat) (x : Seq) : (s.setSeq c x).frosting = s.frosting := rfl
@[simp] theorem State.setSeq_releases (s : State) (c : Nat) (x : Seq) : (s.setSeq c x).releases = s.releases := rfl
@[simp] theorem State.setSeq_homeQ (s : State) (c : Nat) (x : Seq) : (s.setSeq c x).homeQ = s.homeQ := rfl
@[simp] theorem State.setSeq_feQ (s : State) (c : Nat) (x : Seq) : (s.setSeq c x).feQ = s.feQ := rfl
@[simp] theorem State.setSeq_hmWrites (s : State) (c : Nat) (x : Seq) : (s.setSeq c x).hmWrites = s.hmWrites := rfl
@[simp] theorem State.setSeq_hosts (s : State) (c : Nat) (x : Seq) : (s.setSeq c x).hosts = s.hosts := rfl
@[simp] theorem State.setSeq_misses (s : State) (c : Nat) (x : Seq) : (s.setSeq c x).misses = s.misses := rfl
@[simp] theorem State.setSeq_fr (s : State) (c : Nat) (x : Seq) : (s.setSeq c x).fr = s.fr := rfl
@[simp] theorem State.setSeq_hfq (s : State) (c : Nat) (x : Seq) : (s.setSeq c x).hfq = s.hfq := rfl
@[simp] theorem State.setSeq_evq (s : State) (c : Nat) (x : Seq) : (s.setSeq c x).evq = s.evq := rfl
@[simp] theorem State.setSeq_seqNo (s : State) (c : Nat) (x : Seq) : (s.setSeq c x).seqNo = s.seqNo := rfl
@[simp] theorem State.setSeq_ctxs (s : State) (c : Nat) (x : Seq) : (s.setSeq c x).ctxs = s.ctxs := rfl
@[simp] theorem State.setSeq_worlds (s : State) (c : Nat) (x : Seq) : (s.setSeq c x).worlds = s.worlds := rfl
@[simp] theorem State.setSeq_evict (s : State) (c : Nat) (x : Seq) : (s.setSeq c x).evict = s.evict := rfl
@[simp] theorem State.setSeq_versions (s : State) (c : Nat) (x : Seq) : (s.setSeq c x).versions = s.versions := rfl
@[simp] theorem State.setSeq_cores (s : State) (c : Nat) (x : Seq) : (s.setSeq c x).cores = s.cores := rfl
@[simp] theorem State.setSeq_groups (s : State) (c : Nat) (x : Seq) : (s.setSeq c x).groups = s.groups := rfl
@[simp] theorem State.setSeq_orphans (s : State) (c : Nat) (x : Seq) : (s.setSeq c x).orphans = s.orphans := rfl
@[simp] theorem State.setSeq_teams (s : State) (c : Nat) (x : Seq) : (s.setSeq c x).teams = s.teams := rfl
@[simp] theorem State.setSeq_clusters (s : State) (c : Nat) (x : Seq) : (s.setSeq c x).clusters = s.clusters := rfl
@[simp] theorem State.setSeq_scheds (s : State) (c : Nat) (x : Seq) : (s.setSeq c x).scheds = s.scheds := rfl
@[simp] theorem State.setSeq_trees (s : State) (c : Nat) (x : Seq) : (s.setSeq c x).trees = s.trees := rfl
@[simp] theorem State.setSeq_tlbinvs (s : State) (c : Nat) (x : Seq) : (s.setSeq c x).tlbinvs = s.tlbinvs := rfl
@[simp] theorem State.setSeq_lost (s : State) (c : Nat) (x : Seq) : (s.setSeq c x).lost = s.lost := rfl
@[simp] theorem State.setSeq_resetting (s : State) (c : Nat) (x : Seq) : (s.setSeq c x).resetting = s.resetting := rfl
@[simp] theorem State.setSeq_colls (s : State) (c : Nat) (x : Seq) : (s.setSeq c x).colls = s.colls := rfl
@[simp] theorem State.setSeq_ports (s : State) (c : Nat) (x : Seq) : (s.setSeq c x).ports = s.ports := rfl
@[simp] theorem State.setSeq_sent (s : State) (c : Nat) (x : Seq) : (s.setSeq c x).sent = s.sent := rfl
@[simp] theorem State.setSeq_reps (s : State) (c : Nat) (x : Seq) : (s.setSeq c x).reps = s.reps := rfl
@[simp] theorem State.setSeq_cxl (s : State) (c : Nat) (x : Seq) : (s.setSeq c x).cxl = s.cxl := rfl
@[simp] theorem State.setSeq_dieKernels (s : State) (c : Nat) (x : Seq) : (s.setSeq c x).dieKernels = s.dieKernels := rfl
@[simp] theorem State.setSeq_unseals (s : State) (c : Nat) (x : Seq) : (s.setSeq c x).unseals = s.unseals := rfl
@[simp] theorem State.setSeq_svcIn (s : State) (c : Nat) (x : Seq) : (s.setSeq c x).svcIn = s.svcIn := rfl
@[simp] theorem State.setSeq_svcOut (s : State) (c : Nat) (x : Seq) : (s.setSeq c x).svcOut = s.svcOut := rfl
@[simp] theorem State.setSeq_mgmt (s : State) (c : Nat) (x : Seq) : (s.setSeq c x).mgmt = s.mgmt := rfl

@[simp] theorem State.setGroup_clock (s : State) (c : Nat) (x : Group) : (s.setGroup c x).clock = s.clock := rfl
@[simp] theorem State.setGroup_inputs (s : State) (c : Nat) (x : Group) : (s.setGroup c x).inputs = s.inputs := rfl
@[simp] theorem State.setGroup_cur (s : State) (c : Nat) (x : Group) : (s.setGroup c x).cur = s.cur := rfl
@[simp] theorem State.setGroup_curSeq (s : State) (c : Nat) (x : Group) : (s.setGroup c x).curSeq = s.curSeq := rfl
@[simp] theorem State.setGroup_mem (s : State) (c : Nat) (x : Group) : (s.setGroup c x).mem = s.mem := rfl
@[simp] theorem State.setGroup_dir (s : State) (c : Nat) (x : Group) : (s.setGroup c x).dir = s.dir := rfl
@[simp] theorem State.setGroup_poison (s : State) (c : Nat) (x : Group) : (s.setGroup c x).poison = s.poison := rfl
@[simp] theorem State.setGroup_upsets (s : State) (c : Nat) (x : Group) : (s.setGroup c x).upsets = s.upsets := rfl
@[simp] theorem State.setGroup_memStacks (s : State) (c : Nat) (x : Group) : (s.setGroup c x).memStacks = s.memStacks := rfl
@[simp] theorem State.setGroup_images (s : State) (c : Nat) (x : Group) : (s.setGroup c x).images = s.images := rfl
@[simp] theorem State.setGroup_thaws (s : State) (c : Nat) (x : Group) : (s.setGroup c x).thaws = s.thaws := rfl
@[simp] theorem State.setGroup_frosting (s : State) (c : Nat) (x : Group) : (s.setGroup c x).frosting = s.frosting := rfl
@[simp] theorem State.setGroup_releases (s : State) (c : Nat) (x : Group) : (s.setGroup c x).releases = s.releases := rfl
@[simp] theorem State.setGroup_homeQ (s : State) (c : Nat) (x : Group) : (s.setGroup c x).homeQ = s.homeQ := rfl
@[simp] theorem State.setGroup_feQ (s : State) (c : Nat) (x : Group) : (s.setGroup c x).feQ = s.feQ := rfl
@[simp] theorem State.setGroup_hmWrites (s : State) (c : Nat) (x : Group) : (s.setGroup c x).hmWrites = s.hmWrites := rfl
@[simp] theorem State.setGroup_hosts (s : State) (c : Nat) (x : Group) : (s.setGroup c x).hosts = s.hosts := rfl
@[simp] theorem State.setGroup_misses (s : State) (c : Nat) (x : Group) : (s.setGroup c x).misses = s.misses := rfl
@[simp] theorem State.setGroup_fr (s : State) (c : Nat) (x : Group) : (s.setGroup c x).fr = s.fr := rfl
@[simp] theorem State.setGroup_hfq (s : State) (c : Nat) (x : Group) : (s.setGroup c x).hfq = s.hfq := rfl
@[simp] theorem State.setGroup_evq (s : State) (c : Nat) (x : Group) : (s.setGroup c x).evq = s.evq := rfl
@[simp] theorem State.setGroup_seqNo (s : State) (c : Nat) (x : Group) : (s.setGroup c x).seqNo = s.seqNo := rfl
@[simp] theorem State.setGroup_ctxs (s : State) (c : Nat) (x : Group) : (s.setGroup c x).ctxs = s.ctxs := rfl
@[simp] theorem State.setGroup_worlds (s : State) (c : Nat) (x : Group) : (s.setGroup c x).worlds = s.worlds := rfl
@[simp] theorem State.setGroup_evict (s : State) (c : Nat) (x : Group) : (s.setGroup c x).evict = s.evict := rfl
@[simp] theorem State.setGroup_versions (s : State) (c : Nat) (x : Group) : (s.setGroup c x).versions = s.versions := rfl
@[simp] theorem State.setGroup_cores (s : State) (c : Nat) (x : Group) : (s.setGroup c x).cores = s.cores := rfl
@[simp] theorem State.setGroup_orphans (s : State) (c : Nat) (x : Group) : (s.setGroup c x).orphans = s.orphans := rfl
@[simp] theorem State.setGroup_teams (s : State) (c : Nat) (x : Group) : (s.setGroup c x).teams = s.teams := rfl
@[simp] theorem State.setGroup_seqs (s : State) (c : Nat) (x : Group) : (s.setGroup c x).seqs = s.seqs := rfl
@[simp] theorem State.setGroup_clusters (s : State) (c : Nat) (x : Group) : (s.setGroup c x).clusters = s.clusters := rfl
@[simp] theorem State.setGroup_scheds (s : State) (c : Nat) (x : Group) : (s.setGroup c x).scheds = s.scheds := rfl
@[simp] theorem State.setGroup_trees (s : State) (c : Nat) (x : Group) : (s.setGroup c x).trees = s.trees := rfl
@[simp] theorem State.setGroup_tlbinvs (s : State) (c : Nat) (x : Group) : (s.setGroup c x).tlbinvs = s.tlbinvs := rfl
@[simp] theorem State.setGroup_lost (s : State) (c : Nat) (x : Group) : (s.setGroup c x).lost = s.lost := rfl
@[simp] theorem State.setGroup_resetting (s : State) (c : Nat) (x : Group) : (s.setGroup c x).resetting = s.resetting := rfl
@[simp] theorem State.setGroup_colls (s : State) (c : Nat) (x : Group) : (s.setGroup c x).colls = s.colls := rfl
@[simp] theorem State.setGroup_ports (s : State) (c : Nat) (x : Group) : (s.setGroup c x).ports = s.ports := rfl
@[simp] theorem State.setGroup_sent (s : State) (c : Nat) (x : Group) : (s.setGroup c x).sent = s.sent := rfl
@[simp] theorem State.setGroup_reps (s : State) (c : Nat) (x : Group) : (s.setGroup c x).reps = s.reps := rfl
@[simp] theorem State.setGroup_cxl (s : State) (c : Nat) (x : Group) : (s.setGroup c x).cxl = s.cxl := rfl
@[simp] theorem State.setGroup_dieKernels (s : State) (c : Nat) (x : Group) : (s.setGroup c x).dieKernels = s.dieKernels := rfl
@[simp] theorem State.setGroup_unseals (s : State) (c : Nat) (x : Group) : (s.setGroup c x).unseals = s.unseals := rfl
@[simp] theorem State.setGroup_svcIn (s : State) (c : Nat) (x : Group) : (s.setGroup c x).svcIn = s.svcIn := rfl
@[simp] theorem State.setGroup_svcOut (s : State) (c : Nat) (x : Group) : (s.setGroup c x).svcOut = s.svcOut := rfl
@[simp] theorem State.setGroup_mgmt (s : State) (c : Nat) (x : Group) : (s.setGroup c x).mgmt = s.mgmt := rfl

@[simp] theorem State.setTeam_clock (s : State) (c : Nat) (x : Team) : (s.setTeam c x).clock = s.clock := rfl
@[simp] theorem State.setTeam_inputs (s : State) (c : Nat) (x : Team) : (s.setTeam c x).inputs = s.inputs := rfl
@[simp] theorem State.setTeam_cur (s : State) (c : Nat) (x : Team) : (s.setTeam c x).cur = s.cur := rfl
@[simp] theorem State.setTeam_curSeq (s : State) (c : Nat) (x : Team) : (s.setTeam c x).curSeq = s.curSeq := rfl
@[simp] theorem State.setTeam_mem (s : State) (c : Nat) (x : Team) : (s.setTeam c x).mem = s.mem := rfl
@[simp] theorem State.setTeam_dir (s : State) (c : Nat) (x : Team) : (s.setTeam c x).dir = s.dir := rfl
@[simp] theorem State.setTeam_poison (s : State) (c : Nat) (x : Team) : (s.setTeam c x).poison = s.poison := rfl
@[simp] theorem State.setTeam_upsets (s : State) (c : Nat) (x : Team) : (s.setTeam c x).upsets = s.upsets := rfl
@[simp] theorem State.setTeam_memStacks (s : State) (c : Nat) (x : Team) : (s.setTeam c x).memStacks = s.memStacks := rfl
@[simp] theorem State.setTeam_images (s : State) (c : Nat) (x : Team) : (s.setTeam c x).images = s.images := rfl
@[simp] theorem State.setTeam_thaws (s : State) (c : Nat) (x : Team) : (s.setTeam c x).thaws = s.thaws := rfl
@[simp] theorem State.setTeam_frosting (s : State) (c : Nat) (x : Team) : (s.setTeam c x).frosting = s.frosting := rfl
@[simp] theorem State.setTeam_releases (s : State) (c : Nat) (x : Team) : (s.setTeam c x).releases = s.releases := rfl
@[simp] theorem State.setTeam_homeQ (s : State) (c : Nat) (x : Team) : (s.setTeam c x).homeQ = s.homeQ := rfl
@[simp] theorem State.setTeam_feQ (s : State) (c : Nat) (x : Team) : (s.setTeam c x).feQ = s.feQ := rfl
@[simp] theorem State.setTeam_hmWrites (s : State) (c : Nat) (x : Team) : (s.setTeam c x).hmWrites = s.hmWrites := rfl
@[simp] theorem State.setTeam_hosts (s : State) (c : Nat) (x : Team) : (s.setTeam c x).hosts = s.hosts := rfl
@[simp] theorem State.setTeam_misses (s : State) (c : Nat) (x : Team) : (s.setTeam c x).misses = s.misses := rfl
@[simp] theorem State.setTeam_fr (s : State) (c : Nat) (x : Team) : (s.setTeam c x).fr = s.fr := rfl
@[simp] theorem State.setTeam_hfq (s : State) (c : Nat) (x : Team) : (s.setTeam c x).hfq = s.hfq := rfl
@[simp] theorem State.setTeam_evq (s : State) (c : Nat) (x : Team) : (s.setTeam c x).evq = s.evq := rfl
@[simp] theorem State.setTeam_seqNo (s : State) (c : Nat) (x : Team) : (s.setTeam c x).seqNo = s.seqNo := rfl
@[simp] theorem State.setTeam_ctxs (s : State) (c : Nat) (x : Team) : (s.setTeam c x).ctxs = s.ctxs := rfl
@[simp] theorem State.setTeam_worlds (s : State) (c : Nat) (x : Team) : (s.setTeam c x).worlds = s.worlds := rfl
@[simp] theorem State.setTeam_evict (s : State) (c : Nat) (x : Team) : (s.setTeam c x).evict = s.evict := rfl
@[simp] theorem State.setTeam_versions (s : State) (c : Nat) (x : Team) : (s.setTeam c x).versions = s.versions := rfl
@[simp] theorem State.setTeam_cores (s : State) (c : Nat) (x : Team) : (s.setTeam c x).cores = s.cores := rfl
@[simp] theorem State.setTeam_groups (s : State) (c : Nat) (x : Team) : (s.setTeam c x).groups = s.groups := rfl
@[simp] theorem State.setTeam_orphans (s : State) (c : Nat) (x : Team) : (s.setTeam c x).orphans = s.orphans := rfl
@[simp] theorem State.setTeam_seqs (s : State) (c : Nat) (x : Team) : (s.setTeam c x).seqs = s.seqs := rfl
@[simp] theorem State.setTeam_clusters (s : State) (c : Nat) (x : Team) : (s.setTeam c x).clusters = s.clusters := rfl
@[simp] theorem State.setTeam_scheds (s : State) (c : Nat) (x : Team) : (s.setTeam c x).scheds = s.scheds := rfl
@[simp] theorem State.setTeam_trees (s : State) (c : Nat) (x : Team) : (s.setTeam c x).trees = s.trees := rfl
@[simp] theorem State.setTeam_tlbinvs (s : State) (c : Nat) (x : Team) : (s.setTeam c x).tlbinvs = s.tlbinvs := rfl
@[simp] theorem State.setTeam_lost (s : State) (c : Nat) (x : Team) : (s.setTeam c x).lost = s.lost := rfl
@[simp] theorem State.setTeam_resetting (s : State) (c : Nat) (x : Team) : (s.setTeam c x).resetting = s.resetting := rfl
@[simp] theorem State.setTeam_colls (s : State) (c : Nat) (x : Team) : (s.setTeam c x).colls = s.colls := rfl
@[simp] theorem State.setTeam_ports (s : State) (c : Nat) (x : Team) : (s.setTeam c x).ports = s.ports := rfl
@[simp] theorem State.setTeam_sent (s : State) (c : Nat) (x : Team) : (s.setTeam c x).sent = s.sent := rfl
@[simp] theorem State.setTeam_reps (s : State) (c : Nat) (x : Team) : (s.setTeam c x).reps = s.reps := rfl
@[simp] theorem State.setTeam_cxl (s : State) (c : Nat) (x : Team) : (s.setTeam c x).cxl = s.cxl := rfl
@[simp] theorem State.setTeam_dieKernels (s : State) (c : Nat) (x : Team) : (s.setTeam c x).dieKernels = s.dieKernels := rfl
@[simp] theorem State.setTeam_unseals (s : State) (c : Nat) (x : Team) : (s.setTeam c x).unseals = s.unseals := rfl
@[simp] theorem State.setTeam_svcIn (s : State) (c : Nat) (x : Team) : (s.setTeam c x).svcIn = s.svcIn := rfl
@[simp] theorem State.setTeam_svcOut (s : State) (c : Nat) (x : Team) : (s.setTeam c x).svcOut = s.svcOut := rfl
@[simp] theorem State.setTeam_mgmt (s : State) (c : Nat) (x : Team) : (s.setTeam c x).mgmt = s.mgmt := rfl

@[simp] theorem State.setCtx_clock (s : State) (c : Nat) (x : Ctx) : (s.setCtx c x).clock = s.clock := rfl
@[simp] theorem State.setCtx_inputs (s : State) (c : Nat) (x : Ctx) : (s.setCtx c x).inputs = s.inputs := rfl
@[simp] theorem State.setCtx_cur (s : State) (c : Nat) (x : Ctx) : (s.setCtx c x).cur = s.cur := rfl
@[simp] theorem State.setCtx_curSeq (s : State) (c : Nat) (x : Ctx) : (s.setCtx c x).curSeq = s.curSeq := rfl
@[simp] theorem State.setCtx_mem (s : State) (c : Nat) (x : Ctx) : (s.setCtx c x).mem = s.mem := rfl
@[simp] theorem State.setCtx_dir (s : State) (c : Nat) (x : Ctx) : (s.setCtx c x).dir = s.dir := rfl
@[simp] theorem State.setCtx_poison (s : State) (c : Nat) (x : Ctx) : (s.setCtx c x).poison = s.poison := rfl
@[simp] theorem State.setCtx_upsets (s : State) (c : Nat) (x : Ctx) : (s.setCtx c x).upsets = s.upsets := rfl
@[simp] theorem State.setCtx_memStacks (s : State) (c : Nat) (x : Ctx) : (s.setCtx c x).memStacks = s.memStacks := rfl
@[simp] theorem State.setCtx_images (s : State) (c : Nat) (x : Ctx) : (s.setCtx c x).images = s.images := rfl
@[simp] theorem State.setCtx_thaws (s : State) (c : Nat) (x : Ctx) : (s.setCtx c x).thaws = s.thaws := rfl
@[simp] theorem State.setCtx_frosting (s : State) (c : Nat) (x : Ctx) : (s.setCtx c x).frosting = s.frosting := rfl
@[simp] theorem State.setCtx_releases (s : State) (c : Nat) (x : Ctx) : (s.setCtx c x).releases = s.releases := rfl
@[simp] theorem State.setCtx_homeQ (s : State) (c : Nat) (x : Ctx) : (s.setCtx c x).homeQ = s.homeQ := rfl
@[simp] theorem State.setCtx_feQ (s : State) (c : Nat) (x : Ctx) : (s.setCtx c x).feQ = s.feQ := rfl
@[simp] theorem State.setCtx_hmWrites (s : State) (c : Nat) (x : Ctx) : (s.setCtx c x).hmWrites = s.hmWrites := rfl
@[simp] theorem State.setCtx_hosts (s : State) (c : Nat) (x : Ctx) : (s.setCtx c x).hosts = s.hosts := rfl
@[simp] theorem State.setCtx_misses (s : State) (c : Nat) (x : Ctx) : (s.setCtx c x).misses = s.misses := rfl
@[simp] theorem State.setCtx_fr (s : State) (c : Nat) (x : Ctx) : (s.setCtx c x).fr = s.fr := rfl
@[simp] theorem State.setCtx_hfq (s : State) (c : Nat) (x : Ctx) : (s.setCtx c x).hfq = s.hfq := rfl
@[simp] theorem State.setCtx_evq (s : State) (c : Nat) (x : Ctx) : (s.setCtx c x).evq = s.evq := rfl
@[simp] theorem State.setCtx_seqNo (s : State) (c : Nat) (x : Ctx) : (s.setCtx c x).seqNo = s.seqNo := rfl
@[simp] theorem State.setCtx_worlds (s : State) (c : Nat) (x : Ctx) : (s.setCtx c x).worlds = s.worlds := rfl
@[simp] theorem State.setCtx_evict (s : State) (c : Nat) (x : Ctx) : (s.setCtx c x).evict = s.evict := rfl
@[simp] theorem State.setCtx_versions (s : State) (c : Nat) (x : Ctx) : (s.setCtx c x).versions = s.versions := rfl
@[simp] theorem State.setCtx_cores (s : State) (c : Nat) (x : Ctx) : (s.setCtx c x).cores = s.cores := rfl
@[simp] theorem State.setCtx_groups (s : State) (c : Nat) (x : Ctx) : (s.setCtx c x).groups = s.groups := rfl
@[simp] theorem State.setCtx_orphans (s : State) (c : Nat) (x : Ctx) : (s.setCtx c x).orphans = s.orphans := rfl
@[simp] theorem State.setCtx_teams (s : State) (c : Nat) (x : Ctx) : (s.setCtx c x).teams = s.teams := rfl
@[simp] theorem State.setCtx_seqs (s : State) (c : Nat) (x : Ctx) : (s.setCtx c x).seqs = s.seqs := rfl
@[simp] theorem State.setCtx_clusters (s : State) (c : Nat) (x : Ctx) : (s.setCtx c x).clusters = s.clusters := rfl
@[simp] theorem State.setCtx_scheds (s : State) (c : Nat) (x : Ctx) : (s.setCtx c x).scheds = s.scheds := rfl
@[simp] theorem State.setCtx_trees (s : State) (c : Nat) (x : Ctx) : (s.setCtx c x).trees = s.trees := rfl
@[simp] theorem State.setCtx_tlbinvs (s : State) (c : Nat) (x : Ctx) : (s.setCtx c x).tlbinvs = s.tlbinvs := rfl
@[simp] theorem State.setCtx_lost (s : State) (c : Nat) (x : Ctx) : (s.setCtx c x).lost = s.lost := rfl
@[simp] theorem State.setCtx_resetting (s : State) (c : Nat) (x : Ctx) : (s.setCtx c x).resetting = s.resetting := rfl
@[simp] theorem State.setCtx_colls (s : State) (c : Nat) (x : Ctx) : (s.setCtx c x).colls = s.colls := rfl
@[simp] theorem State.setCtx_ports (s : State) (c : Nat) (x : Ctx) : (s.setCtx c x).ports = s.ports := rfl
@[simp] theorem State.setCtx_sent (s : State) (c : Nat) (x : Ctx) : (s.setCtx c x).sent = s.sent := rfl
@[simp] theorem State.setCtx_reps (s : State) (c : Nat) (x : Ctx) : (s.setCtx c x).reps = s.reps := rfl
@[simp] theorem State.setCtx_cxl (s : State) (c : Nat) (x : Ctx) : (s.setCtx c x).cxl = s.cxl := rfl
@[simp] theorem State.setCtx_dieKernels (s : State) (c : Nat) (x : Ctx) : (s.setCtx c x).dieKernels = s.dieKernels := rfl
@[simp] theorem State.setCtx_unseals (s : State) (c : Nat) (x : Ctx) : (s.setCtx c x).unseals = s.unseals := rfl
@[simp] theorem State.setCtx_svcIn (s : State) (c : Nat) (x : Ctx) : (s.setCtx c x).svcIn = s.svcIn := rfl
@[simp] theorem State.setCtx_svcOut (s : State) (c : Nat) (x : Ctx) : (s.setCtx c x).svcOut = s.svcOut := rfl
@[simp] theorem State.setCtx_mgmt (s : State) (c : Nat) (x : Ctx) : (s.setCtx c x).mgmt = s.mgmt := rfl

@[simp] theorem State.modGroup_clock (s : State) (c : Nat) (f : Group → Group) : (s.modGroup c f).clock = s.clock := rfl
@[simp] theorem State.modGroup_inputs (s : State) (c : Nat) (f : Group → Group) : (s.modGroup c f).inputs = s.inputs := rfl
@[simp] theorem State.modGroup_cur (s : State) (c : Nat) (f : Group → Group) : (s.modGroup c f).cur = s.cur := rfl
@[simp] theorem State.modGroup_curSeq (s : State) (c : Nat) (f : Group → Group) : (s.modGroup c f).curSeq = s.curSeq := rfl
@[simp] theorem State.modGroup_mem (s : State) (c : Nat) (f : Group → Group) : (s.modGroup c f).mem = s.mem := rfl
@[simp] theorem State.modGroup_dir (s : State) (c : Nat) (f : Group → Group) : (s.modGroup c f).dir = s.dir := rfl
@[simp] theorem State.modGroup_poison (s : State) (c : Nat) (f : Group → Group) : (s.modGroup c f).poison = s.poison := rfl
@[simp] theorem State.modGroup_upsets (s : State) (c : Nat) (f : Group → Group) : (s.modGroup c f).upsets = s.upsets := rfl
@[simp] theorem State.modGroup_memStacks (s : State) (c : Nat) (f : Group → Group) : (s.modGroup c f).memStacks = s.memStacks := rfl
@[simp] theorem State.modGroup_images (s : State) (c : Nat) (f : Group → Group) : (s.modGroup c f).images = s.images := rfl
@[simp] theorem State.modGroup_thaws (s : State) (c : Nat) (f : Group → Group) : (s.modGroup c f).thaws = s.thaws := rfl
@[simp] theorem State.modGroup_frosting (s : State) (c : Nat) (f : Group → Group) : (s.modGroup c f).frosting = s.frosting := rfl
@[simp] theorem State.modGroup_releases (s : State) (c : Nat) (f : Group → Group) : (s.modGroup c f).releases = s.releases := rfl
@[simp] theorem State.modGroup_homeQ (s : State) (c : Nat) (f : Group → Group) : (s.modGroup c f).homeQ = s.homeQ := rfl
@[simp] theorem State.modGroup_feQ (s : State) (c : Nat) (f : Group → Group) : (s.modGroup c f).feQ = s.feQ := rfl
@[simp] theorem State.modGroup_hmWrites (s : State) (c : Nat) (f : Group → Group) : (s.modGroup c f).hmWrites = s.hmWrites := rfl
@[simp] theorem State.modGroup_hosts (s : State) (c : Nat) (f : Group → Group) : (s.modGroup c f).hosts = s.hosts := rfl
@[simp] theorem State.modGroup_misses (s : State) (c : Nat) (f : Group → Group) : (s.modGroup c f).misses = s.misses := rfl
@[simp] theorem State.modGroup_fr (s : State) (c : Nat) (f : Group → Group) : (s.modGroup c f).fr = s.fr := rfl
@[simp] theorem State.modGroup_hfq (s : State) (c : Nat) (f : Group → Group) : (s.modGroup c f).hfq = s.hfq := rfl
@[simp] theorem State.modGroup_evq (s : State) (c : Nat) (f : Group → Group) : (s.modGroup c f).evq = s.evq := rfl
@[simp] theorem State.modGroup_seqNo (s : State) (c : Nat) (f : Group → Group) : (s.modGroup c f).seqNo = s.seqNo := rfl
@[simp] theorem State.modGroup_ctxs (s : State) (c : Nat) (f : Group → Group) : (s.modGroup c f).ctxs = s.ctxs := rfl
@[simp] theorem State.modGroup_worlds (s : State) (c : Nat) (f : Group → Group) : (s.modGroup c f).worlds = s.worlds := rfl
@[simp] theorem State.modGroup_evict (s : State) (c : Nat) (f : Group → Group) : (s.modGroup c f).evict = s.evict := rfl
@[simp] theorem State.modGroup_versions (s : State) (c : Nat) (f : Group → Group) : (s.modGroup c f).versions = s.versions := rfl
@[simp] theorem State.modGroup_cores (s : State) (c : Nat) (f : Group → Group) : (s.modGroup c f).cores = s.cores := rfl
@[simp] theorem State.modGroup_orphans (s : State) (c : Nat) (f : Group → Group) : (s.modGroup c f).orphans = s.orphans := rfl
@[simp] theorem State.modGroup_teams (s : State) (c : Nat) (f : Group → Group) : (s.modGroup c f).teams = s.teams := rfl
@[simp] theorem State.modGroup_seqs (s : State) (c : Nat) (f : Group → Group) : (s.modGroup c f).seqs = s.seqs := rfl
@[simp] theorem State.modGroup_clusters (s : State) (c : Nat) (f : Group → Group) : (s.modGroup c f).clusters = s.clusters := rfl
@[simp] theorem State.modGroup_scheds (s : State) (c : Nat) (f : Group → Group) : (s.modGroup c f).scheds = s.scheds := rfl
@[simp] theorem State.modGroup_trees (s : State) (c : Nat) (f : Group → Group) : (s.modGroup c f).trees = s.trees := rfl
@[simp] theorem State.modGroup_tlbinvs (s : State) (c : Nat) (f : Group → Group) : (s.modGroup c f).tlbinvs = s.tlbinvs := rfl
@[simp] theorem State.modGroup_lost (s : State) (c : Nat) (f : Group → Group) : (s.modGroup c f).lost = s.lost := rfl
@[simp] theorem State.modGroup_resetting (s : State) (c : Nat) (f : Group → Group) : (s.modGroup c f).resetting = s.resetting := rfl
@[simp] theorem State.modGroup_colls (s : State) (c : Nat) (f : Group → Group) : (s.modGroup c f).colls = s.colls := rfl
@[simp] theorem State.modGroup_ports (s : State) (c : Nat) (f : Group → Group) : (s.modGroup c f).ports = s.ports := rfl
@[simp] theorem State.modGroup_sent (s : State) (c : Nat) (f : Group → Group) : (s.modGroup c f).sent = s.sent := rfl
@[simp] theorem State.modGroup_reps (s : State) (c : Nat) (f : Group → Group) : (s.modGroup c f).reps = s.reps := rfl
@[simp] theorem State.modGroup_cxl (s : State) (c : Nat) (f : Group → Group) : (s.modGroup c f).cxl = s.cxl := rfl
@[simp] theorem State.modGroup_dieKernels (s : State) (c : Nat) (f : Group → Group) : (s.modGroup c f).dieKernels = s.dieKernels := rfl
@[simp] theorem State.modGroup_unseals (s : State) (c : Nat) (f : Group → Group) : (s.modGroup c f).unseals = s.unseals := rfl
@[simp] theorem State.modGroup_svcIn (s : State) (c : Nat) (f : Group → Group) : (s.modGroup c f).svcIn = s.svcIn := rfl
@[simp] theorem State.modGroup_svcOut (s : State) (c : Nat) (f : Group → Group) : (s.modGroup c f).svcOut = s.svcOut := rfl
@[simp] theorem State.modGroup_mgmt (s : State) (c : Nat) (f : Group → Group) : (s.modGroup c f).mgmt = s.mgmt := rfl

@[simp] theorem State.modTeam_clock (s : State) (c : Nat) (f : Team → Team) : (s.modTeam c f).clock = s.clock := rfl
@[simp] theorem State.modTeam_inputs (s : State) (c : Nat) (f : Team → Team) : (s.modTeam c f).inputs = s.inputs := rfl
@[simp] theorem State.modTeam_cur (s : State) (c : Nat) (f : Team → Team) : (s.modTeam c f).cur = s.cur := rfl
@[simp] theorem State.modTeam_curSeq (s : State) (c : Nat) (f : Team → Team) : (s.modTeam c f).curSeq = s.curSeq := rfl
@[simp] theorem State.modTeam_mem (s : State) (c : Nat) (f : Team → Team) : (s.modTeam c f).mem = s.mem := rfl
@[simp] theorem State.modTeam_dir (s : State) (c : Nat) (f : Team → Team) : (s.modTeam c f).dir = s.dir := rfl
@[simp] theorem State.modTeam_poison (s : State) (c : Nat) (f : Team → Team) : (s.modTeam c f).poison = s.poison := rfl
@[simp] theorem State.modTeam_upsets (s : State) (c : Nat) (f : Team → Team) : (s.modTeam c f).upsets = s.upsets := rfl
@[simp] theorem State.modTeam_memStacks (s : State) (c : Nat) (f : Team → Team) : (s.modTeam c f).memStacks = s.memStacks := rfl
@[simp] theorem State.modTeam_images (s : State) (c : Nat) (f : Team → Team) : (s.modTeam c f).images = s.images := rfl
@[simp] theorem State.modTeam_thaws (s : State) (c : Nat) (f : Team → Team) : (s.modTeam c f).thaws = s.thaws := rfl
@[simp] theorem State.modTeam_frosting (s : State) (c : Nat) (f : Team → Team) : (s.modTeam c f).frosting = s.frosting := rfl
@[simp] theorem State.modTeam_releases (s : State) (c : Nat) (f : Team → Team) : (s.modTeam c f).releases = s.releases := rfl
@[simp] theorem State.modTeam_homeQ (s : State) (c : Nat) (f : Team → Team) : (s.modTeam c f).homeQ = s.homeQ := rfl
@[simp] theorem State.modTeam_feQ (s : State) (c : Nat) (f : Team → Team) : (s.modTeam c f).feQ = s.feQ := rfl
@[simp] theorem State.modTeam_hmWrites (s : State) (c : Nat) (f : Team → Team) : (s.modTeam c f).hmWrites = s.hmWrites := rfl
@[simp] theorem State.modTeam_hosts (s : State) (c : Nat) (f : Team → Team) : (s.modTeam c f).hosts = s.hosts := rfl
@[simp] theorem State.modTeam_misses (s : State) (c : Nat) (f : Team → Team) : (s.modTeam c f).misses = s.misses := rfl
@[simp] theorem State.modTeam_fr (s : State) (c : Nat) (f : Team → Team) : (s.modTeam c f).fr = s.fr := rfl
@[simp] theorem State.modTeam_hfq (s : State) (c : Nat) (f : Team → Team) : (s.modTeam c f).hfq = s.hfq := rfl
@[simp] theorem State.modTeam_evq (s : State) (c : Nat) (f : Team → Team) : (s.modTeam c f).evq = s.evq := rfl
@[simp] theorem State.modTeam_seqNo (s : State) (c : Nat) (f : Team → Team) : (s.modTeam c f).seqNo = s.seqNo := rfl
@[simp] theorem State.modTeam_ctxs (s : State) (c : Nat) (f : Team → Team) : (s.modTeam c f).ctxs = s.ctxs := rfl
@[simp] theorem State.modTeam_worlds (s : State) (c : Nat) (f : Team → Team) : (s.modTeam c f).worlds = s.worlds := rfl
@[simp] theorem State.modTeam_evict (s : State) (c : Nat) (f : Team → Team) : (s.modTeam c f).evict = s.evict := rfl
@[simp] theorem State.modTeam_versions (s : State) (c : Nat) (f : Team → Team) : (s.modTeam c f).versions = s.versions := rfl
@[simp] theorem State.modTeam_cores (s : State) (c : Nat) (f : Team → Team) : (s.modTeam c f).cores = s.cores := rfl
@[simp] theorem State.modTeam_groups (s : State) (c : Nat) (f : Team → Team) : (s.modTeam c f).groups = s.groups := rfl
@[simp] theorem State.modTeam_orphans (s : State) (c : Nat) (f : Team → Team) : (s.modTeam c f).orphans = s.orphans := rfl
@[simp] theorem State.modTeam_seqs (s : State) (c : Nat) (f : Team → Team) : (s.modTeam c f).seqs = s.seqs := rfl
@[simp] theorem State.modTeam_clusters (s : State) (c : Nat) (f : Team → Team) : (s.modTeam c f).clusters = s.clusters := rfl
@[simp] theorem State.modTeam_scheds (s : State) (c : Nat) (f : Team → Team) : (s.modTeam c f).scheds = s.scheds := rfl
@[simp] theorem State.modTeam_trees (s : State) (c : Nat) (f : Team → Team) : (s.modTeam c f).trees = s.trees := rfl
@[simp] theorem State.modTeam_tlbinvs (s : State) (c : Nat) (f : Team → Team) : (s.modTeam c f).tlbinvs = s.tlbinvs := rfl
@[simp] theorem State.modTeam_lost (s : State) (c : Nat) (f : Team → Team) : (s.modTeam c f).lost = s.lost := rfl
@[simp] theorem State.modTeam_resetting (s : State) (c : Nat) (f : Team → Team) : (s.modTeam c f).resetting = s.resetting := rfl
@[simp] theorem State.modTeam_colls (s : State) (c : Nat) (f : Team → Team) : (s.modTeam c f).colls = s.colls := rfl
@[simp] theorem State.modTeam_ports (s : State) (c : Nat) (f : Team → Team) : (s.modTeam c f).ports = s.ports := rfl
@[simp] theorem State.modTeam_sent (s : State) (c : Nat) (f : Team → Team) : (s.modTeam c f).sent = s.sent := rfl
@[simp] theorem State.modTeam_reps (s : State) (c : Nat) (f : Team → Team) : (s.modTeam c f).reps = s.reps := rfl
@[simp] theorem State.modTeam_cxl (s : State) (c : Nat) (f : Team → Team) : (s.modTeam c f).cxl = s.cxl := rfl
@[simp] theorem State.modTeam_dieKernels (s : State) (c : Nat) (f : Team → Team) : (s.modTeam c f).dieKernels = s.dieKernels := rfl
@[simp] theorem State.modTeam_unseals (s : State) (c : Nat) (f : Team → Team) : (s.modTeam c f).unseals = s.unseals := rfl
@[simp] theorem State.modTeam_svcIn (s : State) (c : Nat) (f : Team → Team) : (s.modTeam c f).svcIn = s.svcIn := rfl
@[simp] theorem State.modTeam_svcOut (s : State) (c : Nat) (f : Team → Team) : (s.modTeam c f).svcOut = s.svcOut := rfl
@[simp] theorem State.modTeam_mgmt (s : State) (c : Nat) (f : Team → Team) : (s.modTeam c f).mgmt = s.mgmt := rfl

@[simp] theorem State.modCtx_clock (s : State) (c : Nat) (f : Ctx → Ctx) : (s.modCtx c f).clock = s.clock := rfl
@[simp] theorem State.modCtx_inputs (s : State) (c : Nat) (f : Ctx → Ctx) : (s.modCtx c f).inputs = s.inputs := rfl
@[simp] theorem State.modCtx_cur (s : State) (c : Nat) (f : Ctx → Ctx) : (s.modCtx c f).cur = s.cur := rfl
@[simp] theorem State.modCtx_curSeq (s : State) (c : Nat) (f : Ctx → Ctx) : (s.modCtx c f).curSeq = s.curSeq := rfl
@[simp] theorem State.modCtx_mem (s : State) (c : Nat) (f : Ctx → Ctx) : (s.modCtx c f).mem = s.mem := rfl
@[simp] theorem State.modCtx_dir (s : State) (c : Nat) (f : Ctx → Ctx) : (s.modCtx c f).dir = s.dir := rfl
@[simp] theorem State.modCtx_poison (s : State) (c : Nat) (f : Ctx → Ctx) : (s.modCtx c f).poison = s.poison := rfl
@[simp] theorem State.modCtx_upsets (s : State) (c : Nat) (f : Ctx → Ctx) : (s.modCtx c f).upsets = s.upsets := rfl
@[simp] theorem State.modCtx_memStacks (s : State) (c : Nat) (f : Ctx → Ctx) : (s.modCtx c f).memStacks = s.memStacks := rfl
@[simp] theorem State.modCtx_images (s : State) (c : Nat) (f : Ctx → Ctx) : (s.modCtx c f).images = s.images := rfl
@[simp] theorem State.modCtx_thaws (s : State) (c : Nat) (f : Ctx → Ctx) : (s.modCtx c f).thaws = s.thaws := rfl
@[simp] theorem State.modCtx_frosting (s : State) (c : Nat) (f : Ctx → Ctx) : (s.modCtx c f).frosting = s.frosting := rfl
@[simp] theorem State.modCtx_releases (s : State) (c : Nat) (f : Ctx → Ctx) : (s.modCtx c f).releases = s.releases := rfl
@[simp] theorem State.modCtx_homeQ (s : State) (c : Nat) (f : Ctx → Ctx) : (s.modCtx c f).homeQ = s.homeQ := rfl
@[simp] theorem State.modCtx_feQ (s : State) (c : Nat) (f : Ctx → Ctx) : (s.modCtx c f).feQ = s.feQ := rfl
@[simp] theorem State.modCtx_hmWrites (s : State) (c : Nat) (f : Ctx → Ctx) : (s.modCtx c f).hmWrites = s.hmWrites := rfl
@[simp] theorem State.modCtx_hosts (s : State) (c : Nat) (f : Ctx → Ctx) : (s.modCtx c f).hosts = s.hosts := rfl
@[simp] theorem State.modCtx_misses (s : State) (c : Nat) (f : Ctx → Ctx) : (s.modCtx c f).misses = s.misses := rfl
@[simp] theorem State.modCtx_fr (s : State) (c : Nat) (f : Ctx → Ctx) : (s.modCtx c f).fr = s.fr := rfl
@[simp] theorem State.modCtx_hfq (s : State) (c : Nat) (f : Ctx → Ctx) : (s.modCtx c f).hfq = s.hfq := rfl
@[simp] theorem State.modCtx_evq (s : State) (c : Nat) (f : Ctx → Ctx) : (s.modCtx c f).evq = s.evq := rfl
@[simp] theorem State.modCtx_seqNo (s : State) (c : Nat) (f : Ctx → Ctx) : (s.modCtx c f).seqNo = s.seqNo := rfl
@[simp] theorem State.modCtx_worlds (s : State) (c : Nat) (f : Ctx → Ctx) : (s.modCtx c f).worlds = s.worlds := rfl
@[simp] theorem State.modCtx_evict (s : State) (c : Nat) (f : Ctx → Ctx) : (s.modCtx c f).evict = s.evict := rfl
@[simp] theorem State.modCtx_versions (s : State) (c : Nat) (f : Ctx → Ctx) : (s.modCtx c f).versions = s.versions := rfl
@[simp] theorem State.modCtx_cores (s : State) (c : Nat) (f : Ctx → Ctx) : (s.modCtx c f).cores = s.cores := rfl
@[simp] theorem State.modCtx_groups (s : State) (c : Nat) (f : Ctx → Ctx) : (s.modCtx c f).groups = s.groups := rfl
@[simp] theorem State.modCtx_orphans (s : State) (c : Nat) (f : Ctx → Ctx) : (s.modCtx c f).orphans = s.orphans := rfl
@[simp] theorem State.modCtx_teams (s : State) (c : Nat) (f : Ctx → Ctx) : (s.modCtx c f).teams = s.teams := rfl
@[simp] theorem State.modCtx_seqs (s : State) (c : Nat) (f : Ctx → Ctx) : (s.modCtx c f).seqs = s.seqs := rfl
@[simp] theorem State.modCtx_clusters (s : State) (c : Nat) (f : Ctx → Ctx) : (s.modCtx c f).clusters = s.clusters := rfl
@[simp] theorem State.modCtx_scheds (s : State) (c : Nat) (f : Ctx → Ctx) : (s.modCtx c f).scheds = s.scheds := rfl
@[simp] theorem State.modCtx_trees (s : State) (c : Nat) (f : Ctx → Ctx) : (s.modCtx c f).trees = s.trees := rfl
@[simp] theorem State.modCtx_tlbinvs (s : State) (c : Nat) (f : Ctx → Ctx) : (s.modCtx c f).tlbinvs = s.tlbinvs := rfl
@[simp] theorem State.modCtx_lost (s : State) (c : Nat) (f : Ctx → Ctx) : (s.modCtx c f).lost = s.lost := rfl
@[simp] theorem State.modCtx_resetting (s : State) (c : Nat) (f : Ctx → Ctx) : (s.modCtx c f).resetting = s.resetting := rfl
@[simp] theorem State.modCtx_colls (s : State) (c : Nat) (f : Ctx → Ctx) : (s.modCtx c f).colls = s.colls := rfl
@[simp] theorem State.modCtx_ports (s : State) (c : Nat) (f : Ctx → Ctx) : (s.modCtx c f).ports = s.ports := rfl
@[simp] theorem State.modCtx_sent (s : State) (c : Nat) (f : Ctx → Ctx) : (s.modCtx c f).sent = s.sent := rfl
@[simp] theorem State.modCtx_reps (s : State) (c : Nat) (f : Ctx → Ctx) : (s.modCtx c f).reps = s.reps := rfl
@[simp] theorem State.modCtx_cxl (s : State) (c : Nat) (f : Ctx → Ctx) : (s.modCtx c f).cxl = s.cxl := rfl
@[simp] theorem State.modCtx_dieKernels (s : State) (c : Nat) (f : Ctx → Ctx) : (s.modCtx c f).dieKernels = s.dieKernels := rfl
@[simp] theorem State.modCtx_unseals (s : State) (c : Nat) (f : Ctx → Ctx) : (s.modCtx c f).unseals = s.unseals := rfl
@[simp] theorem State.modCtx_svcIn (s : State) (c : Nat) (f : Ctx → Ctx) : (s.modCtx c f).svcIn = s.svcIn := rfl
@[simp] theorem State.modCtx_svcOut (s : State) (c : Nat) (f : Ctx → Ctx) : (s.modCtx c f).svcOut = s.svcOut := rfl
@[simp] theorem State.modCtx_mgmt (s : State) (c : Nat) (f : Ctx → Ctx) : (s.modCtx c f).mgmt = s.mgmt := rfl

@[simp] theorem State.coreOf_setCore_same (s : State) (c : Nat) (x : CoreSt) : (s.setCore c x).coreOf c = x := SMap.get_set_same _ _ _ _
@[simp] theorem State.coreOf_setCore_other (s : State) {c j : Nat} (x : CoreSt) (h : j ≠ c) : (s.setCore c x).coreOf j = s.coreOf j :=
  SMap.get_set_other _ _ _ h
@[simp] theorem State.clusterOf_setCluster_same (s : State) (c : Nat) (x : Cluster) : (s.setCluster c x).clusterOf c = x := SMap.get_set_same _ _ _ _
@[simp] theorem State.clusterOf_setCluster_other (s : State) {c j : Nat} (x : Cluster) (h : j ≠ c) : (s.setCluster c x).clusterOf j = s.clusterOf j :=
  SMap.get_set_other _ _ _ h
@[simp] theorem State.stackOf_setStack_same (s : State) (c : Nat) (x : Stack) : (s.setStack c x).stackOf c = x := SMap.get_set_same _ _ _ _
@[simp] theorem State.stackOf_setStack_other (s : State) {c j : Nat} (x : Stack) (h : j ≠ c) : (s.setStack c x).stackOf j = s.stackOf j :=
  SMap.get_set_other _ _ _ h
@[simp] theorem State.dirOf_setDir_same (s : State) (c : Nat) (x : DirEntry) : (s.setDir c x).dirOf c = x := SMap.get_set_same _ _ _ _
@[simp] theorem State.dirOf_setDir_other (s : State) {c j : Nat} (x : DirEntry) (h : j ≠ c) : (s.setDir c x).dirOf j = s.dirOf j :=
  SMap.get_set_other _ _ _ h
@[simp] theorem State.hostOf_setHost_same (s : State) (c : Nat) (x : HostMap) : (s.setHost c x).hostOf c = x := SMap.get_set_same _ _ _ _
@[simp] theorem State.hostOf_setHost_other (s : State) {c j : Nat} (x : HostMap) (h : j ≠ c) : (s.setHost c x).hostOf j = s.hostOf j :=
  SMap.get_set_other _ _ _ h
@[simp] theorem State.portOf_setPort_same (s : State) (c : Nat) (x : Port) : (s.setPort c x).portOf c = x := SMap.get_set_same _ _ _ _
@[simp] theorem State.portOf_setPort_other (s : State) {c j : Nat} (x : Port) (h : j ≠ c) : (s.setPort c x).portOf j = s.portOf j :=
  SMap.get_set_other _ _ _ h
@[simp] theorem State.cxlOf_setCxl_same (s : State) (c : Nat) (x : CxlPort) : (s.setCxl c x).cxlOf c = x := SMap.get_set_same _ _ _ _
@[simp] theorem State.cxlOf_setCxl_other (s : State) {c j : Nat} (x : CxlPort) (h : j ≠ c) : (s.setCxl c x).cxlOf j = s.cxlOf j :=
  SMap.get_set_other _ _ _ h
@[simp] theorem State.seqOf_setSeq_same (s : State) (c : Nat) (x : Seq) : (s.setSeq c x).seqOf c = x := SMap.get_set_same _ _ _ _
@[simp] theorem State.seqOf_setSeq_other (s : State) {c j : Nat} (x : Seq) (h : j ≠ c) : (s.setSeq c x).seqOf j = s.seqOf j :=
  SMap.get_set_other _ _ _ h
@[simp] theorem State.find_setGroup_same (s : State) (c : Nat) (x : Group) : SMap.find? (s.setGroup c x).groups c = some x := SMap.find?_put_same _ _ _
@[simp] theorem State.find_setGroup_other (s : State) {c j : Nat} (x : Group) (h : j ≠ c) : SMap.find? (s.setGroup c x).groups j = SMap.find? s.groups j :=
  SMap.find?_put_other _ _ h
@[simp] theorem State.find_setTeam_same (s : State) (c : Nat) (x : Team) : SMap.find? (s.setTeam c x).teams c = some x := SMap.find?_put_same _ _ _
@[simp] theorem State.find_setTeam_other (s : State) {c j : Nat} (x : Team) (h : j ≠ c) : SMap.find? (s.setTeam c x).teams j = SMap.find? s.teams j :=
  SMap.find?_put_other _ _ h
@[simp] theorem State.find_setCtx_same (s : State) (c : Nat) (x : Ctx) : SMap.find? (s.setCtx c x).ctxs c = some x := SMap.find?_put_same _ _ _
@[simp] theorem State.find_setCtx_other (s : State) {c j : Nat} (x : Ctx) (h : j ≠ c) : SMap.find? (s.setCtx c x).ctxs j = SMap.find? s.ctxs j :=
  SMap.find?_put_other _ _ h

/-! ## A group -/

@[simp] theorem Group.setV_ctx (g : Group) (l r : Nat) (x : Word) : (g.setV l r x).ctx = g.ctx := rfl
@[simp] theorem Group.setV_kid (g : Group) (l r : Nat) (x : Word) : (g.setV l r x).kid = g.kid := rfl
@[simp] theorem Group.setV_team (g : Group) (l r : Nat) (x : Word) : (g.setV l r x).team = g.team := rfl
@[simp] theorem Group.setV_gidx (g : Group) (l r : Nat) (x : Word) : (g.setV l r x).gidx = g.gidx := rfl
@[simp] theorem Group.setV_tidx (g : Group) (l r : Nat) (x : Word) : (g.setV l r x).tidx = g.tidx := rfl
@[simp] theorem Group.setV_width (g : Group) (l r : Nat) (x : Word) : (g.setV l r x).width = g.width := rfl
@[simp] theorem Group.setV_regs (g : Group) (l r : Nat) (x : Word) : (g.setV l r x).regs = g.regs := rfl
@[simp] theorem Group.setV_prio (g : Group) (l r : Nat) (x : Word) : (g.setV l r x).prio = g.prio := rfl
@[simp] theorem Group.setV_spillBytes (g : Group) (l r : Nat) (x : Word) : (g.setV l r x).spillBytes = g.spillBytes := rfl
@[simp] theorem Group.setV_lmask (g : Group) (l r : Nat) (x : Word) : (g.setV l r x).lmask = g.lmask := rfl
@[simp] theorem Group.setV_fmask (g : Group) (l r : Nat) (x : Word) : (g.setV l r x).fmask = g.fmask := rfl
@[simp] theorem Group.setV_s0 (g : Group) (l r : Nat) (x : Word) : (g.setV l r x).s0 = g.s0 := rfl
@[simp] theorem Group.setV_s1 (g : Group) (l r : Nat) (x : Word) : (g.setV l r x).s1 = g.s1 := rfl
@[simp] theorem Group.setV_spill (g : Group) (l r : Nat) (x : Word) : (g.setV l r x).spill = g.spill := rfl
@[simp] theorem Group.setV_rotc (g : Group) (l r : Nat) (x : Word) : (g.setV l r x).rotc = g.rotc := rfl
@[simp] theorem Group.setV_pass (g : Group) (l r : Nat) (x : Word) : (g.setV l r x).pass = g.pass := rfl
@[simp] theorem Group.setV_pslot (g : Group) (l r : Nat) (x : Word) : (g.setV l r x).pslot = g.pslot := rfl
@[simp] theorem Group.setV_sup (g : Group) (l r : Nat) (x : Word) : (g.setV l r x).sup = g.sup := rfl
@[simp] theorem Group.setV_halted (g : Group) (l r : Nat) (x : Word) : (g.setV l r x).halted = g.halted := rfl
@[simp] theorem Group.setV_entryMask (g : Group) (l r : Nat) (x : Word) : (g.setV l r x).entryMask = g.entryMask := rfl
@[simp] theorem Group.setV_trapSlot (g : Group) (l r : Nat) (x : Word) : (g.setV l r x).trapSlot = g.trapSlot := rfl
@[simp] theorem Group.setV_trec (g : Group) (l r : Nat) (x : Word) : (g.setV l r x).trec = g.trec := rfl
@[simp] theorem Group.setV_k0 (g : Group) (l r : Nat) (x : Word) : (g.setV l r x).k0 = g.k0 := rfl
@[simp] theorem Group.setV_k1 (g : Group) (l r : Nat) (x : Word) : (g.setV l r x).k1 = g.k1 := rfl
@[simp] theorem Group.setV_c0 (g : Group) (l r : Nat) (x : Word) : (g.setV l r x).c0 = g.c0 := rfl
@[simp] theorem Group.setV_c1 (g : Group) (l r : Nat) (x : Word) : (g.setV l r x).c1 = g.c1 := rfl
@[simp] theorem Group.setV_cstat (g : Group) (l r : Nat) (x : Word) : (g.setV l r x).cstat = g.cstat := rfl
@[simp] theorem Group.setV_sysRest (g : Group) (l r : Nat) (x : Word) : (g.setV l r x).sysRest = g.sysRest := rfl
@[simp] theorem Group.setV_held (g : Group) (l r : Nat) (x : Word) : (g.setV l r x).held = g.held := rfl
@[simp] theorem Group.setV_fpark (g : Group) (l r : Nat) (x : Word) : (g.setV l r x).fpark = g.fpark := rfl
@[simp] theorem Group.setV_seqs (g : Group) (l r : Nat) (x : Word) : (g.setV l r x).seqs = g.seqs := rfl
@[simp] theorem Group.setV_kept (g : Group) (l r : Nat) (x : Word) : (g.setV l r x).kept = g.kept := rfl
@[simp] theorem Group.setV_turn (g : Group) (l r : Nat) (x : Word) : (g.setV l r x).turn = g.turn := rfl
@[simp] theorem Group.setV_xregs (g : Group) (l r : Nat) (x : Word) : (g.setV l r x).xregs = g.xregs := rfl
@[simp] theorem Group.setV_preds (g : Group) (l r : Nat) (x : Word) : (g.setV l r x).preds = g.preds := rfl
@[simp] theorem Group.setV_sregs (g : Group) (l r : Nat) (x : Word) : (g.setV l r x).sregs = g.sregs := rfl
@[simp] theorem Group.setV_ssplit (g : Group) (l r : Nat) (x : Word) : (g.setV l r x).ssplit = g.ssplit := rfl
@[simp] theorem Group.setV_kregs (g : Group) (l r : Nat) (x : Word) : (g.setV l r x).kregs = g.kregs := rfl
@[simp] theorem Group.setV_fpcsr (g : Group) (l r : Nat) (x : Word) : (g.setV l r x).fpcsr = g.fpcsr := rfl
@[simp] theorem Group.setV_srseed (g : Group) (l r : Nat) (x : Word) : (g.setV l r x).srseed = g.srseed := rfl
@[simp] theorem Group.setV_srstate (g : Group) (l r : Nat) (x : Word) : (g.setV l r x).srstate = g.srstate := rfl
@[simp] theorem Group.setV_queues (g : Group) (l r : Nat) (x : Word) : (g.setV l r x).queues = g.queues := rfl
@[simp] theorem Group.setV_qpopsel (g : Group) (l r : Nat) (x : Word) : (g.setV l r x).qpopsel = g.qpopsel := rfl
@[simp] theorem Group.setV_qentsel (g : Group) (l r : Nat) (x : Word) : (g.setV l r x).qentsel = g.qentsel := rfl
@[simp] theorem Group.setV_region (g : Group) (l r : Nat) (x : Word) : (g.setV l r x).region = g.region := rfl
@[simp] theorem Group.setV_counters (g : Group) (l r : Nat) (x : Word) : (g.setV l r x).counters = g.counters := rfl
@[simp] theorem Group.setV_pending (g : Group) (l r : Nat) (x : Word) : (g.setV l r x).pending = g.pending := rfl
@[simp] theorem Group.setV_sq (g : Group) (l r : Nat) (x : Word) : (g.setV l r x).sq = g.sq := rfl
@[simp] theorem Group.setV_waitst (g : Group) (l r : Nat) (x : Word) : (g.setV l r x).waitst = g.waitst := rfl
@[simp] theorem Group.setV_wp (g : Group) (l r : Nat) (x : Word) : (g.setV l r x).wp = g.wp := rfl
@[simp] theorem Group.setV_tp (g : Group) (l r : Nat) (x : Word) : (g.setV l r x).tp = g.tp := rfl
@[simp] theorem Group.setV_bound (g : Group) (l r : Nat) (x : Word) : (g.setV l r x).bound = g.bound := rfl
@[simp] theorem Group.setV_bhdr (g : Group) (l r : Nat) (x : Word) : (g.setV l r x).bhdr = g.bhdr := rfl
@[simp] theorem Group.setV_blogn (g : Group) (l r : Nat) (x : Word) : (g.setV l r x).blogn = g.blogn := rfl
@[simp] theorem Group.setV_gsavep (g : Group) (l r : Nat) (x : Word) : (g.setV l r x).gsavep = g.gsavep := rfl
@[simp] theorem Group.setV_leaving (g : Group) (l r : Nat) (x : Word) : (g.setV l r x).leaving = g.leaving := rfl
@[simp] theorem Group.setV_clause (g : Group) (l r : Nat) (x : Word) : (g.setV l r x).clause = g.clause := rfl

@[simp] theorem Group.setX_ctx (g : Group) (l n : Nat) (x : Word) : (g.setX l n x).ctx = g.ctx := rfl
@[simp] theorem Group.setX_kid (g : Group) (l n : Nat) (x : Word) : (g.setX l n x).kid = g.kid := rfl
@[simp] theorem Group.setX_team (g : Group) (l n : Nat) (x : Word) : (g.setX l n x).team = g.team := rfl
@[simp] theorem Group.setX_gidx (g : Group) (l n : Nat) (x : Word) : (g.setX l n x).gidx = g.gidx := rfl
@[simp] theorem Group.setX_tidx (g : Group) (l n : Nat) (x : Word) : (g.setX l n x).tidx = g.tidx := rfl
@[simp] theorem Group.setX_width (g : Group) (l n : Nat) (x : Word) : (g.setX l n x).width = g.width := rfl
@[simp] theorem Group.setX_regs (g : Group) (l n : Nat) (x : Word) : (g.setX l n x).regs = g.regs := rfl
@[simp] theorem Group.setX_prio (g : Group) (l n : Nat) (x : Word) : (g.setX l n x).prio = g.prio := rfl
@[simp] theorem Group.setX_spillBytes (g : Group) (l n : Nat) (x : Word) : (g.setX l n x).spillBytes = g.spillBytes := rfl
@[simp] theorem Group.setX_lmask (g : Group) (l n : Nat) (x : Word) : (g.setX l n x).lmask = g.lmask := rfl
@[simp] theorem Group.setX_fmask (g : Group) (l n : Nat) (x : Word) : (g.setX l n x).fmask = g.fmask := rfl
@[simp] theorem Group.setX_s0 (g : Group) (l n : Nat) (x : Word) : (g.setX l n x).s0 = g.s0 := rfl
@[simp] theorem Group.setX_s1 (g : Group) (l n : Nat) (x : Word) : (g.setX l n x).s1 = g.s1 := rfl
@[simp] theorem Group.setX_spill (g : Group) (l n : Nat) (x : Word) : (g.setX l n x).spill = g.spill := rfl
@[simp] theorem Group.setX_rotc (g : Group) (l n : Nat) (x : Word) : (g.setX l n x).rotc = g.rotc := rfl
@[simp] theorem Group.setX_pass (g : Group) (l n : Nat) (x : Word) : (g.setX l n x).pass = g.pass := rfl
@[simp] theorem Group.setX_pslot (g : Group) (l n : Nat) (x : Word) : (g.setX l n x).pslot = g.pslot := rfl
@[simp] theorem Group.setX_sup (g : Group) (l n : Nat) (x : Word) : (g.setX l n x).sup = g.sup := rfl
@[simp] theorem Group.setX_halted (g : Group) (l n : Nat) (x : Word) : (g.setX l n x).halted = g.halted := rfl
@[simp] theorem Group.setX_entryMask (g : Group) (l n : Nat) (x : Word) : (g.setX l n x).entryMask = g.entryMask := rfl
@[simp] theorem Group.setX_trapSlot (g : Group) (l n : Nat) (x : Word) : (g.setX l n x).trapSlot = g.trapSlot := rfl
@[simp] theorem Group.setX_trec (g : Group) (l n : Nat) (x : Word) : (g.setX l n x).trec = g.trec := rfl
@[simp] theorem Group.setX_k0 (g : Group) (l n : Nat) (x : Word) : (g.setX l n x).k0 = g.k0 := rfl
@[simp] theorem Group.setX_k1 (g : Group) (l n : Nat) (x : Word) : (g.setX l n x).k1 = g.k1 := rfl
@[simp] theorem Group.setX_c0 (g : Group) (l n : Nat) (x : Word) : (g.setX l n x).c0 = g.c0 := rfl
@[simp] theorem Group.setX_c1 (g : Group) (l n : Nat) (x : Word) : (g.setX l n x).c1 = g.c1 := rfl
@[simp] theorem Group.setX_cstat (g : Group) (l n : Nat) (x : Word) : (g.setX l n x).cstat = g.cstat := rfl
@[simp] theorem Group.setX_sysRest (g : Group) (l n : Nat) (x : Word) : (g.setX l n x).sysRest = g.sysRest := rfl
@[simp] theorem Group.setX_held (g : Group) (l n : Nat) (x : Word) : (g.setX l n x).held = g.held := rfl
@[simp] theorem Group.setX_fpark (g : Group) (l n : Nat) (x : Word) : (g.setX l n x).fpark = g.fpark := rfl
@[simp] theorem Group.setX_seqs (g : Group) (l n : Nat) (x : Word) : (g.setX l n x).seqs = g.seqs := rfl
@[simp] theorem Group.setX_kept (g : Group) (l n : Nat) (x : Word) : (g.setX l n x).kept = g.kept := rfl
@[simp] theorem Group.setX_turn (g : Group) (l n : Nat) (x : Word) : (g.setX l n x).turn = g.turn := rfl
@[simp] theorem Group.setX_vregs (g : Group) (l n : Nat) (x : Word) : (g.setX l n x).vregs = g.vregs := rfl
@[simp] theorem Group.setX_preds (g : Group) (l n : Nat) (x : Word) : (g.setX l n x).preds = g.preds := rfl
@[simp] theorem Group.setX_sregs (g : Group) (l n : Nat) (x : Word) : (g.setX l n x).sregs = g.sregs := rfl
@[simp] theorem Group.setX_ssplit (g : Group) (l n : Nat) (x : Word) : (g.setX l n x).ssplit = g.ssplit := rfl
@[simp] theorem Group.setX_kregs (g : Group) (l n : Nat) (x : Word) : (g.setX l n x).kregs = g.kregs := rfl
@[simp] theorem Group.setX_fpcsr (g : Group) (l n : Nat) (x : Word) : (g.setX l n x).fpcsr = g.fpcsr := rfl
@[simp] theorem Group.setX_srseed (g : Group) (l n : Nat) (x : Word) : (g.setX l n x).srseed = g.srseed := rfl
@[simp] theorem Group.setX_srstate (g : Group) (l n : Nat) (x : Word) : (g.setX l n x).srstate = g.srstate := rfl
@[simp] theorem Group.setX_queues (g : Group) (l n : Nat) (x : Word) : (g.setX l n x).queues = g.queues := rfl
@[simp] theorem Group.setX_qpopsel (g : Group) (l n : Nat) (x : Word) : (g.setX l n x).qpopsel = g.qpopsel := rfl
@[simp] theorem Group.setX_qentsel (g : Group) (l n : Nat) (x : Word) : (g.setX l n x).qentsel = g.qentsel := rfl
@[simp] theorem Group.setX_region (g : Group) (l n : Nat) (x : Word) : (g.setX l n x).region = g.region := rfl
@[simp] theorem Group.setX_counters (g : Group) (l n : Nat) (x : Word) : (g.setX l n x).counters = g.counters := rfl
@[simp] theorem Group.setX_pending (g : Group) (l n : Nat) (x : Word) : (g.setX l n x).pending = g.pending := rfl
@[simp] theorem Group.setX_sq (g : Group) (l n : Nat) (x : Word) : (g.setX l n x).sq = g.sq := rfl
@[simp] theorem Group.setX_waitst (g : Group) (l n : Nat) (x : Word) : (g.setX l n x).waitst = g.waitst := rfl
@[simp] theorem Group.setX_wp (g : Group) (l n : Nat) (x : Word) : (g.setX l n x).wp = g.wp := rfl
@[simp] theorem Group.setX_tp (g : Group) (l n : Nat) (x : Word) : (g.setX l n x).tp = g.tp := rfl
@[simp] theorem Group.setX_bound (g : Group) (l n : Nat) (x : Word) : (g.setX l n x).bound = g.bound := rfl
@[simp] theorem Group.setX_bhdr (g : Group) (l n : Nat) (x : Word) : (g.setX l n x).bhdr = g.bhdr := rfl
@[simp] theorem Group.setX_blogn (g : Group) (l n : Nat) (x : Word) : (g.setX l n x).blogn = g.blogn := rfl
@[simp] theorem Group.setX_gsavep (g : Group) (l n : Nat) (x : Word) : (g.setX l n x).gsavep = g.gsavep := rfl
@[simp] theorem Group.setX_leaving (g : Group) (l n : Nat) (x : Word) : (g.setX l n x).leaving = g.leaving := rfl
@[simp] theorem Group.setX_clause (g : Group) (l n : Nat) (x : Word) : (g.setX l n x).clause = g.clause := rfl

@[simp] theorem Group.setP_ctx (g : Group) (n : Nat) (m x : DWord) : (g.setP n m x).ctx = g.ctx := rfl
@[simp] theorem Group.setP_kid (g : Group) (n : Nat) (m x : DWord) : (g.setP n m x).kid = g.kid := rfl
@[simp] theorem Group.setP_team (g : Group) (n : Nat) (m x : DWord) : (g.setP n m x).team = g.team := rfl
@[simp] theorem Group.setP_gidx (g : Group) (n : Nat) (m x : DWord) : (g.setP n m x).gidx = g.gidx := rfl
@[simp] theorem Group.setP_tidx (g : Group) (n : Nat) (m x : DWord) : (g.setP n m x).tidx = g.tidx := rfl
@[simp] theorem Group.setP_width (g : Group) (n : Nat) (m x : DWord) : (g.setP n m x).width = g.width := rfl
@[simp] theorem Group.setP_regs (g : Group) (n : Nat) (m x : DWord) : (g.setP n m x).regs = g.regs := rfl
@[simp] theorem Group.setP_prio (g : Group) (n : Nat) (m x : DWord) : (g.setP n m x).prio = g.prio := rfl
@[simp] theorem Group.setP_spillBytes (g : Group) (n : Nat) (m x : DWord) : (g.setP n m x).spillBytes = g.spillBytes := rfl
@[simp] theorem Group.setP_lmask (g : Group) (n : Nat) (m x : DWord) : (g.setP n m x).lmask = g.lmask := rfl
@[simp] theorem Group.setP_fmask (g : Group) (n : Nat) (m x : DWord) : (g.setP n m x).fmask = g.fmask := rfl
@[simp] theorem Group.setP_s0 (g : Group) (n : Nat) (m x : DWord) : (g.setP n m x).s0 = g.s0 := rfl
@[simp] theorem Group.setP_s1 (g : Group) (n : Nat) (m x : DWord) : (g.setP n m x).s1 = g.s1 := rfl
@[simp] theorem Group.setP_spill (g : Group) (n : Nat) (m x : DWord) : (g.setP n m x).spill = g.spill := rfl
@[simp] theorem Group.setP_rotc (g : Group) (n : Nat) (m x : DWord) : (g.setP n m x).rotc = g.rotc := rfl
@[simp] theorem Group.setP_pass (g : Group) (n : Nat) (m x : DWord) : (g.setP n m x).pass = g.pass := rfl
@[simp] theorem Group.setP_pslot (g : Group) (n : Nat) (m x : DWord) : (g.setP n m x).pslot = g.pslot := rfl
@[simp] theorem Group.setP_sup (g : Group) (n : Nat) (m x : DWord) : (g.setP n m x).sup = g.sup := rfl
@[simp] theorem Group.setP_halted (g : Group) (n : Nat) (m x : DWord) : (g.setP n m x).halted = g.halted := rfl
@[simp] theorem Group.setP_entryMask (g : Group) (n : Nat) (m x : DWord) : (g.setP n m x).entryMask = g.entryMask := rfl
@[simp] theorem Group.setP_trapSlot (g : Group) (n : Nat) (m x : DWord) : (g.setP n m x).trapSlot = g.trapSlot := rfl
@[simp] theorem Group.setP_trec (g : Group) (n : Nat) (m x : DWord) : (g.setP n m x).trec = g.trec := rfl
@[simp] theorem Group.setP_k0 (g : Group) (n : Nat) (m x : DWord) : (g.setP n m x).k0 = g.k0 := rfl
@[simp] theorem Group.setP_k1 (g : Group) (n : Nat) (m x : DWord) : (g.setP n m x).k1 = g.k1 := rfl
@[simp] theorem Group.setP_c0 (g : Group) (n : Nat) (m x : DWord) : (g.setP n m x).c0 = g.c0 := rfl
@[simp] theorem Group.setP_c1 (g : Group) (n : Nat) (m x : DWord) : (g.setP n m x).c1 = g.c1 := rfl
@[simp] theorem Group.setP_cstat (g : Group) (n : Nat) (m x : DWord) : (g.setP n m x).cstat = g.cstat := rfl
@[simp] theorem Group.setP_sysRest (g : Group) (n : Nat) (m x : DWord) : (g.setP n m x).sysRest = g.sysRest := rfl
@[simp] theorem Group.setP_held (g : Group) (n : Nat) (m x : DWord) : (g.setP n m x).held = g.held := rfl
@[simp] theorem Group.setP_fpark (g : Group) (n : Nat) (m x : DWord) : (g.setP n m x).fpark = g.fpark := rfl
@[simp] theorem Group.setP_seqs (g : Group) (n : Nat) (m x : DWord) : (g.setP n m x).seqs = g.seqs := rfl
@[simp] theorem Group.setP_kept (g : Group) (n : Nat) (m x : DWord) : (g.setP n m x).kept = g.kept := rfl
@[simp] theorem Group.setP_turn (g : Group) (n : Nat) (m x : DWord) : (g.setP n m x).turn = g.turn := rfl
@[simp] theorem Group.setP_vregs (g : Group) (n : Nat) (m x : DWord) : (g.setP n m x).vregs = g.vregs := rfl
@[simp] theorem Group.setP_xregs (g : Group) (n : Nat) (m x : DWord) : (g.setP n m x).xregs = g.xregs := rfl
@[simp] theorem Group.setP_sregs (g : Group) (n : Nat) (m x : DWord) : (g.setP n m x).sregs = g.sregs := rfl
@[simp] theorem Group.setP_ssplit (g : Group) (n : Nat) (m x : DWord) : (g.setP n m x).ssplit = g.ssplit := rfl
@[simp] theorem Group.setP_kregs (g : Group) (n : Nat) (m x : DWord) : (g.setP n m x).kregs = g.kregs := rfl
@[simp] theorem Group.setP_fpcsr (g : Group) (n : Nat) (m x : DWord) : (g.setP n m x).fpcsr = g.fpcsr := rfl
@[simp] theorem Group.setP_srseed (g : Group) (n : Nat) (m x : DWord) : (g.setP n m x).srseed = g.srseed := rfl
@[simp] theorem Group.setP_srstate (g : Group) (n : Nat) (m x : DWord) : (g.setP n m x).srstate = g.srstate := rfl
@[simp] theorem Group.setP_queues (g : Group) (n : Nat) (m x : DWord) : (g.setP n m x).queues = g.queues := rfl
@[simp] theorem Group.setP_qpopsel (g : Group) (n : Nat) (m x : DWord) : (g.setP n m x).qpopsel = g.qpopsel := rfl
@[simp] theorem Group.setP_qentsel (g : Group) (n : Nat) (m x : DWord) : (g.setP n m x).qentsel = g.qentsel := rfl
@[simp] theorem Group.setP_region (g : Group) (n : Nat) (m x : DWord) : (g.setP n m x).region = g.region := rfl
@[simp] theorem Group.setP_counters (g : Group) (n : Nat) (m x : DWord) : (g.setP n m x).counters = g.counters := rfl
@[simp] theorem Group.setP_pending (g : Group) (n : Nat) (m x : DWord) : (g.setP n m x).pending = g.pending := rfl
@[simp] theorem Group.setP_sq (g : Group) (n : Nat) (m x : DWord) : (g.setP n m x).sq = g.sq := rfl
@[simp] theorem Group.setP_waitst (g : Group) (n : Nat) (m x : DWord) : (g.setP n m x).waitst = g.waitst := rfl
@[simp] theorem Group.setP_wp (g : Group) (n : Nat) (m x : DWord) : (g.setP n m x).wp = g.wp := rfl
@[simp] theorem Group.setP_tp (g : Group) (n : Nat) (m x : DWord) : (g.setP n m x).tp = g.tp := rfl
@[simp] theorem Group.setP_bound (g : Group) (n : Nat) (m x : DWord) : (g.setP n m x).bound = g.bound := rfl
@[simp] theorem Group.setP_bhdr (g : Group) (n : Nat) (m x : DWord) : (g.setP n m x).bhdr = g.bhdr := rfl
@[simp] theorem Group.setP_blogn (g : Group) (n : Nat) (m x : DWord) : (g.setP n m x).blogn = g.blogn := rfl
@[simp] theorem Group.setP_gsavep (g : Group) (n : Nat) (m x : DWord) : (g.setP n m x).gsavep = g.gsavep := rfl
@[simp] theorem Group.setP_leaving (g : Group) (n : Nat) (m x : DWord) : (g.setP n m x).leaving = g.leaving := rfl
@[simp] theorem Group.setP_clause (g : Group) (n : Nat) (m x : DWord) : (g.setP n m x).clause = g.clause := rfl

@[simp] theorem Group.setPLane_ctx (g : Group) (n l : Nat) (x : Bool) : (g.setPLane n l x).ctx = g.ctx := rfl
@[simp] theorem Group.setPLane_kid (g : Group) (n l : Nat) (x : Bool) : (g.setPLane n l x).kid = g.kid := rfl
@[simp] theorem Group.setPLane_team (g : Group) (n l : Nat) (x : Bool) : (g.setPLane n l x).team = g.team := rfl
@[simp] theorem Group.setPLane_gidx (g : Group) (n l : Nat) (x : Bool) : (g.setPLane n l x).gidx = g.gidx := rfl
@[simp] theorem Group.setPLane_tidx (g : Group) (n l : Nat) (x : Bool) : (g.setPLane n l x).tidx = g.tidx := rfl
@[simp] theorem Group.setPLane_width (g : Group) (n l : Nat) (x : Bool) : (g.setPLane n l x).width = g.width := rfl
@[simp] theorem Group.setPLane_regs (g : Group) (n l : Nat) (x : Bool) : (g.setPLane n l x).regs = g.regs := rfl
@[simp] theorem Group.setPLane_prio (g : Group) (n l : Nat) (x : Bool) : (g.setPLane n l x).prio = g.prio := rfl
@[simp] theorem Group.setPLane_spillBytes (g : Group) (n l : Nat) (x : Bool) : (g.setPLane n l x).spillBytes = g.spillBytes := rfl
@[simp] theorem Group.setPLane_lmask (g : Group) (n l : Nat) (x : Bool) : (g.setPLane n l x).lmask = g.lmask := rfl
@[simp] theorem Group.setPLane_fmask (g : Group) (n l : Nat) (x : Bool) : (g.setPLane n l x).fmask = g.fmask := rfl
@[simp] theorem Group.setPLane_s0 (g : Group) (n l : Nat) (x : Bool) : (g.setPLane n l x).s0 = g.s0 := rfl
@[simp] theorem Group.setPLane_s1 (g : Group) (n l : Nat) (x : Bool) : (g.setPLane n l x).s1 = g.s1 := rfl
@[simp] theorem Group.setPLane_spill (g : Group) (n l : Nat) (x : Bool) : (g.setPLane n l x).spill = g.spill := rfl
@[simp] theorem Group.setPLane_rotc (g : Group) (n l : Nat) (x : Bool) : (g.setPLane n l x).rotc = g.rotc := rfl
@[simp] theorem Group.setPLane_pass (g : Group) (n l : Nat) (x : Bool) : (g.setPLane n l x).pass = g.pass := rfl
@[simp] theorem Group.setPLane_pslot (g : Group) (n l : Nat) (x : Bool) : (g.setPLane n l x).pslot = g.pslot := rfl
@[simp] theorem Group.setPLane_sup (g : Group) (n l : Nat) (x : Bool) : (g.setPLane n l x).sup = g.sup := rfl
@[simp] theorem Group.setPLane_halted (g : Group) (n l : Nat) (x : Bool) : (g.setPLane n l x).halted = g.halted := rfl
@[simp] theorem Group.setPLane_entryMask (g : Group) (n l : Nat) (x : Bool) : (g.setPLane n l x).entryMask = g.entryMask := rfl
@[simp] theorem Group.setPLane_trapSlot (g : Group) (n l : Nat) (x : Bool) : (g.setPLane n l x).trapSlot = g.trapSlot := rfl
@[simp] theorem Group.setPLane_trec (g : Group) (n l : Nat) (x : Bool) : (g.setPLane n l x).trec = g.trec := rfl
@[simp] theorem Group.setPLane_k0 (g : Group) (n l : Nat) (x : Bool) : (g.setPLane n l x).k0 = g.k0 := rfl
@[simp] theorem Group.setPLane_k1 (g : Group) (n l : Nat) (x : Bool) : (g.setPLane n l x).k1 = g.k1 := rfl
@[simp] theorem Group.setPLane_c0 (g : Group) (n l : Nat) (x : Bool) : (g.setPLane n l x).c0 = g.c0 := rfl
@[simp] theorem Group.setPLane_c1 (g : Group) (n l : Nat) (x : Bool) : (g.setPLane n l x).c1 = g.c1 := rfl
@[simp] theorem Group.setPLane_cstat (g : Group) (n l : Nat) (x : Bool) : (g.setPLane n l x).cstat = g.cstat := rfl
@[simp] theorem Group.setPLane_sysRest (g : Group) (n l : Nat) (x : Bool) : (g.setPLane n l x).sysRest = g.sysRest := rfl
@[simp] theorem Group.setPLane_held (g : Group) (n l : Nat) (x : Bool) : (g.setPLane n l x).held = g.held := rfl
@[simp] theorem Group.setPLane_fpark (g : Group) (n l : Nat) (x : Bool) : (g.setPLane n l x).fpark = g.fpark := rfl
@[simp] theorem Group.setPLane_seqs (g : Group) (n l : Nat) (x : Bool) : (g.setPLane n l x).seqs = g.seqs := rfl
@[simp] theorem Group.setPLane_kept (g : Group) (n l : Nat) (x : Bool) : (g.setPLane n l x).kept = g.kept := rfl
@[simp] theorem Group.setPLane_turn (g : Group) (n l : Nat) (x : Bool) : (g.setPLane n l x).turn = g.turn := rfl
@[simp] theorem Group.setPLane_vregs (g : Group) (n l : Nat) (x : Bool) : (g.setPLane n l x).vregs = g.vregs := rfl
@[simp] theorem Group.setPLane_xregs (g : Group) (n l : Nat) (x : Bool) : (g.setPLane n l x).xregs = g.xregs := rfl
@[simp] theorem Group.setPLane_sregs (g : Group) (n l : Nat) (x : Bool) : (g.setPLane n l x).sregs = g.sregs := rfl
@[simp] theorem Group.setPLane_ssplit (g : Group) (n l : Nat) (x : Bool) : (g.setPLane n l x).ssplit = g.ssplit := rfl
@[simp] theorem Group.setPLane_kregs (g : Group) (n l : Nat) (x : Bool) : (g.setPLane n l x).kregs = g.kregs := rfl
@[simp] theorem Group.setPLane_fpcsr (g : Group) (n l : Nat) (x : Bool) : (g.setPLane n l x).fpcsr = g.fpcsr := rfl
@[simp] theorem Group.setPLane_srseed (g : Group) (n l : Nat) (x : Bool) : (g.setPLane n l x).srseed = g.srseed := rfl
@[simp] theorem Group.setPLane_srstate (g : Group) (n l : Nat) (x : Bool) : (g.setPLane n l x).srstate = g.srstate := rfl
@[simp] theorem Group.setPLane_queues (g : Group) (n l : Nat) (x : Bool) : (g.setPLane n l x).queues = g.queues := rfl
@[simp] theorem Group.setPLane_qpopsel (g : Group) (n l : Nat) (x : Bool) : (g.setPLane n l x).qpopsel = g.qpopsel := rfl
@[simp] theorem Group.setPLane_qentsel (g : Group) (n l : Nat) (x : Bool) : (g.setPLane n l x).qentsel = g.qentsel := rfl
@[simp] theorem Group.setPLane_region (g : Group) (n l : Nat) (x : Bool) : (g.setPLane n l x).region = g.region := rfl
@[simp] theorem Group.setPLane_counters (g : Group) (n l : Nat) (x : Bool) : (g.setPLane n l x).counters = g.counters := rfl
@[simp] theorem Group.setPLane_pending (g : Group) (n l : Nat) (x : Bool) : (g.setPLane n l x).pending = g.pending := rfl
@[simp] theorem Group.setPLane_sq (g : Group) (n l : Nat) (x : Bool) : (g.setPLane n l x).sq = g.sq := rfl
@[simp] theorem Group.setPLane_waitst (g : Group) (n l : Nat) (x : Bool) : (g.setPLane n l x).waitst = g.waitst := rfl
@[simp] theorem Group.setPLane_wp (g : Group) (n l : Nat) (x : Bool) : (g.setPLane n l x).wp = g.wp := rfl
@[simp] theorem Group.setPLane_tp (g : Group) (n l : Nat) (x : Bool) : (g.setPLane n l x).tp = g.tp := rfl
@[simp] theorem Group.setPLane_bound (g : Group) (n l : Nat) (x : Bool) : (g.setPLane n l x).bound = g.bound := rfl
@[simp] theorem Group.setPLane_bhdr (g : Group) (n l : Nat) (x : Bool) : (g.setPLane n l x).bhdr = g.bhdr := rfl
@[simp] theorem Group.setPLane_blogn (g : Group) (n l : Nat) (x : Bool) : (g.setPLane n l x).blogn = g.blogn := rfl
@[simp] theorem Group.setPLane_gsavep (g : Group) (n l : Nat) (x : Bool) : (g.setPLane n l x).gsavep = g.gsavep := rfl
@[simp] theorem Group.setPLane_leaving (g : Group) (n l : Nat) (x : Bool) : (g.setPLane n l x).leaving = g.leaving := rfl
@[simp] theorem Group.setPLane_clause (g : Group) (n l : Nat) (x : Bool) : (g.setPLane n l x).clause = g.clause := rfl

@[simp] theorem Group.setSlot_ctx (g : Group) (k : Nat) (x : Slot) : (g.setSlot k x).ctx = g.ctx := by unfold Group.setSlot; split <;> rfl
@[simp] theorem Group.setSlot_kid (g : Group) (k : Nat) (x : Slot) : (g.setSlot k x).kid = g.kid := by unfold Group.setSlot; split <;> rfl
@[simp] theorem Group.setSlot_team (g : Group) (k : Nat) (x : Slot) : (g.setSlot k x).team = g.team := by unfold Group.setSlot; split <;> rfl
@[simp] theorem Group.setSlot_gidx (g : Group) (k : Nat) (x : Slot) : (g.setSlot k x).gidx = g.gidx := by unfold Group.setSlot; split <;> rfl
@[simp] theorem Group.setSlot_tidx (g : Group) (k : Nat) (x : Slot) : (g.setSlot k x).tidx = g.tidx := by unfold Group.setSlot; split <;> rfl
@[simp] theorem Group.setSlot_width (g : Group) (k : Nat) (x : Slot) : (g.setSlot k x).width = g.width := by unfold Group.setSlot; split <;> rfl
@[simp] theorem Group.setSlot_regs (g : Group) (k : Nat) (x : Slot) : (g.setSlot k x).regs = g.regs := by unfold Group.setSlot; split <;> rfl
@[simp] theorem Group.setSlot_prio (g : Group) (k : Nat) (x : Slot) : (g.setSlot k x).prio = g.prio := by unfold Group.setSlot; split <;> rfl
@[simp] theorem Group.setSlot_spillBytes (g : Group) (k : Nat) (x : Slot) : (g.setSlot k x).spillBytes = g.spillBytes := by unfold Group.setSlot; split <;> rfl
@[simp] theorem Group.setSlot_lmask (g : Group) (k : Nat) (x : Slot) : (g.setSlot k x).lmask = g.lmask := by unfold Group.setSlot; split <;> rfl
@[simp] theorem Group.setSlot_fmask (g : Group) (k : Nat) (x : Slot) : (g.setSlot k x).fmask = g.fmask := by unfold Group.setSlot; split <;> rfl
@[simp] theorem Group.setSlot_spill (g : Group) (k : Nat) (x : Slot) : (g.setSlot k x).spill = g.spill := by unfold Group.setSlot; split <;> rfl
@[simp] theorem Group.setSlot_rotc (g : Group) (k : Nat) (x : Slot) : (g.setSlot k x).rotc = g.rotc := by unfold Group.setSlot; split <;> rfl
@[simp] theorem Group.setSlot_pass (g : Group) (k : Nat) (x : Slot) : (g.setSlot k x).pass = g.pass := by unfold Group.setSlot; split <;> rfl
@[simp] theorem Group.setSlot_pslot (g : Group) (k : Nat) (x : Slot) : (g.setSlot k x).pslot = g.pslot := by unfold Group.setSlot; split <;> rfl
@[simp] theorem Group.setSlot_sup (g : Group) (k : Nat) (x : Slot) : (g.setSlot k x).sup = g.sup := by unfold Group.setSlot; split <;> rfl
@[simp] theorem Group.setSlot_halted (g : Group) (k : Nat) (x : Slot) : (g.setSlot k x).halted = g.halted := by unfold Group.setSlot; split <;> rfl
@[simp] theorem Group.setSlot_entryMask (g : Group) (k : Nat) (x : Slot) : (g.setSlot k x).entryMask = g.entryMask := by unfold Group.setSlot; split <;> rfl
@[simp] theorem Group.setSlot_trapSlot (g : Group) (k : Nat) (x : Slot) : (g.setSlot k x).trapSlot = g.trapSlot := by unfold Group.setSlot; split <;> rfl
@[simp] theorem Group.setSlot_trec (g : Group) (k : Nat) (x : Slot) : (g.setSlot k x).trec = g.trec := by unfold Group.setSlot; split <;> rfl
@[simp] theorem Group.setSlot_k0 (g : Group) (k : Nat) (x : Slot) : (g.setSlot k x).k0 = g.k0 := by unfold Group.setSlot; split <;> rfl
@[simp] theorem Group.setSlot_k1 (g : Group) (k : Nat) (x : Slot) : (g.setSlot k x).k1 = g.k1 := by unfold Group.setSlot; split <;> rfl
@[simp] theorem Group.setSlot_c0 (g : Group) (k : Nat) (x : Slot) : (g.setSlot k x).c0 = g.c0 := by unfold Group.setSlot; split <;> rfl
@[simp] theorem Group.setSlot_c1 (g : Group) (k : Nat) (x : Slot) : (g.setSlot k x).c1 = g.c1 := by unfold Group.setSlot; split <;> rfl
@[simp] theorem Group.setSlot_cstat (g : Group) (k : Nat) (x : Slot) : (g.setSlot k x).cstat = g.cstat := by unfold Group.setSlot; split <;> rfl
@[simp] theorem Group.setSlot_sysRest (g : Group) (k : Nat) (x : Slot) : (g.setSlot k x).sysRest = g.sysRest := by unfold Group.setSlot; split <;> rfl
@[simp] theorem Group.setSlot_held (g : Group) (k : Nat) (x : Slot) : (g.setSlot k x).held = g.held := by unfold Group.setSlot; split <;> rfl
@[simp] theorem Group.setSlot_fpark (g : Group) (k : Nat) (x : Slot) : (g.setSlot k x).fpark = g.fpark := by unfold Group.setSlot; split <;> rfl
@[simp] theorem Group.setSlot_seqs (g : Group) (k : Nat) (x : Slot) : (g.setSlot k x).seqs = g.seqs := by unfold Group.setSlot; split <;> rfl
@[simp] theorem Group.setSlot_kept (g : Group) (k : Nat) (x : Slot) : (g.setSlot k x).kept = g.kept := by unfold Group.setSlot; split <;> rfl
@[simp] theorem Group.setSlot_turn (g : Group) (k : Nat) (x : Slot) : (g.setSlot k x).turn = g.turn := by unfold Group.setSlot; split <;> rfl
@[simp] theorem Group.setSlot_vregs (g : Group) (k : Nat) (x : Slot) : (g.setSlot k x).vregs = g.vregs := by unfold Group.setSlot; split <;> rfl
@[simp] theorem Group.setSlot_xregs (g : Group) (k : Nat) (x : Slot) : (g.setSlot k x).xregs = g.xregs := by unfold Group.setSlot; split <;> rfl
@[simp] theorem Group.setSlot_preds (g : Group) (k : Nat) (x : Slot) : (g.setSlot k x).preds = g.preds := by unfold Group.setSlot; split <;> rfl
@[simp] theorem Group.setSlot_sregs (g : Group) (k : Nat) (x : Slot) : (g.setSlot k x).sregs = g.sregs := by unfold Group.setSlot; split <;> rfl
@[simp] theorem Group.setSlot_ssplit (g : Group) (k : Nat) (x : Slot) : (g.setSlot k x).ssplit = g.ssplit := by unfold Group.setSlot; split <;> rfl
@[simp] theorem Group.setSlot_kregs (g : Group) (k : Nat) (x : Slot) : (g.setSlot k x).kregs = g.kregs := by unfold Group.setSlot; split <;> rfl
@[simp] theorem Group.setSlot_fpcsr (g : Group) (k : Nat) (x : Slot) : (g.setSlot k x).fpcsr = g.fpcsr := by unfold Group.setSlot; split <;> rfl
@[simp] theorem Group.setSlot_srseed (g : Group) (k : Nat) (x : Slot) : (g.setSlot k x).srseed = g.srseed := by unfold Group.setSlot; split <;> rfl
@[simp] theorem Group.setSlot_srstate (g : Group) (k : Nat) (x : Slot) : (g.setSlot k x).srstate = g.srstate := by unfold Group.setSlot; split <;> rfl
@[simp] theorem Group.setSlot_queues (g : Group) (k : Nat) (x : Slot) : (g.setSlot k x).queues = g.queues := by unfold Group.setSlot; split <;> rfl
@[simp] theorem Group.setSlot_qpopsel (g : Group) (k : Nat) (x : Slot) : (g.setSlot k x).qpopsel = g.qpopsel := by unfold Group.setSlot; split <;> rfl
@[simp] theorem Group.setSlot_qentsel (g : Group) (k : Nat) (x : Slot) : (g.setSlot k x).qentsel = g.qentsel := by unfold Group.setSlot; split <;> rfl
@[simp] theorem Group.setSlot_region (g : Group) (k : Nat) (x : Slot) : (g.setSlot k x).region = g.region := by unfold Group.setSlot; split <;> rfl
@[simp] theorem Group.setSlot_counters (g : Group) (k : Nat) (x : Slot) : (g.setSlot k x).counters = g.counters := by unfold Group.setSlot; split <;> rfl
@[simp] theorem Group.setSlot_pending (g : Group) (k : Nat) (x : Slot) : (g.setSlot k x).pending = g.pending := by unfold Group.setSlot; split <;> rfl
@[simp] theorem Group.setSlot_sq (g : Group) (k : Nat) (x : Slot) : (g.setSlot k x).sq = g.sq := by unfold Group.setSlot; split <;> rfl
@[simp] theorem Group.setSlot_waitst (g : Group) (k : Nat) (x : Slot) : (g.setSlot k x).waitst = g.waitst := by unfold Group.setSlot; split <;> rfl
@[simp] theorem Group.setSlot_wp (g : Group) (k : Nat) (x : Slot) : (g.setSlot k x).wp = g.wp := by unfold Group.setSlot; split <;> rfl
@[simp] theorem Group.setSlot_tp (g : Group) (k : Nat) (x : Slot) : (g.setSlot k x).tp = g.tp := by unfold Group.setSlot; split <;> rfl
@[simp] theorem Group.setSlot_bound (g : Group) (k : Nat) (x : Slot) : (g.setSlot k x).bound = g.bound := by unfold Group.setSlot; split <;> rfl
@[simp] theorem Group.setSlot_bhdr (g : Group) (k : Nat) (x : Slot) : (g.setSlot k x).bhdr = g.bhdr := by unfold Group.setSlot; split <;> rfl
@[simp] theorem Group.setSlot_blogn (g : Group) (k : Nat) (x : Slot) : (g.setSlot k x).blogn = g.blogn := by unfold Group.setSlot; split <;> rfl
@[simp] theorem Group.setSlot_gsavep (g : Group) (k : Nat) (x : Slot) : (g.setSlot k x).gsavep = g.gsavep := by unfold Group.setSlot; split <;> rfl
@[simp] theorem Group.setSlot_leaving (g : Group) (k : Nat) (x : Slot) : (g.setSlot k x).leaving = g.leaving := by unfold Group.setSlot; split <;> rfl
@[simp] theorem Group.setSlot_clause (g : Group) (k : Nat) (x : Slot) : (g.setSlot k x).clause = g.clause := by unfold Group.setSlot; split <;> rfl

@[simp] theorem Group.addPending_ctx (g : Group) (k : Nat) (ws : List RegWrite) : (g.addPending k ws).ctx = g.ctx := rfl
@[simp] theorem Group.addPending_kid (g : Group) (k : Nat) (ws : List RegWrite) : (g.addPending k ws).kid = g.kid := rfl
@[simp] theorem Group.addPending_team (g : Group) (k : Nat) (ws : List RegWrite) : (g.addPending k ws).team = g.team := rfl
@[simp] theorem Group.addPending_gidx (g : Group) (k : Nat) (ws : List RegWrite) : (g.addPending k ws).gidx = g.gidx := rfl
@[simp] theorem Group.addPending_tidx (g : Group) (k : Nat) (ws : List RegWrite) : (g.addPending k ws).tidx = g.tidx := rfl
@[simp] theorem Group.addPending_width (g : Group) (k : Nat) (ws : List RegWrite) : (g.addPending k ws).width = g.width := rfl
@[simp] theorem Group.addPending_regs (g : Group) (k : Nat) (ws : List RegWrite) : (g.addPending k ws).regs = g.regs := rfl
@[simp] theorem Group.addPending_prio (g : Group) (k : Nat) (ws : List RegWrite) : (g.addPending k ws).prio = g.prio := rfl
@[simp] theorem Group.addPending_spillBytes (g : Group) (k : Nat) (ws : List RegWrite) : (g.addPending k ws).spillBytes = g.spillBytes := rfl
@[simp] theorem Group.addPending_lmask (g : Group) (k : Nat) (ws : List RegWrite) : (g.addPending k ws).lmask = g.lmask := rfl
@[simp] theorem Group.addPending_fmask (g : Group) (k : Nat) (ws : List RegWrite) : (g.addPending k ws).fmask = g.fmask := rfl
@[simp] theorem Group.addPending_s0 (g : Group) (k : Nat) (ws : List RegWrite) : (g.addPending k ws).s0 = g.s0 := rfl
@[simp] theorem Group.addPending_s1 (g : Group) (k : Nat) (ws : List RegWrite) : (g.addPending k ws).s1 = g.s1 := rfl
@[simp] theorem Group.addPending_spill (g : Group) (k : Nat) (ws : List RegWrite) : (g.addPending k ws).spill = g.spill := rfl
@[simp] theorem Group.addPending_rotc (g : Group) (k : Nat) (ws : List RegWrite) : (g.addPending k ws).rotc = g.rotc := rfl
@[simp] theorem Group.addPending_pass (g : Group) (k : Nat) (ws : List RegWrite) : (g.addPending k ws).pass = g.pass := rfl
@[simp] theorem Group.addPending_pslot (g : Group) (k : Nat) (ws : List RegWrite) : (g.addPending k ws).pslot = g.pslot := rfl
@[simp] theorem Group.addPending_sup (g : Group) (k : Nat) (ws : List RegWrite) : (g.addPending k ws).sup = g.sup := rfl
@[simp] theorem Group.addPending_halted (g : Group) (k : Nat) (ws : List RegWrite) : (g.addPending k ws).halted = g.halted := rfl
@[simp] theorem Group.addPending_entryMask (g : Group) (k : Nat) (ws : List RegWrite) : (g.addPending k ws).entryMask = g.entryMask := rfl
@[simp] theorem Group.addPending_trapSlot (g : Group) (k : Nat) (ws : List RegWrite) : (g.addPending k ws).trapSlot = g.trapSlot := rfl
@[simp] theorem Group.addPending_trec (g : Group) (k : Nat) (ws : List RegWrite) : (g.addPending k ws).trec = g.trec := rfl
@[simp] theorem Group.addPending_k0 (g : Group) (k : Nat) (ws : List RegWrite) : (g.addPending k ws).k0 = g.k0 := rfl
@[simp] theorem Group.addPending_k1 (g : Group) (k : Nat) (ws : List RegWrite) : (g.addPending k ws).k1 = g.k1 := rfl
@[simp] theorem Group.addPending_c0 (g : Group) (k : Nat) (ws : List RegWrite) : (g.addPending k ws).c0 = g.c0 := rfl
@[simp] theorem Group.addPending_c1 (g : Group) (k : Nat) (ws : List RegWrite) : (g.addPending k ws).c1 = g.c1 := rfl
@[simp] theorem Group.addPending_cstat (g : Group) (k : Nat) (ws : List RegWrite) : (g.addPending k ws).cstat = g.cstat := rfl
@[simp] theorem Group.addPending_sysRest (g : Group) (k : Nat) (ws : List RegWrite) : (g.addPending k ws).sysRest = g.sysRest := rfl
@[simp] theorem Group.addPending_held (g : Group) (k : Nat) (ws : List RegWrite) : (g.addPending k ws).held = g.held := rfl
@[simp] theorem Group.addPending_fpark (g : Group) (k : Nat) (ws : List RegWrite) : (g.addPending k ws).fpark = g.fpark := rfl
@[simp] theorem Group.addPending_seqs (g : Group) (k : Nat) (ws : List RegWrite) : (g.addPending k ws).seqs = g.seqs := rfl
@[simp] theorem Group.addPending_kept (g : Group) (k : Nat) (ws : List RegWrite) : (g.addPending k ws).kept = g.kept := rfl
@[simp] theorem Group.addPending_turn (g : Group) (k : Nat) (ws : List RegWrite) : (g.addPending k ws).turn = g.turn := rfl
@[simp] theorem Group.addPending_vregs (g : Group) (k : Nat) (ws : List RegWrite) : (g.addPending k ws).vregs = g.vregs := rfl
@[simp] theorem Group.addPending_xregs (g : Group) (k : Nat) (ws : List RegWrite) : (g.addPending k ws).xregs = g.xregs := rfl
@[simp] theorem Group.addPending_preds (g : Group) (k : Nat) (ws : List RegWrite) : (g.addPending k ws).preds = g.preds := rfl
@[simp] theorem Group.addPending_sregs (g : Group) (k : Nat) (ws : List RegWrite) : (g.addPending k ws).sregs = g.sregs := rfl
@[simp] theorem Group.addPending_ssplit (g : Group) (k : Nat) (ws : List RegWrite) : (g.addPending k ws).ssplit = g.ssplit := rfl
@[simp] theorem Group.addPending_kregs (g : Group) (k : Nat) (ws : List RegWrite) : (g.addPending k ws).kregs = g.kregs := rfl
@[simp] theorem Group.addPending_fpcsr (g : Group) (k : Nat) (ws : List RegWrite) : (g.addPending k ws).fpcsr = g.fpcsr := rfl
@[simp] theorem Group.addPending_srseed (g : Group) (k : Nat) (ws : List RegWrite) : (g.addPending k ws).srseed = g.srseed := rfl
@[simp] theorem Group.addPending_srstate (g : Group) (k : Nat) (ws : List RegWrite) : (g.addPending k ws).srstate = g.srstate := rfl
@[simp] theorem Group.addPending_queues (g : Group) (k : Nat) (ws : List RegWrite) : (g.addPending k ws).queues = g.queues := rfl
@[simp] theorem Group.addPending_qpopsel (g : Group) (k : Nat) (ws : List RegWrite) : (g.addPending k ws).qpopsel = g.qpopsel := rfl
@[simp] theorem Group.addPending_qentsel (g : Group) (k : Nat) (ws : List RegWrite) : (g.addPending k ws).qentsel = g.qentsel := rfl
@[simp] theorem Group.addPending_region (g : Group) (k : Nat) (ws : List RegWrite) : (g.addPending k ws).region = g.region := rfl
@[simp] theorem Group.addPending_sq (g : Group) (k : Nat) (ws : List RegWrite) : (g.addPending k ws).sq = g.sq := rfl
@[simp] theorem Group.addPending_waitst (g : Group) (k : Nat) (ws : List RegWrite) : (g.addPending k ws).waitst = g.waitst := rfl
@[simp] theorem Group.addPending_wp (g : Group) (k : Nat) (ws : List RegWrite) : (g.addPending k ws).wp = g.wp := rfl
@[simp] theorem Group.addPending_tp (g : Group) (k : Nat) (ws : List RegWrite) : (g.addPending k ws).tp = g.tp := rfl
@[simp] theorem Group.addPending_bound (g : Group) (k : Nat) (ws : List RegWrite) : (g.addPending k ws).bound = g.bound := rfl
@[simp] theorem Group.addPending_bhdr (g : Group) (k : Nat) (ws : List RegWrite) : (g.addPending k ws).bhdr = g.bhdr := rfl
@[simp] theorem Group.addPending_blogn (g : Group) (k : Nat) (ws : List RegWrite) : (g.addPending k ws).blogn = g.blogn := rfl
@[simp] theorem Group.addPending_gsavep (g : Group) (k : Nat) (ws : List RegWrite) : (g.addPending k ws).gsavep = g.gsavep := rfl
@[simp] theorem Group.addPending_leaving (g : Group) (k : Nat) (ws : List RegWrite) : (g.addPending k ws).leaving = g.leaving := rfl
@[simp] theorem Group.addPending_clause (g : Group) (k : Nat) (ws : List RegWrite) : (g.addPending k ws).clause = g.clause := rfl

/-- A scalar write touches the scalar or the supervisor registers, and the split bits. -/
theorem Group.setS_frame (g : Group) (code : Nat) (x : Word) :
    g.setS code x = { g with sregs := (g.setS code x).sregs, kregs := (g.setS code x).kregs, ssplit := (g.setS code x).ssplit } := by
  unfold Group.setS; split <;> rfl

@[simp] theorem Group.setS_fmask (g : Group) (code : Nat) (x : Word) : (g.setS code x).fmask = g.fmask := by
  unfold Group.setS; split <;> rfl
@[simp] theorem Group.setS_lmask (g : Group) (code : Nat) (x : Word) : (g.setS code x).lmask = g.lmask := by
  unfold Group.setS; split <;> rfl

/-- R175, R249: a scalar register reads what was last written to it. -/
@[simp] theorem Group.s_setS_same (g : Group) (code : Nat) (x : Word) : (g.setS code x).s code = x := by
  unfold Group.setS Group.s
  split <;> simp

@[simp] theorem Group.s_setS_other (g : Group) {code n : Nat} (x : Word) (h : n ≠ code) : (g.setS code x).s n = g.s n := by
  unfold Group.setS Group.s
  by_cases hc : code < 0x40 <;> by_cases hn : n < 0x40 <;> simp only [hc, hn, if_true, if_false] <;>
    rw [SMap.get_set_other _ _ _ (by omega)]

/-- A vector register of a lane reads what was last written to it; lanes and register numbers below 512 do not meet. -/
@[simp] theorem Group.v_setV_same (g : Group) (l r : Nat) (x : Word) : (g.setV l r x).v l r = x := SMap.get_set_same _ _ _ _

theorem Group.v_setV (g : Group) (l r l' r' : Nat) (x : Word) (hr : r < 512) (hr' : r' < 512) :
    (g.setV l r x).v l' r' = if l' = l ∧ r' = r then x else g.v l' r' := by
  unfold Group.setV Group.v
  rw [SMap.get_set]
  by_cases h : l' = l ∧ r' = r
  · rw [if_pos h, if_pos (by omega)]
  · rw [if_neg h, if_neg (by omega)]

/-- A predicate reads the written bits in the written lanes. -/
@[simp] theorem Group.p_setP_same (g : Group) (n : Nat) (m x : DWord) : (g.setP n m x).p n = (g.p n &&& ~~~m) ||| (x &&& m) :=
  SMap.get_set_same _ _ _ _
@[simp] theorem Group.p_setP_other (g : Group) {n j : Nat} (m x : DWord) (h : j ≠ n) : (g.setP n m x).p j = g.p j :=
  SMap.get_set_other _ _ _ h

@[simp] theorem Group.slot_setSlot_same (g : Group) (k : Nat) (x : Slot) : (g.setSlot k x).slot k = x := by
  unfold Group.setSlot Group.slot; split <;> rfl

end Sys2Proof.Machine
end

