-- ==== Sys2Proof/Laws/Dram.lean ====
section
/-! SUPPORT. What an access of a home may change: a decode of the granules that it reads, an open row, a frame reached, a line sent to an expander, and a write (R7, R52-R56, R61, R74). -/

namespace Sys2Proof.Machine

/-- What every step of a fold keeps, the fold keeps. -/
theorem foldl_keeps {α β : Type} {R : β → β → Prop} (refl : ∀ x, R x x) (trans : ∀ x y z, R x y → R y z → R x z) {f : β → α → β}
    (step : ∀ x a, R x (f x a)) (l : List α) (x : β) : R x (l.foldl f x) := by
  induction l generalizing x with
  | nil => exact refl x
  | cons a l ih => exact trans _ _ _ (step x a) (ih (f x a))

/-- A decode counts corrections and records what is uncorrectable. -/
theorem sense_frame (s : State) (addr n : Nat) (whole : List (Nat × Nat)) :
    sense s addr n whole = { s with poison := (sense s addr n whole).poison, memStacks := (sense s addr n whole).memStacks } := by
  unfold sense
  split
  · rfl
  · refine foldl_keeps (R := fun (x t : State) => t = { x with poison := t.poison, memStacks := t.memStacks }) (fun _ => rfl) (fun x y z h k => ?_) (fun x a => ?_) _ _
    · rw [k, h]
    · dsimp only
      split <;> rfl
/-- Where every granule is as it was stored, a decode changes nothing. -/
theorem sense_clean (s : State) (addr n : Nat) (whole : List (Nat × Nat)) (h : s.upsets = []) : sense s addr n whole = s := by
  unfold sense; simp [h]

theorem openRow_frame (s : State) (addr n : Nat) : openRow s addr n = { s with memStacks := (openRow s addr n).memStacks } := by
  unfold openRow
  split <;> rfl

theorem recordHolder_frame (s : State) (f k : Nat) : recordHolder s f k = { s with memStacks := (recordHolder s f k).memStacks } := by
  unfold recordHolder
  dsimp only
  split
  · rfl
  · rfl
theorem remapFill_frame (s : State) (cl f : Nat) :
    remapFill s cl f = { s with memStacks := (remapFill s cl f).memStacks, clusters := (remapFill s cl f).clusters } := by
  unfold remapFill
  dsimp only
  split
  · rfl
  · split
    · rw [recordHolder_frame]; rfl
    · rw [recordHolder_frame]; rfl
/-- An access reaches a frame: the context's touched bits, the cluster's copies of directory entries and their record change. -/
theorem reach_frame (s : State) (ctx : Nat) (cl : Option Nat) (addr : Nat) :
    reach s ctx cl addr = { s with ctxs := (reach s ctx cl addr).ctxs, memStacks := (reach s ctx cl addr).memStacks, clusters := (reach s ctx cl addr).clusters } := by
  unfold reach
  split
  · rfl
  · dsimp only
    split
    · rw [remapFill_frame]; rfl
    · rfl

theorem clearPoison_frame (s : State) (addr n : Nat) (whole : List (Nat × Nat)) :
    clearPoison s addr n whole = { s with poison := (clearPoison s addr n whole).poison } := by
  unfold clearPoison
  dsimp only
  split
  · rfl
  · refine foldl_keeps (R := fun (x t : State) => t = { x with poison := t.poison }) (fun _ => rfl) (fun x y z h k => ?_) (fun x a => ?_) _ _
    · rw [k, h]
    · split <;> rfl

theorem cxlWrite_frame (s : State) (gid addr n : Nat) : cxlWrite s gid addr n = { s with cxl := (cxlWrite s gid addr n).cxl } := by
  unfold cxlWrite
  split
  · refine foldl_keeps (R := fun (x t : State) => t = { x with cxl := t.cxl }) (fun _ => rfl) (fun x y z h k => ?_) (fun x a => rfl) _ _
    rw [k, h]
  · rfl
theorem mirrorCxl_frame (s : State) (gid addr n : Nat) : mirrorCxl s gid addr n = { s with cxl := (mirrorCxl s gid addr n).cxl } := by
  unfold mirrorCxl
  dsimp only
  split <;> rfl

theorem reencode_frame (s : State) (addr n : Nat) :
    reencode s addr n = { s with mem := (reencode s addr n).mem, upsets := (reencode s addr n).upsets } := by
  unfold reencode
  split
  · rfl
  · refine foldl_keeps (R := fun (x t : State) => t = { x with mem := t.mem, upsets := t.upsets }) (fun _ => rfl) (fun x y z h k => ?_) (fun x a => rfl) _ _
    rw [k, h]
theorem reencode_clean (s : State) (addr n : Nat) (h : s.upsets = []) : reencode s addr n = s := by
  unfold reencode; simp [h]
theorem Memory.wf_reencode (s : State) (addr n : Nat) (h : Memory.wf s.mem = true) : Memory.wf (reencode s addr n).mem = true := by
  unfold reencode
  split
  · exact h
  · revert h
    refine foldl_keeps (R := fun (x t : State) => Memory.wf x.mem = true → Memory.wf t.mem = true) (fun _ h => h) (fun x y z h k w => k (h w)) (fun x a w => ?_) _ _
    exact Memory.wf_writeBytes _ _ _ w

/-- A state differs from another at most in what a write at a home may change. -/
def Stored (s t : State) : Prop :=
  t = { s with mem := t.mem, upsets := t.upsets, poison := t.poison, frosting := t.frosting, memStacks := t.memStacks, cxl := t.cxl }
theorem Stored.trans {x y z : State} (h : Stored x y) (k : Stored y z) : Stored x z := by
  unfold Stored at *
  rw [k, h]
theorem Stored.of_cxl {s t : State} (h : t = { s with cxl := t.cxl }) : Stored s t := by unfold Stored; rw [h]
theorem Stored.of_rows {s t : State} (h : t = { s with memStacks := t.memStacks }) : Stored s t := by unfold Stored; rw [h]
theorem Stored.of_poison {s t : State} (h : t = { s with poison := t.poison }) : Stored s t := by unfold Stored; rw [h]
theorem Stored.of_bytes {s t : State} (h : t = { s with mem := t.mem, upsets := t.upsets }) : Stored s t := by unfold Stored; rw [h]

theorem storeWhole_stored (s : State) (gid addr : Nat) (bs : List Byte) (whole : List (Nat × Nat)) : Stored s (storeWhole s gid addr bs whole) :=
  (Stored.of_bytes (reencode_frame s addr bs.length)).trans <|
    (show Stored _ { reencode s addr bs.length with mem := writeBytes (reencode s addr bs.length).mem addr bs } from rfl).trans <|
    (Stored.of_poison (clearPoison_frame _ addr bs.length whole)).trans <| (show Stored _ (cancelFrosting _ addr) from rfl).trans <|
    (Stored.of_rows (openRow_frame _ addr bs.length)).trans <| (Stored.of_cxl (mirrorCxl_frame _ gid addr bs.length)).trans <|
    Stored.of_cxl (cxlWrite_frame _ gid addr bs.length)
@[simp] theorem cxlWrite_mem (s : State) (gid addr n : Nat) : (cxlWrite s gid addr n).mem = s.mem := (congrArg State.mem (cxlWrite_frame s gid addr n)).trans rfl
@[simp] theorem mirrorCxl_mem (s : State) (gid addr n : Nat) : (mirrorCxl s gid addr n).mem = s.mem := (congrArg State.mem (mirrorCxl_frame s gid addr n)).trans rfl
@[simp] theorem openRow_mem (s : State) (addr n : Nat) : (openRow s addr n).mem = s.mem := (congrArg State.mem (openRow_frame s addr n)).trans rfl
@[simp] theorem cancelFrosting_mem (s : State) (addr : Nat) : (cancelFrosting s addr).mem = s.mem := rfl
@[simp] theorem clearPoison_mem (s : State) (addr n : Nat) (whole : List (Nat × Nat)) : (clearPoison s addr n whole).mem = s.mem :=
  (congrArg State.mem (clearPoison_frame s addr n whole)).trans rfl
@[simp] theorem sense_mem (s : State) (addr n : Nat) (whole : List (Nat × Nat)) : (sense s addr n whole).mem = s.mem :=
  (congrArg State.mem (sense_frame s addr n whole)).trans rfl
@[simp] theorem reach_mem (s : State) (ctx : Nat) (cl : Option Nat) (addr : Nat) : (reach s ctx cl addr).mem = s.mem :=
  (congrArg State.mem (reach_frame s ctx cl addr)).trans rfl
/-- Its bytes stand in memory, over what the granules held after their decode. -/
theorem storeWhole_mem (s : State) (gid addr : Nat) (bs : List Byte) (whole : List (Nat × Nat)) :
    (storeWhole s gid addr bs whole).mem = writeBytes (reencode s addr bs.length).mem addr bs := by
  simp only [storeWhole, cxlWrite_mem, mirrorCxl_mem, openRow_mem, cancelFrosting_mem, clearPoison_mem]
theorem Memory.wf_storeWhole (s : State) (gid addr : Nat) (bs : List Byte) (whole : List (Nat × Nat)) (h : Memory.wf s.mem = true) :
    Memory.wf (storeWhole s gid addr bs whole).mem = true := by
  rw [storeWhole_mem]
  exact Memory.wf_writeBytes _ _ _ (Memory.wf_reencode s addr bs.length h)

end Sys2Proof.Machine
end

