-- ==== Sys2Proof/Laws/PerInstr.lean ====
section
/-! SUPPORT. A statement about every instruction as syntax: bit 31 of its first word says how many words it has (R245, R246). -/

namespace Sys2Proof.Laws.Encodes

/-- R245, R246: an instruction that has words has one when bit 31 of the first is 0, and two when it is 1. -/
def Statement (i : Instr) : Prop := ∀ w ws, encode i = w :: ws → (w.getLsbD 31 = true ↔ ws.length = 1) ∧ ws.length ≤ 1

theorem short_bit31 (op : BitVec 6) (o : SOps) : (encodeShort op o)[31] = false := by
  show BitVec.getLsbD (w := 1 + 6 + 1 + 8 + 8 + 8) (0#1 ++ op ++ BitVec.ofBool o.nw ++ o.d ++ o.a ++ o.b) 31 = false
  repeat rw [BitVec.getLsbD_append]
  rfl

theorem long_bit31 (op : BitVec 9) (o : Ops) : (encodeLong op o)[31] = true := by
  show BitVec.getLsbD (w := 1 + 9 + 1 + 1 + 5 + 1 + 6 + 8)
    (1#1 ++ op ++ BitVec.ofBool o.g ++ BitVec.ofBool o.gn ++ o.gp ++ BitVec.ofBool o.nw ++ o.mod ++ o.d) 31 = true
  repeat rw [BitVec.getLsbD_append]
  rfl

theorem of_short {i : Instr} {op : BitVec 6} {o : SOps} (h : encode i = [encodeShort op o]) : Statement i := by
  intro w ws e
  rw [h] at e
  cases e
  simp [short_bit31]

theorem of_long {i : Instr} {op : BitVec 9} {o : Ops} (h : encode i = [encodeLong op o, o.w1]) : Statement i := by
  intro w ws e
  rw [h] at e
  cases e
  simp [long_bit31]

theorem of_none {i : Instr} (h : encode i = []) : Statement i := by
  intro w ws e
  rw [h] at e
  cases e

theorem of_zero {i : Instr} (h : encode i = [0]) : Statement i := by
  intro w ws e
  rw [h] at e
  cases e
  simp

end Sys2Proof.Laws.Encodes

theorem Sys2Proof.Laws.Encodes.iaddShort (o : SOps) : Statement (.iaddShort o) := of_short rfl
theorem Sys2Proof.Laws.Encodes.isubShort (o : SOps) : Statement (.isubShort o) := of_short rfl
theorem Sys2Proof.Laws.Encodes.imulShort (o : SOps) : Statement (.imulShort o) := of_short rfl
theorem Sys2Proof.Laws.Encodes.imulhShort (o : SOps) : Statement (.imulhShort o) := of_short rfl
theorem Sys2Proof.Laws.Encodes.iminShort (o : SOps) : Statement (.iminShort o) := of_short rfl
theorem Sys2Proof.Laws.Encodes.imaxShort (o : SOps) : Statement (.imaxShort o) := of_short rfl
theorem Sys2Proof.Laws.Encodes.andShort (o : SOps) : Statement (.andShort o) := of_short rfl
theorem Sys2Proof.Laws.Encodes.orShort (o : SOps) : Statement (.orShort o) := of_short rfl
theorem Sys2Proof.Laws.Encodes.xorShort (o : SOps) : Statement (.xorShort o) := of_short rfl
theorem Sys2Proof.Laws.Encodes.andnShort (o : SOps) : Statement (.andnShort o) := of_short rfl
theorem Sys2Proof.Laws.Encodes.shlShort (o : SOps) : Statement (.shlShort o) := of_short rfl
theorem Sys2Proof.Laws.Encodes.shrShort (o : SOps) : Statement (.shrShort o) := of_short rfl
theorem Sys2Proof.Laws.Encodes.sraShort (o : SOps) : Statement (.sraShort o) := of_short rfl
theorem Sys2Proof.Laws.Encodes.popcShort (o : SOps) : Statement (.popcShort o) := of_short rfl
theorem Sys2Proof.Laws.Encodes.clzShort (o : SOps) : Statement (.clzShort o) := of_short rfl
theorem Sys2Proof.Laws.Encodes.brevShort (o : SOps) : Statement (.brevShort o) := of_short rfl
theorem Sys2Proof.Laws.Encodes.iaddImm8Short (o : SOps) : Statement (.iaddImm8Short o) := of_short rfl
theorem Sys2Proof.Laws.Encodes.shlImmShort (o : SOps) : Statement (.shlImmShort o) := of_short rfl
theorem Sys2Proof.Laws.Encodes.shrImmShort (o : SOps) : Statement (.shrImmShort o) := of_short rfl
theorem Sys2Proof.Laws.Encodes.sraImmShort (o : SOps) : Statement (.sraImmShort o) := of_short rfl
theorem Sys2Proof.Laws.Encodes.faddF32Short (o : SOps) : Statement (.faddF32Short o) := of_short rfl
theorem Sys2Proof.Laws.Encodes.fsubF32Short (o : SOps) : Statement (.fsubF32Short o) := of_short rfl
theorem Sys2Proof.Laws.Encodes.fmulF32Short (o : SOps) : Statement (.fmulF32Short o) := of_short rfl
theorem Sys2Proof.Laws.Encodes.fminF32Short (o : SOps) : Statement (.fminF32Short o) := of_short rfl
theorem Sys2Proof.Laws.Encodes.fmaxF32Short (o : SOps) : Statement (.fmaxF32Short o) := of_short rfl
theorem Sys2Proof.Laws.Encodes.faddF64Short (o : SOps) : Statement (.faddF64Short o) := of_short rfl
theorem Sys2Proof.Laws.Encodes.fsubF64Short (o : SOps) : Statement (.fsubF64Short o) := of_short rfl
theorem Sys2Proof.Laws.Encodes.fmulF64Short (o : SOps) : Statement (.fmulF64Short o) := of_short rfl
theorem Sys2Proof.Laws.Encodes.faddF16x2Short (o : SOps) : Statement (.faddF16x2Short o) := of_short rfl
theorem Sys2Proof.Laws.Encodes.fmulF16x2Short (o : SOps) : Statement (.fmulF16x2Short o) := of_short rfl
theorem Sys2Proof.Laws.Encodes.faddBf16x2Short (o : SOps) : Statement (.faddBf16x2Short o) := of_short rfl
theorem Sys2Proof.Laws.Encodes.fmulBf16x2Short (o : SOps) : Statement (.fmulBf16x2Short o) := of_short rfl
theorem Sys2Proof.Laws.Encodes.movShort (o : SOps) : Statement (.movShort o) := of_short rfl
theorem Sys2Proof.Laws.Encodes.ldGB32Short (o : SOps) : Statement (.ldGB32Short o) := of_short rfl
theorem Sys2Proof.Laws.Encodes.ldSB32Short (o : SOps) : Statement (.ldSB32Short o) := of_short rfl
theorem Sys2Proof.Laws.Encodes.stGB32Short (o : SOps) : Statement (.stGB32Short o) := of_short rfl
theorem Sys2Proof.Laws.Encodes.stSB32Short (o : SOps) : Statement (.stSB32Short o) := of_short rfl
theorem Sys2Proof.Laws.Encodes.ldGB64Short (o : SOps) : Statement (.ldGB64Short o) := of_short rfl
theorem Sys2Proof.Laws.Encodes.stGB64Short (o : SOps) : Statement (.stGB64Short o) := of_short rfl
theorem Sys2Proof.Laws.Encodes.ldSB64Short (o : SOps) : Statement (.ldSB64Short o) := of_short rfl
theorem Sys2Proof.Laws.Encodes.stSB64Short (o : SOps) : Statement (.stSB64Short o) := of_short rfl
theorem Sys2Proof.Laws.Encodes.nopShort : Statement (.nopShort) := of_zero rfl
theorem Sys2Proof.Laws.Encodes.iadd (o : Ops) : Statement (.iadd o) := of_long rfl
theorem Sys2Proof.Laws.Encodes.isub (o : Ops) : Statement (.isub o) := of_long rfl
theorem Sys2Proof.Laws.Encodes.ineg (o : Ops) : Statement (.ineg o) := of_long rfl
theorem Sys2Proof.Laws.Encodes.iaddc (o : Ops) : Statement (.iaddc o) := of_long rfl
theorem Sys2Proof.Laws.Encodes.isubb (o : Ops) : Statement (.isubb o) := of_long rfl
theorem Sys2Proof.Laws.Encodes.iadds (o : Ops) : Statement (.iadds o) := of_long rfl
theorem Sys2Proof.Laws.Encodes.isubs (o : Ops) : Statement (.isubs o) := of_long rfl
theorem Sys2Proof.Laws.Encodes.iabs (o : Ops) : Statement (.iabs o) := of_long rfl
theorem Sys2Proof.Laws.Encodes.imin (o : Ops) : Statement (.imin o) := of_long rfl
theorem Sys2Proof.Laws.Encodes.imax (o : Ops) : Statement (.imax o) := of_long rfl
theorem Sys2Proof.Laws.Encodes.imul (o : Ops) : Statement (.imul o) := of_long rfl
theorem Sys2Proof.Laws.Encodes.imulh (o : Ops) : Statement (.imulh o) := of_long rfl
theorem Sys2Proof.Laws.Encodes.imad (o : Ops) : Statement (.imad o) := of_long rfl
theorem Sys2Proof.Laws.Encodes.imadw (o : Ops) : Statement (.imadw o) := of_long rfl
theorem Sys2Proof.Laws.Encodes.ilea (o : Ops) : Statement (.ilea o) := of_long rfl
theorem Sys2Proof.Laws.Encodes.icmp (o : Ops) : Statement (.icmp o) := of_long rfl
theorem Sys2Proof.Laws.Encodes.isel (o : Ops) : Statement (.isel o) := of_long rfl
theorem Sys2Proof.Laws.Encodes.land (o : Ops) : Statement (.land o) := of_long rfl
theorem Sys2Proof.Laws.Encodes.lor (o : Ops) : Statement (.lor o) := of_long rfl
theorem Sys2Proof.Laws.Encodes.lxor (o : Ops) : Statement (.lxor o) := of_long rfl
theorem Sys2Proof.Laws.Encodes.landn (o : Ops) : Statement (.landn o) := of_long rfl
theorem Sys2Proof.Laws.Encodes.lorn (o : Ops) : Statement (.lorn o) := of_long rfl
theorem Sys2Proof.Laws.Encodes.shl (o : Ops) : Statement (.shl o) := of_long rfl
theorem Sys2Proof.Laws.Encodes.shr (o : Ops) : Statement (.shr o) := of_long rfl
theorem Sys2Proof.Laws.Encodes.sra (o : Ops) : Statement (.sra o) := of_long rfl
theorem Sys2Proof.Laws.Encodes.rotl (o : Ops) : Statement (.rotl o) := of_long rfl
theorem Sys2Proof.Laws.Encodes.fshl (o : Ops) : Statement (.fshl o) := of_long rfl
theorem Sys2Proof.Laws.Encodes.fshr (o : Ops) : Statement (.fshr o) := of_long rfl
theorem Sys2Proof.Laws.Encodes.bfe (o : Ops) : Statement (.bfe o) := of_long rfl
theorem Sys2Proof.Laws.Encodes.bfi (o : Ops) : Statement (.bfi o) := of_long rfl
theorem Sys2Proof.Laws.Encodes.popc (o : Ops) : Statement (.popc o) := of_long rfl
theorem Sys2Proof.Laws.Encodes.clz (o : Ops) : Statement (.clz o) := of_long rfl
theorem Sys2Proof.Laws.Encodes.brev (o : Ops) : Statement (.brev o) := of_long rfl
theorem Sys2Proof.Laws.Encodes.bmix (o : Ops) : Statement (.bmix o) := of_long rfl
theorem Sys2Proof.Laws.Encodes.fadd (o : Ops) : Statement (.fadd o) := of_long rfl
theorem Sys2Proof.Laws.Encodes.fsub (o : Ops) : Statement (.fsub o) := of_long rfl
theorem Sys2Proof.Laws.Encodes.fmul (o : Ops) : Statement (.fmul o) := of_long rfl
theorem Sys2Proof.Laws.Encodes.ffma (o : Ops) : Statement (.ffma o) := of_long rfl
theorem Sys2Proof.Laws.Encodes.fmin (o : Ops) : Statement (.fmin o) := of_long rfl
theorem Sys2Proof.Laws.Encodes.fmax (o : Ops) : Statement (.fmax o) := of_long rfl
theorem Sys2Proof.Laws.Encodes.fdiv (o : Ops) : Statement (.fdiv o) := of_long rfl
theorem Sys2Proof.Laws.Encodes.fsqrt (o : Ops) : Statement (.fsqrt o) := of_long rfl
theorem Sys2Proof.Laws.Encodes.frcp (o : Ops) : Statement (.frcp o) := of_long rfl
theorem Sys2Proof.Laws.Encodes.frsq (o : Ops) : Statement (.frsq o) := of_long rfl
theorem Sys2Proof.Laws.Encodes.fex2 (o : Ops) : Statement (.fex2 o) := of_long rfl
theorem Sys2Proof.Laws.Encodes.flg2 (o : Ops) : Statement (.flg2 o) := of_long rfl
theorem Sys2Proof.Laws.Encodes.fsin (o : Ops) : Statement (.fsin o) := of_long rfl
theorem Sys2Proof.Laws.Encodes.fcos (o : Ops) : Statement (.fcos o) := of_long rfl
theorem Sys2Proof.Laws.Encodes.fcmp (o : Ops) : Statement (.fcmp o) := of_long rfl
theorem Sys2Proof.Laws.Encodes.fclass (o : Ops) : Statement (.fclass o) := of_long rfl
theorem Sys2Proof.Laws.Encodes.fgexp (o : Ops) : Statement (.fgexp o) := of_long rfl
theorem Sys2Proof.Laws.Encodes.fsign (o : Ops) : Statement (.fsign o) := of_long rfl
theorem Sys2Proof.Laws.Encodes.frnd (o : Ops) : Statement (.frnd o) := of_long rfl
theorem Sys2Proof.Laws.Encodes.fcvt (o : Ops) : Statement (.fcvt o) := of_long rfl
theorem Sys2Proof.Laws.Encodes.f2i (o : Ops) : Statement (.f2i o) := of_long rfl
theorem Sys2Proof.Laws.Encodes.i2f (o : Ops) : Statement (.i2f o) := of_long rfl
theorem Sys2Proof.Laws.Encodes.fscal (o : Ops) : Statement (.fscal o) := of_long rfl
theorem Sys2Proof.Laws.Encodes.vdot8 (o : Ops) : Statement (.vdot8 o) := of_long rfl
theorem Sys2Proof.Laws.Encodes.vdot4 (o : Ops) : Statement (.vdot4 o) := of_long rfl
theorem Sys2Proof.Laws.Encodes.vdot8i (o : Ops) : Statement (.vdot8i o) := of_long rfl
theorem Sys2Proof.Laws.Encodes.vdot4i (o : Ops) : Statement (.vdot4i o) := of_long rfl
theorem Sys2Proof.Laws.Encodes.vpack (o : Ops) : Statement (.vpack o) := of_long rfl
theorem Sys2Proof.Laws.Encodes.vunpk (o : Ops) : Statement (.vunpk o) := of_long rfl
theorem Sys2Proof.Laws.Encodes.vamax (o : Ops) : Statement (.vamax o) := of_long rfl
theorem Sys2Proof.Laws.Encodes.vscal (o : Ops) : Statement (.vscal o) := of_long rfl
theorem Sys2Proof.Laws.Encodes.mov (o : Ops) : Statement (.mov o) := of_long rfl
theorem Sys2Proof.Laws.Encodes.movi (o : Ops) : Statement (.movi o) := of_long rfl
theorem Sys2Proof.Laws.Encodes.movh (o : Ops) : Statement (.movh o) := of_long rfl
theorem Sys2Proof.Laws.Encodes.s2v (o : Ops) : Statement (.s2v o) := of_long rfl
theorem Sys2Proof.Laws.Encodes.v2s (o : Ops) : Statement (.v2s o) := of_long rfl
theorem Sys2Proof.Laws.Encodes.idxset (o : Ops) : Statement (.idxset o) := of_long rfl
theorem Sys2Proof.Laws.Encodes.idxadd (o : Ops) : Statement (.idxadd o) := of_long rfl
theorem Sys2Proof.Laws.Encodes.rgn (o : Ops) : Statement (.rgn o) := of_long rfl
theorem Sys2Proof.Laws.Encodes.plog (o : Ops) : Statement (.plog o) := of_long rfl
theorem Sys2Proof.Laws.Encodes.pmov (o : Ops) : Statement (.pmov o) := of_long rfl
theorem Sys2Proof.Laws.Encodes.pmask (o : Ops) : Statement (.pmask o) := of_long rfl
theorem Sys2Proof.Laws.Encodes.csrr (o : Ops) : Statement (.csrr o) := of_long rfl
theorem Sys2Proof.Laws.Encodes.csrw (o : Ops) : Statement (.csrw o) := of_long rfl
theorem Sys2Proof.Laws.Encodes.sadd (o : Ops) : Statement (.sadd o) := of_long rfl
theorem Sys2Proof.Laws.Encodes.ssub (o : Ops) : Statement (.ssub o) := of_long rfl
theorem Sys2Proof.Laws.Encodes.smul (o : Ops) : Statement (.smul o) := of_long rfl
theorem Sys2Proof.Laws.Encodes.smin (o : Ops) : Statement (.smin o) := of_long rfl
theorem Sys2Proof.Laws.Encodes.smax (o : Ops) : Statement (.smax o) := of_long rfl
theorem Sys2Proof.Laws.Encodes.sand (o : Ops) : Statement (.sand o) := of_long rfl
theorem Sys2Proof.Laws.Encodes.sor (o : Ops) : Statement (.sor o) := of_long rfl
theorem Sys2Proof.Laws.Encodes.sxor (o : Ops) : Statement (.sxor o) := of_long rfl
theorem Sys2Proof.Laws.Encodes.sshl (o : Ops) : Statement (.sshl o) := of_long rfl
theorem Sys2Proof.Laws.Encodes.sshr (o : Ops) : Statement (.sshr o) := of_long rfl
theorem Sys2Proof.Laws.Encodes.scmp (o : Ops) : Statement (.scmp o) := of_long rfl
theorem Sys2Proof.Laws.Encodes.smovi (o : Ops) : Statement (.smovi o) := of_long rfl
theorem Sys2Proof.Laws.Encodes.vote (o : Ops) : Statement (.vote o) := of_long rfl
theorem Sys2Proof.Laws.Encodes.xlane (o : Ops) : Statement (.xlane o) := of_long rfl
theorem Sys2Proof.Laws.Encodes.redux (o : Ops) : Statement (.redux o) := of_long rfl
theorem Sys2Proof.Laws.Encodes.scan (o : Ops) : Statement (.scan o) := of_long rfl
theorem Sys2Proof.Laws.Encodes.matchLanes (o : Ops) : Statement (.matchLanes o) := of_long rfl
theorem Sys2Proof.Laws.Encodes.bcast (o : Ops) : Statement (.bcast o) := of_long rfl
theorem Sys2Proof.Laws.Encodes.lxec (o : Ops) : Statement (.lxec o) := of_long rfl
theorem Sys2Proof.Laws.Encodes.bra (o : Ops) : Statement (.bra o) := of_long rfl
theorem Sys2Proof.Laws.Encodes.brc (o : Ops) : Statement (.brc o) := of_long rfl
theorem Sys2Proof.Laws.Encodes.brs (o : Ops) : Statement (.brs o) := of_long rfl
theorem Sys2Proof.Laws.Encodes.brx (o : Ops) : Statement (.brx o) := of_long rfl
theorem Sys2Proof.Laws.Encodes.call (o : Ops) : Statement (.call o) := of_long rfl
theorem Sys2Proof.Laws.Encodes.callx (o : Ops) : Statement (.callx o) := of_long rfl
theorem Sys2Proof.Laws.Encodes.retLanes (o : Ops) : Statement (.retLanes o) := of_long rfl
theorem Sys2Proof.Laws.Encodes.exitLanes (o : Ops) : Statement (.exitLanes o) := of_long rfl
theorem Sys2Proof.Laws.Encodes.trapLanes (o : Ops) : Statement (.trapLanes o) := of_long rfl
theorem Sys2Proof.Laws.Encodes.syscall (o : Ops) : Statement (.syscall o) := of_long rfl
theorem Sys2Proof.Laws.Encodes.brkpt (o : Ops) : Statement (.brkpt o) := of_long rfl
theorem Sys2Proof.Laws.Encodes.yieldHint (o : Ops) : Statement (.yieldHint o) := of_long rfl
theorem Sys2Proof.Laws.Encodes.nopLong (o : Ops) : Statement (.nopLong o) := of_long rfl
theorem Sys2Proof.Laws.Encodes.ld (o : Ops) : Statement (.ld o) := of_long rfl
theorem Sys2Proof.Laws.Encodes.st (o : Ops) : Statement (.st o) := of_long rfl
theorem Sys2Proof.Laws.Encodes.lda (o : Ops) : Statement (.lda o) := of_long rfl
theorem Sys2Proof.Laws.Encodes.stl (o : Ops) : Statement (.stl o) := of_long rfl
theorem Sys2Proof.Laws.Encodes.atom (o : Ops) : Statement (.atom o) := of_long rfl
theorem Sys2Proof.Laws.Encodes.acas (o : Ops) : Statement (.acas o) := of_long rfl
theorem Sys2Proof.Laws.Encodes.red (o : Ops) : Statement (.red o) := of_long rfl
theorem Sys2Proof.Laws.Encodes.fence (o : Ops) : Statement (.fence o) := of_long rfl
theorem Sys2Proof.Laws.Encodes.ldsh (o : Ops) : Statement (.ldsh o) := of_long rfl
theorem Sys2Proof.Laws.Encodes.pref (o : Ops) : Statement (.pref o) := of_long rfl
theorem Sys2Proof.Laws.Encodes.waddr (o : Ops) : Statement (.waddr o) := of_long rfl
theorem Sys2Proof.Laws.Encodes.paddr (o : Ops) : Statement (.paddr o) := of_long rfl
theorem Sys2Proof.Laws.Encodes.sld (o : Ops) : Statement (.sld o) := of_long rfl
theorem Sys2Proof.Laws.Encodes.sst (o : Ops) : Statement (.sst o) := of_long rfl
theorem Sys2Proof.Laws.Encodes.barr (o : Ops) : Statement (.barr o) := of_long rfl
theorem Sys2Proof.Laws.Encodes.barw (o : Ops) : Statement (.barw o) := of_long rfl
theorem Sys2Proof.Laws.Encodes.bwait (o : Ops) : Statement (.bwait o) := of_long rfl
theorem Sys2Proof.Laws.Encodes.btest (o : Ops) : Statement (.btest o) := of_long rfl
theorem Sys2Proof.Laws.Encodes.bexp (o : Ops) : Statement (.bexp o) := of_long rfl
theorem Sys2Proof.Laws.Encodes.gbar (o : Ops) : Statement (.gbar o) := of_long rfl
theorem Sys2Proof.Laws.Encodes.gbwait (o : Ops) : Statement (.gbwait o) := of_long rfl
theorem Sys2Proof.Laws.Encodes.mpost (o : Ops) : Statement (.mpost o) := of_long rfl
theorem Sys2Proof.Laws.Encodes.mpostNb (o : Ops) : Statement (.mpostNb o) := of_long rfl
theorem Sys2Proof.Laws.Encodes.mtake (o : Ops) : Statement (.mtake o) := of_long rfl
theorem Sys2Proof.Laws.Encodes.mtry (o : Ops) : Statement (.mtry o) := of_long rfl
theorem Sys2Proof.Laws.Encodes.mbind (o : Ops) : Statement (.mbind o) := of_long rfl
theorem Sys2Proof.Laws.Encodes.job (o : Ops) : Statement (.job o) := of_long rfl
theorem Sys2Proof.Laws.Encodes.tcpy (o : Ops) : Statement (.tcpy o) := of_long rfl
theorem Sys2Proof.Laws.Encodes.tsto (o : Ops) : Statement (.tsto o) := of_long rfl
theorem Sys2Proof.Laws.Encodes.tgat (o : Ops) : Statement (.tgat o) := of_long rfl
theorem Sys2Proof.Laws.Encodes.tsct (o : Ops) : Statement (.tsct o) := of_long rfl
theorem Sys2Proof.Laws.Encodes.tcol (o : Ops) : Statement (.tcol o) := of_long rfl
theorem Sys2Proof.Laws.Encodes.fwait (o : Ops) : Statement (.fwait o) := of_long rfl
theorem Sys2Proof.Laws.Encodes.ftest (o : Ops) : Statement (.ftest o) := of_long rfl
theorem Sys2Proof.Laws.Encodes.fcanc (o : Ops) : Statement (.fcanc o) := of_long rfl
theorem Sys2Proof.Laws.Encodes.qbind (o : Ops) : Statement (.qbind o) := of_long rfl
theorem Sys2Proof.Laws.Encodes.qstatStatus (o : Ops) : Statement (.qstatStatus o) := of_long rfl
theorem Sys2Proof.Laws.Encodes.qstatPop (o : Ops) : Statement (.qstatPop o) := of_long rfl
theorem Sys2Proof.Laws.Encodes.qstatPush (o : Ops) : Statement (.qstatPush o) := of_long rfl
theorem Sys2Proof.Laws.Encodes.mstart (o : Ops) : Statement (.mstart o) := of_long rfl
theorem Sys2Proof.Laws.Encodes.mstat (o : Ops) : Statement (.mstat o) := of_long rfl
theorem Sys2Proof.Laws.Encodes.sret (o : Ops) : Statement (.sret o) := of_long rfl
theorem Sys2Proof.Laws.Encodes.tlbinvPage (o : Ops) : Statement (.tlbinvPage o) := of_long rfl
theorem Sys2Proof.Laws.Encodes.tlbinvCtx (o : Ops) : Statement (.tlbinvCtx o) := of_long rfl
theorem Sys2Proof.Laws.Encodes.tlbinvGlobal (o : Ops) : Statement (.tlbinvGlobal o) := of_long rfl
theorem Sys2Proof.Laws.Encodes.pfrep (o : Ops) : Statement (.pfrep o) := of_long rfl
theorem Sys2Proof.Laws.Encodes.pfcan (o : Ops) : Statement (.pfcan o) := of_long rfl
theorem Sys2Proof.Laws.Encodes.msave (o : Ops) : Statement (.msave o) := of_long rfl
theorem Sys2Proof.Laws.Encodes.mrest (o : Ops) : Statement (.mrest o) := of_long rfl
theorem Sys2Proof.Laws.Encodes.gate (o : Ops) : Statement (.gate o) := of_long rfl
theorem Sys2Proof.Laws.Encodes.ctxldLoad (o : Ops) : Statement (.ctxldLoad o) := of_long rfl
theorem Sys2Proof.Laws.Encodes.ctxldTeardown (o : Ops) : Statement (.ctxldTeardown o) := of_long rfl
theorem Sys2Proof.Laws.Encodes.wfi (o : Ops) : Statement (.wfi o) := of_long rfl
theorem Sys2Proof.Laws.Encodes.sipiWake (o : Ops) : Statement (.sipiWake o) := of_long rfl
theorem Sys2Proof.Laws.Encodes.sipiPreempt (o : Ops) : Statement (.sipiPreempt o) := of_long rfl
theorem Sys2Proof.Laws.Encodes.sipiJoin (o : Ops) : Statement (.sipiJoin o) := of_long rfl
theorem Sys2Proof.Laws.Encodes.sipiLeave (o : Ops) : Statement (.sipiLeave o) := of_long rfl
theorem Sys2Proof.Laws.Encodes.sipiRetire (o : Ops) : Statement (.sipiRetire o) := of_long rfl
theorem Sys2Proof.Laws.Encodes.sipiUnretire (o : Ops) : Statement (.sipiUnretire o) := of_long rfl
theorem Sys2Proof.Laws.Encodes.mnop : Statement (.mnop) := of_none rfl
theorem Sys2Proof.Laws.Encodes.mma (o : MmaOps) : Statement (.mma o) := of_none rfl
theorem Sys2Proof.Laws.Encodes.mmas (o : MmaOps) : Statement (.mmas o) := of_none rfl
theorem Sys2Proof.Laws.Encodes.mconv (o : MmaOps) : Statement (.mconv o) := of_none rfl
theorem Sys2Proof.Laws.Encodes.mzero (acc n1 : BitVec 3) : Statement (.mzero acc n1) := of_none rfl
theorem Sys2Proof.Laws.Encodes.mld (o : TileOps) : Statement (.mld o) := of_none rfl
theorem Sys2Proof.Laws.Encodes.mst (o : TileOps) : Statement (.mst o) := of_none rfl
theorem Sys2Proof.Laws.Encodes.mdrain (o : DrainOps) : Statement (.mdrain o) := of_none rfl
theorem Sys2Proof.Laws.Encodes.mshp (slot : BitVec 3) (off : BitVec 20) : Statement (.mshp slot off) := of_none rfl
theorem Sys2Proof.Laws.Encodes.mbar (obj : BitVec 4) : Statement (.mbar obj) := of_none rfl
theorem Sys2Proof.Laws.Encodes.mbwt (obj : BitVec 4) : Statement (.mbwt obj) := of_none rfl
theorem Sys2Proof.Laws.Encodes.mloop (o : LoopOps) : Statement (.mloop o) := of_none rfl
theorem Sys2Proof.Laws.Encodes.mjmp (off : BitVec 32) : Statement (.mjmp off) := of_none rfl
theorem Sys2Proof.Laws.Encodes.mend : Statement (.mend) := of_none rfl
theorem Sys2Proof.Laws.Encodes.mstreamUnassignedWord (w : BitVec 64) : Statement (.mstreamUnassignedWord w) := of_none rfl
theorem Sys2Proof.Laws.Encodes.kinstInstall (o : Ops) : Statement (.kinstInstall o) := of_long rfl
theorem Sys2Proof.Laws.Encodes.lmaskWrite (o : Ops) : Statement (.lmaskWrite o) := of_long rfl
theorem Sys2Proof.Laws.Encodes.gsaveWrite (o : Ops) : Statement (.gsaveWrite o) := of_long rfl
theorem Sys2Proof.Laws.Encodes.sppdataWrite (o : Ops) : Statement (.sppdataWrite o) := of_long rfl
theorem Sys2Proof.Laws.Encodes.srseedWrite (o : Ops) : Statement (.srseedWrite o) := of_long rfl
theorem Sys2Proof.Laws.Encodes.fpcsrWrite (o : Ops) : Statement (.fpcsrWrite o) := of_long rfl
theorem Sys2Proof.Laws.Encodes.qlevelWrite (o : Ops) : Statement (.qlevelWrite o) := of_long rfl
theorem Sys2Proof.Laws.Encodes.ringPointerWrite (o : Ops) : Statement (.ringPointerWrite o) := of_long rfl
theorem Sys2Proof.Laws.Encodes.ringTailWrite (o : Ops) : Statement (.ringTailWrite o) := of_long rfl
theorem Sys2Proof.Laws.Encodes.ringHeadRead (o : Ops) : Statement (.ringHeadRead o) := of_long rfl
theorem Sys2Proof.Laws.Encodes.tgtselWrite (o : Ops) : Statement (.tgtselWrite o) := of_long rfl
theorem Sys2Proof.Laws.Encodes.waitstViewWrite (o : Ops) : Statement (.waitstViewWrite o) := of_long rfl
theorem Sys2Proof.Laws.Encodes.progwinWrite (o : Ops) : Statement (.progwinWrite o) := of_long rfl
theorem Sys2Proof.Laws.Encodes.progfaultWrite (o : Ops) : Statement (.progfaultWrite o) := of_long rfl
theorem Sys2Proof.Laws.Encodes.clauseIssue (core part islot : Nat) : Statement (.clauseIssue core part islot) := of_none rfl
theorem Sys2Proof.Laws.Encodes.translationWalk (cluster ctx : Nat) (va : BitVec 64) : Statement (.translationWalk cluster ctx va) := of_none rfl
theorem Sys2Proof.Laws.Encodes.tlbinvComplete (core slot : Nat) : Statement (.tlbinvComplete core slot) := of_none rfl
theorem Sys2Proof.Laws.Encodes.storeQueueDrain (core slot : Nat) : Statement (.storeQueueDrain core slot) := of_none rfl
theorem Sys2Proof.Laws.Encodes.barrierArrival (core slot : Nat) : Statement (.barrierArrival core slot) := of_none rfl
theorem Sys2Proof.Laws.Encodes.illbarrierDelivery (core slot : Nat) : Statement (.illbarrierDelivery core slot) := of_none rfl
theorem Sys2Proof.Laws.Encodes.treeArrival (core slot : Nat) : Statement (.treeArrival core slot) := of_none rfl
theorem Sys2Proof.Laws.Encodes.treeReleaseSeen (tree core : Nat) : Statement (.treeReleaseSeen tree core) := of_none rfl
theorem Sys2Proof.Laws.Encodes.waitEnd (core slot live : Nat) : Statement (.waitEnd core slot live) := of_none rfl
theorem Sys2Proof.Laws.Encodes.bwaitTimeout (core slot live : Nat) : Statement (.bwaitTimeout core slot live) := of_none rfl
theorem Sys2Proof.Laws.Encodes.wfiTimeout (core : Nat) : Statement (.wfiTimeout core) := of_none rfl
theorem Sys2Proof.Laws.Encodes.homeAccess (n : Nat) : Statement (.homeAccess n) := of_none rfl
theorem Sys2Proof.Laws.Encodes.thawComplete (frame sub : Nat) : Statement (.thawComplete frame sub) := of_none rfl
theorem Sys2Proof.Laws.Encodes.bankIdleExpiry (stack bank : Nat) : Statement (.bankIdleExpiry stack bank) := of_none rfl
theorem Sys2Proof.Laws.Encodes.refresh (stack first count : Nat) : Statement (.refresh stack first count) := of_none rfl
theorem Sys2Proof.Laws.Encodes.backgroundAging (n : Nat) : Statement (.backgroundAging n) := of_none rfl
theorem Sys2Proof.Laws.Encodes.falloc (n : Nat) : Statement (.falloc n) := of_none rfl
theorem Sys2Proof.Laws.Encodes.ffree (n : Nat) : Statement (.ffree n) := of_none rfl
theorem Sys2Proof.Laws.Encodes.fclear (n : Nat) : Statement (.fclear n) := of_none rfl
theorem Sys2Proof.Laws.Encodes.fmigr (n : Nat) : Statement (.fmigr n) := of_none rfl
theorem Sys2Proof.Laws.Encodes.cutover (frame : Nat) : Statement (.cutover frame) := of_none rfl
theorem Sys2Proof.Laws.Encodes.sourceRelease (frame : Nat) : Statement (.sourceRelease frame) := of_none rfl
theorem Sys2Proof.Laws.Encodes.fsettle (n : Nat) : Statement (.fsettle n) := of_none rfl
theorem Sys2Proof.Laws.Encodes.ffrost (n : Nat) : Statement (.ffrost n) := of_none rfl
theorem Sys2Proof.Laws.Encodes.fthaw (n : Nat) : Statement (.fthaw n) := of_none rfl
theorem Sys2Proof.Laws.Encodes.fscrub (n : Nat) : Statement (.fscrub n) := of_none rfl
theorem Sys2Proof.Laws.Encodes.hmwrite (n : Nat) : Statement (.hmwrite n) := of_none rfl
theorem Sys2Proof.Laws.Encodes.hmwriteComplete (host hfn : Nat) : Statement (.hmwriteComplete host hfn) := of_none rfl
theorem Sys2Proof.Laws.Encodes.sregwMcidle (n : Nat) : Statement (.sregwMcidle n) := of_none rfl
theorem Sys2Proof.Laws.Encodes.sregwFrostctl (n : Nat) : Statement (.sregwFrostctl n) := of_none rfl
theorem Sys2Proof.Laws.Encodes.fread (n : Nat) : Statement (.fread n) := of_none rfl
theorem Sys2Proof.Laws.Encodes.copy (sched slot : Nat) : Statement (.copy sched slot) := of_none rfl
theorem Sys2Proof.Laws.Encodes.fill (sched slot : Nat) : Statement (.fill sched slot) := of_none rfl
theorem Sys2Proof.Laws.Encodes.gather (sched slot : Nat) : Statement (.gather sched slot) := of_none rfl
theorem Sys2Proof.Laws.Encodes.scatter (sched slot : Nat) : Statement (.scatter sched slot) := of_none rfl
theorem Sys2Proof.Laws.Encodes.collective (sched slot : Nat) (peers : List CollPeer) : Statement (.collective sched slot peers) := of_none rfl
theorem Sys2Proof.Laws.Encodes.gateJob (sched slot : Nat) : Statement (.gateJob sched slot) := of_none rfl
theorem Sys2Proof.Laws.Encodes.seal (sched slot : Nat) : Statement (.seal sched slot) := of_none rfl
theorem Sys2Proof.Laws.Encodes.unseal (sched slot : Nat) : Statement (.unseal sched slot) := of_none rfl
theorem Sys2Proof.Laws.Encodes.jobComplete (sched slot : Nat) : Statement (.jobComplete sched slot) := of_none rfl
theorem Sys2Proof.Laws.Encodes.gatherEntryDelivery (sched slot : Nat) : Statement (.gatherEntryDelivery sched slot) := of_none rfl
theorem Sys2Proof.Laws.Encodes.teamAdmit (cluster : Nat) : Statement (.teamAdmit cluster) := of_none rfl
theorem Sys2Proof.Laws.Encodes.progressSwap (core : Nat) : Statement (.progressSwap core) := of_none rfl
theorem Sys2Proof.Laws.Encodes.progressFault (core : Nat) : Statement (.progressFault core) := of_none rfl
theorem Sys2Proof.Laws.Encodes.preemptEntry (core slot : Nat) : Statement (.preemptEntry core slot) := of_none rfl
theorem Sys2Proof.Laws.Encodes.teamSaveComplete (team : Nat) : Statement (.teamSaveComplete team) := of_none rfl
theorem Sys2Proof.Laws.Encodes.dieLost (bit : Nat) : Statement (.dieLost bit) := of_none rfl
theorem Sys2Proof.Laws.Encodes.dielossEntry (core slot : Nat) : Statement (.dielossEntry core slot) := of_none rfl
theorem Sys2Proof.Laws.Encodes.warmReset (die : Nat) : Statement (.warmReset die) := of_none rfl
theorem Sys2Proof.Laws.Encodes.moduleReset : Statement (.moduleReset) := of_none rfl
theorem Sys2Proof.Laws.Encodes.thermalTrip (bit : Nat) : Statement (.thermalTrip bit) := of_none rfl
theorem Sys2Proof.Laws.Encodes.hostRead (r : HostReq) : Statement (.hostRead r) := of_none rfl
theorem Sys2Proof.Laws.Encodes.hostWrite (r : HostReq) : Statement (.hostWrite r) := of_none rfl
theorem Sys2Proof.Laws.Encodes.hostPartialWrite (r : HostReq) : Statement (.hostPartialWrite r) := of_none rfl
theorem Sys2Proof.Laws.Encodes.hostAtomic (r : HostReq) : Statement (.hostAtomic r) := of_none rfl
theorem Sys2Proof.Laws.Encodes.windowUpdate (port : Nat) (rd wr : BitVec 16) : Statement (.windowUpdate port rd wr) := of_none rfl
theorem Sys2Proof.Laws.Encodes.fezalCompletion (port : Nat) (tag : BitVec 16) (status : Nat) (data : List Byte) : Statement (.fezalCompletion port tag status data) := of_none rfl
theorem Sys2Proof.Laws.Encodes.heldMissRetranslate (host hfn : Nat) : Statement (.heldMissRetranslate host hfn) := of_none rfl
theorem Sys2Proof.Laws.Encodes.hostFaultDeadline (host hfn : Nat) : Statement (.hostFaultDeadline host hfn) := of_none rfl
theorem Sys2Proof.Laws.Encodes.linkTraining (port : Nat) (rd wr : BitVec 16) : Statement (.linkTraining port rd wr) := of_none rfl
theorem Sys2Proof.Laws.Encodes.bisnp (port line kind : Nat) : Statement (.bisnp port line kind) := of_none rfl
theorem Sys2Proof.Laws.Encodes.replicaAckTimeout (n : Nat) : Statement (.replicaAckTimeout n) := of_none rfl
theorem Sys2Proof.Laws.Encodes.ringWriteResume (ring : Ring) : Statement (.ringWriteResume ring) := of_none rfl
theorem Sys2Proof.Laws.Encodes.worldCreate (d : WorldDesc) : Statement (.worldCreate d) := of_none rfl
theorem Sys2Proof.Laws.Encodes.query (master ctx : Nat) : Statement (.query master ctx) := of_none rfl
theorem Sys2Proof.Laws.Encodes.measure (master : Nat) (nonce : BitVec 384) : Statement (.measure master nonce) := of_none rfl
theorem Sys2Proof.Laws.Encodes.claim (master : Nat) : Statement (.claim master) := of_none rfl
theorem Sys2Proof.Laws.Encodes.handover (master heir : Nat) : Statement (.handover master heir) := of_none rfl
theorem Sys2Proof.Laws.Encodes.handoverExpiry : Statement (.handoverExpiry) := of_none rfl
theorem Sys2Proof.Laws.Encodes.reclaim (master : Nat) : Statement (.reclaim master) := of_none rfl
theorem Sys2Proof.Laws.Encodes.lifecycle (master iface : Nat) : Statement (.lifecycle master iface) := of_none rfl
theorem Sys2Proof.Laws.Encodes.creset (master : Nat) : Statement (.creset master) := of_none rfl
theorem Sys2Proof.Laws.Encodes.setcoll (master : Nat) (reg : Bool) (c : CollGroup) : Statement (.setcoll master reg c) := of_none rfl
theorem Sys2Proof.Laws.Encodes.powercap (master watts : Nat) : Statement (.powercap master watts) := of_none rfl
theorem Sys2Proof.Laws.Encodes.counterWindowBoundary : Statement (.counterWindowBoundary) := of_none rfl
theorem Sys2Proof.Laws.Encodes.copyBlockComplete (frame : Nat) : Statement (.copyBlockComplete frame) := of_none rfl
theorem Sys2Proof.Laws.Encodes.subframeFrosted (frame sub : Nat) : Statement (.subframeFrosted frame sub) := of_none rfl
theorem Sys2Proof.Laws.Encodes.jobReadsPerformed (sched slot : Nat) : Statement (.jobReadsPerformed sched slot) := of_none rfl
theorem Sys2Proof.Laws.Encodes.computeResetEnd : Statement (.computeResetEnd) := of_none rfl
theorem Sys2Proof.Laws.Encodes.cxlLinkTraining (port : Nat) (d : CxlDevice) : Statement (.cxlLinkTraining port d) := of_none rfl
theorem Sys2Proof.Laws.Encodes.cxlCompletion (n : Nat) (poisoned : Bool) (data : List Byte) : Statement (.cxlCompletion n poisoned data) := of_none rfl
theorem Sys2Proof.Laws.Encodes.variableLatencyResult (core slot n : Nat) : Statement (.variableLatencyResult core slot n) := of_none rfl
theorem Sys2Proof.Laws.Encodes.arithmeticClockLowering (watts : Nat) : Statement (.arithmeticClockLowering watts) := of_none rfl
theorem Sys2Proof.Laws.Encodes.debugAccess (addr : Nat) : Statement (.debugAccess addr) := of_none rfl
theorem Sys2Proof.Laws.Encodes.worldEnd (world : Nat) : Statement (.worldEnd world) := of_none rfl
end

