-- ==== Sys2Proof/Laws/Retire.lean ====
section
/-! SUPPORT. What retiring an instruction, ending a clause, and taking a trap do: one lemma for each shared operation, which says everything that it can do. -/

namespace Sys2Proof.Machine

/-! ## The clause boundary moves fragments only -/

theorem Group.setSlot_frame (g : Group) (k : Nat) (x : Slot) :
    g.setSlot k x = { g with s0 := (g.setSlot k x).s0, s1 := (g.setSlot k x).s1 } := by
  unfold Group.setSlot; split <;> rfl

/-- `g'` differs from `g` in slots, spill area, rotation and pass counters only. -/
def FragsOnly (g g' : Group) : Prop := g' = { g with s0 := g'.s0, s1 := g'.s1, spill := g'.spill, rotc := g'.rotc, pass := g'.pass }

theorem FragsOnly.refl (g : Group) : FragsOnly g g := rfl

theorem FragsOnly.trans {a b c : Group} (h : FragsOnly a b) (k : FragsOnly b c) : FragsOnly a c := by
  unfold FragsOnly at *; rw [h] at k; exact k

theorem FragsOnly.setSlot {a b : Group} (h : FragsOnly a b) (k : Nat) (x : Slot) : FragsOnly a (b.setSlot k x) := by
  refine h.trans ?_
  unfold FragsOnly Group.setSlot; split <;> rfl

theorem FragsOnly.spill {a b : Group} (h : FragsOnly a b) (l : List Frag) : FragsOnly a { b with spill := l } :=
  h.trans rfl

theorem FragsOnly.rotc {a b : Group} (h : FragsOnly a b) (n : Nat) : FragsOnly a { b with rotc := n } := h.trans rfl

theorem FragsOnly.spillRotc {a b : Group} (h : FragsOnly a b) (l : List Frag) (n : Nat) :
    FragsOnly a { b with spill := l, rotc := n } := h.trans rfl

theorem FragsOnly.refill {a b : Group} (h : FragsOnly a b) (k clock : Nat) : FragsOnly a (b.refill k clock) := by
  unfold Group.refill
  split
  · split
    · exact (h.setSlot _ _).spill _
    · exact h
  · exact h

theorem FragsOnly.rotate {a b : Group} (h : FragsOnly a b) (k clock : Nat) : FragsOnly a (b.rotate k clock) := by
  unfold Group.rotate
  generalize (if (b.slot k).held then 1 - k else k) = j
  dsimp only
  split
  · exact h.rotc _
  · split
    · exact h.rotc _
    · split
      · exact (h.setSlot _ _).spillRotc _ _
      · exact (h.setSlot _ _).spillRotc _ _

theorem FragsOnly.keepPass {a b : Group} (h : FragsOnly a b) (old : Group) : FragsOnly a (b.keepPass old) := by
  unfold Group.keepPass
  split
  · exact h
  · exact h.trans rfl

theorem place_fragsOnly (g : Group) (k clock : Nat) (frs : List Frag) : FragsOnly g (g.place k clock frs) := by
  unfold Group.place
  dsimp only
  refine FragsOnly.refill (FragsOnly.refill ?_ _ _) _ _
  have r := FragsOnly.refl g
  repeat' split
  all_goals first
    | exact (r.setSlot _ _).spill _
    | exact ((r.setSlot _ _).setSlot _ _).spill _

/-- R166, R168, R169, R171: a clause boundary moves fragments and nothing else. -/
theorem boundary_fragsOnly (g : Group) (k clock : Nat) (frs : List Frag) : FragsOnly g (g.boundary k clock frs) := by
  have h := place_fragsOnly g k clock frs
  unfold Group.boundary
  dsimp only
  refine FragsOnly.keepPass ?_ _
  split
  · exact h.rotc _
  · split
    · exact h.rotate _ _
    · exact h

/-! ## Ending a clause, retiring -/

theorem dropPops_ports (g : Group) (k : Nat) :
    (g.dropPops k).queues.map (fun q => (q.port, q.fifo)) = g.queues.map (fun q => (q.port, q.fifo)) := by
  simp [Group.dropPops, List.map_map, Function.comp_def]

theorem boundary_sameData (g : Group) (k clock : Nat) (frs : List Frag) :
    SameData g { (g.dropPops k).boundary k clock frs with clause := none } := by
  have h := boundary_fragsOnly (g.dropPops k) k clock frs
  unfold FragsOnly at h
  generalize hb : (g.dropPops k).boundary k clock frs = b at h ⊢
  rw [h]
  exact ⟨rfl, dropPops_ports g k⟩

theorem restartProgress_only (s : State) (gid : Nat) (g : Group) : OnlyGroup s ((restartProgress s (coreOfGid gid)).setGroup gid g) gid where
  rest := rfl
  others := fun n h => by simp [restartProgress, h]
  cores := fun n h => by
    show State.coreOf (State.setGroup _ _ _) n = _
    exact SMap.get_set_other _ _ _ h
  core := SMap.get_set_same _ _ _ _

/-- R168: what ending a clause does, after the progress counters have restarted. -/
theorem endClause_ended (s : State) (gid : Nat) (g : Group) (c : Clause) (frs : List Frag) :
    Ended s (endClause (restartProgress s (coreOfGid gid)) gid g c frs) gid c g frs where
  only := restartProgress_only s gid _
  group := ⟨_, SMap.find?_put_same _ _ _, boundary_sameData g c.slot s.clock frs, rfl⟩

/-- R94, R188: what retiring an instruction does. -/
theorem retire_retired (s : State) (gid : Nat) (g : Group) (c : Clause) (lat : Option (SMap DWord)) :
    Retired s (retire s gid g c lat) gid c g lat := by
  by_cases h : c.words.drop c.len = []
  · have he := endClause_ended s gid g c [(g.fmask &&& g.lmask, c.nextPc)]
    have hr : retire s gid g c lat = endClause (restartProgress s (coreOfGid gid)) gid g c [(g.fmask &&& g.lmask, c.nextPc)] := by
      unfold retire; simp [h]
    rw [hr]
    obtain ⟨g', h1, h2, h3⟩ := he.group
    exact ⟨he.only, ⟨g', h1, h2⟩, fun hn => absurd h hn, fun _ => he⟩
  · have hr : retire s gid g c lat = (restartProgress s (coreOfGid gid)).setGroup gid
        { g with clause := some { c with words := c.words.drop c.len, idx := c.idx + 1, ipc := c.nextPc, lats := lat :: c.lats } } := by
      unfold retire; simp [h]
    rw [hr]
    exact ⟨restartProgress_only s gid _, ⟨_, SMap.find?_put_same _ _ _, rfl, rfl⟩, fun _ => SMap.find?_put_same _ _ _, fun hn => absurd hn h⟩

/-- The branch of R335 ends the clause with each lane at its target. -/
theorem branch_ended (s : State) (gid : Nat) (g : Group) (c : Clause) (tgt : Nat → DWord) :
    Ended s (branch s gid g c tgt) gid c g ((lanesOf (g.fmask &&& g.lmask)).map (fun i => (BitVec.twoPow 64 i, tgt i))) :=
  endClause_ended s gid g c _

/-! ## Results that arrive (R198, R253) -/

theorem setPLane_frame (g : Group) (n l : Nat) (b : Bool) : g.setPLane n l b = { g with preds := (g.setPLane n l b).preds } := rfl

/-- A result that arrives writes registers, predicates, split bits and FPCSR only. -/
theorem applyWrite_frame (g : Group) (w : RegWrite) :
    g.applyWrite w = { g with vregs := (g.applyWrite w).vregs, preds := (g.applyWrite w).preds, sregs := (g.applyWrite w).sregs,
                              ssplit := (g.applyWrite w).ssplit, kregs := (g.applyWrite w).kregs, fpcsr := (g.applyWrite w).fpcsr } := by
  cases w <;> rfl

/-- `g'` differs from `g` in registers, split bits, FPCSR, counters and outstanding results only. -/
def RegsOnly (g g' : Group) : Prop :=
  g' = { g with vregs := g'.vregs, preds := g'.preds, sregs := g'.sregs, ssplit := g'.ssplit, kregs := g'.kregs, fpcsr := g'.fpcsr,
                counters := g'.counters, pending := g'.pending }

theorem RegsOnly.trans {a b c : Group} (h : RegsOnly a b) (k : RegsOnly b c) : RegsOnly a c := by
  unfold RegsOnly at *; rw [h] at k; exact k

theorem applyWrites_regsOnly (ws : List RegWrite) (g : Group) : RegsOnly g (ws.foldl Group.applyWrite g) := by
  induction ws generalizing g with
  | nil => rfl
  | cons w ws ih => exact RegsOnly.trans (by cases w <;> rfl) (ih _)

theorem applyPending_regsOnly (ps : List Pending) (g : Group) : RegsOnly g (ps.foldl Group.applyPending g) := by
  induction ps generalizing g with
  | nil => rfl
  | cons p ps ih =>
    refine RegsOnly.trans ?_ (ih _)
    have h := applyWrites_regsOnly p.writes g
    unfold Group.applyPending
    exact RegsOnly.trans h rfl

/-- R198: writing every outstanding result leaves everything else, and no counter up. -/
theorem flush_regsOnly (g : Group) : RegsOnly g g.flush := by
  have h := applyPending_regsOnly g.pending g
  unfold Group.flush
  exact RegsOnly.trans h rfl

@[simp] theorem flush_pending (g : Group) : g.flush.pending = [] := rfl
@[simp] theorem flush_counters (g : Group) : g.flush.counters = [0, 0, 0, 0, 0, 0, 0, 0] := rfl
@[simp] theorem flush_sup (g : Group) : g.flush.sup = g.sup := by rw [flush_regsOnly g]
@[simp] theorem flush_spill (g : Group) : g.flush.spill = g.spill := by rw [flush_regsOnly g]
@[simp] theorem flush_ctx (g : Group) : g.flush.ctx = g.ctx := by rw [flush_regsOnly g]
@[simp] theorem flush_s0 (g : Group) : g.flush.s0 = g.s0 := by rw [flush_regsOnly g]
@[simp] theorem flush_s1 (g : Group) : g.flush.s1 = g.s1 := by rw [flush_regsOnly g]
@[simp] theorem flush_sq (g : Group) : g.flush.sq = g.sq := by rw [flush_regsOnly g]
@[simp] theorem flush_lmask (g : Group) : g.flush.lmask = g.lmask := by rw [flush_regsOnly g]
@[simp] theorem flush_fpark (g : Group) : g.flush.fpark = g.fpark := by rw [flush_regsOnly g]
@[simp] theorem flush_frstat (g : Group) : g.flush.frstat = g.frstat := by rw [flush_regsOnly g]; rfl

end Sys2Proof.Machine
end

