-- ==== Sys2Proof/Laws/Trap.lean ====
section
/-! SUPPORT. What taking a trap does, in user mode and in supervisor mode (R202, R203, R205). -/

namespace Sys2Proof.Machine

theorem frontierWrite_empty (s : State) (gid : Nat) (g : Group) (pc : DWord) (h : g.spill = []) :
    frontierWrite s gid g pc = (some g, s) := by
  unfold frontierWrite; simp [h]

theorem shown_mask (x : Slot) : x.shown.mask = x.mask ∧ x.shown.pc = x.pc := by
  unfold Slot.shown; split <;> exact ⟨rfl, rfl⟩

/-- R202, R203: a trap taken in user mode, while nothing is spilled. -/
theorem takeTrap_trapped (s : State) (gid : Nat) (g : Group) (ctx : Ctx) (r : TrapReq) (hg : SMap.find? s.groups gid = some g)
    (hu : g.sup = false) (hs : g.spill = []) (hf : g.fpark = none) (hc : s.ctxOf? g.ctx = some ctx) :
    Trapped s (takeTrap s gid r) gid g r := by
  unfold takeTrap
  simp only [hg, flush_sup, hu, Bool.false_eq_true, if_false, frontierWrite_empty s gid g.flush _ (show g.flush.spill = [] by simp [hs])]
  have hctx : ∀ s' : State, s'.ctxs = s.ctxs → s'.ctxOf? g.flush.ctx = some ctx := fun s' h => by
    rw [flush_ctx, ← hc]; unfold State.ctxOf?; rw [h]
  rw [hctx (if r.issues = true then restartProgress s (coreOfGid gid) else s) (by split <;> rfl)]
  have hcl : (if r.issues = true then restartProgress s (coreOfGid gid) else s).clock = s.clock := by split <;> rfl
  refine ⟨by split <;> rfl, fun n hn => ?_, fun n hn => ?_, fun hi => ?_, ?_⟩
  · split <;> exact SMap.find?_put_other _ _ hn
  · split
    · next hi =>
      exact SMap.get_set_other _ _ _ (hn.resolve_right (by simp [hi]))
    · rfl
  · rw [if_pos hi]; exact SMap.get_set_same _ _ _ _
  · refine ⟨_, ctx, SMap.find?_put_same _ _ _, hc, rfl, rfl, rfl, rfl, rfl, ?_, rfl, ?_, ?_, ?_, ?_, ?_, flush_frstat g, rfl,
      flush_lmask g, flush_sq g, rfl, fun _ _ => rfl, fun _ => rfl, fun _ => rfl⟩
    · exact congrArg (fun n => ({ Slot.empty with mask := r.run, pc := ctx.svbase + BitVec.ofNat 64 (0x100 * r.cause), since := n } : Slot)) hcl
    · exact if_neg (by simp [hf])
    all_goals
      simp only [shown_mask]
      repeat' split
      all_goals simp

/-- R205: a trap taken in supervisor mode halts the group, records itself, and posts the double-trap event. -/
theorem takeTrap_double (s : State) (gid : Nat) (g : Group) (r : TrapReq) (hg : SMap.find? s.groups gid = some g)
    (hu : g.sup = true) :
    takeTrap s gid r =
      postDouble ((if r.issues then restartProgress s (coreOfGid gid) else s).setGroup gid
        { g.flush with trec := trecWord r g.flush, halted := true, clause := none }) gid g.ctx := by
  unfold takeTrap
  simp [hg, hu]

end Sys2Proof.Machine
end

