-- ==== Sys2Proof/Laws/Vec.lean ====
section
/-! SUPPORT. What the shared forms of the vector, predicate and scalar instructions do when no operand traps: one lemma for each form (R248, R272, R315). -/

namespace Sys2Proof.Machine

theorem mem_lanesOf (m : DWord) (i : Nat) : i ∈ lanesOf m ↔ m.getLsbD i = true := by
  unfold lanesOf
  rw [List.mem_filter, List.mem_range]
  constructor
  · exact fun h => h.2
  · exact fun h => ⟨BitVec.lt_of_getLsbD h, h⟩

theorem nodup_lanesOf (m : DWord) : (lanesOf m).Nodup := List.Nodup.filter _ List.nodup_range

theorem writeVec_frame (g : Group) (i : Nat) (w64 : Bool) (code : BitVec 8) (x : DWord) :
    writeVec g i w64 code x = { g with vregs := (writeVec g i w64 code x).vregs } := by
  unfold writeVec; dsimp only; split <;> rfl

theorem writeVecs_frame (l : List Nat) (g : Group) (w64 : Bool) (code : BitVec 8) (x : Nat → DWord) :
    l.foldl (fun g i => writeVec g i w64 code (x i)) g =
      { g with vregs := (l.foldl (fun g i => writeVec g i w64 code (x i)) g).vregs } := by
  induction l generalizing g with
  | nil => rfl
  | cons i l ih =>
    rw [List.foldl_cons, ih]
    rw [writeVec_frame g i w64 code (x i)]

theorem destReg_writeVec (g : Group) (i j : Nat) (w64 : Bool) (code code' : BitVec 8) (x : DWord) :
    destReg (writeVec g i w64 code x) j code' = destReg g j code' := by
  rw [writeVec_frame]; rfl

/-- R249, R251: what a lane's vector registers read as after a write of its destination. -/
theorem v_writeVec (g : Group) (i : Nat) (w64 : Bool) (code : BitVec 8) (x : DWord) (lane reg : Nat) (hr : reg < 512)
    (hb : destReg g i code + (if w64 then 1 else 0) < 512) :
    (writeVec g i w64 code x).v lane reg =
      if lane = i ∧ reg = destReg g i code then field x 0 32
      else if w64 = true ∧ lane = i ∧ reg = destReg g i code + 1 then field x 32 32
      else g.v lane reg := by
  have hd : (if code.toNat ≤ 0xEF then code.toNat else xReg g i code) = destReg g i code := rfl
  unfold writeVec
  cases w64 with
  | false =>
    dsimp only
    rw [hd]
    simp only [Bool.false_eq_true, if_false, false_and] at hb ⊢
    rw [Group.v_setV _ _ _ _ _ _ (by omega) hr]
  | true =>
    dsimp only
    rw [hd]
    simp only [if_true, true_and] at hb ⊢
    unfold Group.setV64
    rw [Group.v_setV _ _ _ _ _ _ (by omega) hr, Group.v_setV _ _ _ _ _ _ (by omega) hr]
    by_cases h1 : lane = i ∧ reg = destReg g i code + 1
    · rw [if_pos h1, if_neg (by omega), if_pos h1]
    · rw [if_neg h1, if_neg h1]

theorem v_writeVecs (l : List Nat) (g : Group) (w64 : Bool) (code : BitVec 8) (x : Nat → DWord) (lane reg : Nat)
    (hn : l.Nodup) (hr : reg < 512) (hb : ∀ i ∈ l, destReg g i code + (if w64 then 1 else 0) < 512) :
    (l.foldl (fun g i => writeVec g i w64 code (x i)) g).v lane reg =
      if lane ∈ l ∧ reg = destReg g lane code then field (x lane) 0 32
      else if w64 = true ∧ lane ∈ l ∧ reg = destReg g lane code + 1 then field (x lane) 32 32
      else g.v lane reg := by
  induction l generalizing g with
  | nil => simp
  | cons i l ih =>
    rw [List.foldl_cons, ih _ (List.nodup_cons.mp hn).2 (fun j hj => by
      rw [destReg_writeVec]; exact hb j (List.mem_cons_of_mem _ hj))]
    rw [destReg_writeVec, v_writeVec g i w64 code (x i) lane reg hr (hb i List.mem_cons_self)]
    have hi : i ∉ l := (List.nodup_cons.mp hn).1
    by_cases hl : lane = i
    · subst hl
      simp only [hi, false_and, and_false, if_false, true_and, List.mem_cons_self]
    · simp only [List.mem_cons, hl, false_or, false_and, and_false, if_false]

theorem find?_map_lanes {β : Type} (l : List Nat) (f : Nat → β) (i : Nat) :
    SMap.find? (l.map (fun j => (j, f j))) i = if i ∈ l then some (f i) else none := by
  induction l with
  | nil => rfl
  | cons j l ih =>
    simp only [List.map_cons, SMap.find?, ih, List.mem_cons]
    by_cases h : j = i
    · subst h; simp
    · simp [h, Ne.symm h]

/-- The active lanes lie in the fragment. -/
theorem lanes_fmask (c : Clause) (g : Group) (i : Nat) (h : (c.lanes g).getLsbD i = true) : g.fmask.getLsbD i = true := by
  unfold Clause.lanes at h
  split at h
  · split at h
    · simp at h; exact h.2
    · exact h
  · exact h

theorem active_fmask (g : Group) (c : Clause) (o : Ops) (i : Nat) (h : (active g c o).getLsbD i = true) : g.fmask.getLsbD i = true := by
  unfold active at h
  dsimp only at h
  split at h
  · simp only [BitVec.getLsbD_and, Bool.and_eq_true] at h; exact lanes_fmask c g i h.1
  · exact lanes_fmask c g i h

theorem maskOf_bit (l : List Nat) (i : Nat) (hi : i < 64) : (maskOf l).getLsbD i = decide (i ∈ l) := by
  have hbit : ∀ (l : List Nat) (m : DWord),
      (l.foldl (fun m i => m ||| BitVec.twoPow 64 i) m).getLsbD i = (m.getLsbD i || decide (i ∈ l)) := by
    intro l
    induction l with
    | nil => intro m; simp
    | cons j l ih =>
      intro m
      rw [List.foldl_cons, ih]
      simp only [BitVec.getLsbD_or, BitVec.getLsbD_twoPow, List.mem_cons, Bool.decide_or, Bool.or_assoc]
      congr 2
      by_cases h : i = j
      · subst h; simp [hi]
      · simp [h, Ne.symm h]
  unfold maskOf
  rw [hbit]; simp

/-- Every register that a destination names has its place of its own. -/
theorem destReg_lt (g : Group) (i : Nat) (w64 : Bool) (code : BitVec 8) : destReg g i code + (if w64 then 1 else 0) < 512 := by
  have hx (a b : BitVec 8) : a.toNat + b.toNat < 511 := by omega
  unfold destReg
  split
  · split <;> omega
  · have := hx ((g.x i (code.toNat - 0xF6)).extractLsb' 0 8) ((g.x i (code.toNat - 0xF6)).extractLsb' 16 8)
    unfold xReg fieldNat
    dsimp only
    split <;> omega

/-- R248, R272, R94, R237: what finishing a vector instruction does. -/
theorem finishVec_done (s : State) (gid : Nat) (g : Group) (c : Clause) (act : DWord) (w64 nw : Bool) (d : BitVec 8)
    (x : Nat → DWord) (fl : Word) :
    ∃ t, finishVec s gid g c w64 nw d ((lanesOf act).map (fun i => (i, x i))) fl = .next t ∧
      VecDone s t gid g c act w64 nw d x fl := by
  refine ⟨_, rfl, ?_⟩
  have hfold : ((lanesOf act).map (fun i => (i, x i))).foldl (fun g e => writeVec g e.1 w64 d e.2) g =
      (lanesOf act).foldl (fun g i => writeVec g i w64 d (x i)) g := by rw [List.foldl_map]
  refine ⟨_, _, retire_retired _ _ _ _ _, ?_, ?_, ?_⟩
  · cases nw
    · simp only [Bool.false_eq_true, if_false]
      rw [hfold, writeVecs_frame]
    · rfl
  · intro lane reg hr
    cases nw
    · simp only [Bool.false_eq_true, if_false]
      rw [hfold]
      show ((lanesOf act).foldl (fun g i => writeVec g i w64 d (x i)) g).v lane reg = _
      rw [v_writeVecs _ _ _ _ _ _ _ (nodup_lanesOf act) (by omega) (fun i _ => destReg_lt g i w64 d)]
      simp only [mem_lanesOf, true_and]
    · simp only [Bool.true_eq_false, false_and, if_false]; rfl
  · intro lane hf
    have h0 : SMap.get 0 (latchOf s.clock g w64 nw d ((lanesOf act).map (fun i => (i, x i)))) lane =
        if act.getLsbD lane then x lane else keptLatch s.clock g lane w64 nw d := by
      unfold latchOf SMap.get
      rw [find?_map_lanes, if_pos ((mem_lanesOf _ _).mpr hf), find?_map_lanes]
      by_cases hl : act.getLsbD lane = true
      · rw [if_pos ((mem_lanesOf _ _).mpr hl), if_pos hl]; rfl
      · rw [if_neg (fun h => hl ((mem_lanesOf _ _).mp h)), if_neg hl]; rfl
    refine ⟨fun hl => by rw [h0, if_pos hl], fun hl hn => by rw [h0, hl, hn]; rfl, fun hl hn hx => ?_⟩
    subst hn
    rw [h0, hl]
    have hv (reg : Nat) (hr : reg < 512) :
        (((lanesOf act).map (fun i => (i, x i))).foldl (fun g e => writeVec g e.1 w64 d e.2) g).v lane reg = g.v lane reg := by
      rw [hfold, v_writeVecs _ _ _ _ _ _ _ (nodup_lanesOf act) hr (fun i _ => destReg_lt g i w64 d)]
      simp only [mem_lanesOf, hl, Bool.false_eq_true, false_and, and_false, if_false]
    have hlt := destReg_lt g lane w64 d
    have hk : keptLatch s.clock g lane w64 false d =
        if w64 then g.v64 lane (destReg g lane d) else (g.v lane (destReg g lane d)).setWidth 64 := by
      unfold keptLatch
      rw [if_neg (by simp), if_neg]
      · rfl
      · rcases hx with hx | hx
        · have : ¬ 0xEF < d.toNat := by omega
          simp [this]
        · simp [hx]
    rw [if_neg (by simp), hk]
    cases w64
    · rw [if_neg (by simp), if_neg (by simp)]
      exact congrArg _ (hv _ (by simpa using hlt)).symm
    · rw [if_pos rfl, if_pos rfl]
      have e1 := hv (destReg g lane d + 1) (by simpa using hlt)
      have e0 := hv (destReg g lane d) (by simp at hlt; omega)
      exact (congrArg₂ (fun a b : Word => (a ++ b : DWord)) e1 e0).symm

/-! ## The forms -/

theorem withClause_issues {s : State} {gid : Nat} {g : Group} {c : Clause} (h : Issues s gid g c) (k : Nat → Group → Clause → Out) :
    withClause s k = k gid g c := by
  unfold withClause; rw [h.cur]; dsimp only; rw [h.grp]; dsimp only; rw [h.cls]

/-- No operand traps: the instruction acts. -/
theorem checked_ok {s : State} {gid : Nat} {g : Group} {c : Clause} (h : Issues s gid g c) (act : Group → Clause → DWord)
    (os : List Opd) (k : Nat → Group → Clause → Out) (hn : opTrap g c (act g c) os = none) : checked s act os k = k gid g c := by
  unfold checked; rw [withClause_issues h]; rw [hn]

/-- An operand traps: the instruction has no effect but the trap. -/
theorem checked_trap {s : State} {gid : Nat} {g : Group} {c : Clause} (h : Issues s gid g c) (act : Group → Clause → DWord)
    (os : List Opd) (k : Nat → Group → Clause → Out) {t : OpTrap} (hn : opTrap g c (act g c) os = some t) :
    checked s act os k = .next (trapHere s gid g c t.cause t.reason t.info t.tmask) := by
  unfold checked; rw [withClause_issues h]; rw [hn]; rfl

/-- R272, R248: a vector instruction whose operands do not trap. -/
theorem vecOp_done {s : State} {gid : Nat} {g : Group} {c : Clause} (h : Issues s gid g c) (act : Group → Clause → DWord)
    (os : List Opd) (w64 nw : Bool) (d : BitVec 8) (f : Group → Clause → Nat → DWord × Word)
    (hn : opTrap g c (act g c) (.vd w64 nw d :: os) = none) :
    ∃ t, vecOp s act os w64 nw d f = .next t ∧
      VecDone s t gid g c (act g c) w64 nw d (fun i => (f g c i).1) (laneFlags (act g c) (fun i => (f g c i).2)) := by
  have := finishVec_done s gid g c (act g c) w64 nw d (fun i => (f g c i).1) (laneFlags (act g c) (fun i => (f g c i).2))
  unfold vecOp
  rw [checked_ok h act _ _ hn]
  simp only [List.map_map, List.foldl_map, Function.comp_def]
  exact this

theorem setP_frame (g : Group) (n : Nat) (m x : DWord) : g.setP n m x = { g with preds := (g.setP n m x).preds } := rfl

theorem setP_flags_frame (g : Group) (n : Nat) (m x : DWord) (fl : Word) :
    { g.setP n m x with fpcsr := (g.setP n m x).fpcsr ||| fl } = { g with preds := (g.setP n m x).preds, fpcsr := g.fpcsr ||| fl } := by
  unfold Group.setP
  dsimp only

/-- R272, R248: an instruction with a predicate result whose operands do not trap. -/
theorem predOp_done {s : State} {gid : Nat} {g : Group} {c : Clause} (h : Issues s gid g c) (act : Group → Clause → DWord)
    (os : List Opd) (pd : Nat) (f : Group → Clause → Nat → Bool × Word) (hn : opTrap g c (act g c) os = none) :
    ∃ t, predOp s act os pd f = .next t ∧
      PredDone s t gid g c (act g c) pd (fun i => (f g c i).1) (laneFlags (act g c) (fun i => (f g c i).2)) := by
  unfold predOp
  rw [checked_ok h act _ _ hn]
  generalize hb : maskOf ((((lanesOf (act g c)).map (fun i => (i, f g c i))).filter (fun e => e.2.1)).map (·.1)) = bits
  have hfl : ((lanesOf (act g c)).map (fun i => (i, f g c i))).foldl (fun fl e => fl ||| e.2.2) (0 : Word) =
      laneFlags (act g c) (fun i => (f g c i).2) := by rw [List.foldl_map]; rfl
  dsimp only
  rw [hfl, hb]
  generalize laneFlags (act g c) (fun i => (f g c i).2) = fl
  refine ⟨_, rfl, _, retire_retired _ _ _ _ _, ?_, ?_, ?_⟩
  · exact setP_flags_frame g pd (act g c) bits fl
  · intro n hne
    exact Group.p_setP_other _ _ _ hne
  · intro lane
    change BitVec.getLsbD (Group.p (Group.setP g pd (act g c) bits) pd) lane = _
    rw [Group.p_setP_same]
    by_cases hl : lane < 64
    · rw [BitVec.getLsbD_or, BitVec.getLsbD_and, BitVec.getLsbD_and, BitVec.getLsbD_not, ← hb, maskOf_bit _ _ hl]
      have hm : (lane ∈ (((lanesOf (act g c)).map (fun i => (i, f g c i))).filter (fun e => e.2.1)).map (·.1)) ↔
          ((act g c).getLsbD lane = true ∧ (f g c lane).1 = true) := by
        simp [List.mem_map, List.mem_filter, mem_lanesOf]
      by_cases h1 : (act g c).getLsbD lane = true <;> simp only [hm, h1, hl, if_true] <;> simp
    · rw [BitVec.getLsbD_of_ge _ _ (by omega), BitVec.getLsbD_of_ge _ _ (by omega), BitVec.getLsbD_of_ge _ _ (by omega)]; simp

theorem setS_ssplit (g : Group) (code : Nat) (x : Word) (n : Nat) (hn : n < 64) :
    (g.setS code x).ssplit.getLsbD n = if n = code then decide (g.fmask ≠ g.lmask) else g.ssplit.getLsbD n := by
  unfold Group.setS
  by_cases hc : code < 0x40
  · simp only [hc, if_true]
    by_cases hf : g.fmask = g.lmask <;> by_cases he : n = code <;> simp [hf, he, hc, hn]
  · have he : n ≠ code := by omega
    simp only [hc, if_false, he]

theorem setS_frame (g : Group) (code : Nat) (x : Word) :
    g.setS code x = { g with sregs := (g.setS code x).sregs, kregs := (g.setS code x).kregs, ssplit := (g.setS code x).ssplit } := by
  unfold Group.setS; split <;> rfl

/-- R175, R315: an instruction with a scalar result whose operands do not trap. -/
theorem scaOp_done {s : State} {gid : Nat} {g : Group} {c : Clause} (h : Issues s gid g c) (o : Ops) (os : List Opd) (w64 : Bool)
    (f : Group → Clause → DWord) (hn : opTrap g c (active g c o) (.sd w64 o.d :: os) = none) :
    ∃ t, scaOp s o os w64 f = .next t ∧ ScaDone s t gid g c (decide (active g c o ≠ 0)) w64 o.d (f g c) := by
  unfold scaOp onceOp
  rw [checked_ok h (fun g c => active g c o) _ _ hn]
  refine ⟨_, rfl, _, retire_retired _ _ _ _ _, ?_, ?_, ?_⟩
  · by_cases ha : active g c o = 0
    · rw [if_pos ha]
    · rw [if_neg ha]
      cases w64
      · simp only [Bool.false_eq_true, if_false]; rw [setS_frame]
      · simp only [if_true]; unfold Group.setS64; rw [setS_frame]; rw [setS_frame g]
  · intro n
    by_cases ha : active g c o = 0
    · simp [ha]
    · cases w64
      · simp only [Bool.false_eq_true, if_false, ha, ne_eq, not_false_eq_true, decide_true, true_and, false_and, and_false]
        by_cases he : n = o.d.toNat
        · rw [if_pos he, he, Group.s_setS_same]
        · rw [if_neg he, Group.s_setS_other _ _ he]
      · simp only [if_true, if_false, ne_eq, ha, not_false_eq_true, decide_true, true_and]
        unfold Group.setS64
        by_cases he : n = o.d.toNat + 1
        · subst he
          rw [Group.s_setS_same, if_neg (by omega), if_pos rfl]
        · rw [Group.s_setS_other _ _ he]
          by_cases h2 : n = o.d.toNat
          · rw [if_pos h2, h2, Group.s_setS_same]
          · rw [if_neg h2, if_neg he, Group.s_setS_other _ _ h2]
  · intro n hl
    by_cases ha : active g c o = 0
    · simp [ha]
    · cases w64
      · simp only [Bool.false_eq_true, if_false, ha, ne_eq, not_false_eq_true, decide_true, true_and, false_and, or_false]
        rw [setS_ssplit _ _ _ _ hl]
      · simp only [if_true, if_false, ne_eq, ha, not_false_eq_true, decide_true, true_and]
        unfold Group.setS64
        rw [setS_ssplit _ _ _ _ hl, setS_ssplit _ _ _ _ hl, setS_frame g]
        by_cases h1 : n = o.d.toNat + 1 <;> by_cases h2 : n = o.d.toNat <;> simp [h1, h2]

end Sys2Proof.Machine
end

