-- ==== Sys2Proof/Tests/Slice0.lean ====
section
/-! SUPPORT. Tests and witnesses. `test_decode_…`: words written out from the encoding tables (12_opcode_map, R245-R268) decode to the instructions they stand for. `test_ill_formed_…`, `test_reject_…`: what WellFormed and the decoder refuse. Other `test_…`: one step each, their expected values worked out by hand from the rules. `witness_<Part>`: concrete states and operands that meet the hypotheses of the part Obligations.<Part>; where a part has several clauses, a witness for each. -/

namespace Sys2Proof.Tests

open Machine Form Claims

set_option Elab.async false

/-! ## Decoding -/

/-- The words decode to the instruction, with none left. -/
def reads (ws : List Word) (i : Instr) : Bool :=
  match decode ws with
  | .ok (j, []) => j == i
  | _ => false
/-- The matrix-stream word decodes to the instruction. -/
def readsMatrix (w : BitVec 64) (i : Instr) : Bool :=
  match decodeMatrix w with
  | .ok j => j == i
  | _ => false

theorem test_decode_short_int_1 :
    reads [0x02060B01] (.iaddShort ⟨false, 0x06, 0x0B, 0x01⟩) &&
    reads [0x04070B02] (.isubShort ⟨false, 0x07, 0x0B, 0x02⟩) &&
    reads [0x06080B03] (.imulShort ⟨false, 0x08, 0x0B, 0x03⟩) &&
    reads [0x08090B04] (.imulhShort ⟨false, 0x09, 0x0B, 0x04⟩) &&
    reads [0x0A0A0B05] (.iminShort ⟨false, 0x0A, 0x0B, 0x05⟩) &&
    reads [0x0C0B0B06] (.imaxShort ⟨false, 0x0B, 0x0B, 0x06⟩) &&
    reads [0x0E0C0B07] (.andShort ⟨false, 0x0C, 0x0B, 0x07⟩) &&
    reads [0x100D0B08] (.orShort ⟨false, 0x0D, 0x0B, 0x08⟩) := by
  decide
theorem test_decode_short_int_2 :
    reads [0x120E0B09] (.xorShort ⟨false, 0x0E, 0x0B, 0x09⟩) &&
    reads [0x140F0B0A] (.andnShort ⟨false, 0x0F, 0x0B, 0x0A⟩) &&
    reads [0x16100B0B] (.shlShort ⟨false, 0x10, 0x0B, 0x0B⟩) &&
    reads [0x18110B0C] (.shrShort ⟨false, 0x11, 0x0B, 0x0C⟩) &&
    reads [0x1A120B0D] (.sraShort ⟨false, 0x12, 0x0B, 0x0D⟩) &&
    reads [0x1C102100] (.popcShort ⟨false, 0x10, 0x21, 0x00⟩) &&
    reads [0x1E112100] (.clzShort ⟨false, 0x11, 0x21, 0x00⟩) &&
    reads [0x20122100] (.brevShort ⟨false, 0x12, 0x21, 0x00⟩) := by
  decide
theorem test_decode_short_int_3 :
    reads [0x22F621FF] (.iaddImm8Short ⟨false, 0xF6, 0x21, 0xFF⟩) &&
    reads [0x24F721FF] (.shlImmShort ⟨false, 0xF7, 0x21, 0xFF⟩) &&
    reads [0x26F821FF] (.shrImmShort ⟨false, 0xF8, 0x21, 0xFF⟩) &&
    reads [0x28F921FF] (.sraImmShort ⟨false, 0xF9, 0x21, 0xFF⟩) := by
  decide
theorem test_decode_short_fp_1 :
    reads [0x30111213] (.faddF32Short ⟨false, 0x11, 0x12, 0x13⟩) &&
    reads [0x32111213] (.fsubF32Short ⟨false, 0x11, 0x12, 0x13⟩) &&
    reads [0x34111213] (.fmulF32Short ⟨false, 0x11, 0x12, 0x13⟩) &&
    reads [0x36111213] (.fminF32Short ⟨false, 0x11, 0x12, 0x13⟩) &&
    reads [0x38111213] (.fmaxF32Short ⟨false, 0x11, 0x12, 0x13⟩) &&
    reads [0x3A101214] (.faddF64Short ⟨false, 0x10, 0x12, 0x14⟩) &&
    reads [0x3C101214] (.fsubF64Short ⟨false, 0x10, 0x12, 0x14⟩) &&
    reads [0x3E101214] (.fmulF64Short ⟨false, 0x10, 0x12, 0x14⟩) := by
  decide
theorem test_decode_short_fp_2 :
    reads [0x40111213] (.faddF16x2Short ⟨false, 0x11, 0x12, 0x13⟩) &&
    reads [0x42111213] (.fmulF16x2Short ⟨false, 0x11, 0x12, 0x13⟩) &&
    reads [0x44111213] (.faddBf16x2Short ⟨false, 0x11, 0x12, 0x13⟩) &&
    reads [0x46111213] (.fmulBf16x2Short ⟨false, 0x11, 0x12, 0x13⟩) &&
    reads [0x51F4F600] (.movShort ⟨true, 0xF4, 0xF6, 0x00⟩) := by
  decide
theorem test_decode_short_mem_1 :
    reads [0x61050603] (.ldGB32Short ⟨true, 0x05, 0x06, 0x03⟩) &&
    reads [0x62050703] (.ldSB32Short ⟨false, 0x05, 0x07, 0x03⟩) &&
    reads [0x64090604] (.stGB32Short ⟨false, 0x09, 0x06, 0x04⟩) &&
    reads [0x660907F8] (.stSB32Short ⟨false, 0x09, 0x07, 0xF8⟩) &&
    reads [0x69040602] (.ldGB64Short ⟨true, 0x04, 0x06, 0x02⟩) &&
    reads [0x6A080602] (.stGB64Short ⟨false, 0x08, 0x06, 0x02⟩) &&
    reads [0x6C040702] (.ldSB64Short ⟨false, 0x04, 0x07, 0x02⟩) &&
    reads [0x6E080702] (.stSB64Short ⟨false, 0x08, 0x07, 0x02⟩) := by
  decide
theorem test_decode_short_mem_2 :
    reads [0x00000000] (.nopShort) := by
  decide
theorem test_decode_integer_1 :
    reads [0x80219006, 0x0000050B] (.iadd ⟨true, false, 3, false, 0x10, 0x06, 0x0000050B⟩) &&
    reads [0x807FA206, 0x00000A08] (.isub ⟨true, true, 31, false, 0x22, 0x06, 0x00000A08⟩) &&
    reads [0x80800014, 0x01000E0A] (.iaddc ⟨false, false, 0, false, 0x00, 0x14, 0x01000E0A⟩) &&
    reads [0x80C00014, 0x03020E0A] (.isubb ⟨false, false, 0, false, 0x00, 0x14, 0x03020E0A⟩) &&
    reads [0x81000214, 0x0000000A] (.ineg ⟨false, false, 0, false, 0x02, 0x14, 0x0000000A⟩) &&
    reads [0x81400015, 0x0000000A] (.iabs ⟨false, false, 0, false, 0x00, 0x15, 0x0000000A⟩) &&
    reads [0x81800103, 0x00000204] (.imin ⟨false, false, 0, false, 0x01, 0x03, 0x00000204⟩) &&
    reads [0x81C00302, 0x00000604] (.imax ⟨false, false, 0, false, 0x03, 0x02, 0x00000604⟩) := by
  decide
theorem test_decode_integer_2 :
    reads [0x82000103, 0x00000204] (.iadds ⟨false, false, 0, false, 0x01, 0x03, 0x00000204⟩) &&
    reads [0x82401003, 0xFFFFFF04] (.isubs ⟨false, false, 0, false, 0x10, 0x03, 0xFFFFFF04⟩) &&
    reads [0x828040F4, 0x00000204] (.imul ⟨false, false, 0, true, 0x00, 0xF4, 0x00000204⟩) &&
    reads [0x82C00208, 0x00000204] (.imulh ⟨false, false, 0, false, 0x02, 0x08, 0x00000204⟩) &&
    reads [0x83000208, 0x000E0C0A] (.imad ⟨false, false, 0, false, 0x02, 0x08, 0x000E0C0A⟩) &&
    reads [0x83400108, 0x000E0D0B] (.imadw ⟨false, false, 0, false, 0x01, 0x08, 0x000E0D0B⟩) &&
    reads [0x83800014, 0x01030516] (.ilea ⟨false, false, 0, false, 0x00, 0x14, 0x01030516⟩) &&
    reads [0x83C00302, 0x00050604] (.icmp ⟨false, false, 0, false, 0x03, 0x02, 0x00050604⟩) := by
  decide
theorem test_decode_integer_3 :
    reads [0x84001006, 0x10006407] (.isel ⟨false, false, 0, false, 0x10, 0x06, 0x10006407⟩) := by
  decide
theorem test_decode_integer_logic_1 :
    reads [0x84400206, 0x00000A08] (.land ⟨false, false, 0, false, 0x02, 0x06, 0x00000A08⟩) &&
    reads [0x84800206, 0x00000A08] (.lor ⟨false, false, 0, false, 0x02, 0x06, 0x00000A08⟩) &&
    reads [0x84C00206, 0x00000A08] (.lxor ⟨false, false, 0, false, 0x02, 0x06, 0x00000A08⟩) &&
    reads [0x85000206, 0x00000A08] (.landn ⟨false, false, 0, false, 0x02, 0x06, 0x00000A08⟩) &&
    reads [0x85400206, 0x00000A08] (.lorn ⟨false, false, 0, false, 0x02, 0x06, 0x00000A08⟩) &&
    reads [0x85800206, 0x00000B08] (.shl ⟨false, false, 0, false, 0x02, 0x06, 0x00000B08⟩) &&
    reads [0x85C00206, 0x00000B08] (.shr ⟨false, false, 0, false, 0x02, 0x06, 0x00000B08⟩) &&
    reads [0x86000206, 0x00000B08] (.sra ⟨false, false, 0, false, 0x02, 0x06, 0x00000B08⟩) := by
  decide
theorem test_decode_integer_logic_2 :
    reads [0x86401006, 0x00001F08] (.rotl ⟨false, false, 0, false, 0x10, 0x06, 0x00001F08⟩) &&
    reads [0x86800005, 0x00080706] (.fshl ⟨false, false, 0, false, 0x00, 0x05, 0x00080706⟩) &&
    reads [0x86C00005, 0x00080706] (.fshr ⟨false, false, 0, false, 0x00, 0x05, 0x00080706⟩) &&
    reads [0x87001103, 0x00080404] (.bfe ⟨false, false, 0, false, 0x11, 0x03, 0x00080404⟩) &&
    reads [0x87400003, 0x07060504] (.bfi ⟨false, false, 0, false, 0x00, 0x03, 0x07060504⟩) &&
    reads [0x87800203, 0x00000004] (.popc ⟨false, false, 0, false, 0x02, 0x03, 0x00000004⟩) &&
    reads [0x87C00003, 0x00000004] (.clz ⟨false, false, 0, false, 0x00, 0x03, 0x00000004⟩) &&
    reads [0x88000204, 0x00000006] (.brev ⟨false, false, 0, false, 0x02, 0x04, 0x00000006⟩) := by
  decide
theorem test_decode_integer_logic_3 :
    reads [0x88400009, 0x00060504] (.bmix ⟨false, false, 0, false, 0x00, 0x09, 0x00060504⟩) := by
  decide
theorem test_decode_floating_1 :
    reads [0x90002106, 0x90000A08] (.fadd ⟨false, false, 0, false, 0x21, 0x06, 0x90000A08⟩) &&
    reads [0x90402106, 0x90000A08] (.fsub ⟨false, false, 0, false, 0x21, 0x06, 0x90000A08⟩) &&
    reads [0x90802106, 0x90000A08] (.fmul ⟨false, false, 0, false, 0x21, 0x06, 0x90000A08⟩) &&
    reads [0x90C00108, 0x980E0C0A] (.ffma ⟨false, false, 0, false, 0x01, 0x08, 0x980E0C0A⟩) &&
    reads [0x91000805, 0x00000706] (.fmin ⟨false, false, 0, false, 0x08, 0x05, 0x00000706⟩) &&
    reads [0x91400904, 0x00000806] (.fmax ⟨false, false, 0, false, 0x09, 0x04, 0x00000806⟩) &&
    reads [0x91800104, 0x13000806] (.fdiv ⟨false, false, 0, false, 0x01, 0x04, 0x13000806⟩) &&
    reads [0x91C00104, 0x81000006] (.fsqrt ⟨false, false, 0, false, 0x01, 0x04, 0x81000006⟩) := by
  decide
theorem test_decode_floating_2 :
    reads [0x92000104, 0x81000006] (.frcp ⟨false, false, 0, false, 0x01, 0x04, 0x81000006⟩) &&
    reads [0x92400104, 0x81000006] (.frsq ⟨false, false, 0, false, 0x01, 0x04, 0x81000006⟩) &&
    reads [0x92800005, 0x40000007] (.fex2 ⟨false, false, 0, false, 0x00, 0x05, 0x40000007⟩) &&
    reads [0x92C00005, 0x40000007] (.flg2 ⟨false, false, 0, false, 0x00, 0x05, 0x40000007⟩) &&
    reads [0x93000005, 0x40000007] (.fsin ⟨false, false, 0, false, 0x00, 0x05, 0x40000007⟩) &&
    reads [0x93400005, 0x40000007] (.fcos ⟨false, false, 0, false, 0x00, 0x05, 0x40000007⟩) &&
    reads [0x93800402, 0x30070605] (.fcmp ⟨false, false, 0, false, 0x04, 0x02, 0x30070605⟩) &&
    reads [0x93C00302, 0x00000005] (.fclass ⟨false, false, 0, false, 0x03, 0x02, 0x00000005⟩) := by
  decide
theorem test_decode_floating_3 :
    reads [0x94000002, 0x80000405] (.frnd ⟨false, false, 0, false, 0x00, 0x02, 0x80000405⟩) &&
    reads [0x94400102, 0x40000705] (.fcvt ⟨false, false, 0, false, 0x01, 0x02, 0x40000705⟩) &&
    reads [0x94800202, 0xC0010106] (.f2i ⟨false, false, 0, false, 0x02, 0x02, 0xC0010106⟩) &&
    reads [0x94C00003, 0x00030206] (.i2f ⟨false, false, 0, false, 0x00, 0x03, 0x00030206⟩) &&
    reads [0x95000104, 0xC0000906] (.fscal ⟨false, false, 0, false, 0x01, 0x04, 0xC0000906⟩) &&
    reads [0x95400105, 0x00000006] (.fgexp ⟨false, false, 0, false, 0x01, 0x05, 0x00000006⟩) &&
    reads [0x95800005, 0x20000706] (.fsign ⟨false, false, 0, false, 0x00, 0x05, 0x20000706⟩) := by
  decide
theorem test_decode_narrow :
    reads [0xA0000005, 0x00080706] (.vdot8 ⟨false, false, 0, false, 0x00, 0x05, 0x00080706⟩) &&
    reads [0xA0400005, 0x01080706] (.vdot4 ⟨false, false, 0, false, 0x00, 0x05, 0x01080706⟩) &&
    reads [0xA0800005, 0x02080706] (.vdot8i ⟨false, false, 0, false, 0x00, 0x05, 0x02080706⟩) &&
    reads [0xA0C00005, 0x03080706] (.vdot4i ⟨false, false, 0, false, 0x00, 0x05, 0x03080706⟩) &&
    reads [0xA1000A05, 0x00000008] (.vpack ⟨false, false, 0, false, 0x0A, 0x05, 0x00000008⟩) &&
    reads [0xA1400508, 0x00000005] (.vunpk ⟨false, false, 0, false, 0x05, 0x08, 0x00000005⟩) &&
    reads [0xA1800005, 0x00002010] (.vamax ⟨false, false, 0, false, 0x00, 0x05, 0x00002010⟩) &&
    reads [0xA1C00005, 0x09080706] (.vscal ⟨false, false, 0, false, 0x00, 0x05, 0x09080706⟩) := by
  decide
theorem test_decode_moves_1 :
    reads [0xA8002003, 0x00000700] (.mov ⟨false, false, 0, false, 0x20, 0x03, 0x00000700⟩) &&
    reads [0xA8400003, 0xDEADBEEF] (.movi ⟨false, false, 0, false, 0x00, 0x03, 0xDEADBEEF⟩) &&
    reads [0xA8800004, 0xDEADBEEF] (.movh ⟨false, false, 0, false, 0x00, 0x04, 0xDEADBEEF⟩) &&
    reads [0xA8C00204, 0x00000A08] (.s2v ⟨false, false, 0, false, 0x02, 0x04, 0x00000A08⟩) &&
    reads [0xA9001005, 0x00001F07] (.v2s ⟨false, false, 0, false, 0x10, 0x05, 0x00001F07⟩) &&
    reads [0xA9400003, 0x80000001] (.idxset ⟨false, false, 0, false, 0x00, 0x03, 0x80000001⟩) &&
    reads [0xA9800002, 0x00000007] (.idxadd ⟨false, false, 0, false, 0x00, 0x02, 0x00000007⟩) &&
    reads [0xA9C00000, 0x08200810] (.rgn ⟨false, false, 0, false, 0x00, 0x00, 0x08200810⟩) := by
  decide
theorem test_decode_moves_2 :
    reads [0xAA000001, 0xCA040302] (.plog ⟨false, false, 0, false, 0x00, 0x01, 0xCA040302⟩) &&
    reads [0xAA400001, 0x00001F07] (.pmov ⟨false, false, 0, false, 0x00, 0x01, 0x00001F07⟩) &&
    reads [0xAA800001, 0x00000008] (.pmask ⟨false, false, 0, false, 0x00, 0x01, 0x00000008⟩) &&
    reads [0xAAC00004, 0x40013800] (.csrr ⟨false, false, 0, false, 0x00, 0x04, 0x40013800⟩) &&
    reads [0xAAC00041, 0x00020800] (.ringHeadRead ⟨false, false, 0, false, 0x00, 0x41, 0x00020800⟩) := by
  decide
theorem test_decode_control_registers_1 :
    reads [0xAB000000, 0x00010103] (.csrw ⟨false, false, 0, false, 0x00, 0x00, 0x00010103⟩) &&
    reads [0xAB000000, 0x0001C803] (.kinstInstall ⟨false, false, 0, false, 0x00, 0x00, 0x0001C803⟩) &&
    reads [0xAB000000, 0x00000203] (.lmaskWrite ⟨false, false, 0, false, 0x00, 0x00, 0x00000203⟩) &&
    reads [0xAB000000, 0x00012A03] (.gsaveWrite ⟨false, false, 0, false, 0x00, 0x00, 0x00012A03⟩) &&
    reads [0xAB000000, 0x0001C503] (.sppdataWrite ⟨false, false, 0, false, 0x00, 0x00, 0x0001C503⟩) &&
    reads [0xAB000000, 0x00000103] (.srseedWrite ⟨false, false, 0, false, 0x00, 0x00, 0x00000103⟩) &&
    reads [0xAB000000, 0x00000003] (.fpcsrWrite ⟨false, false, 0, false, 0x00, 0x00, 0x00000003⟩) &&
    reads [0xAB000000, 0x00014803] (.qlevelWrite ⟨false, false, 0, false, 0x00, 0x00, 0x00014803⟩) := by
  decide
theorem test_decode_control_registers_2 :
    reads [0xAB000000, 0x00020303] (.ringPointerWrite ⟨false, false, 0, false, 0x00, 0x00, 0x00020303⟩) &&
    reads [0xAB000000, 0x00020B03] (.ringTailWrite ⟨false, false, 0, false, 0x00, 0x00, 0x00020B03⟩) &&
    reads [0xAB000000, 0x0001CC03] (.tgtselWrite ⟨false, false, 0, false, 0x00, 0x00, 0x0001CC03⟩) &&
    reads [0xAB000000, 0x00012803] (.waitstViewWrite ⟨false, false, 0, false, 0x00, 0x00, 0x00012803⟩) &&
    reads [0xAB000000, 0x0001C003] (.progwinWrite ⟨false, false, 0, false, 0x00, 0x00, 0x0001C003⟩) &&
    reads [0xAB000000, 0x0001C103] (.progfaultWrite ⟨false, false, 0, false, 0x00, 0x00, 0x0001C103⟩) := by
  decide
theorem test_decode_scalar_1 :
    reads [0xB0000206, 0x00000A08] (.sadd ⟨false, false, 0, false, 0x02, 0x06, 0x00000A08⟩) &&
    reads [0xB0400206, 0x00000A08] (.ssub ⟨false, false, 0, false, 0x02, 0x06, 0x00000A08⟩) &&
    reads [0xB0800206, 0x00000A08] (.smul ⟨false, false, 0, false, 0x02, 0x06, 0x00000A08⟩) &&
    reads [0xB0C00206, 0x00000A08] (.smin ⟨false, false, 0, false, 0x02, 0x06, 0x00000A08⟩) &&
    reads [0xB1000206, 0x00000A08] (.smax ⟨false, false, 0, false, 0x02, 0x06, 0x00000A08⟩) &&
    reads [0xB1400206, 0x00000A08] (.sand ⟨false, false, 0, false, 0x02, 0x06, 0x00000A08⟩) &&
    reads [0xB1800206, 0x00000A08] (.sor ⟨false, false, 0, false, 0x02, 0x06, 0x00000A08⟩) &&
    reads [0xB1C00206, 0x00000A08] (.sxor ⟨false, false, 0, false, 0x02, 0x06, 0x00000A08⟩) := by
  decide
theorem test_decode_scalar_2 :
    reads [0xB2000206, 0x00000A08] (.sshl ⟨false, false, 0, false, 0x02, 0x06, 0x00000A08⟩) &&
    reads [0xB2400206, 0x00000A08] (.sshr ⟨false, false, 0, false, 0x02, 0x06, 0x00000A08⟩) &&
    reads [0xB2800307, 0x00040A08] (.scmp ⟨false, false, 0, false, 0x03, 0x07, 0x00040A08⟩) &&
    reads [0xB2C00007, 0x12345678] (.smovi ⟨false, false, 0, false, 0x00, 0x07, 0x12345678⟩) := by
  decide
theorem test_decode_group_wide :
    reads [0xB8000208, 0x00000002] (.vote ⟨false, false, 0, false, 0x02, 0x08, 0x00000002⟩) &&
    reads [0xB8401105, 0x00003306] (.xlane ⟨false, false, 0, false, 0x11, 0x05, 0x00003306⟩) &&
    reads [0xB8800705, 0x00000006] (.redux ⟨false, false, 0, false, 0x07, 0x05, 0x00000006⟩) &&
    reads [0xB8C00F05, 0x00000006] (.scan ⟨false, false, 0, false, 0x0F, 0x05, 0x00000006⟩) &&
    reads [0xB9000204, 0x00000006] (.matchLanes ⟨false, false, 0, false, 0x02, 0x04, 0x00000006⟩) &&
    reads [0xB9402204, 0x00000906] (.bcast ⟨false, false, 0, false, 0x22, 0x04, 0x00000906⟩) &&
    reads [0xB9800000, 0x00000014] (.lxec ⟨false, false, 0, false, 0x00, 0x00, 0x00000014⟩) := by
  decide
theorem test_decode_control_flow_1 :
    reads [0xBC200000, 0xFFFFFFF0] (.bra ⟨true, false, 0, false, 0x00, 0x00, 0xFFFFFFF0⟩) &&
    reads [0xBC400000, 0x0000100A] (.brc ⟨false, false, 0, false, 0x00, 0x00, 0x0000100A⟩) &&
    reads [0xBC800100, 0x1FFFFF0A] (.brs ⟨false, false, 0, false, 0x01, 0x00, 0x1FFFFF0A⟩) &&
    reads [0xBCC00000, 0x0000000A] (.brx ⟨false, false, 0, false, 0x00, 0x00, 0x0000000A⟩) &&
    reads [0xBD000004, 0x00000100] (.call ⟨false, false, 0, false, 0x00, 0x04, 0x00000100⟩) &&
    reads [0xBD400004, 0x00000006] (.callx ⟨false, false, 0, false, 0x00, 0x04, 0x00000006⟩) &&
    reads [0xBD800000, 0x00000004] (.retLanes ⟨false, false, 0, false, 0x00, 0x00, 0x00000004⟩) &&
    reads [0xBDE00000, 0x00000000] (.exitLanes ⟨true, false, 0, false, 0x00, 0x00, 0x00000000⟩) := by
  decide
theorem test_decode_control_flow_2 :
    reads [0xBE200000, 0x0000002A] (.trapLanes ⟨true, false, 0, false, 0x00, 0x00, 0x0000002A⟩) &&
    reads [0xBE600000, 0x00000007] (.syscall ⟨true, false, 0, false, 0x00, 0x00, 0x00000007⟩) &&
    reads [0xBE800000, 0x00000000] (.yieldHint ⟨false, false, 0, false, 0x00, 0x00, 0x00000000⟩) &&
    reads [0xBEC00000, 0x00000000] (.nopLong ⟨false, false, 0, false, 0x00, 0x00, 0x00000000⟩) &&
    reads [0xBF000000, 0x00000009] (.brkpt ⟨false, false, 0, false, 0x00, 0x00, 0x00000009⟩) := by
  decide
theorem test_decode_memory_1 :
    reads [0xC4001308, 0x40801002] (.ld ⟨false, false, 0, false, 0x13, 0x08, 0x40801002⟩) &&
    reads [0xC440140C, 0x00802002] (.st ⟨false, false, 0, false, 0x14, 0x0C, 0x00802002⟩) &&
    reads [0xC4800308, 0x02210406] (.lda ⟨false, false, 0, false, 0x03, 0x08, 0x02210406⟩) &&
    reads [0xC4C00208, 0x00210406] (.stl ⟨false, false, 0, false, 0x02, 0x08, 0x00210406⟩) &&
    reads [0xC5000004, 0x81210602] (.atom ⟨false, false, 0, false, 0x00, 0x04, 0x81210602⟩) &&
    reads [0xC5400008, 0x40290A02] (.acas ⟨false, false, 0, false, 0x00, 0x08, 0x40290A02⟩) &&
    reads [0xC5800006, 0x20210002] (.red ⟨false, false, 0, false, 0x00, 0x06, 0x20210002⟩) &&
    reads [0xC5C00000, 0x00200000] (.fence ⟨false, false, 0, false, 0x00, 0x00, 0x00200000⟩) := by
  decide
theorem test_decode_memory_2 :
    reads [0xC6000403, 0x00010C02] (.ldsh ⟨false, false, 0, false, 0x04, 0x03, 0x00010C02⟩) &&
    reads [0xC6401000, 0x00810002] (.pref ⟨false, false, 0, false, 0x10, 0x00, 0x00810002⟩) &&
    reads [0xC6800B05, 0x00840008] (.waddr ⟨false, false, 0, false, 0x0B, 0x05, 0x00840008⟩) &&
    reads [0xC6C0000A, 0x00000008] (.paddr ⟨false, false, 0, false, 0x00, 0x0A, 0x00000008⟩) &&
    reads [0xC700130C, 0xA0800804] (.sld ⟨false, false, 0, false, 0x13, 0x0C, 0xA0800804⟩) &&
    reads [0xC740120C, 0x00800804] (.sst ⟨false, false, 0, false, 0x12, 0x0C, 0x00800804⟩) := by
  decide
theorem test_decode_barriers_and_mailboxes_1 :
    reads [0xD4000200, 0x00000000] (.barr ⟨false, false, 0, false, 0x02, 0x00, 0x00000000⟩) &&
    reads [0xD4401501, 0x00000300] (.bwait ⟨false, false, 0, false, 0x15, 0x01, 0x00000300⟩) &&
    reads [0xD4800F00, 0x00000000] (.barw ⟨false, false, 0, false, 0x0F, 0x00, 0x00000000⟩) &&
    reads [0xD4C00300, 0x00060500] (.bexp ⟨false, false, 0, false, 0x03, 0x00, 0x00060500⟩) &&
    reads [0xD5000407, 0x00000000] (.btest ⟨false, false, 0, false, 0x04, 0x07, 0x00000000⟩) &&
    reads [0xD5400100, 0x00000000] (.gbar ⟨false, false, 0, false, 0x01, 0x00, 0x00000000⟩) &&
    reads [0xD5800100, 0x00000000] (.gbwait ⟨false, false, 0, false, 0x01, 0x00, 0x00000000⟩) &&
    reads [0xD5C00005, 0x00000008] (.mpost ⟨false, false, 0, false, 0x00, 0x05, 0x00000008⟩) := by
  decide
theorem test_decode_barriers_and_mailboxes_2 :
    reads [0xD5C00105, 0x02030008] (.mpostNb ⟨false, false, 0, false, 0x01, 0x05, 0x02030008⟩) &&
    reads [0xD6000005, 0x01000008] (.mtake ⟨false, false, 0, false, 0x00, 0x05, 0x01000008⟩) &&
    reads [0xD6400005, 0x01030008] (.mtry ⟨false, false, 0, false, 0x00, 0x05, 0x01030008⟩) &&
    reads [0xD6800000, 0x00000008] (.mbind ⟨false, false, 0, false, 0x00, 0x00, 0x00000008⟩) := by
  decide
theorem test_decode_engines_1 :
    reads [0xDC000014, 0x0200000A] (.job ⟨false, false, 0, false, 0x00, 0x14, 0x0200000A⟩) &&
    reads [0xDC400014, 0x39100E0C] (.tcpy ⟨false, false, 0, false, 0x00, 0x14, 0x39100E0C⟩) &&
    reads [0xDC800014, 0x00100F0C] (.tsto ⟨false, false, 0, false, 0x00, 0x14, 0x00100F0C⟩) &&
    reads [0xDCC00014, 0x00100E0C] (.tgat ⟨false, false, 0, false, 0x00, 0x14, 0x00100E0C⟩) &&
    reads [0xDD000014, 0x0A100E0C] (.tsct ⟨false, false, 0, false, 0x00, 0x14, 0x0A100E0C⟩) &&
    reads [0xDD400014, 0x00110F0C] (.tcol ⟨false, false, 0, false, 0x00, 0x14, 0x00110F0C⟩) &&
    reads [0xDD800016, 0x00000014] (.fwait ⟨false, false, 0, false, 0x00, 0x16, 0x00000014⟩) &&
    reads [0xDDC00016, 0x00000014] (.ftest ⟨false, false, 0, false, 0x00, 0x16, 0x00000014⟩) := by
  decide
theorem test_decode_engines_2 :
    reads [0xDE000016, 0x03000014] (.fcanc ⟨false, false, 0, false, 0x00, 0x16, 0x03000014⟩) &&
    reads [0xDE400102, 0x00000000] (.qbind ⟨false, false, 0, false, 0x01, 0x02, 0x00000000⟩) &&
    reads [0xDE800007, 0x00000002] (.qstatStatus ⟨false, false, 0, false, 0x00, 0x07, 0x00000002⟩) &&
    reads [0xDE800008, 0x00010002] (.qstatPop ⟨false, false, 0, false, 0x00, 0x08, 0x00010002⟩) &&
    reads [0xDE800000, 0x00020904] (.qstatPush ⟨false, false, 0, false, 0x00, 0x00, 0x00020904⟩) &&
    reads [0xE4000000, 0x00000C0A] (.mstart ⟨false, false, 0, false, 0x00, 0x00, 0x00000C0A⟩) &&
    reads [0xE440001E, 0x00010000] (.mstat ⟨false, false, 0, false, 0x00, 0x1E, 0x00010000⟩) := by
  decide
theorem test_decode_system_1 :
    reads [0xEC000000, 0x00000000] (.sret ⟨false, false, 0, false, 0x00, 0x00, 0x00000000⟩) &&
    reads [0xEC400000, 0x00000605] (.tlbinvPage ⟨false, false, 0, false, 0x00, 0x00, 0x00000605⟩) &&
    reads [0xEC400100, 0x0000F405] (.tlbinvCtx ⟨false, false, 0, false, 0x01, 0x00, 0x0000F405⟩) &&
    reads [0xEC400200, 0x0000F4F4] (.tlbinvGlobal ⟨false, false, 0, false, 0x02, 0x00, 0x0000F4F4⟩) &&
    reads [0xEC800005, 0x03000006] (.pfrep ⟨false, false, 0, false, 0x00, 0x05, 0x03000006⟩) &&
    reads [0xECC00005, 0x00000006] (.pfcan ⟨false, false, 0, false, 0x00, 0x05, 0x00000006⟩) &&
    reads [0xED000000, 0x00000006] (.msave ⟨false, false, 0, false, 0x00, 0x00, 0x00000006⟩) &&
    reads [0xED400000, 0x00000006] (.mrest ⟨false, false, 0, false, 0x00, 0x00, 0x00000006⟩) := by
  decide
theorem test_decode_system_2 :
    reads [0xED800014, 0x02031A18] (.gate ⟨false, false, 0, false, 0x00, 0x14, 0x02031A18⟩) &&
    reads [0xEDC00005, 0x0000F406] (.ctxldLoad ⟨false, false, 0, false, 0x00, 0x05, 0x0000F406⟩) &&
    reads [0xEDC00005, 0x000007F4] (.ctxldTeardown ⟨false, false, 0, false, 0x00, 0x05, 0x000007F4⟩) &&
    reads [0xEE000000, 0x00000064] (.wfi ⟨false, false, 0, false, 0x00, 0x00, 0x00000064⟩) &&
    reads [0xEE400005, 0x01000706] (.sipiWake ⟨false, false, 0, false, 0x00, 0x05, 0x01000706⟩) &&
    reads [0xEE400005, 0x01010706] (.sipiPreempt ⟨false, false, 0, false, 0x00, 0x05, 0x01010706⟩) &&
    reads [0xEE400005, 0x01020706] (.sipiJoin ⟨false, false, 0, false, 0x00, 0x05, 0x01020706⟩) &&
    reads [0xEE400005, 0x01030706] (.sipiLeave ⟨false, false, 0, false, 0x00, 0x05, 0x01030706⟩) := by
  decide
theorem test_decode_system_3 :
    reads [0xEE400005, 0x01040706] (.sipiRetire ⟨false, false, 0, false, 0x00, 0x05, 0x01040706⟩) &&
    reads [0xEE400005, 0x01050706] (.sipiUnretire ⟨false, false, 0, false, 0x00, 0x05, 0x01050706⟩) := by
  decide
theorem test_decode_matrix_1 :
    readsMatrix 0x0000000000000000 (.mnop) &&
    readsMatrix 0x01B6E82506A00000 (.mma ⟨5, true, 3, false, true, 6, 0x41, 0x28, 0x35, 0x00⟩) &&
    readsMatrix 0x02B8E82506A30000 (.mmas ⟨5, true, 4, false, true, 6, 0x41, 0x28, 0x35, 0x18⟩) &&
    readsMatrix 0x03BBE82506A00000 (.mconv ⟨5, true, 5, true, true, 6, 0x41, 0x28, 0x35, 0x00⟩) &&
    readsMatrix 0x0404000000000000 (.mzero 0 1) &&
    readsMatrix 0x0548000000012340 (.mld ⟨2, 1, false, 0, 0x12340⟩) &&
    readsMatrix 0x064E400000012340 (.mst ⟨2, 1, true, 9, 0x12340⟩) &&
    readsMatrix 0x0702480000008000 (.mdrain ⟨0, 0, 2, false, true, 2, false, 0, 0, 0x8000⟩) := by
  decide
theorem test_decode_matrix_2 :
    readsMatrix 0x076B824880000000 (.mdrain ⟨3, 1, 3, true, false, 0, true, 0x12, 0x20, 0⟩) &&
    readsMatrix 0x0820000000000040 (.mshp 1 0x40) &&
    readsMatrix 0x0910000000000000 (.mbar 1) &&
    readsMatrix 0x0A00000000000000 (.mbwt 0) &&
    readsMatrix 0x0B801234FFFFFFF8 (.mloop ⟨true, false, 0x1234, 0xFFFFFFF8⟩) &&
    readsMatrix 0x0C000000FFFFFFF0 (.mjmp 0xFFFFFFF0) &&
    readsMatrix 0x0D00000000000000 (.mend) &&
    readsMatrix 0x0E00000000000001 (.mstreamUnassignedWord 0x0E00000000000001) := by
  decide

/-- Why a decoder refuses words. -/
def rejects (ws : List Word) : Option DecodeError :=
  match decode ws with
  | .error e => some e
  | .ok _ => none
/-- Why a matrix-stream word is refused. -/
def rejectsMatrix (w : BitVec 64) : Option DecodeError :=
  match decodeMatrix w with
  | .error e => some e
  | .ok _ => none
/-- The short word with an op6, and the first long word with an op9. -/
def op6Word (op low : Nat) : Word := BitVec.ofNat 32 (op * 2 ^ 25 + low)
def op9Word (op : Nat) : Word := BitVec.ofNat 32 (2 ^ 31 + op * 2 ^ 22)
/-- R267: every unassigned op6; op6 0 with another bit set. -/
theorem test_reject_unassigned_op6 :
    (∀ k, k < 64 → (0x15 ≤ k ∧ k ≤ 0x17 ∨ 0x24 ≤ k ∧ k ≤ 0x27 ∨ 0x29 ≤ k ∧ k ≤ 0x2F ∨ 0x38 ≤ k) → rejects [op6Word k 0x050607] = some .unassignedOp6) ∧
    rejects [0x00000001] = some .unassignedOp6 ∧ rejects [0x01000000] = some .unassignedOp6 := by decide +kernel
/-- R267: the unassigned op9, each with its first and last value. -/
theorem test_reject_unassigned_op9 :
    ∀ x ∈ [(0x022, 0x03F), (0x057, 0x07F), (0x088, 0x09F), (0x0AD, 0x0BF), (0x0CC, 0x0DF), (0x0E7, 0x0EF), (0x0FD, 0x10F), (0x11E, 0x14F), (0x15B, 0x16F), (0x17B, 0x18F),
      (0x192, 0x1AF), (0x1BA, 0x1CF), (0x1D0, 0x1FF)], rejects [op9Word x.1, 0] = some .unassignedOp9 ∧ rejects [op9Word x.2, 0] = some .unassignedOp9 := by decide +kernel
/-- R246: G 0 with GN or GP; R267: a MOD6 that is not listed; words that end too soon. -/
theorem test_reject_guard_form_end :
    rejects [0x80110005, 0x00000607] = some .guardBits ∧ rejects [0x80008005, 0x00000607] = some .guardBits ∧ rejects [0x80003F05, 0x00000607] = some .illegalForm ∧
    rejects [0x80000005] = some .truncated ∧ rejects [] = some .truncated := by decide
/-- R258, R274, R249: short forms with a reserved code, a destination that is a constant, a byte that the form leaves 0, an odd pair, a negated store. -/
theorem test_ill_formed_short :
    (∀ i ∈ [Instr.iaddShort ⟨false, 0xFF, 6, 7⟩, .iaddShort ⟨false, 5, 0xFF, 7⟩, .iaddShort ⟨false, 5, 6, 0xFF⟩, .iaddShort ⟨true, 5, 6, 7⟩, .popcShort ⟨false, 5, 6, 1⟩,
        .faddF64Short ⟨false, 5, 6, 8⟩, .faddF64Short ⟨false, 4, 7, 8⟩, .faddF64Short ⟨false, 4, 6, 9⟩, .ldGB32Short ⟨false, 5, 3, 0⟩, .ldGB64Short ⟨false, 5, 2, 0⟩,
        .stGB32Short ⟨true, 5, 2, 0⟩, .stGB64Short ⟨false, 5, 2, 0⟩, .ldSB32Short ⟨false, 5, 6, 0xF0⟩, .ldSB32Short ⟨false, 5, 6, 0xFF⟩], ¬ WellFormed i) ∧
    ∀ i ∈ [Instr.iaddShort ⟨false, 5, 6, 7⟩, .popcShort ⟨false, 5, 6, 0⟩, .faddF64Short ⟨false, 4, 6, 8⟩, .ldGB32Short ⟨false, 5, 2, 0⟩, .ldGB64Short ⟨false, 4, 2, 0⟩,
        .stGB32Short ⟨false, 5, 2, 0⟩, .stGB64Short ⟨false, 4, 2, 0⟩, .ldSB32Short ⟨false, 5, 6, 0xEF⟩, .shlImmShort ⟨false, 5, 6, 0xFF⟩], WellFormed i := by decide
/-- R321, R342, R343, R395: a run of rgn beyond 16 or from a code, an odd address pair, an odd pair of 8-byte data, a quad off its boundary, a space beyond the list, a control register of the wrong row. -/
theorem test_ill_formed_runs_and_pairs :
    (∀ i ∈ [Instr.rgn ⟨false, false, 0, false, 0, 0x04, 0x09060806⟩, .rgn ⟨false, false, 0, false, 0, 0x04, 0x010601F0⟩, .ld ⟨false, false, 0, false, 2, 4, 0x0001F403⟩,
        .ld ⟨false, false, 0, false, 2, 4, 0x0005F402⟩, .ld ⟨false, false, 0, false, 3, 5, 0x0001F402⟩, .ld ⟨false, false, 0, false, 4, 6, 0x0001F402⟩,
        .csrw ⟨false, false, 0, false, 0, 0, 0x00200006⟩], ¬ WellFormed i) ∧
    ∀ i ∈ [Instr.ld ⟨false, false, 0, false, 2, 4, 0x0001F402⟩, .ld ⟨false, false, 0, false, 3, 4, 0x0001F402⟩, .ld ⟨false, false, 0, false, 4, 8, 0x0001F402⟩], WellFormed i := by decide
/-- R383, R385, R389: matrix words with a format, object, offset or span that the layouts exclude, bits that a layout gives as 0; a register field of mma that held rows would ignore is no matter of the form. -/
theorem test_ill_formed_matrix :
    [Instr.mma ⟨0, false, 6, false, false, 0, 0, 0, 0, 0⟩, .mma ⟨0, false, 0, true, false, 0, 0, 0, 0, 0⟩, .mmas ⟨0, false, 3, false, false, 0, 0, 0, 0, 0⟩, .mconv ⟨0, false, 7, false, false, 0, 0, 0, 0, 0⟩, .mzero 5 3].all (fun i => !formOk i) = true ∧
    formOk (.mma ⟨0, false, 0, false, false, 0, 0, 4, 0, 8⟩) = true := by decide
theorem test_ill_formed_tiles :
    [Instr.mld ⟨0, 2, false, 0, 0⟩, .mld ⟨0, 0, true, 0, 0⟩, .mld ⟨0, 0, false, 1, 0⟩, .mld ⟨0, 0, false, 0, 8⟩,
      .mst ⟨0, 0, false, 1, 8⟩, .mshp 0 32, .mdrain ⟨0, 3, 0, false, false, 0, false, 0, 0, 0⟩, .mdrain ⟨0, 0, 3, false, false, 0, false, 0, 0, 0⟩,
      .mdrain ⟨0, 0, 0, true, true, 0, false, 0, 0, 0⟩, .mdrain ⟨0, 0, 0, false, false, 0, true, 0, 0, 0⟩].all (fun i => !formOk i) = true := by decide
theorem test_reject_matrix_bits :
    rejectsMatrix 0x0000000000000001 = some .illegalForm ∧ rejectsMatrix 0x0100000000000001 = some .illegalForm ∧ rejectsMatrix 0x0404000000000001 = some .illegalForm ∧
    rejectsMatrix 0x0548000000112340 = some .illegalForm ∧ rejectsMatrix 0x0910000000000001 = some .illegalForm ∧ rejectsMatrix 0x0D00000000000001 = some .illegalForm := by decide

/-! ## Ill-formed terms -/

/-- `o` with one of its fields made ill-formed: 0 and 1 an unlisted MOD6, 2 an operand code D that no form lists, 3 NW the other way, 4-7 byte A, B, C, E of word 1, 8 guard bits under G 0. -/
def spoil (o : Ops) : Nat → Ops
  | 0 => { o with mod := 0x3F }
  | 1 => { o with mod := o.mod &&& 0x30 ||| 7 }
  | 2 => { o with d := 0xFF }
  | 3 => { o with nw := !o.nw }
  | 8 => { o with g := false, gn := true }
  | k => { o with w1 := o.w1 ||| (0xFF#32 <<< (8 * (k - 4))) }

/-- The form `f` is well formed with the fields `o`, and refused with each of the spoiled fields `ks`. -/
def refuses (f : Ops → Instr) (o : Ops) (ks : List Nat) : Bool :=
  formOk (f o) && ks.all fun k => !formOk (f (spoil o k))
theorem test_ill_formed_integer_1 :
    refuses .iadd ⟨true, false, 3, false, 0x10, 0x06, 0x0000050B⟩ [0, 1, 2, 3] &&
    refuses .iaddc ⟨false, false, 0, false, 0x00, 0x14, 0x01000E0A⟩ [0, 1, 2, 3, 4, 5, 6, 7, 8] &&
    refuses .ineg ⟨false, false, 0, false, 0x02, 0x14, 0x0000000A⟩ [0, 1, 2, 3, 4, 5, 6, 7, 8] &&
    refuses .imin ⟨false, false, 0, false, 0x01, 0x03, 0x00000204⟩ [0, 1, 2, 3, 4, 5, 6, 7, 8] &&
    refuses .iadds ⟨false, false, 0, false, 0x01, 0x03, 0x00000204⟩ [0, 1, 2, 3, 4, 5, 6, 7, 8] &&
    refuses .imulh ⟨false, false, 0, false, 0x02, 0x08, 0x00000204⟩ [0, 1, 2, 3, 4, 5, 6, 7, 8] &&
    refuses .imad ⟨false, false, 0, false, 0x02, 0x08, 0x000E0C0A⟩ [0, 1, 2, 3, 4, 5, 6, 7, 8] := by
  decide
theorem test_ill_formed_integer_2 :
    refuses .imadw ⟨false, false, 0, false, 0x01, 0x08, 0x000E0D0B⟩ [0, 1, 2, 3, 4, 5, 6, 7, 8] &&
    refuses .ilea ⟨false, false, 0, false, 0x00, 0x14, 0x01030516⟩ [0, 1, 2, 3, 4, 5, 6, 7, 8] &&
    refuses .icmp ⟨false, false, 0, false, 0x03, 0x02, 0x00050604⟩ [0, 1, 2, 3, 4, 5, 6, 7, 8] &&
    refuses .isel ⟨false, false, 0, false, 0x10, 0x06, 0x10006407⟩ [0, 1, 2, 3, 8] := by
  decide
theorem test_ill_formed_integer_logic :
    refuses .shl ⟨false, false, 0, false, 0x02, 0x06, 0x00000B08⟩ [0, 1, 2, 3, 4, 5, 6, 7, 8] &&
    refuses .rotl ⟨false, false, 0, false, 0x10, 0x06, 0x00001F08⟩ [0, 1, 2, 3, 8] &&
    refuses .popc ⟨false, false, 0, false, 0x02, 0x03, 0x00000004⟩ [0, 1, 2, 3, 4, 5, 6, 7, 8] &&
    refuses .fshl ⟨false, false, 0, false, 0x00, 0x05, 0x00080706⟩ [0, 1, 2, 3, 4, 5, 6, 7, 8] &&
    refuses .bfe ⟨false, false, 0, false, 0x11, 0x03, 0x00080404⟩ [0, 1, 2, 3, 7, 8] &&
    refuses .bfi ⟨false, false, 0, false, 0x00, 0x03, 0x07060504⟩ [0, 1, 2, 3, 4, 5, 6, 7, 8] &&
    refuses .bmix ⟨false, false, 0, false, 0x00, 0x09, 0x00060504⟩ [0, 1, 2, 3, 4, 5, 6, 7, 8] := by
  decide
theorem test_ill_formed_floating_1 :
    refuses .fadd ⟨false, false, 0, false, 0x21, 0x06, 0x90000A08⟩ [0, 1, 2, 3, 4, 5, 6, 7, 8] &&
    refuses .fmin ⟨false, false, 0, false, 0x08, 0x05, 0x00000706⟩ [0, 1, 2, 3, 4, 5, 6, 7, 8] &&
    refuses .fsign ⟨false, false, 0, false, 0x00, 0x05, 0x20000706⟩ [0, 1, 2, 3, 4, 5, 6, 7, 8] &&
    refuses .fdiv ⟨false, false, 0, false, 0x01, 0x04, 0x13000806⟩ [0, 1, 2, 3, 4, 5, 6, 7, 8] &&
    refuses .ffma ⟨false, false, 0, false, 0x01, 0x08, 0x980E0C0A⟩ [0, 1, 2, 3, 4, 5, 6, 7, 8] &&
    refuses .fsqrt ⟨false, false, 0, false, 0x01, 0x04, 0x81000006⟩ [0, 1, 2, 3, 4, 5, 6, 7, 8] &&
    refuses .fex2 ⟨false, false, 0, false, 0x00, 0x05, 0x40000007⟩ [0, 1, 2, 3, 4, 5, 6, 7, 8] := by
  decide
theorem test_ill_formed_floating_2 :
    refuses .fcmp ⟨false, false, 0, false, 0x04, 0x02, 0x30070605⟩ [0, 1, 2, 3, 4, 5, 6, 7, 8] &&
    refuses .fclass ⟨false, false, 0, false, 0x03, 0x02, 0x00000005⟩ [0, 1, 2, 3, 4, 5, 6, 7, 8] &&
    refuses .frnd ⟨false, false, 0, false, 0x00, 0x02, 0x80000405⟩ [0, 1, 2, 3, 4, 5, 6, 7, 8] &&
    refuses .fcvt ⟨false, false, 0, false, 0x01, 0x02, 0x40000705⟩ [0, 1, 2, 3, 4, 5, 6, 7, 8] &&
    refuses .f2i ⟨false, false, 0, false, 0x02, 0x02, 0xC0010106⟩ [0, 1, 2, 3, 4, 5, 6, 7, 8] &&
    refuses .i2f ⟨false, false, 0, false, 0x00, 0x03, 0x00030206⟩ [0, 1, 2, 3, 4, 5, 6, 7, 8] &&
    refuses .fscal ⟨false, false, 0, false, 0x01, 0x04, 0xC0000906⟩ [0, 1, 2, 3, 4, 5, 6, 7, 8] := by
  decide
theorem test_ill_formed_narrow :
    refuses .vdot8 ⟨false, false, 0, false, 0x00, 0x05, 0x00080706⟩ [0, 1, 2, 3, 4, 5, 6, 7, 8] &&
    refuses .vpack ⟨false, false, 0, false, 0x0A, 0x05, 0x00000008⟩ [0, 1, 2, 3, 4, 5, 6, 7, 8] &&
    refuses .vunpk ⟨false, false, 0, false, 0x05, 0x08, 0x00000005⟩ [0, 1, 2, 3, 4, 5, 6, 7, 8] &&
    refuses .vamax ⟨false, false, 0, false, 0x00, 0x05, 0x00002010⟩ [0, 1, 2, 3, 4, 5, 6, 7, 8] &&
    refuses .vscal ⟨false, false, 0, false, 0x00, 0x05, 0x09080706⟩ [0, 1, 2, 3, 4, 5, 6, 7, 8] := by
  decide
theorem test_ill_formed_moves_1 :
    refuses .mov ⟨false, false, 0, false, 0x20, 0x03, 0x00000700⟩ [0, 1, 2, 3, 4, 5, 6, 7, 8] &&
    refuses .movi ⟨false, false, 0, false, 0x00, 0x03, 0xDEADBEEF⟩ [0, 1, 2, 3, 8] &&
    refuses .movh ⟨false, false, 0, false, 0x00, 0x04, 0xDEADBEEF⟩ [0, 1, 2, 3, 8] &&
    refuses .s2v ⟨false, false, 0, false, 0x02, 0x04, 0x00000A08⟩ [0, 1, 2, 3, 4, 5, 6, 7, 8] &&
    refuses .v2s ⟨false, false, 0, false, 0x10, 0x05, 0x00001F07⟩ [0, 1, 2, 3, 4, 5, 6, 7, 8] &&
    refuses .idxset ⟨false, false, 0, false, 0x00, 0x03, 0x80000001⟩ [0, 1, 2, 3, 8] &&
    refuses .idxadd ⟨false, false, 0, false, 0x00, 0x02, 0x00000007⟩ [0, 1, 2, 3, 4, 5, 6, 7, 8] := by
  decide
theorem test_ill_formed_moves_2 :
    refuses .rgn ⟨false, false, 0, false, 0x00, 0x00, 0x08200810⟩ [0, 1, 2, 3, 4, 5, 6, 7, 8] &&
    refuses .plog ⟨false, false, 0, false, 0x00, 0x01, 0xCA040302⟩ [0, 1, 2, 3, 4, 5, 6, 8] &&
    refuses .pmov ⟨false, false, 0, false, 0x00, 0x01, 0x00001F07⟩ [0, 1, 2, 3, 4, 5, 6, 7, 8] &&
    refuses .pmask ⟨false, false, 0, false, 0x00, 0x01, 0x00000008⟩ [0, 1, 2, 3, 4, 5, 6, 7, 8] &&
    refuses .csrr ⟨false, false, 0, false, 0x00, 0x04, 0x40013800⟩ [0, 1, 4, 6, 7, 8] &&
    refuses .ringHeadRead ⟨false, false, 0, false, 0x00, 0x41, 0x00020800⟩ [0, 1, 4, 5, 6, 7, 8] := by
  decide
theorem test_ill_formed_control_registers :
    refuses .csrw ⟨false, false, 0, false, 0x00, 0x00, 0x00010103⟩ [0, 1, 2, 3, 6, 7, 8] &&
    refuses .kinstInstall ⟨false, false, 0, false, 0x00, 0x00, 0x0001C803⟩ [0, 1, 2, 3, 5, 6, 7, 8] := by
  decide
theorem test_ill_formed_scalar :
    refuses .sadd ⟨false, false, 0, false, 0x02, 0x06, 0x00000A08⟩ [0, 1, 2, 3, 4, 5, 6, 7, 8] &&
    refuses .smin ⟨false, false, 0, false, 0x02, 0x06, 0x00000A08⟩ [0, 1, 2, 3, 4, 5, 6, 7, 8] &&
    refuses .sshl ⟨false, false, 0, false, 0x02, 0x06, 0x00000A08⟩ [0, 1, 2, 3, 4, 5, 6, 7, 8] &&
    refuses .sshr ⟨false, false, 0, false, 0x02, 0x06, 0x00000A08⟩ [0, 1, 2, 3, 4, 5, 6, 7, 8] &&
    refuses .scmp ⟨false, false, 0, false, 0x03, 0x07, 0x00040A08⟩ [0, 1, 2, 3, 4, 5, 6, 7, 8] &&
    refuses .smovi ⟨false, false, 0, false, 0x00, 0x07, 0x12345678⟩ [0, 1, 2, 3, 8] := by
  decide
theorem test_ill_formed_group_wide :
    refuses .vote ⟨false, false, 0, false, 0x02, 0x08, 0x00000002⟩ [0, 1, 2, 3, 4, 5, 6, 7, 8] &&
    refuses .xlane ⟨false, false, 0, false, 0x11, 0x05, 0x00003306⟩ [0, 1, 2, 3, 4, 5, 6, 7, 8] &&
    refuses .redux ⟨false, false, 0, false, 0x07, 0x05, 0x00000006⟩ [0, 2, 3, 4, 5, 6, 7, 8] &&
    refuses .scan ⟨false, false, 0, false, 0x0F, 0x05, 0x00000006⟩ [0, 2, 3, 4, 5, 6, 7, 8] &&
    refuses .matchLanes ⟨false, false, 0, false, 0x02, 0x04, 0x00000006⟩ [0, 1, 2, 3, 4, 5, 6, 7, 8] &&
    refuses .bcast ⟨false, false, 0, false, 0x22, 0x04, 0x00000906⟩ [0, 1, 2, 3, 4, 5, 6, 7, 8] &&
    refuses .lxec ⟨false, false, 0, false, 0x00, 0x00, 0x00000014⟩ [0, 1, 2, 3, 4, 5, 6, 7, 8] := by
  decide
theorem test_ill_formed_control_flow_1 :
    refuses .bra ⟨true, false, 0, false, 0x00, 0x00, 0xFFFFFFF0⟩ [0, 1, 2, 3] &&
    refuses .brc ⟨false, false, 0, false, 0x00, 0x00, 0x0000100A⟩ [0, 1, 2, 3, 4, 7, 8] &&
    refuses .brs ⟨false, false, 0, false, 0x01, 0x00, 0x1FFFFF0A⟩ [0, 1, 2, 3, 4, 7, 8] &&
    refuses .brx ⟨false, false, 0, false, 0x00, 0x00, 0x0000000A⟩ [0, 1, 2, 3, 4, 5, 6, 7, 8] &&
    refuses .call ⟨false, false, 0, false, 0x00, 0x04, 0x00000100⟩ [0, 1, 2, 3, 8] &&
    refuses .callx ⟨false, false, 0, false, 0x00, 0x04, 0x00000006⟩ [0, 1, 2, 3, 4, 5, 6, 7, 8] &&
    refuses .exitLanes ⟨true, false, 0, false, 0x00, 0x00, 0x00000000⟩ [0, 1, 2, 3, 4, 5, 6, 7] := by
  decide
theorem test_ill_formed_control_flow_2 :
    refuses .trapLanes ⟨true, false, 0, false, 0x00, 0x00, 0x0000002A⟩ [0, 1, 2, 3] := by
  decide
theorem test_ill_formed_memory_1 :
    refuses .ld ⟨false, false, 0, false, 0x13, 0x08, 0x40801002⟩ [0, 1, 2, 3, 7, 8] &&
    refuses .st ⟨false, false, 0, false, 0x14, 0x0C, 0x00802002⟩ [0, 1, 2, 3, 7, 8] &&
    refuses .lda ⟨false, false, 0, false, 0x03, 0x08, 0x02210406⟩ [0, 1, 2, 3, 4, 5, 6, 7, 8] &&
    refuses .stl ⟨false, false, 0, false, 0x02, 0x08, 0x00210406⟩ [0, 1, 2, 3, 4, 5, 6, 7, 8] &&
    refuses .atom ⟨false, false, 0, false, 0x00, 0x04, 0x81210602⟩ [0, 1, 2, 3, 4, 5, 6, 7, 8] &&
    refuses .acas ⟨false, false, 0, false, 0x00, 0x08, 0x40290A02⟩ [0, 1, 2, 3, 4, 5, 6, 7, 8] &&
    refuses .red ⟨false, false, 0, false, 0x00, 0x06, 0x20210002⟩ [0, 1, 2, 3, 4, 5, 6, 7, 8] := by
  decide
theorem test_ill_formed_memory_2 :
    refuses .fence ⟨false, false, 0, false, 0x00, 0x00, 0x00200000⟩ [0, 1, 2, 3, 4, 5, 6, 7, 8] &&
    refuses .ldsh ⟨false, false, 0, false, 0x04, 0x03, 0x00010C02⟩ [0, 1, 2, 3, 4, 5, 6, 7, 8] &&
    refuses .pref ⟨false, false, 0, false, 0x10, 0x00, 0x00810002⟩ [0, 1, 2, 3, 7, 8] &&
    refuses .waddr ⟨false, false, 0, false, 0x0B, 0x05, 0x00840008⟩ [0, 1, 2, 3, 4, 5, 6, 7, 8] &&
    refuses .paddr ⟨false, false, 0, false, 0x00, 0x0A, 0x00000008⟩ [0, 1, 2, 3, 4, 5, 6, 7, 8] &&
    refuses .sld ⟨false, false, 0, false, 0x13, 0x0C, 0xA0800804⟩ [0, 1, 2, 3, 7, 8] &&
    refuses .sst ⟨false, false, 0, false, 0x12, 0x0C, 0x00800804⟩ [0, 1, 3, 7, 8] := by
  decide
theorem test_ill_formed_barriers_and_mailboxes_1 :
    refuses .barr ⟨false, false, 0, false, 0x02, 0x00, 0x00000000⟩ [0, 2, 3, 4, 5, 6, 7, 8] &&
    refuses .bwait ⟨false, false, 0, false, 0x15, 0x01, 0x00000300⟩ [0, 2, 3, 4, 8] &&
    refuses .bexp ⟨false, false, 0, false, 0x03, 0x00, 0x00060500⟩ [0, 2, 3, 4, 5, 6, 7, 8] &&
    refuses .btest ⟨false, false, 0, false, 0x04, 0x07, 0x00000000⟩ [0, 2, 3, 4, 5, 6, 7, 8] &&
    refuses .mpost ⟨false, false, 0, false, 0x00, 0x05, 0x00000008⟩ [0, 1, 2, 3, 4, 5, 6, 7, 8] &&
    refuses .mpostNb ⟨false, false, 0, false, 0x01, 0x05, 0x02030008⟩ [0, 1, 2, 3, 4, 5, 6, 7, 8] &&
    refuses .mtake ⟨false, false, 0, false, 0x00, 0x05, 0x01000008⟩ [0, 1, 2, 3, 4, 5, 6, 7, 8] := by
  decide
theorem test_ill_formed_barriers_and_mailboxes_2 :
    refuses .mtry ⟨false, false, 0, false, 0x00, 0x05, 0x01030008⟩ [0, 1, 2, 3, 4, 5, 6, 7, 8] &&
    refuses .mbind ⟨false, false, 0, false, 0x00, 0x00, 0x00000008⟩ [0, 1, 2, 3, 4, 5, 6, 7, 8] := by
  decide
theorem test_ill_formed_engines_1 :
    refuses .job ⟨false, false, 0, false, 0x00, 0x14, 0x0200000A⟩ [0, 1, 2, 3, 4, 5, 6, 7, 8] &&
    refuses .tcpy ⟨false, false, 0, false, 0x00, 0x14, 0x39100E0C⟩ [0, 1, 2, 3, 4, 5, 6, 8] &&
    refuses .tsto ⟨false, false, 0, false, 0x00, 0x14, 0x00100F0C⟩ [0, 1, 2, 3, 4, 5, 6, 8] &&
    refuses .tgat ⟨false, false, 0, false, 0x00, 0x14, 0x00100E0C⟩ [0, 1, 2, 3, 4, 5, 6, 8] &&
    refuses .tcol ⟨false, false, 0, false, 0x00, 0x14, 0x00110F0C⟩ [0, 1, 2, 3, 4, 5, 6, 8] &&
    refuses .fwait ⟨false, false, 0, false, 0x00, 0x16, 0x00000014⟩ [0, 1, 2, 3, 4, 5, 6, 7, 8] &&
    refuses .ftest ⟨false, false, 0, false, 0x00, 0x16, 0x00000014⟩ [0, 1, 2, 3, 4, 5, 6, 7, 8] := by
  decide
theorem test_ill_formed_engines_2 :
    refuses .qbind ⟨false, false, 0, false, 0x01, 0x02, 0x00000000⟩ [0, 1, 2, 3, 4, 5, 6, 7, 8] &&
    refuses .qstatStatus ⟨false, false, 0, false, 0x00, 0x07, 0x00000002⟩ [0, 1, 2, 3, 4, 5, 6, 7, 8] &&
    refuses .qstatPop ⟨false, false, 0, false, 0x00, 0x08, 0x00010002⟩ [0, 1, 2, 3, 4, 5, 6, 7, 8] &&
    refuses .qstatPush ⟨false, false, 0, false, 0x00, 0x00, 0x00020904⟩ [0, 1, 2, 3, 4, 5, 6, 7, 8] &&
    refuses .mstart ⟨false, false, 0, false, 0x00, 0x00, 0x00000C0A⟩ [0, 1, 2, 3, 4, 5, 6, 7, 8] &&
    refuses .mstat ⟨false, false, 0, false, 0x00, 0x1E, 0x00010000⟩ [0, 1, 2, 3, 4, 5, 6, 7, 8] := by
  decide
theorem test_ill_formed_system_1 :
    refuses .sret ⟨false, false, 0, false, 0x00, 0x00, 0x00000000⟩ [0, 1, 2, 3, 4, 5, 6, 7, 8] &&
    refuses .tlbinvPage ⟨false, false, 0, false, 0x00, 0x00, 0x00000605⟩ [0, 1, 2, 3, 4, 5, 6, 7, 8] &&
    refuses .tlbinvCtx ⟨false, false, 0, false, 0x01, 0x00, 0x0000F405⟩ [0, 1, 2, 3, 4, 5, 6, 7, 8] &&
    refuses .tlbinvGlobal ⟨false, false, 0, false, 0x02, 0x00, 0x0000F4F4⟩ [0, 1, 2, 3, 4, 5, 6, 7, 8] &&
    refuses .pfrep ⟨false, false, 0, false, 0x00, 0x05, 0x03000006⟩ [0, 1, 2, 3, 4, 5, 6, 7, 8] &&
    refuses .msave ⟨false, false, 0, false, 0x00, 0x00, 0x00000006⟩ [0, 1, 2, 3, 4, 5, 6, 7, 8] &&
    refuses .gate ⟨false, false, 0, false, 0x00, 0x14, 0x02031A18⟩ [0, 1, 2, 3, 4, 5, 6, 7, 8] := by
  decide
theorem test_ill_formed_system_2 :
    refuses .ctxldLoad ⟨false, false, 0, false, 0x00, 0x05, 0x0000F406⟩ [0, 1, 2, 3, 4, 5, 6, 7, 8] &&
    refuses .ctxldTeardown ⟨false, false, 0, false, 0x00, 0x05, 0x000007F4⟩ [0, 1, 2, 3, 4, 5, 6, 7, 8] &&
    refuses .wfi ⟨false, false, 0, false, 0x00, 0x00, 0x00000064⟩ [0, 1, 2, 3, 8] &&
    refuses .sipiWake ⟨false, false, 0, false, 0x00, 0x05, 0x01000706⟩ [0, 1, 2, 3, 4, 5, 6, 7, 8] &&
    refuses .sipiJoin ⟨false, false, 0, false, 0x00, 0x05, 0x01020706⟩ [0, 1, 2, 3, 4, 5, 6, 7, 8] &&
    refuses .sipiUnretire ⟨false, false, 0, false, 0x00, 0x05, 0x01050706⟩ [0, 1, 2, 3, 4, 5, 6, 7, 8] := by
  decide

/-! ## A small state -/

/-- The clause in issue: the instruction at hand is long, and one more word follows it. -/
def demoC : Clause :=
  { pc := 0x2000, hdr := 0xE1000000, words := [0xBEC00000, 0, 0], idx := 0, ipc := 0x2004, slot := 0, lats := [], replay := none }

/-- A live user context. -/
def demoCtx : Ctx := { Ctx.kernel with ckey := 1, world := 1, kind := 2, rootFn := 0, rootSlot := 0, privBase := 0x1000000, spillBase := 0x2000000, sstFn := 0, sstOff := 0, svbase := 0x9000 }

/-- A group of 16 lanes, of which 0 and 2 are live, with 64 registers. -/
def demoG : Group :=
  { Group.init 1 16 64 0x2000 with lmask := 5, fmask := 5, s0 := { Slot.empty with mask := 5, pc := 0x2000 }, clause := some demoC }

/-- A module in which a group of core 0 executes an instruction. -/
def withG (g : Group) : State :=
  { State.reset with hosts := [], groups := [(0, g)], ctxs := [(1, demoCtx)], cur := some 0 }

/-- The group after one instruction. -/
def after1 (g : Group) (i : Instr) : Option Group :=
  match exec i (withG g) with
  | .next t => SMap.find? t.groups 0
  | _ => none

/-- The group with lane 2 alone, which holds the given registers. -/
def lane2 (rs : List (Nat × Word)) : Group :=
  rs.foldl (fun g r => g.setV 2 r.1 r.2) { demoG with lmask := 4, fmask := 4, s0 := { demoG.s0 with mask := 4 } }

/-- The register `r` of lane 2 after one instruction. -/
def v2 (i : Instr) (rs : List (Nat × Word)) (r : Nat) : Option Word := (after1 (lane2 rs) i).map (fun g => g.v 2 r)

/-- A long instruction in layout L4, and one with a 24-bit immediate. -/
def frm (mod : BitVec 6) (d a b c e : BitVec 8) : Ops := ⟨false, false, 0, false, mod, d, e ++ c ++ b ++ a⟩
def frmI (mod : BitVec 6) (d a : BitVec 8) (imm : BitVec 24) : Ops := ⟨false, false, 0, false, mod, d, imm ++ a⟩
/-- The pair `r`, `r + 1` of lane 2, and predicate `p` of lane 2, after one instruction. -/
def d2 (i : Instr) (rs : List (Nat × Word)) (r : Nat) : Option DWord := (after1 (lane2 rs) i).map (fun g => g.v64 2 r)
def p2 (i : Instr) (rs : List (Nat × Word)) (p : Nat) : Option Bool := (after1 (lane2 rs) i).map (fun g => (g.p p).getLsbD 2)
/-- FPCSR after one instruction. -/
def fl2 (i : Instr) (rs : List (Nat × Word)) : Option Word := (after1 (lane2 rs) i).map (fun g => g.fpcsr)

/-! ## Integer instructions: one step each (R274-R288; the table of borderline results of 13_isa_integer) -/

theorem test_short_integers :
    v2 (.iaddShort ⟨false, 6, 11, 1⟩) [(11, 0xFFFFFFFF), (1, 2)] 6 = some 1 ∧
    v2 (.isubShort ⟨false, 6, 11, 1⟩) [(11, 1), (1, 2)] 6 = some 0xFFFFFFFF ∧
    v2 (.imulShort ⟨false, 6, 11, 1⟩) [(11, 0x10001), (1, 0x10003)] 6 = some 0x00040003 ∧
    v2 (.imulhShort ⟨false, 6, 11, 1⟩) [(11, 0xFFFFFFFF), (1, 0xFFFFFFFF)] 6 = some 0 ∧
    v2 (.iminShort ⟨false, 6, 11, 1⟩) [(11, 0xFFFFFFFF), (1, 1)] 6 = some 0xFFFFFFFF ∧
    v2 (.imaxShort ⟨false, 6, 11, 1⟩) [(11, 0xFFFFFFFF), (1, 1)] 6 = some 1 ∧
    v2 (.andnShort ⟨false, 6, 11, 1⟩) [(11, 0xFF), (1, 0x0F)] 6 = some 0xF0 ∧
    v2 (.andShort ⟨false, 6, 11, 1⟩) [(11, 0xFC), (1, 0x3F)] 6 = some 0x3C := by decide

theorem test_short_shifts_and_counts :
    v2 (.orShort ⟨false, 6, 11, 1⟩) [(11, 0xFC), (1, 0x3F)] 6 = some 0xFF ∧
    v2 (.xorShort ⟨false, 6, 11, 1⟩) [(11, 0xFC), (1, 0x3F)] 6 = some 0xC3 ∧
    v2 (.shlShort ⟨false, 6, 11, 1⟩) [(11, 1), (1, 32)] 6 = some 0 ∧
    v2 (.shrShort ⟨false, 6, 11, 1⟩) [(11, 0x80000000), (1, 31)] 6 = some 1 ∧
    v2 (.sraShort ⟨false, 6, 11, 1⟩) [(11, 0x80000000), (1, 40)] 6 = some 0xFFFFFFFF ∧
    v2 (.popcShort ⟨false, 6, 11, 0⟩) [(11, 0xF0F1)] 6 = some 9 ∧
    v2 (.clzShort ⟨false, 6, 11, 0⟩) [(11, 0)] 6 = some 32 ∧
    v2 (.brevShort ⟨false, 6, 11, 0⟩) [(11, 3)] 6 = some 0xC0000000 := by decide

theorem test_short_literals :
    v2 (.iaddImm8Short ⟨false, 6, 11, 0xFF⟩) [(11, 5)] 6 = some 4 ∧
    v2 (.shlImmShort ⟨false, 6, 11, 255⟩) [(11, 1)] 6 = some 0 ∧
    v2 (.shrImmShort ⟨false, 6, 11, 4⟩) [(11, 0x80000000)] 6 = some 0x08000000 ∧
    v2 (.sraImmShort ⟨false, 6, 11, 4⟩) [(11, 0x80000000)] 6 = some 0xF8000000 := by decide

theorem test_add_and_subtract :
    d2 (.iadd (frm 2 8 10 12 0 0)) [(10, 0xFFFFFFFF), (11, 0), (12, 1), (13, 0)] 8 = some 0x100000000 ∧
    v2 (.iadd (frmI 0x10 6 11 0xFFFFFF)) [(11, 0)] 6 = some 0xFFFFFFFF ∧
    d2 (.isub (frm 2 8 10 12 0 0)) [(10, 0), (11, 1), (12, 1), (13, 0)] 8 = some 0xFFFFFFFF ∧
    v2 (.ineg (frm 0 6 11 0 0 0)) [(11, 5)] 6 = some 0xFFFFFFFB ∧
    v2 (.iaddc (frm 0 0x14 0x0A 0x0E 0 1)) [(10, 0xFFFFFFFF), (14, 1)] 20 = some 0 ∧
    p2 (.iaddc (frm 0 0x14 0x0A 0x0E 0 1)) [(10, 0xFFFFFFFF), (14, 1)] 1 = some true ∧
    v2 (.isubb (frm 0 0x14 0x0A 0x0E 0 1)) [(10, 3), (14, 5)] 20 = some 0xFFFFFFFE ∧
    p2 (.isubb (frm 0 0x14 0x0A 0x0E 0 1)) [(10, 3), (14, 5)] 1 = some true := by decide

theorem test_saturation_and_extremes :
    v2 (.iadds (frm 0 3 4 5 0 0)) [(4, 0x7FFFFFFF), (5, 1)] 3 = some 0x7FFFFFFF ∧
    fl2 (.iadds (frm 0 3 4 5 0 0)) [(4, 0x7FFFFFFF), (5, 1)] = some 0 ∧
    v2 (.isubs (frm 1 3 4 5 0 0)) [(4, 3), (5, 4)] 3 = some 0 ∧
    v2 (.iabs (frm 0 3 4 0 0 0)) [(4, 0x80000000)] 3 = some 0x80000000 ∧
    v2 (.imin (frm 1 3 4 5 0 0)) [(4, 0xFFFFFFFF), (5, 1)] 3 = some 1 ∧
    v2 (.imax (frm 1 3 4 5 0 0)) [(4, 0xFFFFFFFF), (5, 1)] 3 = some 0xFFFFFFFF := by decide

theorem test_multiplies :
    v2 (.imul (frm 0 3 4 5 0 0)) [(4, 0x10001), (5, 0x10003)] 3 = some 0x00040003 ∧
    v2 (.imulh (frm 0 3 4 5 0 0)) [(4, 0xFFFFFFFF), (5, 0xFFFFFFFF)] 3 = some 0 ∧
    v2 (.imulh (frm 1 3 4 5 0 0)) [(4, 0xFFFFFFFF), (5, 0xFFFFFFFF)] 3 = some 0xFFFFFFFE ∧
    d2 (.imad (frm 2 8 10 12 14 0)) [(10, 0), (11, 1), (12, 3), (13, 0), (14, 7), (15, 0)] 8 = some 0x300000007 ∧
    d2 (.imadw (frm 0 8 11 13 14 0)) [(11, 0xFFFFFFFF), (13, 2), (14, 1), (15, 0)] 8 = some 0xFFFFFFFFFFFFFFFF ∧
    d2 (.ilea (frm 0 0x14 0x16 5 3 0)) [(0x16, 0x1000), (5, 0xFFFFFFFF)] 0x14 = some 0xFF8 ∧
    d2 (.ilea (frm 0 0x14 0x16 5 3 1)) [(0x16, 0x1000), (5, 0xFFFFFFFF)] 0x14 = some 0x800000FF8 := by decide

theorem test_compare_select_logic :
    p2 (.icmp (frm 0 2 4 5 2 0)) [(4, 0xFFFFFFFF), (5, 1)] 2 = some true ∧
    p2 (.icmp (frm 1 2 4 5 2 0)) [(4, 0xFFFFFFFF), (5, 1)] 2 = some false ∧
    v2 (.isel (frmI 0x10 6 7 0x100064)) [(7, 9)] 6 = some 100 ∧
    v2 (.land (frm 0 3 4 5 0 0)) [(4, 0xFC), (5, 0x3F)] 3 = some 0x3C ∧
    v2 (.lor (frm 0 3 4 5 0 0)) [(4, 0xFC), (5, 0x3F)] 3 = some 0xFF ∧
    v2 (.lxor (frm 0 3 4 5 0 0)) [(4, 0xFC), (5, 0x3F)] 3 = some 0xC3 ∧
    v2 (.landn (frm 0 3 4 5 0 0)) [(4, 0xFC), (5, 0x3F)] 3 = some 0xC0 ∧
    v2 (.lorn (frm 0 3 4 5 0 0)) [(4, 0), (5, 0xFF)] 3 = some 0xFFFFFF00 := by decide

theorem test_shifts_and_rotates :
    v2 (.shl (frmI 0x10 3 4 32)) [(4, 1)] 3 = some 0 ∧
    v2 (.shr (frmI 0x10 3 4 0xFFFFFF)) [(4, 0xFFFFFFFF)] 3 = some 0 ∧
    d2 (.shr (frmI 0x12 8 10 40)) [(10, 0x01234567), (11, 0x89ABCDEF)] 8 = some 0x89ABCD ∧
    v2 (.sra (frmI 0x10 3 4 40)) [(4, 0x80000000)] 3 = some 0xFFFFFFFF ∧
    v2 (.rotl (frmI 0x10 3 4 33)) [(4, 0x80000001)] 3 = some 3 ∧
    v2 (.fshl (frm 0 3 4 5 6 0)) [(4, 0x12345678), (5, 0x9ABCDEF0), (6, 36)] 3 = some 0x23456789 ∧
    v2 (.fshr (frm 0 3 4 5 6 0)) [(4, 0x12345678), (5, 0x9ABCDEF0), (6, 36)] 3 = some 0x89ABCDEF := by decide

theorem test_bit_fields :
    v2 (.bfe (frmI 0x10 3 4 0x000404)) [(4, 0x80)] 3 = some 0xFFFFFFF8 ∧
    v2 (.bfe (frmI 0x10 3 4 0x000828)) [(4, 0x80000000)] 3 = some 0xFFFFFFFF ∧
    v2 (.bfi (frm 0 3 4 5 6 7)) [(4, 0xFFFFFFFF), (5, 0x12345678), (6, 32), (7, 4)] 3 = some 0x12345678 ∧
    v2 (.bfi (frm 0 3 4 5 6 7)) [(4, 0x0A), (5, 0x12345678), (6, 8), (7, 4)] 3 = some 0x12345A78 ∧
    v2 (.popc (frm 2 3 4 0 0 0)) [(4, 0xFFFFFFFF), (5, 1)] 3 = some 33 ∧
    v2 (.clz (frm 2 3 8 0 0 0)) [(8, 0), (9, 0)] 3 = some 64 ∧
    d2 (.brev (frm 2 6 8 0 0 0)) [(8, 1), (9, 0)] 6 = some 0x8000000000000000 ∧
    v2 (.bmix (frm 0 9 4 5 6 0)) [(4, 0x000000AA), (5, 0x00000111), (6, 0x08001504)] 9 = some 0x00AA8011 := by decide

/-! ## Floating-point and narrow forms: one step each (R313 and the dot product worked through in 14_isa_float_narrow) -/

/-- The register `r` of lane 2, and FPCSR, after one instruction. -/
def vf2 (i : Instr) (rs : List (Nat × Word)) (r : Nat) : Option (Word × Word) := (after1 (lane2 rs) i).map (fun g => (g.v 2 r, g.fpcsr))
/-- The outstanding results of the group after one instruction: of lane 2, and the flags. -/
def due2 (i : Instr) (rs : List (Nat × Word)) : Option (List (Nat × List RegWrite)) :=
  (after1 (lane2 rs) i).map (fun g => g.pending.map (fun p => (p.ctr, p.writes.filter (fun w => match w with
    | .v lane _ _ => lane == 2 | .flags _ => true | _ => false))))

theorem test_float_short :
    v2 (.faddF32Short ⟨false, 9, 8, 7⟩) [(8, 0x3FC00000), (7, 0x3F800000)] 9 = some 0x40200000 ∧
    v2 (.fsubF32Short ⟨false, 9, 8, 7⟩) [(8, 0x3FC00000), (7, 0x3F800000)] 9 = some 0x3F000000 ∧
    v2 (.fmulF32Short ⟨false, 9, 8, 7⟩) [(8, 0x3FC00000), (7, 0x40000000)] 9 = some 0x40400000 ∧
    v2 (.fminF32Short ⟨false, 9, 8, 7⟩) [(8, 0x80000000), (7, 0)] 9 = some 0x80000000 ∧
    v2 (.fmaxF32Short ⟨false, 9, 8, 7⟩) [(8, 0x80000000), (7, 0)] 9 = some 0 ∧
    d2 (.faddF64Short ⟨false, 10, 8, 6⟩) [(9, 0x3FF80000), (7, 0x3FF00000)] 10 = some 0x4004000000000000 ∧
    d2 (.fsubF64Short ⟨false, 10, 8, 6⟩) [(9, 0x3FF80000), (7, 0x3FF00000)] 10 = some 0x3FE0000000000000 ∧
    d2 (.fmulF64Short ⟨false, 10, 8, 6⟩) [(9, 0x3FF80000), (7, 0x40000000)] 10 = some 0x4008000000000000 := by decide

theorem test_float_short_pairs :
    v2 (.faddF16x2Short ⟨false, 9, 8, 7⟩) [(8, 0x3C003E00), (7, 0x40003C00)] 9 = some 0x42004100 ∧
    v2 (.fmulF16x2Short ⟨false, 9, 8, 7⟩) [(8, 0x3C003E00), (7, 0x40004000)] 9 = some 0x40004200 ∧
    v2 (.faddBf16x2Short ⟨false, 9, 8, 7⟩) [(8, 0x3F803FC0), (7, 0x40003F80)] 9 = some 0x40404020 ∧
    v2 (.fmulBf16x2Short ⟨false, 9, 8, 7⟩) [(8, 0x3F803FC0), (7, 0x40004000)] 9 = some 0x40004040 := by decide

theorem test_float_arithmetic :
    v2 (.fadd (frmI 0x10 4 5 0x3FC000)) [(5, 0x3F800000)] 4 = some 0x40200000 ∧
    v2 (.fsub (frm 0 4 5 6 0 0x80)) [(5, 0x3F800000), (6, 0x3F800000)] 4 = some 0xC0000000 ∧
    d2 (.fmul (frm 1 8 10 12 0 0x80)) [(11, 0x3FF80000), (13, 0x40000000)] 8 = some 0xC008000000000000 ∧
    vf2 (.ffma (frm 0 4 5 6 7 0)) [(5, 0), (6, 0x7F800000), (7, 0x7FC00001)] 4 = some (0x7FC00001, flNV) ∧
    vf2 (.fmin (frm 8 4 5 6 0 0)) [(5, 0x7FC00000), (6, 0x3F800000)] 4 = some (0x3F800000, 0) ∧
    vf2 (.fmax (frm 0 4 5 6 0 0)) [(5, 0x7FA00000), (6, 0x40000000)] 4 = some (0x7FE00000, flNV) ∧
    v2 (.fsign (frm 0 3 4 5 0 0x40)) [(4, 0xBF800000), (5, 0x80000000)] 3 = some 0xBF800000 := by decide

theorem test_float_compare_and_convert :
    p2 (.fcmp (frm 0 2 4 5 2 0x30)) [(4, 0xC0400000), (5, 0x40000000)] 2 = some true ∧
    v2 (.fclass (frm 0 2 5 0 0 0)) [(5, 0)] 2 = some (BitVec.twoPow 32 4) ∧
    v2 (.fgexp (frm 0 5 6 0 0 0)) [(6, 1)] 5 = some 0xFFFFFF6B ∧
    vf2 (.frnd (frm 0 2 5 1 0 0)) [(5, 0x3FE00000)] 2 = some (0x3F800000, 0) ∧
    vf2 (.fcvt (frm 2 3 4 7 0 0)) [(4, 0x4788B800)] 3 = some (0x7C00, flOF ||| flNX) ∧
    vf2 (.f2i (frm 0 3 4 0 0 0)) [(4, 0x40200000)] 3 = some (2, flNX) ∧
    vf2 (.i2f (frm 2 3 4 7 0 0)) [(4, 70000)] 3 = some (0x7C00, flOF ||| flNX) ∧
    vf2 (.fscal (frm 0 3 4 5 0 0)) [(4, 0x3F800000), (5, 128)] 3 = some (0x7F800000, flOF ||| flNX) := by decide

theorem test_sfu_results_are_due :
    due2 (.fdiv (frm 0 3 4 5 0 2)) [(4, 0x3F800000), (5, 0x80000000)] = some [(2, [.v 2 3 0xFF800000, .flags flDZ])] ∧
    due2 (.fsqrt (frm 1 6 4 0 0 3)) [(4, 0), (5, 0x80000000)] = some [(3, [.v 2 6 0, .v 2 7 0x80000000, .flags 0])] ∧
    due2 (.frcp (frm 0 3 4 0 0 5)) [(4, 0x40000000)] = some [(5, [.v 2 3 0x3F000000, .flags 0])] ∧
    due2 (.frsq (frm 0 3 4 0 0 5)) [(4, 0x40800000)] = some [(5, [.v 2 3 0x3F000000, .flags 0])] := by decide +kernel +kernel

theorem test_narrow_forms :
    vf2 (.vdot8 (frm 0 20 4 5 6 6)) [(4, 0x00C44038), (5, 0x6405FE03), (6, 0x00219E00), (20, 0x3DCCCCCD)] 20 = some (0xC0FCCCCD, flNX) ∧
    vf2 (.vdot8i (frm 0 20 4 5 6 6)) [(4, 0x00C44038), (5, 0x6405FE03), (6, 0x00219E00), (20, 0x3DCCCCCD)] 20 = some (0x3DCCCCCD, flNV) ∧
    vf2 (.vpack (frm 0 5 8 0 0 0)) [(8, 0x43E80000), (9, 0x3F800000), (10, 0), (11, 0x80000000)] 5 = some (0x0000387E, flNX) ∧
    v2 (.vunpk (frm 4 40 9 0 0 0)) [(9, 0x76543210)] 47 = some 0x40C00000 ∧
    vf2 (.vunpk (frm 0 40 9 0 0 0)) [(9, 0x00008038)] 41 = some (0x7FC00000, flNV) ∧
    v2 (.vamax (frm 0 12 40 2 0 0)) [(40, 0xC0400000), (41, 0x40000000)] 12 = some 0x40400000 ∧
    v2 (.vscal (frm 0 21 6 6 22 6)) [(6, 0x00219E00), (22, 0x40800000)] 21 = some 0x40000000 := by decide

theorem test_sfu_functions :
    due2 (.fex2 (frm 0 3 4 0 0 1)) [(4, 0x3F800000)] = some [(1, [.v 2 3 0x40000000, .flags 0])] ∧
    due2 (.flg2 (frm 0 3 4 0 0 1)) [(4, 0x41000000)] = some [(1, [.v 2 3 0x40400000, .flags 0])] ∧
    due2 (.fsin (frm 0 3 4 0 0 1)) [(4, 0x80000000)] = some [(1, [.v 2 3 0x80000000, .flags 0])] ∧
    due2 (.fcos (frm 0 3 4 0 0 1)) [(4, 0)] = some [(1, [.v 2 3 0x3F800000, .flags 0])] := by decide +kernel

/-! ## Moves, scalars, group-wide and control-flow forms: one step each (15_isa_data_group_control) -/

/-- Something of the group after one instruction. -/
def res {α : Type} (g : Group) (i : Instr) (f : Group → α) : Option α := (after1 g i).map f
/-- Lanes 0 and 2, each with the register value given for it. -/
def lanes02 (r : Nat) (x y : Word) : Group := (demoG.setV 0 r x).setV 2 r y
/-- Scalar registers. -/
def scalars (rs : List (Nat × Word)) : Group := rs.foldl (fun g r => g.setS r.1 r.2) demoG
/-- Where the two live fragments stand. -/
def stands (g : Group) : (DWord × DWord) × (DWord × DWord) := ((g.s0.mask, g.s0.pc), (g.s1.mask, g.s1.pc))

theorem test_moves :
    v2 (.movShort ⟨false, 6, 11, 0⟩) [(11, 7)] 6 = some 7 ∧
    res (scalars [(7, 9)]) (.mov (frm 0x20 3 0 7 0 0)) (fun g => (g.v 0 3, g.v 2 3)) = some (9, 9) ∧
    v2 (.movi ⟨false, false, 0, false, 0, 4, 0x3F800000⟩) [] 4 = some 0x3F800000 ∧
    d2 (.movh ⟨false, false, 0, false, 0, 4, 0x40000000⟩) [(4, 0x3F800000)] 4 = some 0x400000003F800000 ∧
    res (scalars [(2, 10), (3, 3)]) (.s2v (frm 0 10 2 3 0 0)) (fun g => (g.v 0 10, g.v 2 10)) = some (10, 16) ∧
    res (lanes02 9 5 6) (.v2s (frmI 0x10 6 9 2)) (fun g => g.s 6) = some 6 ∧
    res (lanes02 9 5 6) (.v2s (frmI 0x10 6 9 1)) (fun g => g.s 6) = some 0 := by decide

theorem test_index_registers_and_predicates :
    res demoG (.idxset ⟨false, false, 0, false, 0, 1, 0x01000840⟩) (fun g => g.x 2 1) = some 0x01000840 ∧
    res (demoG.setX 2 1 0x01000840) (.idxadd (frm 0 1 0xF4 0 0 0)) (fun g => (g.x 2 1, xReg g 2 0xF7)) = some (0x01010840, 65) ∧
    res demoG (.rgn ⟨false, false, 0, false, 0, 0, 0x04280810⟩) (fun g => g.region) = some [16, 17, 18, 19, 20, 21, 22, 23, 40, 41, 42, 43] ∧
    res ((demoG.setP 0 5 4).setP 2 5 4) (.plog (frm 0 3 0 1 2 0xE8)) (fun g => g.p 3) = some 4 ∧
    res (lanes02 6 0x7FFFFFFF 0x80000000) (.pmov (frm 0 4 6 31 0 0)) (fun g => g.p 4) = some 4 ∧
    res (scalars [(8, 0xFE), (9, 0)]) (.pmask (frm 0 1 8 0 0 0)) (fun g => g.p 1) = some 4 := by decide

theorem test_control_registers :
    res { demoG with fpcsr := 0x1303 } (.csrr (frmI 0 10 0 0)) (fun g => (g.s 10, g.ssplit)) = some (0x1303, 0) ∧
    res (scalars [(3, 0x00000002)]) (.fpcsrWrite (frmI 0 0 3 0)) (fun g => g.fpcsr) = some 2 ∧
    res (scalars [(3, 77)]) (.srseedWrite (frmI 0 0 3 1)) (fun g => g.srseed) = some 77 := by decide

theorem test_scalars :
    res (scalars [(4, 0xFFFFFFF0)]) (.sadd (frmI 0x10 4 4 64)) (fun g => g.s 4) = some 0x30 ∧
    res (scalars [(4, 0), (5, 1), (6, 1), (7, 0)]) (.ssub (frm 2 8 4 6 0 0)) (fun g => (g.s 8, g.s 9)) = some (0xFFFFFFFF, 0) ∧
    res (scalars [(4, 0x10000), (6, 0x10001)]) (.smul (frm 0 8 4 6 0 0)) (fun g => g.s 8) = some 0x10000 ∧
    res (scalars [(4, 0xFFFFFFFF), (6, 1)]) (.smin (frm 0 8 4 6 0 0)) (fun g => g.s 8) = some 0xFFFFFFFF ∧
    res (scalars [(4, 0xFFFFFFFF), (6, 1)]) (.smax (frm 0 8 4 6 0 0)) (fun g => g.s 8) = some 1 ∧
    res (scalars [(2, 0xFFFFFFFF), (4, 1)]) (.scmp (frm 0 9 2 4 2 0)) (fun g => g.s 9) = some 1 ∧
    res demoG (.smovi ⟨false, false, 0, false, 0, 7, 3⟩) (fun g => g.s 7) = some 3 := by decide

theorem test_scalar_logic :
    res (scalars [(4, 0xFC), (6, 0x3F)]) (.sand (frm 0 8 4 6 0 0)) (fun g => g.s 8) = some 0x3C ∧
    res (scalars [(4, 0xFC), (6, 0x3F)]) (.sor (frm 0 8 4 6 0 0)) (fun g => g.s 8) = some 0xFF ∧
    res (scalars [(4, 0xFC), (6, 0x3F)]) (.sxor (frm 0 8 4 6 0 0)) (fun g => g.s 8) = some 0xC3 ∧
    res (scalars [(4, 1), (5, 0)]) (.sshl (frmI 0x12 8 4 33)) (fun g => (g.s 8, g.s 9)) = some (0, 2) ∧
    res (scalars [(4, 0x80000000)]) (.sshr (frmI 0x10 8 4 40)) (fun g => g.s 8) = some 0xFFFFFFFF ∧
    res (scalars [(4, 0x80000000)]) (.sshr (frmI 0x11 8 4 40)) (fun g => g.s 8) = some 0 := by decide

theorem test_group_wide :
    res (demoG.setP 2 4 4) (.vote (frm 2 8 2 0 0 0)) (fun g => (g.s 8, g.s 9)) = some (4, 0) ∧
    res (demoG.setP 2 4 4) (.vote (frm 0 3 2 0 0 0)) (fun g => g.p 3) = some 0 ∧
    res (demoG.setP 2 4 4) (.vote (frm 1 3 2 0 0 0)) (fun g => g.p 3) = some 5 ∧
    res (lanes02 4 7 9) (.xlane (frmI 0x12 3 4 2)) (fun g => (g.v 0 3, g.v 2 3)) = some (9, 7) ∧
    res (lanes02 6 7 9) (.redux (frm 0 5 6 0 0 0)) (fun g => (g.v 0 5, g.v 2 5)) = some (16, 16) ∧
    res (lanes02 6 7 9) (.scan (frm 8 5 6 0 0 0)) (fun g => (g.v 0 5, g.v 2 5)) = some (0, 7) ∧
    res (lanes02 6 7 9) (.matchLanes (frm 0 10 6 0 0 0)) (fun g => (g.v 0 10, g.v 2 10)) = some (1, 4) ∧
    res (lanes02 4 7 9) (.bcast (frmI 0x10 3 4 2)) (fun g => g.v 0 3) = some 9 := by decide

/-- The dispatch worked through in 15_isa_data_group_control, in lanes 0 and 2: fmul and iadd. -/
theorem test_lxec :
    res (((lanes02 20 0x34090807 0x02090807).setV 0 8 0x40000000).setV 0 7 0x40400000 |>.setV 2 8 0x40000000 |>.setV 2 7 0x40400000)
      (.lxec (frm 0 0 20 0 0 0)) (fun g => (g.v 0 9, g.v 2 9)) = some (0x40C00000, 0x80400000) ∧
    res (lanes02 20 0x34090807 0x2A090807) (.lxec (frm 0 0 20 0 0 0)) (fun g => (g.tcause, fieldNat g.trec 256 64, fieldNat g.trec 480 32, g.v 0 9)) =
      some (5, 4, 0x2A090807, 0) := by decide +kernel

theorem test_branches :
    res (demoG.setP 2 4 4) (.bra ⟨true, false, 2, false, 0, 0, 0xFFFFFFF0⟩) stands = some ((4, 0x1FC4), (1, 0x200C)) ∧
    res (lanes02 10 0 1) (.brc (frmI 0 0 10 0x10)) stands = some ((1, 0x200C), (4, 0x2044)) ∧
    res (scalars [(9, 5)]) (.brs (frmI 1 0 9 6)) stands = some ((5, 0x201C), (0, 0)) ∧
    res (lanes02 10 0x4000 0x4000) (.brx (frm 0 0 10 0 0 0)) stands = some ((5, 0x4000), (0, 0)) ∧
    res (lanes02 10 0x4000 0x4000) (.retLanes (frm 0 0 10 0 0 0)) stands = some ((5, 0x4000), (0, 0)) ∧
    res demoG (.call ⟨false, false, 0, false, 0, 30, 4⟩) (fun g => (stands g, g.v64 2 30)) = some (((5, 0x2014), (0, 0)), 0x200C) ∧
    res (lanes02 10 0x4000 0x4000) (.callx (frm 0 30 10 0 0 0)) (fun g => (stands g, g.v64 2 30)) = some (((5, 0x4000), (0, 0)), 0x200C) ∧
    res (lanes02 10 0x4001 0x4000) (.brx (frm 0 0 10 0 0 0)) (fun g => (g.tcause, fieldNat g.trec 256 64)) = some (0x0E, 1) := by decide +kernel

theorem test_exit_traps_and_hints :
    res (demoG.setP 2 4 4) (.exitLanes ⟨true, false, 2, false, 0, 0, 0⟩) (fun g => (g.lmask, stands g)) = some (1, ((1, 0x200C), (0, 0))) ∧
    after1 demoG (.exitLanes (frm 0 0 0 0 0 0)) = none ∧
    res demoG (.trapLanes ⟨false, false, 0, false, 0, 0, 9⟩) (fun g => (g.tcause, g.rpc, g.s0.pc)) = some (0x0B, 0x200C, 0x9B00) ∧
    res demoG (.brkpt ⟨false, false, 0, false, 0, 0, 9⟩) (fun g => (g.tcause, g.rpc, g.s0.pc)) = some (0x0C, 0x2000, 0x9C00) ∧
    res demoG (.syscall ⟨false, false, 0, false, 0, 0, 9⟩) (fun g => (g.tcause, g.s0.mask, g.sysRest, g.rpc)) = some (0x0A, 1, 4, 0x200C) ∧
    res demoG (.yieldHint (frm 0 0 0 0 0 0)) (fun g => { g with clause := none }) = some { demoG with clause := none } ∧
    res demoG (.nopLong (frm 0 0 0 0 0 0)) (fun g => { g with clause := none }) = some { demoG with clause := none } ∧
    res demoG .nopShort (fun g => { g with clause := none }) = some { demoG with clause := none } := by decide +kernel

/-! ## Witnesses: for each statement a state and operands that meet its hypotheses -/

theorem issues_demo {g : Group} {c : Clause} (h : g.clause = some c) : Issues (withG g) 0 g c := ⟨rfl, rfl, h⟩

theorem lanes_below {m : DWord} {P : Nat → Prop} (h : ∀ n < 64, m.getLsbD n = true → P n) : ∀ n, m.getLsbD n = true → P n :=
  fun n hn => h n (BitVec.lt_of_getLsbD hn) hn

/-- With each of the fields in `l` a form with the operands `os` is executed in the small state, without a trap, in a lane or more. -/
def Issued (os : Ops → List Opd) (l : List Ops) : Prop :=
  ∀ o ∈ l, Ready (withG demoG) 0 demoG demoC (active demoG demoC o) (os o) ∧ active demoG demoC o ≠ 0

theorem issued (os : Ops → List Opd) (l : List Ops)
    (h : l.all (fun o => decide (opTrap demoG demoC (active demoG demoC o) (os o) = none ∧ active demoG demoC o ≠ 0)) = true) : Issued os l := by
  intro o ho
  have := of_decide_eq_true (List.all_eq_true.mp h o ho)
  exact ⟨⟨issues_demo rfl, this.1⟩, this.2⟩

/-- The same of a short form. -/
def IssuedShort (os : SOps → List Opd) (l : List SOps) : Prop := ∀ o ∈ l, Ready (withG demoG) 0 demoG demoC (demoC.lanes demoG) (os o)

theorem issuedShort (os : SOps → List Opd) (l : List SOps)
    (h : l.all (fun o => decide (opTrap demoG demoC (demoC.lanes demoG) (os o) = none)) = true) : IssuedShort os l :=
  fun o ho => ⟨issues_demo rfl, of_decide_eq_true (List.all_eq_true.mp h o ho)⟩

/-- Fields at the edges of their ranges: the last register and pair of the 64 declared; an immediate; a scalar B; NW; a guard. -/
def edges (m : BitVec 6) : List Ops :=
  [frm m 62 60 58 56 0, frmI (m ||| 0x10) 62 0xFF 0x800000, frm (m ||| 0x20) 0 2 78 4 0 |> fun o => { o with w1 := 0x00043E02 },
   { frm m 0xF4 0xF4 0xF5 0xF4 0 with nw := true }, { frm m 62 60 58 56 0 with g := true, gn := true, gp := 31 }]
/-- The same without an immediate or a scalar. -/
def plain (m : BitVec 6) : List Ops := [frm m 62 60 58 56 54, { frm m 0xF4 0xF4 0xF5 0xF4 0xF4 with nw := true }, frm m 0 2 4 6 8]

def int2Os (o : Ops) : List Opd := .vd (t64 o.var) o.nw o.d :: .vs (t64 o.var) o.a :: bopd o (t64 o.var)
def int2wOs (o : Ops) : List Opd := .vd false o.nw o.d :: .vs false o.a :: bopd o false
def countOs (o : Ops) : List Opd := .vd (t64 o.var) o.nw o.d :: .vs (t64 o.var) o.a :: bopd o false
def int1Os (o : Ops) : List Opd := [.vd (t64 o.var) o.nw o.d, .vs (t64 o.var) o.a]
def int3Os (o : Ops) : List Opd := .vd (t64 o.var) o.nw o.d :: .vs (t64 o.var) o.a :: (bopd o (t64 o.var) ++ [.vs (t64 o.var) o.c])
def int3wOs (o : Ops) : List Opd := .vd false o.nw o.d :: .vs false o.a :: (bopd o false ++ [.vs false o.c])

theorem witness_AddSubtractNegate : Issued int2Os (edges 0 ++ edges 2) ∧ Issued int1Os (plain 0 ++ plain 2) := ⟨issued _ _ (by decide), issued _ _ (by decide)⟩
theorem witness_AddCarrySubtractBorrow : Issued int2wOs (edges 0) := issued _ _ (by decide)
theorem witness_SaturatingAddSubtract : Issued int2wOs (edges 0 ++ edges 1) := issued _ _ (by decide)
theorem witness_AbsoluteMinimumMaximum : Issued int1Os (plain 0 ++ plain 2) ∧ Issued int2Os (edges 1 ++ edges 3) := ⟨issued _ _ (by decide), issued _ _ (by decide)⟩
theorem witness_Multiplies :
    Issued int2Os (edges 1 ++ edges 2) ∧ Issued int3Os (plain 0 ++ plain 2) ∧
    Issued (fun o => .vd true o.nw o.d :: .vs false o.a :: (bopd o false ++ [.vs true o.c])) (plain 0 ++ plain 1) :=
  ⟨issued _ _ (by decide), issued _ _ (by decide), issued _ _ (by decide)⟩
theorem witness_AddressComputation : Issued (fun o => .vd true o.nw o.d :: .vs true o.a :: bopd o false) (edges 0) := issued _ _ (by decide)
theorem witness_Shifts : Issued countOs (edges 0 ++ edges 2) := issued _ _ (by decide)
theorem witness_RotatesAndFunnels : Issued int2wOs (edges 0) ∧ Issued int3wOs (plain 0) := ⟨issued _ _ (by decide), issued _ _ (by decide)⟩
theorem witness_BitwiseLogic : Issued int2Os (edges 0 ++ edges 2) := issued _ _ (by decide)
theorem witness_CompareSelect :
    Issued (fun o => .vs (t64 o.var) o.a :: bopd o (t64 o.var)) (edges 0 ++ edges 3) ∧ Issued int2Os (edges 0 ++ edges 2) :=
  ⟨issued _ _ (by decide), issued _ _ (by decide)⟩
theorem witness_BitFields :
    Issued (fun o => .vd false o.nw o.d :: .vs false o.a :: if o.li then [] else [.vs false o.b, .vs false o.c]) (edges 0 ++ edges 1) ∧
    Issued (fun o => .vd false o.nw o.d :: .vs false o.a :: if o.li then [] else [.vs false o.b, .vs false o.c, .vs false o.e]) (edges 0) :=
  ⟨issued _ _ (by decide), issued _ _ (by decide)⟩
theorem witness_BitCountsAndReversal : Issued (fun o => [.vd false o.nw o.d, .vs (t64 o.var) o.a]) (plain 0 ++ plain 2) := issued _ _ (by decide)
theorem witness_ByteMix :
    Issued (fun o => .vd false o.nw o.d :: .vs false o.a :: if o.li then [] else [.vs false o.b, .vs false o.c]) (edges 0) := issued _ _ (by decide)
/-- Short fields at the edges of their ranges. -/
def shorts : List SOps := [⟨false, 63, 63, 63⟩, ⟨true, 0xF4, 0xF4, 0xF5⟩, ⟨false, 0, 2, 4⟩]
theorem witness_ShortIntegerForms :
    IssuedShort (fun o => [.vd false o.nw o.d, .vs false o.a, .vs false o.b]) shorts ∧ IssuedShort (fun o => [.vd false o.nw o.d, .vs false o.a]) shorts :=
  ⟨issuedShort _ _ (by decide), issuedShort _ _ (by decide)⟩

def flt2Os (o : Ops) : List Opd := .vd (f64 (o.var % 8)) o.nw o.d :: .vs (f64 (o.var % 8)) o.a :: bopd o (f64 (o.var % 8))
theorem witness_FloatArithmeticForms :
    Issued flt2Os (edges 0 ++ edges 1 ++ edges 13) ∧
    Issued (fun o => .vd (f64 o.var) o.nw o.d :: .vs (f64 o.var) o.a :: (bopd o (f64 o.var) ++ [.vs (f64 o.var) o.c])) (plain 1 ++ plain 5) ∧
    IssuedShort (fun o => [.vd (f64 1) o.nw o.d, .vs (f64 1) o.a, .vs (f64 1) o.b]) [⟨false, 62, 62, 62⟩, ⟨true, 0xF4, 0xF4, 0xF5⟩] ∧
    IssuedShort (fun o => [.vd (f64 4) o.nw o.d, .vs (f64 4) o.a, .vs (f64 4) o.b]) shorts :=
  ⟨issued _ _ (by decide), issued _ _ (by decide), issuedShort _ _ (by decide), issuedShort _ _ (by decide)⟩
theorem witness_FloatCompare : Issued (fun o => .vs (f64 o.var) o.a :: bopd o (f64 o.var)) (edges 0 ++ edges 1 ++ edges 5) := issued _ _ (by decide)
theorem witness_FloatConversionForms :
    Issued (fun o => [.vd false o.nw o.d, .vs (f64 o.var) o.a]) (plain 0 ++ plain 1) ∧
    Issued (fun o => [.vd (f64 o.var) o.nw o.d, .vs (f64 o.var) o.a]) (plain 0 ++ plain 1) ∧
    Issued (fun o => [.vd (f64 o.var) o.nw o.d, .vs (f64 o.c.toNat) o.a]) [frm 1 62 63 7 0 0, frm 0 63 62 7 1 0] ∧
    Issued (fun o => [.vd (t64 o.var) o.nw o.d, .vs (f64 o.c.toNat) o.a]) [frm 3 62 62 7 1 0, frm 0 63 63 7 3 0] ∧
    Issued (fun o => [.vd (f64 o.var) o.nw o.d, .vs (t64 o.c.toNat) o.a]) [frm 1 62 62 7 3 0, frm 0 63 63 7 0 0] ∧
    Issued (fun o => .vd (f64 o.var) o.nw o.d :: .vs (f64 o.var) o.a :: bopd o false) (plain 0 ++ plain 1) :=
  ⟨issued _ _ (by decide), issued _ _ (by decide), issued _ _ (by decide), issued _ _ (by decide), issued _ _ (by decide), issued _ _ (by decide)⟩
theorem witness_SfuForms :
    Issued (fun o => .vd (f64 o.var) false o.d :: .vs (f64 o.var) o.a :: bopd o (f64 o.var)) [frm 1 62 60 58 0 7, frm 0 63 61 59 0 0] ∧
    Issued (fun o => [.vd (f64 o.var) false o.d, .vs (f64 o.var) o.a]) [frm 1 62 60 0 0 7, frm 0 63 61 0 0 0] :=
  ⟨issued _ _ (by decide), issued _ _ (by decide)⟩
theorem witness_NarrowForms :
    Issued (fun o => [.vd false o.nw o.d, .vs false o.a, .vs false o.b, .vs false o.c]) (plain 0) ∧
    Issued (fun o => [.vd false o.nw o.d, .run o.b.toNat o.a]) [frm 0 63 32 32 0 0, frm 0 0 63 1 0 0] ∧
    Issued (fun o => [.vd false o.nw o.d, .run (narrowN o.var) o.a]) [frm 0 0 60 0 0 0, frm 13 0 56 0 0 0] ∧
    Issued (fun o => [.run (narrowN o.var) o.d, .vs false o.a]) [frm 0 60 63 0 0 0, frm 5 56 0 0 0 0] :=
  ⟨issued _ _ (by decide), issued _ _ (by decide), issued _ _ (by decide), issued _ _ (by decide)⟩
theorem witness_FloatOperandModifiers : (frm 0 3 4 5 0 0xF0).li = false := by decide
theorem witness_FirstNaNIsReturned :
    Fmt.f32 ∈ wide4 ∧ fIsNaN .f32 0x7F800001 = true ∧ fIsNaN .f32 0x7F800000 = false ∧ fIsNaN .bf16 0xFFFF = true ∧ 0xFFFF < 2 ^ Fmt.bf16.width := by decide
/-- The largest finite code and the smallest subnormal; a sum that rounds to a finite code. -/
theorem witness_RoundingIsFaithful :
    Finite .f32 0x7F7FFFFF ∧ Finite .f16 0x8001 ∧ fAbs .f32 (fAdd .f32 0 false 0x7F7FFFFF 1).bits < Fmt.f32.infCode ∧
    fAbs .f64 (fMul .f64 3 false 1 1).bits < Fmt.f64.infCode := by
  unfold Claims.Finite
  decide +kernel

theorem witness_Moves :
    IssuedShort (fun o => [.vd false o.nw o.d, .vs false o.a]) shorts ∧
    Issued (fun o => .vd (t64 o.var) o.nw o.d :: if o.sB then [.ss (t64 o.var) o.b] else [.vs (t64 o.var) o.a]) [frm 0x22 62 0 62 0 0, frm 0 63 63 0 0 0, frm 0x20 63 0 0xF4 0 0] ∧
    Issued (fun o => [.vd false o.nw o.d]) (plain 0) ∧ Issued (fun o => [.vd true o.nw o.d]) (plain 0) ∧
    Issued (fun o => [.vd (t64 o.var) o.nw o.d, .ss (t64 o.var) o.a, .ss (t64 o.var) o.b]) [frm 2 62 62 60 0 0, frm 0 63 63 0xF4 0 0] :=
  ⟨issuedShort _ _ (by decide), issued _ _ (by decide), issued _ _ (by decide), issued _ _ (by decide), issued _ _ (by decide)⟩
/-- Lane 2 is live, lane 15 is not, and lane 16 is none of the group's. -/
theorem witness_LaneToScalar :
    Issued (fun o => [.sd false o.d, .vs false o.a] ++ if o.li then [] else [.ss false o.b]) [frmI 0x10 63 63 2, frmI 0x10 0 0 16, frm 0 63 0xF5 63 0 0] ∧
    Live demoG 2 ∧ ¬ Live demoG 15 ∧ ¬ Live demoG 16 ∧ vecBounds demoG (BitVec.twoPow 64 2) false 63 = none :=
  ⟨issued _ _ (by decide), by unfold Live; decide, by unfold Live; decide, by unfold Live; decide, by decide⟩
theorem witness_IndexRegistersAndRegions :
    Issued (fun _ => []) [frm 0 3 0 0 0 0, frm 0 0 0 0 0 0] ∧ Issued (fun o => [.vs false o.a]) [frm 0 3 63 0 0 0, frm 0 0 0xF4 0 0 0] ∧
    Issues (withG demoG) 0 demoG demoC := ⟨issued _ _ (by decide), issued _ _ (by decide), issues_demo rfl⟩
theorem witness_PredicateForms :
    Issued (fun _ => []) (plain 0) ∧ Issued (fun o => [.vs false o.a]) [frm 0 31 63 31 0 0] ∧ Issued (fun o => [.ss true o.a]) [frm 0 0 62 0 0 0] :=
  ⟨issued _ _ (by decide), issued _ _ (by decide), issued _ _ (by decide)⟩
theorem witness_ScalarForms :
    Issued (fun o => .sd (t64 o.var) o.d :: .ss (t64 o.var) o.a :: if o.li then [] else [.ss (t64 o.var) o.b]) [frm 2 62 60 58 0 0, frmI 0x13 0 0xF4 0xFFFFFF, frm 0 63 63 63 0 0] ∧
    Issued (fun o => .sd (t64 o.var) o.d :: .ss (t64 o.var) o.a :: if o.li then [] else [.ss false o.b]) [frm 2 62 60 63 0 0, frmI 0x12 0 0 63] ∧
    Issued (fun o => [.sd false o.d, .ss (t64 o.var) o.a, .ss (t64 o.var) o.b]) [frm 3 63 62 60 5 0] ∧ Issued (fun o => [.sd false o.d]) [frm 0 63 0 0 0 0] :=
  ⟨issued _ _ (by decide), issued _ _ (by decide), issued _ _ (by decide), issued _ _ (by decide)⟩

/-- The small group is converged and its core is a compute core. -/
theorem wide_demo {act : DWord} {os : List Opd} (h : opTrap demoG demoC act os = none) : ReadyWide (withG demoG) 0 demoG demoC act os :=
  ⟨⟨issues_demo rfl, h⟩, by decide, by decide⟩
theorem witness_Vote :
    ∀ o ∈ [frm 0 31 31 0 0 0, frm 1 0 0 0 0 0, frm 2 62 2 0 0 0],
      ReadyWide (withG demoG) 0 demoG demoC (active demoG demoC o) (if o.var = 2 then [.sd true o.d] else []) := by
  intro o ho
  refine wide_demo ?_
  revert o
  decide
theorem witness_GroupWideForms :
    (∀ o ∈ [frmI 0x12 3 4 127, frm 0x23 63 63 63 0 0, frm 0 3 4 5 0 0],
      ReadyWide (withG demoG) 0 demoG demoC (active demoG demoC o) (.vd false o.nw o.d :: .vs false o.a :: bopd o false)) ∧
    (∀ o ∈ [frm 7 63 63 0 0 0, frm 15 0 0 0 0 0], ReadyWide (withG demoG) 0 demoG demoC (active demoG demoC o) [.vd false o.nw o.d, .vs false o.a]) ∧
    (∀ o ∈ [frm 2 62 62 0 0 0], ReadyWide (withG demoG) 0 demoG demoC (active demoG demoC o) [.vd true o.nw o.d, .vs (t64 o.var) o.a]) ∧
    (∀ o ∈ [frmI 0x10 3 4 2, frmI 0x12 62 60 63, frm 0 3 4 5 0 0],
      ReadyWide (withG demoG) 0 demoG demoC (active demoG demoC o)
        (.vd (t64 o.var) o.nw o.d :: .vs (t64 o.var) o.a :: if o.li then [] else bopd o false)) ∧
    Live demoG 2 ∧ ¬ Live demoG 63 ∧ (active demoG demoC (frm 0 3 4 5 0 0)).getLsbD 0 = true :=
  ⟨fun o ho => wide_demo (by revert o; decide), fun o ho => wide_demo (by revert o; decide), fun o ho => wide_demo (by revert o; decide),
    fun o ho => wide_demo (by revert o; decide), by unfold Live; decide, by unfold Live; decide, by decide⟩

/-- The small group in two fragments. -/
def splitG : Group := { demoG with fmask := 1, s0 := { demoG.s0 with mask := 1 }, s1 := { Slot.empty with mask := 4, pc := 0x3000 } }
theorem enters_demo (g : Group) (h : g.sup = false ∧ g.spill = [] ∧ g.fpark = none ∧ g.ctx = 1) : Enters (withG g) g :=
  ⟨h.1, h.2.1, h.2.2.1, by rw [h.2.2.2]; rfl⟩
theorem witness_GroupWideFormsNeedConvergence :
    Issues (withG splitG) 0 splitG demoC ∧ Enters (withG splitG) splitG ∧ isService (coreOfGid 0) = false ∧ splitG.converged = false ∧
    illOf splitG demoC [.vs false 63] = none ∧ boundsOf splitG (active splitG demoC (frm 0 0 63 0 0 0)) [.vs false 63] = none ∧
    isService (coreOfGid (64 * 1152)) = true :=
  ⟨issues_demo rfl, enters_demo _ (by decide), by decide, by decide, by decide, by decide, by decide⟩
/-- Lane 0 holds an addition of registers at both ends of the declared count, lane 2 another. -/
def wordsG : Group := lanes02 20 0x023F003F 0x02000102
theorem witness_LanesRunTheirOwnWords :
    ReadyWide (withG wordsG) 0 wordsG demoC (active wordsG demoC (frm 0 0 20 0 0 0)) [.vs false 20] ∧
    ∀ n, (active wordsG demoC (frm 0 0 20 0 0 0)).getLsbD n = true →
      let k : SOps := if n = 0 then ⟨false, 63, 0, 63⟩ else ⟨false, 0, 1, 2⟩
      vec32 wordsG demoC n 20 = encodeShort 0x01 k ∧ k.nw = false ∧ k.d.toNat < wordsG.regs ∧ k.a.toNat < wordsG.regs ∧
        k.b.toNat < wordsG.regs ∧ k.d.toNat ≤ 0xEF ∧ k.a.toNat ≤ 0xEF ∧ k.b.toNat ≤ 0xEF := by
  exact ⟨⟨⟨issues_demo rfl, by decide⟩, by decide, by decide⟩, lanes_below (by decide)⟩
/-- Lane 2's word is accepted by no lxec, lane 0's is. -/
def badWordsG : Group := lanes02 20 0x34090807 0x2A090807
theorem witness_IllegalLaneWordsTrap :
    ReadyWide (withG badWordsG) 0 badWordsG demoC (active badWordsG demoC (frm 0 0 20 0 0 0)) [.vs false 20] ∧ Enters (withG badWordsG) badWordsG ∧
    (active badWordsG demoC (frm 0 0 20 0 0 0)).getLsbD 2 = true ∧ lxAccept (vec32 badWordsG demoC 2 20) = none ∧
    ∀ j < 2, (active badWordsG demoC (frm 0 0 20 0 0 0)).getLsbD j = true → (lxAccept (vec32 badWordsG demoC j 20)).isSome = true :=
  ⟨⟨⟨issues_demo rfl, by decide⟩, by decide, by decide⟩, enters_demo _ (by decide), by decide, by decide, by decide⟩

/-- Both lanes hold a clause address in a pair. -/
def targetsG : Group := lanes02 10 0x4000 0x4004
theorem witness_Branches :
    Issued (fun _ => []) (plain 0) ∧ Issued (fun o => [.vs false o.a]) [frmI 0 0 63 0x100000] ∧ Issued (fun o => [.ss false o.a]) [frmI 1 0 63 0x0FFFFF, frmI 0 0 0 0] ∧
    Issued (fun o => [.vd true false o.d]) [frm 0 62 0 0 0 0] ∧
    Ready (withG targetsG) 0 targetsG demoC (active targetsG demoC (frm 0 62 10 0 0 0)) [.vd true false 62, .vs true 10] ∧
    ∀ n, (active targetsG demoC (frm 0 62 10 0 0 0)).getLsbD n = true → (vec targetsG demoC n true 10).extractLsb' 0 2 = 0 := by
  exact ⟨issued _ _ (by decide), issued _ _ (by decide), issued _ _ (by decide), issued _ _ (by decide), ⟨issues_demo rfl, by decide⟩, lanes_below (by decide)⟩
/-- Lane 0's target is no clause address. -/
def oddTargetG : Group := lanes02 10 0x4001 0x4000
theorem witness_MisalignedTargetsTrap :
    Enters (withG oddTargetG) oddTargetG ∧ (1 : DWord) ≠ 0 ∧
    (∀ n < 64, (1 : DWord).getLsbD n = ((active oddTargetG demoC (frm 0 62 10 0 0 0)).getLsbD n && (vec oddTargetG demoC n true 10).extractLsb' 0 2 != 0)) ∧
    Ready (withG oddTargetG) 0 oddTargetG demoC (active oddTargetG demoC (frm 0 62 10 0 0 0)) [.vd true false 62, .vs true 10] :=
  ⟨enters_demo _ (by decide), by decide, by decide, ⟨issues_demo rfl, by decide⟩⟩
/-- One lane leaves and one goes on; both leave. -/
theorem witness_Exit :
    Issues (withG demoG) 0 demoG demoC ∧ demoG.lmask &&& ~~~(active (demoG.setP 2 4 4) demoC ⟨true, false, 2, false, 0, 0, 0⟩) ≠ 0 ∧
    demoG.lmask &&& ~~~(active demoG demoC (frm 0 0 0 0 0 0)) = 0 ∧ demoG.team = none := ⟨issues_demo rfl, by decide, by decide, rfl⟩
/-- With both lanes active, and under a guard that no lane meets. -/
theorem witness_SoftwareTraps :
    Issues (withG demoG) 0 demoG demoC ∧ Enters (withG demoG) demoG ∧ (active demoG demoC (frm 0 0 0 0 0 0)).getLsbD 0 = true ∧
    active demoG demoC ⟨true, false, 31, false, 0, 0, 0⟩ = 0 := ⟨issues_demo rfl, enters_demo _ (by decide), by decide, by decide⟩
theorem witness_HintsOnlyRetire : Issues (withG demoG) 0 demoG demoC := issues_demo rfl

/-! ## A small state with memory -/

/-- A barrier object after reset. -/
def demoObj : BarObj := { exparr := 0, arr := 0, phase := false, expb := 0, landb := 0 }
/-- A team of one group on core 0, with 4 KiB of shared memory and sequencer 0; its stream lies at 0x10000. -/
def demoTeam : Team :=
  { ctx := 1, kid := 0, tidx := 0, core := 0, paired := false, gpt := 1, prio := 0, order := 0, admitted := 0, landing := [],
    sharedBytes := 0x1000, shared := [(0x10, 0x78), (0x11, 0x56), (0x12, 0x34), (0x13, 0x12)], objs := List.replicate 16 demoObj, bosel := 0,
    seq := some 0, preempt := false, left := [], mbase := 0x10000, mseq := none }
/-- A leaf that allows everything to users, with key 1: the page at 0x10000 is frame 2. -/
def demoTlb : TlbEntry := { ctx := 1, level := 0, page := 0x10000, leaf := 0x1008001F }
/-- The small module with that page, the bytes `m` in frame space, and the team. -/
def withM (g : Group) (m : SMap Byte) : State :=
  { withG g with clock := 1, mem := m, dir := [(2, { DirEntry.free with state := 1, ktag := 1, skind := 2 })],
                 cores := [(0, { CoreSt.init with tlb := [demoTlb] })], clusters := [(0, { Cluster.init with tlb := [demoTlb] })],
                 teams := [(3, demoTeam)] }
/-- The small group in its team. -/
def memG : Group := { demoG with team := some 3 }

/-- Bytes at 0x10010 and 0x10020, as frame space holds them. -/
def demoBytes : SMap Byte := [(0x20010, 0x44), (0x20011, 0x33), (0x20012, 0x22), (0x20013, 0x11), (0x20020, 0x88), (0x20021, 0x77), (0x20022, 0x66), (0x20023, 0xF5)]
/-- Lanes 0 and 2 hold the global addresses 0x10010 and 0x10020 in v2:v3, the shared offset 0x10 in v7, and values in v8:v9. -/
def ptrG : Group :=
  ((((((memG.setV64 0 2 0x10010).setV64 2 2 0x10020).setV 0 7 0x10).setV 2 7 0x10).setV64 0 8 0xA1A2A3A4A5A6A7A8).setV64 2 8 0xB1B2B3B4B5B6B7B8).setS 10 0x10010
/-- The group after one instruction in the small module with memory. -/
def afterM (g : Group) (i : Instr) : Option Group :=
  match exec i (withM g demoBytes) with
  | .next t => SMap.find? t.groups 0
  | _ => none
/-- The results that are due after it, and the queue. -/
def dueM (g : Group) (i : Instr) : Option (List (Nat × List RegWrite)) := (afterM g i).map (fun g => g.pending.map (fun p => (p.ctr, p.writes)))
/-- The stores of the queue after it, lane by lane: address, value, and the release's scope (of a reduction 16 × operation + type). -/
def queueM (g : Group) (i : Instr) : Option (List (Nat × Nat × Nat)) :=
  (afterM g i).map (fun g => g.sq.flatMap (fun q => match q with
    | .store l r _ => l.map (fun x => (x.dst.addr, leNat x.data, r))
    | .red l f _ => l.map (fun x => (x.dst.addr, leNat x.data, 16 * f.op + f.ty))
    | _ => []))

theorem test_loads :
    dueM ptrG (.ld (frm 2 4 2 0xF4 1 3)) = some [(3, [.v 0 4 0x11223344, .v 2 4 0xF5667788])] ∧
    dueM ptrG (.ld (frm 5 4 2 0xF4 1 0)) = some [(0, [.v 0 4 0x44, .v 2 4 0xFFFFFF88])] ∧
    dueM ptrG (.ldGB32Short ⟨true, 4, 2, 0⟩) = some [(1, [.v 0 4 0x11223344, .v 2 4 0xF5667788])] := by decide +kernel
theorem test_loads_shared_wide_acquire :
    dueM ptrG (.ldSB32Short ⟨false, 4, 7, 0⟩) = some [(0, [.v 0 4 0x12345678, .v 2 4 0x12345678])] ∧
    dueM ptrG (.ldGB64Short ⟨true, 4, 2, 0⟩) = some [(1, [.v 0 4 0x11223344, .v 0 5 0, .v 2 4 0xF5667788, .v 2 5 0])] ∧
    dueM ptrG (.lda (frm 2 4 2 0xF4 0x09 5)) = some [(5, [.v 0 4 0x11223344, .v 2 4 0xF5667788])] ∧
    dueM ptrG (.sld (frmI 0x12 4 10 0xA08000)) = some [(5, [.s 4 0x11223344 false])] := by decide +kernel

theorem test_stores :
    queueM ptrG (.st (frm 2 8 2 0xF4 1 0)) = some [(0x20010, 0xA5A6A7A8, 0), (0x20020, 0xB5B6B7B8, 0)] ∧
    queueM ptrG (.stl (frm 2 8 2 0xF4 0x21 0)) = some [(0x20010, 0xA5A6A7A8, 4), (0x20020, 0xB5B6B7B8, 4)] := by decide +kernel
theorem test_short_stores :
    queueM ptrG (.stSB32Short ⟨false, 8, 7, 1⟩) = some [(0x14, 0xA5A6A7A8, 0), (0x14, 0xB5B6B7B8, 0)] ∧
    queueM ptrG (.stGB32Short ⟨false, 8, 2, 1⟩) = some [(0x20014, 0xA5A6A7A8, 0), (0x20024, 0xB5B6B7B8, 0)] ∧
    queueM ptrG (.stGB64Short ⟨false, 8, 2, 0⟩) = some [(0x20010, 0xA1A2A3A4A5A6A7A8, 0), (0x20020, 0xB1B2B3B4B5B6B7B8, 0)] := by decide +kernel
theorem test_scalar_store_and_reduction :
    queueM ptrG (.sst (frmI 0x12 0xF4 10 0x008000)) = some [(0x20010, 0x0, 0)] ∧
    queueM ptrG (.red (frm 0 8 2 0 0x11 0x20)) = some [(0x20010, 0xA5A6A7A8, 1), (0x20020, 0xB5B6B7B8, 1)] := by decide +kernel

/-- Frame space at 0x20010 after one instruction. -/
def wordM (g : Group) (i : Instr) : Option Nat :=
  match exec i (withM g demoBytes) with
  | .next t => some (readNat t.mem 0x20010 4)
  | _ => none

theorem test_atomics :
    dueM ptrG (.atom (frm 0 4 2 8 0x21 0x21)) = some [(1, [.v 0 4 0x11223344, .v 2 4 0xF5667788, .flags 0])] ∧
    wordM ptrG (.atom (frm 0 4 2 8 0x21 0x21)) = some 0xB6C8DAEC ∧
    wordM ptrG (.acas (frm 0 8 2 12 0x21 0x21)) = some 0x11223344 ∧
    wordM ((ptrG.setV 0 12 0x11223344).setV 2 12 0) (.acas (frm 0 8 2 12 0x21 0x21)) = some 0xA5A6A7A8 := by decide +kernel

theorem test_memory_traps_and_parking :
    (afterM (ptrG.setV64 0 2 0x10011) (.ld (frm 2 4 2 0xF4 1 0))).map (fun g => (g.tcause, fieldNat g.trec 256 64)) = some (0x0E, 1) ∧
    (afterM (ptrG.setV64 0 2 (2 ^ 56)) (.ld (frm 2 4 2 0xF4 1 0))).map (fun g => (g.s0.park.active, g.s0.park.mask, g.s0.park.pc)) = some (true, 1, 0x2000) := by decide +kernel

theorem test_address_conversions :
    (afterM ptrG (.waddr (frm 2 4 7 0 0 0))).map (fun g => g.v64 2 4) = some 0x00FFF20000000010 ∧
    (afterM (ptrG.setV64 2 2 0x00FFF20000000FFF) (.waddr (frm 10 4 2 0 0x81 0))).map (fun g => (g.v 0 4, g.v 2 4, g.p 1)) = some (0xFFFFFFFF, 0xFFF, 4) ∧
    (afterM (ptrG.setV64 2 2 0x00FFF00000000008) (.paddr (frm 0 4 2 0 0 0))).map (fun g => (g.v64 0 4, g.v64 2 4)) = some (0x10010, 0x3000008) := by decide +kernel

/-- ldsh puts each lane's bytes on their way. -/
def landingM (g : Group) (i : Instr) : Option (List (Nat × List Byte × Nat)) :=
  match exec i (withM g demoBytes) with
  | .next t => (SMap.find? t.teams 3).map (fun t => t.landing)
  | _ => none
theorem test_ldsh_fence_pref :
    landingM ((ptrG.setV 0 12 0x40).setV 2 12 0x44) (.ldsh (frm 2 3 2 12 1 0)) = some [(0x40, [0x44, 0x33, 0x22, 0x11], 3), (0x44, [0x88, 0x77, 0x66, 0xF5], 3)] ∧
    (afterM ptrG (.fence (frm 0 0 0 0 0x20 0))).map (fun g => { g with clause := none }) = some { ptrG with clause := none } ∧
    (afterM ptrG (.pref (frm 0 0 2 0xF4 1 0))).map (fun g => { g with clause := none }) = some { ptrG with clause := none } := by decide +kernel

theorem witness_EncodedInstructionsDecode :
    WellFormed (.iadd (frm 2 62 60 58 0 0)) ∧ encode (.iadd (frm 2 62 60 58 0 0)) ≠ [] ∧ WellFormed .nopShort ∧ encode .nopShort ≠ [] := by decide
theorem witness_EncodedMatrixWordsDecode : WellFormed (.mjmp 0xFFFFFFFF) ∧ encodeMatrix (.mjmp 0xFFFFFFFF) = some 0x0C000000FFFFFFFF ∧ readsMatrix 0 .mnop = true := by decide
theorem witness_DecodedWordsAreTheirEncoding : reads [0x22060B01] (.iaddImm8Short ⟨false, 6, 11, 1⟩) = true ∧ reads [0x80800014, 0x01000E0A] (.iaddc (frm 0 0x14 0x0A 0x0E 0 1)) = true := by decide
/-- The first and the last unassigned number of each opcode, and each guard bit. -/
theorem witness_UnassignedWordsAreRefused :
    ((0x2A000000#32).extractLsb' 25 6).toNat ∉ op6s ∧ ((0x7FFFFFFF#32).extractLsb' 25 6).toNat ∉ op6s ∧ ((1#32).extractLsb' 25 6).toNat ∉ op6s ∧
    (0x7FFFFFFF#32).getLsbD 31 = false ∧ ((0x88800000#32).extractLsb' 22 9).toNat ∉ op9s ∧ ((0xFFFFFFFF#32).extractLsb' 22 9).toNat ∉ op9s ∧
    (0x88800000#32).getLsbD 31 = true ∧ ((0x80008000#32).extractLsb' 22 9).toNat ∈ op9s ∧ ((0x80100000#32).extractLsb' 22 9).toNat ∈ op9s ∧
    (0x80100000#32).getLsbD 21 = false ∧ (0x80008000#32).extractLsb' 15 6 ≠ 0#6 ∧ (0x80100000#32).extractLsb' 15 6 ≠ 0#6 := by
  simp [op6s, op9s]

/-- A clause whose words are an instruction, and one whose words are none. -/
def wordsC (ws : List Word) : Clause := { demoC with words := ws }
/-- A sequencer that runs, with mend as the next word of its stream. -/
def streamS : State := { withM demoG [(0x20007, 0x0D)] with cur := none, groups := [], seqs := [(0, { Seq.init with state := 1, team := some 3 })] }
theorem witness_StepRunsTheDecodedInstruction :
    (let g := { demoG with clause := some (wordsC [0x22060B01]) }
     (withG g).inputs = [] ∧ Issues (withG g) 0 g (wordsC [0x22060B01]) ∧ decode [0x22060B01] = .ok (.iaddImm8Short ⟨false, 6, 11, 1⟩, []) ∧ g.pending = []) ∧
    (let g := { demoG with clause := some (wordsC [0x2A000000]) }
     Issues (withG g) 0 g (wordsC [0x2A000000]) ∧ decode [0x2A000000] = .error .unassignedOp6 ∧ Enters (withG g) g) ∧
    (streamS.inputs = [] ∧ streamS.cur = none ∧ chooseAction streamS = some (.stream 0) ∧
      runningSeq streamS 0 = some ({ Seq.init with state := 1, team := some 3 }, 3, demoTeam) ∧
      (fetchStream streamS 0 demoTeam (streamPc demoTeam { Seq.init with state := 1, team := some 3 })).1 = .ok ∧
      (fetchStream streamS 0 demoTeam (streamPc demoTeam { Seq.init with state := 1, team := some 3 })).2.1 = [0, 0, 0, 0, 0, 0, 0, 0x0D] ∧
      decodeMatrix 0x0D00000000000000 = .ok .mend) ∧
    isEvent (.moduleReset) = true := by
  refine ⟨⟨rfl, issues_demo rfl, rfl, rfl⟩, ⟨issues_demo rfl, rfl, enters_demo _ (by decide)⟩, ⟨rfl, rfl, ?_, by decide +kernel, by decide +kernel, by decide +kernel, rfl⟩, by decide +kernel⟩
  have h : actions streamS = [.stream 0] := by decide
  simp [chooseAction, h, Nat.mod_one]
theorem witness_PlacedWordRunsNext :
    decode (tableWords 32 0x22060B01) = .ok (.iaddImm8Short ⟨false, 6, 11, 1⟩, []) ∧
    decode (tableWords 64 0x01000E0A80800014) = .ok (.iaddc (frm 0 0x14 0x0A 0x0E 0 1), []) := ⟨rfl, rfl⟩
/-- Bytes with nothing listed, and with one byte. -/
theorem witness_StepKeepsMemoryForm : State.reset.MemWf ∧ (withM demoG [(0x20007, 0x0D)]).MemWf := by
  unfold State.MemWf
  exact ⟨by decide, by decide⟩
/-- Register codes at the ends of each range; a latch that holds a value; the immediate. -/
theorem witness_OperandReads :
    (63 : Nat) < 64 ∧ (∀ code ∈ [0, 0xEF], (code : BitVec 8).toNat ≤ 0xEF) ∧ (∀ code ∈ [0xF0, 0xF3], 0xF0 ≤ (code : BitVec 8).toNat ∧ code.toNat ≤ 0xF3) ∧
    { demoC with lats := [some [(2, 7)]] }.lats[(0xF0 : BitVec 8).toNat - 0xF0]? = some (some [(2, 7)]) ∧
    (∀ code ∈ [0xF6, 0xF9], 0xF6 ≤ (code : BitVec 8).toNat ∧ code.toNat ≤ 0xF9) ∧ (∀ code ∈ [0, 0x4F], (code : BitVec 8).toNat ≤ 0x4F) ∧
    (frmI 0x10 0 0xFF 0).li = true := by decide

/-- Scalar register 63 is split; index register 0 reaches beyond the declared count in lane 2. -/
def trapsG : Group := { demoG with ssplit := 1 <<< 63 }.setX 2 0 0x00010840
/-- A latch that no instruction filled; a k register in user mode; a register, a pair and an indexed register out of bounds; a split scalar. -/
theorem witness_OperandsTrapBeforeAnyEffect :
    Issues (withG trapsG) 0 trapsG demoC ∧ Enters (withG trapsG) trapsG ∧
    Illegal trapsG demoC (.vs false 0xF0) ∧ Illegal trapsG demoC (.ss false 0x40) ∧ ¬ Illegal trapsG demoC (.vs false 63) ∧
    OutOfBounds trapsG 2 (.vs false 64) ∧ OutOfBounds trapsG 2 (.vd true false 63) ∧ OutOfBounds trapsG 2 (.vs false 0xF6) ∧
    ¬ OutOfBounds trapsG 2 (.vs true 62) ∧ active trapsG demoC (frm 0x20 0 0 63 0 0) ≠ 0 ∧ [Opd.ss true 62].filterMap (splitReg trapsG) = [63] := by
  refine ⟨issues_demo rfl, enters_demo _ (by decide), ?_, ?_, ?_, ?_, ?_, ?_, ?_, by decide, by decide⟩
  · exact ⟨by decide, by decide, fun m h => by cases h⟩
  · exact ⟨by decide, by decide, rfl⟩
  · exact fun h => absurd h.1 (by decide)
  all_goals (simp only [OutOfBounds, Outside]; decide)
/-- The small group in its handler. -/
def supG : Group := { demoG with sup := true }
theorem witness_TrapsInAHandlerHalt : Issues (withG supG) 0 supG demoC ∧ supG.sup = true ∧ active supG demoC (frm 0 0 0 0 0 0) ≠ 0 :=
  ⟨issues_demo rfl, rfl, by decide⟩

theorem access_of {s : State} {gid : Nat} {g : Group} {n : Nat} {acc : Acc} {glob : Bool} {ptrs : List (Nat × Nat)}
    (h : (lanesGo s gid g n acc glob ptrs).bad = [] ∧ (lanesGo s gid g n acc glob ptrs).stall = false ∧ (lanesGo s gid g n acc glob ptrs).walks = false ∧ (∀ x ∈ ptrs, x.2 % n = 0) ∧
      ∀ x ∈ (lanesGo s gid g n acc glob ptrs).ok, x.2.addr % n = 0) :
    Access s gid g n acc glob ptrs (lanesGo s gid g n acc glob ptrs).ok (lanesGo s gid g n acc glob ptrs).s :=
  by
  obtain ⟨h1, h2, h3, h4, h5⟩ := h
  generalize hl : lanesGo s gid g n acc glob ptrs = l at *
  cases l; subst h1 h2 h3; exact ⟨h4, hl, h5⟩
/-- The accesses of lanes in the small module with memory. -/
def goesM (g : Group) (n : Nat) (acc : Acc) (glob : Bool) (ptrs : List (Nat × Nat)) : Lanes := lanesGo (withM g demoBytes) 0 g n acc glob ptrs
theorem access_demo {g : Group} {n : Nat} {acc : Acc} {glob : Bool} {ptrs : List (Nat × Nat)}
    (h : (goesM g n acc glob ptrs).bad = [] ∧ (goesM g n acc glob ptrs).stall = false ∧ (goesM g n acc glob ptrs).walks = false ∧ (∀ x ∈ ptrs, x.2 % n = 0) ∧
      ∀ x ∈ (goesM g n acc glob ptrs).ok, x.2.addr % n = 0) :
    Access (withM g demoBytes) 0 g n acc glob ptrs (goesM g n acc glob ptrs).ok (goesM g n acc glob ptrs).s := access_of h
theorem ready_demo {g : Group} {c : Clause} {act : DWord} {os : List Opd} (h : g.clause = some c) (h2 : opTrap g c act os = none) :
    Ready (withM g demoBytes) 0 g c act os := ⟨⟨rfl, rfl, h⟩, h2⟩

theorem witness_LaneAddresses :
    (63 : Nat) < 64 ∧ (frmI 0x10 0 0xFF 0xE08000).li = true ∧ (frm 2 4 2 0xF4 0 0).space ≤ 1 ∧ (frm 2 4 2 0xF4 1 0).space ≤ 1 ∧ (frm 2 4 2 0xF4 2 0).space = 2 ∧
    (frm 2 4 2 0xF4 3 0).space = 3 ∧ (frm 2 4 2 0xF4 4 0).space = 4 := by decide
/-- A global load of both lanes with nothing under way: long, acquiring at the widest scope, short; scalar, and with no active lane. -/
theorem witness_Loads :
    (let o := frm 2 4 2 0xF4 0x29 7
     let l := goesM ptrG 4 .load true (laneAddrs ptrG demoC o true true)
     Ready (withM ptrG demoBytes) 0 ptrG demoC (active ptrG demoC o) (zOpd true 2 o.d :: addrOpds o true) ∧
     CtrRoom ptrG o.ctr ∧ acqAcc (withM ptrG demoBytes) ptrG 0 = .load ∧
     Access (withM ptrG demoBytes) 0 ptrG 4 .load true (laneAddrs ptrG demoC o true true) l.ok l.s ∧ l.ok.length = 2 ∧
     ∀ x ∈ l.ok, Settled l.s 0 ptrG 4 x.2 ∧ Uncached l.s 0 x.2) ∧
    (let o := frm 2 4 2 0xF4 0x29 7
     let l := goesM ptrG 4 .acquire true (laneAddrs ptrG demoC o true true)
     acqAcc (withM ptrG demoBytes) ptrG o.scope = .acquire ∧
     Access (withM ptrG demoBytes) 0 ptrG 4 .acquire true (laneAddrs ptrG demoC o true true) l.ok l.s ∧ l.ok.length = 2 ∧
     ∀ x ∈ l.ok, Settled l.s 0 ptrG 4 x.2 ∧ Uncached l.s 0 x.2) ∧
    (let ptrs := (lanesOf (demoC.lanes ptrG)).map (fun n => (n, addrOf 1 (vec ptrG demoC n true 2) (8 * (2 : BitVec 8).toNat : Nat)))
     let l := goesM ptrG 8 .load true ptrs
     Ready (withM ptrG demoBytes) 0 ptrG demoC (demoC.lanes ptrG) [zOpd true 3 4, .vs true 2] ∧
     Access (withM ptrG demoBytes) 0 ptrG 8 .load true ptrs l.ok l.s ∧ l.ok.length = 2 ∧ ∀ x ∈ l.ok, Settled l.s 0 ptrG 8 x.2 ∧ Uncached l.s 0 x.2) ∧
    (let o := frmI 0x12 4 10 0xE08000
     let l := goesM ptrG 4 .load true (scalarAddrs ptrG demoC o true)
     Ready (withM ptrG demoBytes) 0 ptrG demoC (active ptrG demoC o) [.sd (o.var = 3) o.d, .ss (o.space ≤ 1) o.a] ∧ active ptrG demoC o ≠ 0 ∧
     active ptrG demoC { o with g := true, gp := 31 } = 0 ∧
     Access (withM ptrG demoBytes) 0 ptrG 4 .load true (scalarAddrs ptrG demoC o true) l.ok l.s ∧ l.ok.length = 1 ∧
     ∀ x ∈ l.ok, Settled l.s 0 ptrG 4 x.2 ∧ Uncached l.s 0 x.2) := by
  unfold Settled Uncached
  exact ⟨⟨ready_demo rfl (by decide), by unfold CtrRoom; decide, by decide +kernel, access_demo (by decide +kernel), by decide +kernel, by decide +kernel⟩,
    ⟨by decide +kernel, access_demo (by decide +kernel), by decide +kernel, by decide +kernel⟩,
    ⟨ready_demo rfl (by decide), access_demo (by decide +kernel), by decide +kernel, by decide +kernel⟩,
    ⟨ready_demo rfl (by decide), by decide, by decide, access_demo (by decide +kernel), by decide +kernel, by decide +kernel⟩⟩
/-- A global store, a release, a short store, a scalar one, and reductions at the widest scope that is not shadowed. -/
theorem witness_StoresEnterTheQueue :
    (let o := frm 2 8 2 0xF4 0x29 0
     let l := goesM ptrG 4 .store true (laneAddrs ptrG demoC o true false)
     Ready (withM ptrG demoBytes) 0 ptrG demoC (active ptrG demoC o) (zOpd false o.var o.d :: addrOpds o true) ∧ ptrG.sq.length < 32 ∧
     Access (withM ptrG demoBytes) 0 ptrG 4 .store true (laneAddrs ptrG demoC o true false) l.ok l.s ∧ l.ok.length = 2) ∧
    (let ptrs := (lanesOf (demoC.lanes ptrG)).map (fun n => (n, addrOf 2 (vec ptrG demoC n false 7) (4 * (3 : BitVec 8).toNat : Nat)))
     let l := goesM ptrG 4 .store false ptrs
     Ready (withM ptrG demoBytes) 0 ptrG demoC (demoC.lanes ptrG) [zOpd false 2 8, .vs false 7] ∧
     Access (withM ptrG demoBytes) 0 ptrG 4 .store false ptrs l.ok l.s ∧ l.ok.length = 2) ∧
    (let o := frmI 0x12 10 10 0x008000
     let l := goesM ptrG 4 .store true (scalarAddrs ptrG demoC o false)
     Ready (withM ptrG demoBytes) 0 ptrG demoC (active ptrG demoC o) [.ss (o.var = 3) o.d, .ss (o.space ≤ 1) o.a] ∧ active ptrG demoC o ≠ 0 ∧
     Access (withM ptrG demoBytes) 0 ptrG 4 .store true (scalarAddrs ptrG demoC o false) l.ok l.s ∧ l.ok.length = 1) ∧
    (let o := frm 0 8 2 0 0x19 0
     let l := goesM ptrG 4 .atomic true (laneAddrs ptrG demoC o false false)
     Ready (withM ptrG demoBytes) 0 ptrG demoC (active ptrG demoC o) (.vs (aty64 o.aty) o.d :: addrOpds o false) ∧ o.scope < 4 ∧
     Access (withM ptrG demoBytes) 0 ptrG 4 .atomic true (laneAddrs ptrG demoC o false false) l.ok l.s ∧ l.ok.length = 2) ∧
    (let o := frm 0 8 7 0 0x2A 0
     let l := goesM ptrG 4 .atomic false (laneAddrs ptrG demoC o false false)
     Ready (withM ptrG demoBytes) 0 ptrG demoC (active ptrG demoC o) (.vs (aty64 o.aty) o.d :: addrOpds o false) ∧
     (∀ x ∈ l.ok, x.2.place ≠ .glob) ∧
     Access (withM ptrG demoBytes) 0 ptrG 4 .atomic false (laneAddrs ptrG demoC o false false) l.ok l.s ∧ l.ok.length = 2) :=
  ⟨⟨ready_demo rfl (by decide), by decide, access_demo (by decide +kernel), by decide +kernel⟩,
    ⟨ready_demo rfl (by decide), access_demo (by decide +kernel), by decide +kernel⟩,
    ⟨ready_demo rfl (by decide), by decide, access_demo (by decide +kernel), by decide +kernel⟩,
    ⟨ready_demo rfl (by decide), by decide, access_demo (by decide +kernel), by decide +kernel⟩,
    ⟨ready_demo rfl (by decide), by decide +kernel, access_demo (by decide +kernel), by decide +kernel⟩⟩

/-- The guard that lane 0 alone meets; in a die whose shadow buffer holds one entry, at lane 0's location. -/
def oneG : Group := ptrG.setP 5 1 1
def oneO : Ops := { frm 0 8 2 0 0x29 0x20 with g := true, gp := 5 }
def oneShadow : Shadow := { dst := { place := .glob, addr := 0x20010, key := 1, gc := 0, cp := 0, rep := none, va := 0x10010, ctx := 1 }, f := ⟨0, 1⟩, val := [1, 0, 0, 0], stamp := 0 }
def shadowS (l : List Shadow) : State := { withM oneG demoBytes with clusters := [(0, { Cluster.init with tlb := [demoTlb], shadow := l })] }
theorem witness_ReductionsCombineInTheShadowBuffer :
    (let l := lanesGo (shadowS [oneShadow]) 0 oneG 4 .atomic true (laneAddrs oneG demoC oneO false false)
     Ready (shadowS [oneShadow]) 0 oneG demoC (active oneG demoC oneO) (.vs (aty64 oneO.aty) oneO.d :: addrOpds oneO false) ∧ oneG.sq = [] ∧
     4 ≤ oneO.scope ∧ clusterOfCore (coreOfGid 0) = some 0 ∧ (∀ x ∈ l.ok, x.2.place = .glob) ∧
     Access (shadowS [oneShadow]) 0 oneG 4 .atomic true (laneAddrs oneG demoC oneO false false) l.ok l.s ∧
     (l.s.clusterOf 0).shadow = [] ++ oneShadow :: [] ∧ l.ok.map (fun x => (x.1, x.2.addr)) = [(0, oneShadow.dst.addr)] ∧
     oneShadow.f = { op := oneO.var, ty := oneO.aty } ∧ oneShadow.val.length = tyBytes oneO.aty) ∧
    (let l := lanesGo (shadowS []) 0 oneG 4 .atomic true (laneAddrs oneG demoC oneO false false)
     Access (shadowS []) 0 oneG 4 .atomic true (laneAddrs oneG demoC oneO false false) l.ok l.s ∧ (l.s.clusterOf 0).shadow = [] ∧
     (l.ok.map (fun y => y.2.addr)).Nodup ∧ l.ok.length ≤ 2048) :=
  ⟨⟨⟨⟨rfl, rfl, rfl⟩, by decide⟩, by decide, by decide, by decide, by decide +kernel, access_of (by decide +kernel), by decide +kernel, by decide +kernel,
      by decide, by decide⟩, ⟨access_of (by decide +kernel), by decide +kernel, by decide +kernel, by decide +kernel⟩⟩
/-- A store of two lanes at the head of a queue, to global and to shared memory. -/
def queuedG : Group :=
  { memG with sq := [.store [{ lane := 0, dst := oneShadow.dst, data := [1, 2, 3, 4] },
    { lane := 2, dst := { oneShadow.dst with place := .shared 3, addr := 0x10 }, data := [5, 6, 7, 8] }] 3 0x2004] }
theorem witness_StoresLeaveInOrder :
    (0 : Nat) < 64 ∧ (∀ o ∈ (withM queuedG demoBytes).orphans, o.gid ≠ 64 * 0 + 0) ∧
    SMap.find? (withM queuedG demoBytes).groups (64 * 0 + 0) = some queuedG ∧ queuedG.sq ≠ [] ∧ queuedG.leaving = false ∧ (3 : Nat) < 4 ∧
    relReady (withM queuedG demoBytes) 0 queuedG 3 = true ∧ (SMap.find? (withM queuedG demoBytes).teams 3).isSome = true := by decide +kernel
/-- A home with a store of two lanes waiting, and one with a reduction. -/
def homeR (op : HomeOp) (a : Nat) : HomeReq :=
  { cls := 3, arrival := 0, src := .group 0, dst := { oneShadow.dst with addr := a }, op := op, pc := 0, aged := false }
def homeS (q : List HomeReq) : State := { withM memG demoBytes with homeQ := q }
def twoStores : List HomeReq := [homeR (.write [1, 2, 3, 4]) 0x20010, homeR (.write [5, 6, 7, 8]) 0x20010]
theorem witness_HomesPerformStoresAndReductions :
    (homeTurn (homeS twoStores) 0 = some (homeR (.write [1, 2, 3, 4]) 0x20010) ∧ homeTurn (homeS twoStores) 1 = some (homeR (.write [5, 6, 7, 8]) 0x20010) ∧
      twoStores.filter ((homeR (.write [1, 2, 3, 4]) 0x20010).together (homeS twoStores)) = twoStores ∧
      ∀ x ∈ twoStores, x.dst.place = .glob ∧ x.dst.rep = none ∧ frameCxl (homeS twoStores) x.dst.addr = none ∧
        homeCheck (twoStores.foldl (fun s x => sense s x.dst.addr x.bytes (twoStores.map HomeReq.covers)) (homeS twoStores)) x.dst x.bytes (twoStores.map HomeReq.covers) = .ok) ∧
    (let r := homeR (.rmw ⟨0, 1⟩ [1, 0, 0, 0]) 0x20010
     homeTurn (homeS [r]) 0 = some r ∧ (homeS [r]).homeQ.filter (r.together (homeS [r])) = [r] ∧ r.src ≠ .host ⟨false, 0, 0, 0, 0, 0, [], 0⟩ ∧ r.looks = false ∧
      homeCheck (sense (homeS [r]) r.dst.addr r.bytes [r.covers]) r.dst r.bytes [r.covers] = .ok) := by decide +kernel
/-- The last operation and the last integer type; the codes of binary32 and binary64. -/
theorem witness_AtomicFunctions : (6 : Nat) ≤ 6 ∧ (3 : Nat) ≤ 3 ∧ 0xFFFFFFFF < 2 ^ Fmt.f32.width ∧ 0xFFFFFFFFFFFFFFFF < 2 ^ Fmt.f64.width := by decide
/-- An atomic at the widest scope with nothing queued, and one with no active lane. -/
theorem witness_Atomics :
    let o := frm 0 4 2 8 0x29 0x27
    let s := relStart (withM ptrG demoBytes) 0 5
    let l := lanesGo s 0 ptrG 4 .atomic true (laneAddrs ptrG demoC o false false)
    Ready (withM ptrG demoBytes) 0 ptrG demoC (active ptrG demoC o) (.vd (aty64 o.aty) false o.d :: .vs (aty64 o.aty) o.b :: addrOpds o false) ∧
    active ptrG demoC { o with g := true, gp := 31 } = 0 ∧ active ptrG demoC o ≠ 0 ∧ ptrG.sq = [] ∧ CtrRoom ptrG o.ctr ∧ relReady s 0 ptrG 5 = true ∧
    Access s 0 ptrG 4 .atomic true (laneAddrs ptrG demoC o false false) l.ok l.s ∧ l.ok.length = 2 ∧ ∀ x ∈ l.ok, Settled l.s 0 ptrG 4 x.2 := by
  unfold Settled
  exact ⟨ready_demo rfl (by decide), by decide, by decide, by decide, by unfold CtrRoom; decide, by decide +kernel, access_of (by decide +kernel), by decide +kernel, by decide +kernel⟩
theorem witness_Fences :
    Issues (withM ptrG demoBytes) 0 ptrG demoC ∧ ptrG.sq = [] ∧ (frm 0 0 0 0 0x08 0).scope = 1 ∧ (frm 0 0 0 0 0x28 0).scope = 5 ∧
    relReady (relStart (withM ptrG demoBytes) 0 1) 0 ptrG 1 = true ∧ relReady (relStart (withM ptrG demoBytes) 0 5) 0 ptrG 5 = true :=
  ⟨⟨rfl, rfl, rfl⟩, by decide, by decide, by decide, by decide, by decide +kernel⟩
theorem witness_PrefetchAndAddressConversion :
    clusterOfCore (coreOfGid 0) = some 0 ∧ ((withM ptrG demoBytes).clusterOf 0).walks.length ≤ 1024 ∧
    (∀ o ∈ [frm 0 0 2 0xF4 1 0, frm 0 0 7 7 4 0, frmI 0x10 0 2 0x008000],
      Ready (withM ptrG demoBytes) 0 ptrG demoC (active ptrG demoC o) (addrOpds o true)) ∧
    (∀ o ∈ [frm 1 4 2 0 0 0, frm 4 62 63 0 0x9F 0, frm 9 62 62 0 0 0, frm 12 63 62 0 0x80 0], o.var ∈ [1, 2, 3, 4, 9, 10, 11, 12] ∧
      Ready (withM ptrG demoBytes) 0 ptrG demoC (active ptrG demoC o) [.vd (o.var < 8 || o.var == 9) false o.d, .vs (8 < o.var || o.var == 1) o.a]) ∧
    Ready (withM ptrG demoBytes) 0 ptrG demoC (active ptrG demoC (frm 0 62 62 0 0 0)) [.vd true false 62, .vs true 62] ∧
    (withM ptrG demoBytes).ctxOf? ptrG.ctx = some demoCtx :=
  ⟨rfl, by decide, fun o ho => ready_demo rfl (by revert o; decide), fun o ho => ⟨by revert o; decide, ready_demo rfl (by revert o; decide)⟩, ready_demo rfl (by decide), by decide⟩
/-- Two lanes of 16 bytes to the end of shared memory. -/
def ldshG : Group := (ptrG.setV 0 12 0xFE0).setV 2 12 0xFF0
theorem witness_LoadsToSharedMemory :
    let o := frm 4 15 2 12 1 0
    let l := goesM ldshG 16 .load true ((lanesOf (active ldshG demoC o)).map (fun n => (n, (src ldshG demoC o n true o.a).toNat)))
    Issues (withM ldshG demoBytes) 0 ldshG demoC ∧ isService (coreOfGid 0) = false ∧
    opTrap ldshG demoC (active ldshG demoC o) [.vs true o.a, .vs false o.b] = none ∧ ldshG.team = some 3 ∧
    SMap.find? (withM ldshG demoBytes).teams 3 = some demoTeam ∧ coreDone (withM ldshG demoBytes) 0 ldshG = true ∧ (withM ldshG demoBytes).ctxOf? ldshG.ctx = some demoCtx ∧
    (∀ n ∈ lanesOf (active ldshG demoC o), (vec ldshG demoC n false o.b).toNat + 16 ≤ demoTeam.sharedBytes ∧ (vec ldshG demoC n false o.b).toNat % 16 = 0) ∧
    Access (withM ldshG demoBytes) 0 ldshG 16 .load true ((lanesOf (active ldshG demoC o)).map (fun n => (n, (src ldshG demoC o n true o.a).toNat))) l.ok l.s ∧
    (∀ x ∈ l.ok, x.2.place = .glob ∧ Settled l.s 0 ldshG 16 x.2 ∧ Uncached l.s 0 x.2) ∧
    ({ demoTeam with landing := [(0xFE0, [1], 15)] }).landing[0]? = some (0xFE0, [1], 15) := by
  unfold Settled Uncached
  exact ⟨⟨rfl, rfl, rfl⟩, by decide, by decide, by decide, by decide +kernel, by decide +kernel, by decide, by decide +kernel, access_demo (by decide +kernel), by decide +kernel, by decide⟩

/-! ## Barriers and mailboxes -/

/-- The small module whose team has the given barrier object 15. -/
def barS (g : Group) (b : BarObj) : State := { withM g demoBytes with teams := [(3, { demoTeam with objs := demoTeam.objs.set 15 b })] }
def barT (b : BarObj) : Team := { demoTeam with objs := demoTeam.objs.set 15 b }
theorem inTeam_demo {g : Group} {b : BarObj} (h : g.clause = some demoC) (h2 : g.team = some 3) : InTeam (barS g b) 0 g demoC 3 (barT b) :=
  ⟨⟨rfl, rfl, h⟩, h2, rfl⟩
/-- A queue with one place left; a marker at the head; two arrivals expected, of which none or both have come. -/
def fullG : Group := { memG with sq := List.replicate 31 (.treeArrive 0) }
def headG (e : QEntry) : Group := { memG with sq := [e] }
def obj2 (arr : BitVec 8) : BarObj := { demoObj with exparr := 2, arr := arr }
def treeS (tree : Nat) (x : CoreSt) (cs : SMap CoreSt) : State := { withM (headG (.treeArrive tree)) demoBytes with cores := (0, x) :: cs }
theorem witness_BarrierArrivals :
    (InTeam (barS fullG (obj2 0)) 0 fullG demoC 3 (barT (obj2 0)) ∧ active fullG demoC { frm 15 0 0 0 0 0 with g := true, gp := 31 } = 0 ∧
      active fullG demoC (frm 15 0 0 0 0 0) ≠ 0 ∧ fullG.sq.length < 32) ∧
    isService (coreOfGid 0) = false ∧
    (∀ arr ∈ [0, 2], AtHead (barS (headG (.arrive 15 5 0x2000 0x2004 0)) (obj2 arr)) 0 0 (headG (.arrive 15 5 0x2000 0x2004 0)) (.arrive 15 5 0x2000 0x2004 0) [] ∧
      SMap.find? (barS (headG (.arrive 15 5 0x2000 0x2004 0)) (obj2 arr)).teams 3 = some (barT (obj2 arr)) ∧ (15 : Nat) < (barT (obj2 arr)).objs.length ∧
      relReady (barS (headG (.arrive 15 5 0x2000 0x2004 0)) (obj2 arr)) 0 (headG (.arrive 15 5 0x2000 0x2004 0)) 2 = true) ∧
    (withM (headG (.treeArrive 15)) demoBytes).groups.length = 1 := by
  refine ⟨⟨inTeam_demo rfl rfl, by decide, by decide, by decide⟩, by decide, ?_, by decide⟩
  intro arr h
  simp only [List.mem_cons, List.not_mem_nil, or_false] at h
  rcases h with rfl | rfl <;> exact ⟨⟨by decide, by decide, rfl, rfl, rfl⟩, rfl, by decide, by decide +kernel⟩
/-- The first and the last tree: of a core that takes no part; of one that comes last, and of one that does not. -/
theorem witness_BarrierArrivals_trees :
    (let s := treeS 0 CoreSt.init []
     AtHead s 0 0 (headG (.treeArrive 0)) (.treeArrive 0) [] ∧ (0 : Nat) < 16 ∧ relReady (relStart s 0 4) 0 (headG (.treeArrive 0)) 4 = true ∧
      (s.coreOf 0).part.getLsbD 0 = false) ∧
    ∀ other ∈ [[], [(1, { CoreSt.init with part := 0x8000 })]],
      let x := { CoreSt.init with part := 0x8000 }
      let s := treeS 15 x other
      AtHead s 0 0 (headG (.treeArrive 15)) (.treeArrive 15) [] ∧ relReady (relStart s 0 4) 0 (headG (.treeArrive 15)) 4 = true ∧
      (s.coreOf 0).part.getLsbD 15 = true ∧ (s.coreOf 0).arrived.getLsbD 15 = false ∧ (s.coreOf 0).seen.getLsbD 15 = s.trees.getLsbD 15 ∧
      ((∀ e ∈ (s.setCore 0 { x with arrived := withBit x.arrived 15 true }).cores, e.2.part.getLsbD 15 = true → e.2.arrived.getLsbD 15 = true) ∨
        ∃ e ∈ (s.setCore 0 { x with arrived := withBit x.arrived 15 true }).cores, e.2.part.getLsbD 15 = true ∧ e.2.arrived.getLsbD 15 = false) := by
  refine ⟨⟨⟨by decide, by decide, rfl, rfl, rfl⟩, by decide, by decide +kernel, by decide⟩, ?_⟩
  intro other h
  simp only [List.mem_cons, List.not_mem_nil, or_false] at h
  rcases h with rfl | rfl <;> exact ⟨⟨by decide, by decide, rfl, rfl, rfl⟩, by decide +kernel, by decide +kernel, by decide +kernel, by decide +kernel, by decide +kernel⟩

/-- The object with one arrival of the small group in its running cycle, and with the cycle's expectations. -/
def cycleB (arr : BitVec 8) (bexps : List BexpEvent) : BarObj :=
  { obj2 arr with arrs := [{ key := 0, group := some 0, seq := false, mask := 5, cpc := 0x2000, ipc := 0x2004, idx := 0 }], bexps := bexps }
/-- One that counts, and one beyond what is expected, before and after an expectation; the lists are in order. -/
theorem witness_BarrierCycles :
    ∀ arr ∈ [0, 2], ∀ l ∈ [[], [{ gid := 0, bytes := 4, exparr := some 3 }]],
      let s := barS memG (cycleB arr l)
      SMap.find? s.teams 3 = some (barT (cycleB arr l)) ∧ (15 : Nat) < (barT (cycleB arr l)).objs.length ∧ (barT (cycleB arr l)).obj 15 = cycleB arr l ∧
        (cycleB arr l).arrs.length = 1 ∧ SMap.find? s.groups 0 = some memG ∧ memG.team = some 3 ∧ (∀ x ∈ (barT (cycleB arr l)).left, x.gid ≠ 0) ∧
        (cycleB arr l).bexps.length ≤ 1 ∧ (cycleB arr l).bexps.Pairwise (fun x y => x.gid ≤ y.gid) ∧ (cycleB arr l).arrs.Pairwise (fun x y => x.key ≤ y.key) := by
  intro arr ha l hl
  simp only [List.mem_cons, List.not_mem_nil, or_false] at ha hl
  rcases ha with rfl | rfl <;> rcases hl with rfl | rfl <;>
    exact ⟨rfl, by decide, rfl, rfl, rfl, rfl, fun x h => (List.not_mem_nil h).elim, by decide, by decide, by decide⟩
/-- The small group waiting in slot 0. -/
def waitG (w : Wait) : Group := { memG with s0 := { memG.s0 with wait := w } }
/-- A barrier wait that the instruction at hand has begun. -/
def barW (d : Option Nat) : Wait := { Wait.none with kind := 2, target := 15, deadline := d, ipc := 0x2004 }
theorem notStopped_demo {g : Group} {b : BarObj} : NotStopped (barS g b) (barT b) := by
  intro n h
  have : n = 0 := by simpa [barT, demoTeam] using h.symm
  subst this
  exact (by decide : ¬ (Seq.init.state = 3 ∧ Seq.init.doubt = true))
theorem noneArriving_demo {w : Wait} {b : BarObj} (h : b.arrs = []) (lanes ipc : DWord) : ¬ Arriving 0 (waitG w) b 15 lanes ipc := by
  rintro (⟨_, _, _, h1, _⟩ | ⟨_, h1, _⟩)
  · exact (List.not_mem_nil h1)
  · rw [h] at h1; exact (List.not_mem_nil h1)
/-- A phase that is complete, and one that is not; a wait that begins, and one that goes on; an arrival that has not counted; a time that is over (0 cycles, or one that has run out before), and one that is not. -/
theorem witness_BarrierWaits :
    (∀ w ∈ [Wait.none, barW none, barW (some 100), barW (some 1), barW (some 0)],
      ∀ ph ∈ [true, false], InTeam (barS (waitG w) { demoObj with phase := ph }) 0 (waitG w) demoC 3 (barT { demoObj with phase := ph }) ∧
        NotStopped (barS (waitG w) { demoObj with phase := ph }) (barT { demoObj with phase := ph }) ∧ active (waitG w) demoC (frm 15 0 0 0 0 0) ≠ 0 ∧
        (waitG w).sq.length < 32 ∧ ¬ Arriving 0 (waitG w) { demoObj with phase := ph } 15 (waitG w).fmask demoC.ipc) ∧
    (waitOf memG demoC 2 15).kind = 0 ∧ (waitOf (waitG (barW none)) demoC 2 15).kind ≠ 0 ∧ Arriving 0 memG (cycleB 0 []) 15 memG.fmask demoC.ipc ∧
    (∀ d ∈ [none, some 100, some 1, some 0], (waitOf (waitG (barW d)) demoC 2 15).deadline = d) ∧ (barS memG demoObj).clock = 1 ∧
    (((barT { demoObj with phase := true }).obj 15).phase != memG.wp.getLsbD 15) = true ∧ (((barT demoObj).obj 15).phase != memG.wp.getLsbD 15) = false ∧
    (∀ o ∈ [frmI 0x1F 31 0 0xFFFFFF, frmI 0x1F 0 0 0, frm 0x2F 0 0 63 0 0, frm 15 0 0 63 0 0],
      opTrap memG demoC (active memG demoC o) (if o.li = false then (if o.sB then [Opd.ss false o.b] else [.vs false o.b]) else []) = none) ∧
    isService (coreOfGid 0) = false ∧ (∀ b ∈ [true, false], ((withM { memG with tp := if b then 0x8000 else 0 } demoBytes).coreOf 0).seen.getLsbD 15 = false) := by
  refine ⟨?_, by decide, by decide, .inr ⟨_, List.mem_cons_self, rfl, rfl, by decide⟩, by decide +kernel⟩
  intro w hw ph _
  exact ⟨inTeam_demo rfl rfl, notStopped_demo, by revert w; decide, by revert w; decide, noneArriving_demo rfl _ _⟩
theorem witness_BarrierExpectations :
    InTeam (barS memG (obj2 2)) 0 memG demoC 3 (barT (obj2 2)) ∧ Enters (barS memG (obj2 2)) memG ∧
    (∀ o ∈ [frmI 0x1F 0 0 0x800000, frm 0x2F 0 0 63 2 0, frm 15 0 0 63 0xF0 0, frm 15 0 0 0xF4 0xF4 0, frm 15 0 0 5 1 0, frm 15 0 0 5 0 0],
      active memG demoC o ≠ 0 ∧ opTrap memG demoC (active memG demoC o) (if o.li then [] else if o.sB then [.ss false o.b] else [.vs false o.b]) = none) ∧
    (frm 15 0 0 5 1 0).c.toNat < ((barT (obj2 2)).obj 15).arr.toNat ∧ ((barT (obj2 2)).obj 15).arr.toNat ≤ (frm 15 0 0 5 2 0).c.toNat :=
  ⟨inTeam_demo rfl rfl, ⟨rfl, rfl, rfl, by decide⟩, by decide, by decide, by decide⟩

/-- A mailbox of two slots at 0x10040 whose first slot word is `w`; its TAIL and HEAD are 0. Scalars 10 and 11 name it. -/
def boxBytes (w : Byte) : SMap Byte := (0x20048, 1) :: SMap.set 0 [] 0x200BC w
def boxG (w : Wait) : Group := { (memG.setS 10 0x10040).setS 11 0 with s0 := { memG.s0 with wait := w } }
def boxS (w : Wait) (x : Byte) : State := withM (boxG w) (boxBytes x)
def boxO : Ops := frm 0 4 10 0 3 7
def boxA (s : State) (g : Group) (n : Nat) (acc : Acc) (a : Nat) : Lanes := lanesGo s 0 g n acc true [(0, a)]
/-- The address that a lane reached. -/
def toA (l : Lanes) : GAddr := match l.ok with | (_, a) :: _ => a | [] => oneShadow.dst
theorem access_box {s : State} {g : Group} {n a : Nat} {acc : Acc}
    (h : (boxA s g n acc a).ok = [(0, toA (boxA s g n acc a))] ∧ (boxA s g n acc a).bad = [] ∧ (boxA s g n acc a).stall = false ∧ (boxA s g n acc a).walks = false ∧
      a % n = 0 ∧ (toA (boxA s g n acc a)).addr % n = 0) :
    Access s 0 g n acc true [(0, a)] [(0, toA (boxA s g n acc a))] (boxA s g n acc a).s := by
  obtain ⟨h1, h2, h3, h4, h5, h6⟩ := h
  refine ⟨by simpa using h5, ?_, by simpa using h6⟩
  rw [← h1]
  change boxA s g n acc a = _
  generalize boxA s g n acc a = l at *
  cases l; subst h2 h3 h4; rfl
theorem forLane_box {w : Wait} {x : Byte} (h : opTrap (boxG w) demoC (active (boxG w) demoC boxO) [.ss true boxO.a] = none ∧ (active (boxG w) demoC boxO).getLsbD 0 = true) :
    ForLane (boxS w x) 0 (boxG w) demoC boxO 0 := ⟨⟨rfl, rfl, rfl⟩, h.2, fun j hj => absurd hj (Nat.not_lt_zero j), h.1⟩
/-- The header's access, of a post or take that begins. -/
def boxHead (x : Byte) : Lanes := boxA (boxS .none x) (boxG .none) 64 .acquire 0x10040
theorem header_box {x : Byte}
    (h : (sca (boxG .none) true boxO.a).toNat = 0x10040 ∧ (toA (boxHead x)).addr = 0x20040)
    (ha : (boxHead x).ok = [(0, toA (boxHead x))] ∧ (boxHead x).bad = [] ∧ (boxHead x).stall = false ∧ (boxHead x).walks = false)
    (hs : Settled (boxHead x).s 0 (boxG .none) 64 (toA (boxHead x)))
    (hm : (boxS .none x).num 0x20048 1 = 1 ∧ ∀ k < 64, 9 ≤ k → (boxS .none x).num (0x20040 + k) 1 = 0) :
    Header (boxS .none x) 0 (boxG .none) demoC boxO 0 0x10040 1 (toA (boxHead x)) (boxHead x).s := by
  refine ⟨forLane_box (by decide), by unfold Fresh; decide, ?_, by decide, ⟨access_box ⟨ha.1, ha.2.1, ha.2.2.1, ha.2.2.2, by decide, by
    show (toA (boxHead x)).addr % 64 = 0; rw [h.2]⟩, hs⟩, ?_⟩
  · rw [if_neg (by decide), h.2]
    exact ⟨h.1.symm, hm.1.symm⟩
  · rw [h.2]
    exact ⟨by rw [hm.1]; decide, fun k h1 h2 => hm.2 k h2 h1⟩
/-- A post and a take that hold ticket 0, begun by the instruction at hand or restored. -/
def heldW (kind : Nat) (ipc : DWord) : Wait :=
  { Wait.none with kind := kind, ticket := some 0, payload := List.replicate 15 7, hdr := 0x10040, logn := 1, stage := 2, ipc := ipc }
def boxSlot (w : Wait) (x : Byte) : Lanes := boxA (boxS w x) (boxG w) 64 .acquire 0x10080
def boxStore (w : Wait) (x : Byte) : Lanes := boxA (boxSlot w x).s (boxG w) 64 .store 0x10080
theorem witness_headers : ∀ x ∈ [0, 1], Header (boxS .none x) 0 (boxG .none) demoC boxO 0 0x10040 1 (toA (boxHead x)) (boxHead x).s := by
  intro x hx
  simp only [List.mem_cons, List.not_mem_nil, or_false] at hx
  rcases hx with rfl | rfl <;>
    exact header_box (by decide +kernel) (by decide +kernel) (by unfold Settled; decide +kernel) (by decide +kernel)
/-- A slot that is free or filled for ticket 0 is ready for a post or for a take, and is not for the other. -/
theorem witness_PostsAndTakes :
    (∀ k ∈ [4, 5], ∀ ipc ∈ [0x2004, 0], ∀ x ∈ [0, 1], let w := heldW k ipc
      ForLane (boxS w x) 0 (boxG w) demoC boxO 0 ∧ waitOf (boxG w) demoC k 0 = w ∧ slotAt 0x10040 1 0 = 0x10080 ∧ lap 1 0 = 0 ∧
      Access (boxS w x) 0 (boxG w) 64 .acquire true [(0, 0x10080)] [(0, toA (boxSlot w x))] (boxSlot w x).s ∧
      Settled (boxSlot w x).s 0 (boxG w) 64 (toA (boxSlot w x)) ∧ (boxS w x).num ((toA (boxSlot w x)).addr + 60) 4 = x.toNat ∧
      (payloadTrap boxO (boxG w) demoC = none ∧ boundsOf (boxG w) (active (boxG w) demoC boxO) [.vd false false boxO.d] = none) ∧
      (boxG w).sq.length < 31 ∧ CtrRoom (boxG w) boxO.ctr ∧
      Access (boxSlot w x).s 0 (boxG w) 64 .store true [(0, 0x10080)] [(0, toA (boxStore w x))] (boxStore w x).s) := by
  intro k hk ipc hi x hx
  simp only [List.mem_cons, List.not_mem_nil, or_false] at hk hi hx
  rcases hk with rfl | rfl <;> rcases hi with rfl | rfl <;> rcases hx with rfl | rfl <;>
    exact ⟨forLane_box (by decide), by decide, by decide, by decide, access_box (by decide +kernel), by unfold Settled; decide +kernel, by decide +kernel, by decide,
      by decide, by unfold CtrRoom; decide, access_box (by decide +kernel)⟩
/-- A post that takes ticket 0 at a slot that is not free; tries at TAIL and at HEAD. -/
def boxTail (x : Byte) (a : Nat) : Lanes := boxA (boxHead x).s (boxG .none) 4 .atomic a
def boxAfter (x : Byte) : State := dropLine (performWrite (boxTail x 0x10040).s 0 (toA (boxTail x 0x10040)) (natLe 4 1)) 0 (toA (boxTail x 0x10040))
theorem witness_PostsAndTakes_ticket :
    Access (boxHead 1).s 0 (boxG .none) 4 .atomic true [(0, 0x10040)] [(0, toA (boxTail 1 0x10040))] (boxTail 1 0x10040).s ∧
    (toA (boxTail 1 0x10040)).place = .glob ∧ Settled (boxTail 1 0x10040).s 0 (boxG .none) 4 (toA (boxTail 1 0x10040)) ∧
    shadowOver (boxTail 1 0x10040).s (coreOfGid 0) (toA (boxTail 1 0x10040)).addr 4 = false ∧
    (boxS .none 1).num (toA (boxTail 1 0x10040)).addr 4 = 0 ∧
    Access (boxAfter 1) 0 (boxG .none) 64 .acquire true [(0, 0x10080)] [(0, toA (boxA (boxAfter 1) (boxG .none) 64 .acquire 0x10080))] (boxA (boxAfter 1) (boxG .none) 64 .acquire 0x10080).s ∧
    Settled (boxA (boxAfter 1) (boxG .none) 64 .acquire 0x10080).s 0 (boxG .none) 64 (toA (boxA (boxAfter 1) (boxG .none) 64 .acquire 0x10080)) ∧
    (boxAfter 1).num ((toA (boxA (boxAfter 1) (boxG .none) 64 .acquire 0x10080)).addr + 60) 4 ≠ 2 * lap 1 0 := by
  unfold Settled
  exact ⟨access_box (by decide +kernel), by decide +kernel, by decide +kernel, by decide +kernel, by decide +kernel, access_box (by decide +kernel), by decide +kernel, by decide +kernel⟩
def trySlot (x : Byte) : Lanes := boxA (boxHead x).s (boxG .none) 64 .acquire 0x10080
def tryStore (x : Byte) : Lanes := boxA (trySlot x).s (boxG .none) 64 .store 0x10080
def boxCount (x : Byte) (off : Nat) : Lanes := boxA (tryStore x).s (boxG .none) 4 .atomic (0x10040 + off)
theorem witness_TriesAndBinding :
    (∀ x ∈ [0, 1], ∀ off ∈ [0, 4], (boxS .none x).num ((toA (boxHead x)).addr + off) 4 = 0 ∧
      Access (boxHead x).s 0 (boxG .none) 64 .acquire true [(0, 0x10080)] [(0, toA (trySlot x))] (trySlot x).s ∧
      Settled (trySlot x).s 0 (boxG .none) 64 (toA (trySlot x)) ∧ (boxS .none x).num ((toA (trySlot x)).addr + 60) 4 = x.toNat ∧
      Access (trySlot x).s 0 (boxG .none) 64 .store true [(0, 0x10080)] [(0, toA (tryStore x))] (tryStore x).s ∧
      Access (tryStore x).s 0 (boxG .none) 4 .atomic true [(0, 0x10040 + off)] [(0, toA (boxCount x off))] (boxCount x off).s ∧
      (toA (boxCount x off)).place = .glob ∧ Settled (boxCount x off).s 0 (boxG .none) 4 (toA (boxCount x off)) ∧
      shadowOver (boxCount x off).s (coreOfGid 0) (toA (boxCount x off)).addr 4 = false ∧
      (boxS .none x).num (toA (boxCount x off)).addr 4 = 0) ∧
    CtrRoom (boxG .none) boxO.ctr ∧ Fresh (boxG .none) demoC ∧ active (boxG .none) demoC boxO ≠ 0 ∧
    boxO.a ≠ 0xF4 ∧ (frm 0 0 0xF4 0 0 0).a = 0xF4 ∧ (sca (boxG .none) true 12).toNat % 64 = 0 ∧
    (sca ((boxG .none).setS 10 0x10041) true 10).toNat % 64 ≠ 0 ∧ 0x00FFF00000000000 ≤ (sca ((boxG .none).setS 11 0x00FFF000) true 10).toNat ∧
    Enters (withM (boxG .none) demoBytes) (boxG .none) := by
  refine ⟨?_, by unfold CtrRoom; decide, by unfold Fresh; decide, by decide, by decide, by decide, by decide, by decide, by decide, ⟨rfl, rfl, rfl, by decide⟩⟩
  intro x hx off ho
  simp only [List.mem_cons, List.not_mem_nil, or_false] at hx ho
  rcases hx with rfl | rfl <;> rcases ho with rfl | rfl <;>
    exact ⟨by decide +kernel, access_box (by decide +kernel), by unfold Settled; decide +kernel, by decide +kernel, access_box (by decide +kernel),
      access_box (by decide +kernel), by decide +kernel, by unfold Settled; decide +kernel, by decide +kernel, by decide +kernel⟩

/-! ## Jobs, futures, queues, the sequencer from outside -/

/-- Scalars for the engine forms: addresses in 8 and 10, a length (and, as a quad, an index list, a control word and a table size) from 12 on, a literal in 16, offset and length of a gate in 18 and 20. -/
def engG : Group :=
  [(8, 0x10000), (10, 0x10100), (12, 0x10200), (14, 0x03000010), (15, 0x100), (16, 0xFF), (18, 0xFFFFFFFF), (19, 0xFF), (20, 1)].foldl
    (fun g (r : Nat × Word) => g.setS r.1 r.2) memG
def engO : Ops := frm 0 30 8 10 12 7
def idleJob : Job :=
  { ctx := 1, gen := 1, state := .empty, status := 0, scope := 4, card := 0, engine := 0, gid := 0, team := some 3, gidx := 0, cluster := 0,
    sup := false, rd0 := none, rd1 := none, wr := none, edges := [], readsDone := false, pc := 0, phase := 0, unit := 0, counted := 0, buf := [],
    resume := false, pseq := 0, out := [] }
/-- Every slot of the scheduler taken. -/
def busyS : State := { withM engG demoBytes with scheds := [(0, (List.range 256).map (fun k => (k, { idleJob with state := .pending })))] }
/-- Each direct form, with lengths that fit; a length of 0, which does not; under a guard that no lane meets; with a scheduler that is full. -/
theorem witness_JobsAreSubmitted :
    Issues (withM engG demoBytes) 0 engG demoC ∧ coreOfGid 0 < 1352 ∧ (withM engG demoBytes).ctxOf? engG.ctx = some demoCtx ∧
    (∀ f ∈ directForms engG engO, opTrap engG demoC (active engG demoC engO) (.sd true engO.d :: f.os) = none) ∧
    (∀ f ∈ directForms engG { engO with w1 := 0x000C1008 }, f.ty = 5 → f.ok ∧ Fits f.rs) ∧ (∀ f ∈ directForms engG engO, f.ty ≠ 5 → f.ok ∧ Fits f.rs) ∧
    (∀ f ∈ directForms (engG.setS 12 0) engO, f.ty ≤ 2 → ¬ Fits f.rs) ∧
    active engG demoC engO ≠ 0 ∧ active engG demoC { engO with g := true, gp := 31 } = 0 ∧ Due (withM engG demoBytes) 0 engG engO ∧ ¬ Due (withM { engG with sq := [.treeArrive 0] } demoBytes) 0 { engG with sq := [.treeArrive 0] } engO ∧
    Free (withM engG demoBytes) (schedFor (coreOfGid 0) 1) ∧ Free (withM engG demoBytes) (schedFor (coreOfGid 0) 5) ∧
    Issues busyS 0 engG demoC ∧ ¬ Free busyS (schedFor (coreOfGid 0) 1) := by
  refine ⟨⟨rfl, rfl, rfl⟩, by decide, by decide, by decide, ?_, ?_, ?_, by decide, by decide, by unfold Due CtrRoom; decide +kernel, by unfold Due CtrRoom; decide +kernel, ⟨0, by decide, by decide⟩, ⟨255, by decide, by decide⟩,
    ⟨rfl, rfl, rfl⟩, ?_⟩
  · intro f hf h
    simp only [directForms, List.mem_cons, List.not_mem_nil, or_false] at hf
    rcases hf with rfl | rfl | rfl | rfl | rfl <;> first | exact absurd h (by decide) | exact ⟨by decide +kernel, by unfold Fits; decide +kernel⟩
  · intro f hf h
    simp only [directForms, List.mem_cons, List.not_mem_nil, or_false] at hf
    rcases hf with rfl | rfl | rfl | rfl | rfl <;>
      first | exact absurd rfl h | exact ⟨trivial, by unfold Fits; decide +kernel⟩ | exact ⟨by decide +kernel, by unfold Fits; decide +kernel⟩
  · intro f hf h
    simp only [directForms, List.mem_cons, List.not_mem_nil, or_false] at hf
    rcases hf with rfl | rfl | rfl | rfl | rfl <;> first | exact absurd h (by decide) | (unfold Fits; decide +kernel)
  · unfold Free
    have h : ∀ k < 256, ¬ (busyS.job (schedFor (coreOfGid 0) 1) k).live = false := by decide +kernel
    rintro ⟨k, hk, e⟩
    exact h k hk e
/-- The greatest offset and length of a gate, and one beyond. -/
theorem witness_JobsAreSubmitted_gate :
    Ready (withM engG demoBytes) 0 engG demoC (active engG demoC (frm 0 30 18 20 15 0)) [.sd true 30, .ss true 18, .ss true 20] ∧
    (withM engG demoBytes).ctxOf? engG.ctx = some demoCtx ∧ Due (withM engG demoBytes) 0 engG (frm 0 30 18 20 15 0) ∧ isService (coreOfGid 0) = false ∧ Free (withM engG demoBytes) (coreOfGid 0 / 16) ∧ (frm 0 30 18 20 15 0).c.toNat < 16 ∧
    (sca engG true 18).toNat = 2 ^ 40 - 1 ∧ (sca engG true 20).toNat < 2 ^ 40 ∧ ¬ (sca ((engG.setS 18 0).setS 19 0x100) true 18).toNat < 2 ^ 40 :=
  ⟨ready_demo rfl (by decide), by decide, by unfold Due CtrRoom; decide +kernel, by decide, ⟨0, by decide, by decide⟩, by decide, by decide, by decide, by decide⟩
/-- A card of a type at 0x10040, for a user or a handler. -/
def cardG (sup : Bool) : Group := { memG.setS 10 0x10040 with sup := sup }
def cardS (sup : Bool) (ty : Byte) : State := withM (cardG sup) [(0x20040, ty)]
theorem witness_JobsAreSubmitted_cards :
    (∀ sup ∈ [true, false], ∀ ty ∈ [0x01, 0x10, 0x11, 0x20, 0x2A, 0x2B],
      let l := lanesGo (cardS sup ty) 0 (cardG sup) 64 .load false [(0, 0x10040)]
      Issues (cardS sup ty) 0 (cardG sup) demoC ∧ opTrap (cardG sup) demoC (active (cardG sup) demoC (frm 0 20 10 0 0 0)) [.sd true 20, .ss true 10] = none ∧
      (active (cardG sup) demoC (frm 0 20 10 0 0 0)).getLsbD 0 = true ∧ (sca (cardG sup) true 10).toNat = 0x10040 ∧
      Due (cardS sup ty) 0 (cardG sup) (frm 0 20 10 0 0 0) ∧ Access (cardS sup ty) 0 (cardG sup) 64 .load false [(0, 0x10040)] l.ok l.s ∧ l.ok.length = 1 ∧
      (∀ x ∈ l.ok, Settled l.s 0 (cardG sup) 64 x.2 ∧ Uncached l.s 0 x.2 ∧
        ((BitVec.ofNat 512 (leNat (readPlace (cardS sup ty) x.2.place x.2.addr 64))).extractLsb' 0 8 : BitVec 8) = ty)) ∧
    Enters (cardS false 0x10) (cardG false) ∧ (sca (memG.setS 10 0x10041) true 10).toNat % 64 ≠ 0 ∧ ¬ Due (withM fullG demoBytes) 0 fullG (frm 0 20 10 0 0 0) := by
  refine ⟨?_, ⟨rfl, rfl, rfl, by decide⟩, by decide, by unfold Due CtrRoom; decide +kernel⟩
  intro sup hs ty ht
  simp only [List.mem_cons, List.not_mem_nil, or_false] at hs ht
  rcases hs with rfl | rfl <;> rcases ht with rfl | rfl | rfl | rfl | rfl | rfl <;>
    exact ⟨⟨rfl, rfl, rfl⟩, by decide, by decide, by decide, by unfold Due CtrRoom; decide +kernel, access_of (by decide +kernel), by decide +kernel,
      by unfold Settled Uncached; decide +kernel⟩

/-- Slot 255 of the scheduler holds a job in a state, with generation 2. -/
def futS (st : JobState) (w : Wait) : State :=
  { withM (waitG w) demoBytes with scheds := [(0, [(255, { idleJob with state := st, gen := 2 })])] }
/-- Each code of a future: pending, running, done, expired, unknown; a wait that begins, and one that goes on. -/
theorem witness_Futures :
    (∀ st ∈ [JobState.pending, .running, .complete, .empty], ∀ w ∈ [Wait.none, { Wait.none with kind := 1, handle := 0x000000FF00000002, ipc := 0x2004 }],
      Issues (futS st w) 0 (waitG w) demoC ∧ opTrap (waitG w) demoC (active (waitG w) demoC (frm 0 22 20 0 0 7)) [.sd false 22, .ss true 20] = none ∧
      active (waitG w) demoC (frm 0 22 20 0 0 7) ≠ 0 ∧ active (waitG w) demoC { frm 0 22 20 0 0 7 with g := true, gp := 31 } = 0 ∧
      (waitOf (waitG w) demoC 1 0).handle = w.handle ∧ CtrRoom (waitG w) (frm 0 22 20 0 0 7).ctr) ∧
    (futureOf (futS .pending .none) 1 0x000000FF00000002).1 = 0 ∧ (futureOf (futS .running .none) 1 0x000000FF00000002).1 = 1 ∧
    (futureOf (futS .complete .none) 1 0x000000FF00000002).1 = 2 ∧ (futureOf (futS .complete .none) 1 0x000000FF00000001).1 = 3 ∧
    (futureOf (futS .complete .none) 1 0x000000FF00000003).1 = 4 ∧ (futureOf (futS .complete .none) 1 0).1 = 4 := by
  refine ⟨?_, by decide +kernel⟩
  intro st _ w hw
  exact ⟨⟨rfl, rfl, rfl⟩, by revert w; decide, by revert w; decide, by revert w; decide, by revert w; decide, by unfold CtrRoom; revert w; decide⟩

/-- Queue register 7 bound to a port, with entries, and with what slot 0's clause has popped at index 0. -/
def queueG (port : Nat) (fifo : List (SMap Word)) (pop : SMap (SMap Word)) : Group :=
  { memG with queues := memG.queues.set 7 { port := port, fifo := fifo, pop := pop, staged := [] } }
/-- Each direction; an empty, a full and an almost full register; a first pop and one that a replay repeats. -/
theorem witness_QueueRegisters :
    (∀ port ∈ [0, 1, 5, 6], ∀ fifo ∈ [[], [[(2, 7)]], List.replicate 31 [], List.replicate 32 []], ∀ pop ∈ [[], [(0, [(2, 9)])]],
      Issues (withM (queueG port fifo pop) demoBytes) 0 (queueG port fifo pop) demoC ∧ (queueG port fifo pop).queues.length = 8 ∧
      (frm 0 7 7 63 0 0).a.toNat < 8 ∧ (queueG port fifo pop).queues.getD 7 QReg.init = { port := port, fifo := fifo, pop := pop, staged := [] } ∧
      active (queueG port fifo pop) demoC (frm 0 7 7 63 0 0) ≠ 0 ∧ SMap.find? pop (32 * (queueG port fifo pop).sup.toNat + 16 * demoC.slot + 15) = none ∧
      opTrap (queueG port fifo pop) demoC (active (queueG port fifo pop) demoC (frm 0 63 7 63 0 0)) [.vd false false 63] = none ∧
      Enters (withM (queueG port fifo pop) demoBytes) (queueG port fifo pop)) ∧
    pops 1 ∧ pops 5 ∧ pushes 6 ∧ ¬ pops 0 ∧ ¬ pushes 0 ∧ SMap.find? [(0, [((2 : Nat), (9 : Word))])] (32 * memG.sup.toNat + 16 * demoC.slot + demoC.idx) = some [(2, 9)] ∧
    (32 : Nat) ≤ (List.replicate 32 ([] : SMap Word)).length ∧
    (SMap.find? [(15, [((2 : Nat), (9 : Word))])] (32 * memG.sup.toNat + 16 * demoC.slot + 15) = some [(2, 9)]) ∧
    relReady (relStart (withM (queueG 6 [] []) demoBytes) (coreOfGid 0) 4) 0 (queueG 6 [] []) 4 = true ∧ (queueG 6 [] []).sq = [] ∧ fullG.sq ≠ [] := by
  refine ⟨?_, by unfold pops; decide, by unfold pops; decide, by unfold pushes; decide, by unfold pops; decide, by unfold pushes; decide, by decide, by decide, by decide, by decide +kernel, rfl, by decide⟩
  intro port _ fifo _ pop hp
  exact ⟨⟨rfl, rfl, rfl⟩, rfl, by decide, rfl, (by decide : active memG demoC (frm 0 7 7 63 0 0) ≠ 0),
    (by decide : ∀ pop ∈ [[], [(0, [((2 : Nat), (9 : Word))])]], SMap.find? pop 15 = none) pop hp,
    (by decide : opTrap memG demoC (active memG demoC (frm 0 63 7 63 0 0)) [.vd false false 63] = none), ⟨rfl, rfl, rfl, rfl⟩⟩

/-- The team's sequencer in a state; its stream's address in scalars 10 and 11. -/
def seqS (st : BitVec 2) : State := { withM (memG.setS 10 0x10008) demoBytes with seqs := [(0, { Seq.init with team := some 3, state := st })] }
theorem witness_SequencerFromOutside :
    (∀ st ∈ [0, 1, 2, 3], HasSeq (seqS st) (memG.setS 10 0x10008) 3 demoTeam 0 ∧ ((seqS st).seqOf 0).state = st ∧
      ReadyWide (seqS st) 0 (memG.setS 10 0x10008) demoC (active (memG.setS 10 0x10008) demoC (frm 0 0 10 12 0 0)) [.ss true 10, .ss false 12] ∧
      ReadyWide (seqS st) 0 (memG.setS 10 0x10008) demoC (active (memG.setS 10 0x10008) demoC (frm 0 62 0 0 2 0)) [.sd true 62] ∧
      Enters (seqS st) (memG.setS 10 0x10008)) ∧
    active (memG.setS 10 0x10008) demoC (frm 0 0 10 12 0 0) ≠ 0 ∧ (sca (memG.setS 10 0x10008) true 10).extractLsb' 0 3 = 0#3 ∧
    (sca (memG.setS 10 0x10004) true 10).extractLsb' 0 3 ≠ 0#3 := by
  refine ⟨?_, by decide, by decide, by decide⟩
  intro st hs
  simp only [List.mem_cons, List.not_mem_nil, or_false] at hs
  rcases hs with rfl | rfl | rfl | rfl <;>
    refine ⟨⟨rfl, rfl, 0, rfl, rfl⟩, by decide, ?_, ?_, ⟨rfl, rfl, rfl, by decide⟩⟩ <;> exact ⟨⟨⟨rfl, rfl, rfl⟩, by decide⟩, by decide, by decide⟩

/-! ## The matrix stream -/

/-- A running sequencer of the small team; `w` lanes in its group, which feeds it with 240 registers; 16 KiB of shared memory. -/
def runQ : Seq := { Seq.init with state := 1, team := some 3 }
def mtxT (b : BarObj) (sh : SMap Byte) : Team := { demoTeam with sharedBytes := 0x4000, objs := demoTeam.objs.set 15 b, shared := sh }
def mtxG (w : Nat) : Group := { memG with width := w, regs := 240 }
def mtxS (w : Nat) (q : Seq) (b : BarObj) (sh : SMap Byte) : State :=
  { withM (mtxG w) demoBytes with cur := none, curSeq := some 0, seqs := [(0, q)], teams := [(3, mtxT b sh)] }
theorem streams_demo {w : Nat} {q : Seq} {b : BarObj} {sh : SMap Byte} (h : q.team = some 3 ∧ q.state = 1 ∧ q.saving = 0 ∧ q.arriving = false) :
    Streams (mtxS w q b sh) 0 q 3 (mtxT b sh) := ⟨rfl, rfl, h.1, rfl, h.2.1, h.2.2.1, h.2.2.2⟩
/-- The object whose running cycle holds the sequencer's arrival. -/
def seqCycle (arr : BitVec 8) : BarObj := { obj2 arr with arrs := [{ key := seqGid 0, group := none, seq := true, mask := 0, cpc := 0, ipc := 0, idx := 0 }] }
/-- An arrival of the stream that counts at the end of the cycle, and one that is too many. -/
theorem witness_StreamFlowWords_cycle :
    ∀ arr ∈ [0, 2], let s := mtxS 16 { runQ with arriving := true } (seqCycle arr) []
      SMap.find? s.teams 3 = some (mtxT (seqCycle arr) []) ∧ (15 : Nat) < (mtxT (seqCycle arr) []).objs.length ∧
      (mtxT (seqCycle arr) []).obj 15 = seqCycle arr ∧ (seqCycle arr).arrs.map (fun e => (e.seq, e.key)) = [(true, seqGid 0)] ∧
      (s.seqOf 0).team = some 3 ∧ (s.seqOf 0).arriving = true ∧ (seqCycle arr).bexps.length ≤ 1 := by
  intro arr h
  simp only [List.mem_cons, List.not_mem_nil, or_false] at h
  rcases h with rfl | rfl <;> exact ⟨rfl, by decide, rfl, rfl, rfl, rfl, by decide⟩
/-- A loop that starts, goes on and ends; a phase that is complete and one that is not. -/
theorem witness_StreamFlowWords :
    (∀ q ∈ [runQ, { runQ with lact0 := true, lc0 := 1 }, { runQ with lact0 := true, lc0 := 0 }], ∀ b ∈ [obj2 0, obj2 2, { obj2 0 with phase := true }],
      Streams (mtxS 16 q b []) 0 q 3 (mtxT b [])) ∧
    ((mtxT { obj2 0 with phase := true } []).obj 15).phase ≠ runQ.wp.getLsbD 15 ∧ ((mtxT (obj2 0) []).obj 15).phase = runQ.wp.getLsbD 15 := by
  refine ⟨?_, by decide, by decide⟩
  intro q hq b _
  exact streams_demo (by revert q; decide)

/-- A record of kind 1 in shared memory: format, column stride. -/
def rec1 (fmt stride : Nat) : BitVec 512 := BitVec.ofNat 512 (1 + 2 * 2 ^ 8 + fmt * 2 ^ 11 + stride * 2 ^ 128)
/-- A record of kind 2 in shared memory with every extent 1. -/
def rec2 (fmt : Nat) : BitVec 512 :=
  BitVec.ofNat 512 (2 + 2 * 2 ^ 8 + fmt * 2 ^ 11 + 2 ^ 32 + 2 ^ 48 + 2 ^ 64 + 2 ^ 80 + 2 ^ 96 + 2 ^ 128 + 2 ^ 132 + 2 ^ 136 + 2 ^ 140 + 2 ^ 144 + 2 ^ 148)
/-- Tiles that fit and that do not, up to the last accumulator; ranges that end at the declared size and beyond; a group that feeds, and none; records. -/
theorem witness_TileWords :
    Streams (mtxS 64 runQ demoObj []) 0 runQ 3 (mtxT demoObj []) ∧ teamWidth (mtxS 64 runQ demoObj []) 3 = 64 ∧ teamWidth (mtxS 16 runQ demoObj []) 3 = 16 ∧
    (7 : BitVec 3).toNat + (0 : BitVec 3).toNat < 8 ∧ 8 ≤ (7 : BitVec 3).toNat + (1 : BitVec 3).toNat ∧
    TileFits 7 16 4 ∧ TileFits 6 64 4 ∧ ¬ TileFits 7 64 4 ∧ ¬ TileFits 5 64 8 ∧
    0x3000 + 64 * 16 * aBytes 0 ≤ (mtxT demoObj []).sharedBytes ∧ (mtxT demoObj []).sharedBytes < 0x3010 + 64 * 16 * aBytes 0 ∧
    (∀ d ∈ drains, 0x2000 + 64 * 16 * dBytes d.2 ≤ (mtxT demoObj []).sharedBytes) ∧
    feedGroup (mtxS 64 runQ demoObj []) 3 (mtxT demoObj []) 127 = none ∧ feedGroup (mtxS 64 runQ demoObj []) 3 (mtxT demoObj []) 0 = some (0, mtxG 64) ∧
    (208 : BitVec 8).toNat + 8 * 4 ≤ (mtxG 64).regs ∧ recOk (rec1 1 128) = true ∧ recOk (rec1 6 128) = false ∧ recOk (rec2 1) = true ∧
    (mtxT demoObj []).sharedBytes < 0x3FC1 + 64 ∧ 0x3FC0 + 64 ≤ (mtxT demoObj []).sharedBytes := by
  unfold TileFits
  exact ⟨streams_demo (by decide), by decide +kernel⟩

/-- The first word's fields: format `f`, records from v32, indexes from v40, B slot 6. -/
def mmaO (f : BitVec 3) : MmaOps := ⟨7, true, f, false, true, 6, 0, 0, 32, 40⟩
def mtxQ (r : BitVec 512) : Seq := { runQ with sh := [(6, r)] }
theorem inside1 : ∀ x ∈ [(1, 128, 32), (4, 128, 128), (4, 256, 256)], BInside (mtxT demoObj []) (rec1 x.1 x.2.1) x.2.2 := by
  intro x hx
  simp only [List.mem_cons, List.not_mem_nil, or_false] at hx
  unfold BInside
  rcases hx with rfl | rfl | rfl <;> rw [if_pos (by decide +kernel)] <;> exact ⟨by decide +kernel, fun _ => by decide +kernel⟩
theorem inside2 : BInside (mtxT demoObj []) (rec2 1) 32 := by
  unfold BInside
  rw [if_neg (by decide +kernel)]
  intro y z ch hy hz hc
  have e : rf (rec2 1) 32 16 = 1 ∧ rf (rec2 1) 48 16 = 1 ∧ rf (rec2 1) 64 16 = 1 ∧ rf (rec2 1) 320 64 = 0 ∧ rf (rec2 1) 192 32 = 0 ∧ rf (rec2 1) 160 32 = 0 ∧
    bitsOf (rf (rec2 1) 11 3) = 32 ∧ (mtxT demoObj []).sharedBytes = 0x4000 := by decide +kernel
  rw [e.1] at hy; rw [e.2.1] at hz; rw [e.2.2.1] at hc
  rw [e.2.2.2.1, e.2.2.2.2.1, e.2.2.2.2.2.1, e.2.2.2.2.2.2.1, e.2.2.2.2.2.2.2]
  omega
/-- mma of binary32 and of 8-bit elements, mmas, and mconv, from their first k-step and from the last; held rows, of the format and of another; a record that does not fit. -/
theorem witness_MatrixMultiplyWords :
    (∀ x ∈ [((1 : BitVec 3), false, false, rec1 1 128), (4, false, false, rec1 4 128), (4, true, false, rec1 4 256), (1, false, true, rec2 1)],
      let o := { mmaO x.1 with mreg := if x.2.1 then 40 else 0 }
      Streams (mtxS 16 (mtxQ x.2.2.2) demoObj []) 0 (mtxQ x.2.2.2) 3 (mtxT demoObj []) ∧ teamWidth (mtxS 16 (mtxQ x.2.2.2) demoObj []) 3 = 16 ∧
      SMap.get 0 (mtxQ x.2.2.2).sh o.bslot.toNat = x.2.2.2 ∧ TileFits o.acc.toNat 16 4 ∧ recFits o x.2.1 x.2.2.1 x.2.2.2 = true ∧ recOk x.2.2.2 = true ∧
      rf x.2.2.2 8 3 = 2 ∧ feedGroup (mtxS 16 (mtxQ x.2.2.2) demoObj []) 3 (mtxT demoObj []) o.grp.toNat = some (0, mtxG 16) ∧
      rowsOk (mtxG 16) o x.2.1 = true ∧ (mtxQ x.2.2.2).kstep.toNat < depth o.afmt.toNat x.2.1 / unitOf o.afmt.toNat) ∧
    ({ mtxQ (rec1 1 128) with kstep := 3 }).kstep.toNat < depth 1 false / unitOf 1 ∧
    ({ runQ with aheld := true, hfmt := 1 }).hfmt = (mmaO 1).afmt ∧ ({ runQ with aheld := true, hfmt := 1 }).hfmt ≠ (mmaO 4).afmt ∧
    feedGroup (mtxS 16 runQ demoObj []) 3 (mtxT demoObj []) 127 = none ∧ recFits (mmaO 1) false false (rec1 2 128) = false := by
  refine ⟨?_, by decide, by decide, by decide, by decide, by decide +kernel⟩
  intro x hx
  simp only [List.mem_cons, List.not_mem_nil, or_false] at hx
  unfold TileFits
  rcases hx with rfl | rfl | rfl | rfl <;>
    exact ⟨streams_demo (by decide), by decide +kernel⟩
/-- Elements at the ends of the finite range; blocks whose elements are numbers. -/
theorem witness_MatrixStepArithmetic :
    (∀ k < 8, Finite Fmt.f32 (aElem (fun _ _ => 0x7F7FFFFF) 1 0 (0 + k))) ∧ Finite Fmt.f32 0x7F7FFFFF ∧ Finite Fmt.bf16 0xFF7F ∧
    (∀ k < 32, (elemValue false false 0x20 (aElem (fun _ _ => 0x38383838) 4 0 (32 * 0 + k))).1 = .fin false 8 (-3)) := by
  unfold Claims.Finite
  exact ⟨by decide +kernel, by decide, by decide, by decide +kernel⟩

/-! ## Supervisor forms -/

/-- The small module with its group on ring service core 1152 instead. -/
def svc : Nat := 64 * 1152
def onSvc (g : Group) (m : SMap Byte) : State :=
  { withM g m with groups := [(svc, g)], cur := some svc, cores := [(1152, { CoreSt.init with tlb := [demoTlb] })], clusters := [], teams := [] }
/-- A handler: entered with its lanes for a cause, in slot 0; the fragment of both lanes waits with entry `p`. -/
def handlerG (cause : Nat) (p : DWord) : Group :=
  { demoG with sup := true, entryMask := 5, c0 := { Slot.empty with mask := 5, pc := p }, k0 := { Slot.empty with mask := 5, pc := 0x3000 },
               trec := BitVec.ofNat 512 cause }
/-- The operands of the supervisor forms: scalars 40, 8 and 10, which a user may name; a register that it may not. -/
def sysO : Ops := frm 0 40 8 10 0 7

/-- A service and a compute core; forms with operands that user mode may name, and with one that it may not. -/
theorem witness_SupervisorFormsTrapInUserMode :
    Issues (onSvc demoG []) svc demoG demoC ∧ Enters (onSvc demoG []) demoG ∧ Issues (withM demoG []) 0 demoG demoC ∧ Enters (withM demoG []) demoG ∧
    coreOfGid svc = 1152 ∧ (∀ x ∈ supForms sysO, x.2.1 (coreOfGid svc) || x.2.1 (coreOfGid 0) = true) ∧
    (∀ x ∈ supForms sysO, ∀ y ∈ x.2.2, ¬ Illegal demoG demoC y) ∧ Illegal demoG demoC (.sd false 0x4F) ∧ Illegal demoG demoC (.ss true 0x40) := by
  unfold Illegal
  refine ⟨⟨rfl, rfl, rfl⟩, ⟨rfl, rfl, rfl, by decide⟩, ⟨rfl, rfl, rfl⟩, ⟨rfl, rfl, rfl, by decide⟩, by decide, by decide, ?_, by decide, by decide⟩
  intro x hx y hy
  simp only [supForms, List.cons_append, List.nil_append, List.map_cons, List.map_nil, List.mem_cons, List.not_mem_nil, or_false] at hx
  rcases hx with rfl | rfl | rfl | rfl | rfl | rfl | rfl | rfl | rfl | rfl | rfl | rfl | rfl | rfl | rfl | rfl | rfl <;>
    simp only [List.mem_cons, List.not_mem_nil, or_false] at hy <;> (try rcases hy with rfl | rfl | rfl) <;> decide
/-- A handler for a syscall with lanes left, for PREEMPT, for RESTORE, and for another cause; the entry as captured and as the handler moved it. -/
theorem witness_ReturnFromAHandler :
    (∀ x ∈ [(0x09, 0x3000), (0x0A, 0x3000), (0x11, 0x3000), (0x05, 0x3000), (0x05, 0x00FFFFFFFFFFFFC0)],
      Issues (withM (handlerG x.1 x.2) []) 0 (handlerG x.1 x.2) demoC ∧ (handlerG x.1 x.2).sup = true ∧
      (handlerG x.1 x.2).fmask = (handlerG x.1 x.2).entryMask ∧ (handlerG x.1 x.2).tcause = x.1 ∧ Consistent (handlerG x.1 x.2)) ∧
    ((handlerG 0x05 0).fmask ≠ { handlerG 0x05 0 with entryMask := 4 }.entryMask) ∧
    ({ handlerG 0x0A 0 with sysRest := 4 }.sysRest.getLsbD 2 = true ∧ ∀ j < 2, { handlerG 0x0A 0 with sysRest := 4 }.sysRest.getLsbD j = false) ∧
    (handlerG 0x0A 0).sysRest = 0 ∧ (withM (handlerG 0x0A 0) []).ctxOf? (handlerG 0x0A 0).ctx = some demoCtx ∧
    (handlerG 0x11 0).c0.park.mask = 0 ∧ (handlerG 0x11 0).c1.park.mask = 0 ∧
    (∀ tid t₀ key, HasSeq (withM (handlerG 0x11 0) []) (handlerG 0x11 0) tid t₀ key → ((withM (handlerG 0x11 0) []).seqOf key).state ≠ 2) ∧
    (handlerG 0x05 0).cstat.extractLsb' 6 6 = 0 ∧ { handlerG 0x05 0 with c1 := { Slot.empty with mask := 1 } }.c0.mask &&& (1 : DWord) ≠ 0 ∧
    (4 : DWord) ||| (handlerG 0x05 0).c1.mask ≠ (handlerG 0x05 0).lmask ∧ 6 < ({ Wait.none with kind := 7 } : Wait).code ∧ (handlerG 0x05 0).trapSlot < 2 := by
  refine ⟨?_, by decide, by decide, by decide, by decide, by decide, by decide, ?_, by decide, by decide, by decide, by decide, by decide⟩
  · intro x hx
    exact ⟨⟨rfl, rfl, rfl⟩, rfl, rfl, by revert x; decide +kernel,
      ⟨by revert x; decide, by revert x; decide, by revert x; decide, by revert x; decide, (by decide : (0 : Word).extractLsb' 18 14 = 0 ∧ (0 : Word).extractLsb' 6 6 = 0), by revert x; decide⟩⟩
  · intro tid t₀ key h
    exact absurd h.team.symm (Option.some_ne_none tid)
/-- A fragment that resumes at the address of the other, and fuses with it; one that a PREEMPT entry has kept, whose wait the restored entry continues. -/
theorem witness_ReturnFromAHandler_parts :
    (let g : Group := handlerG 0x05 0x4000
     fuses { g with c1 := { Slot.empty with mask := 8, pc := 0x4000 } } { Slot.empty with mask := 5, pc := 0x4000 } { Slot.empty with mask := 8, pc := 0x4000 }) ∧
    (let x : Slot := { Slot.empty with mask := 5, pc := 0x3000, wait := { Wait.none with kind := 3, target := 7 } }
     x.mask ≠ 0 ∧ x.wait.code ≠ 0 ∧ x.wait.kind < 16 ∧ ({ handlerG 0x11 0 with c0 := x, kept := [x] }.kept.getD 0 Slot.empty) = x) := by decide
theorem issues_svc {g : Group} {m : SMap Byte} (h : g.clause = some demoC) : Issues (onSvc g m) svc g demoC := ⟨rfl, rfl, h⟩
/-- The group of a handler or kernel on the service core, whose slot 0 waits with `w`; scalars 8, 9 name context 1; 10, 11 an address. -/
def sysG (w : Wait) : Group :=
  (([(8, 1), (10, 0x10040)].foldl (fun g (r : Nat × Word) => g.setS r.1 r.2) demoG)).setSlot 0 { demoG.s0 with wait := w }
def kernG (w : Wait) : Group := { sysG w with sup := true }
theorem readySys_svc {g : Group} {m : SMap Byte} {os : List Opd} (h : g.clause = some demoC) (h1 : g.sup = true) (h2 : illOf g demoC os = none) :
    ReadySys (onSvc g m) svc g demoC isService os := ⟨issues_svc h, by show isService (coreOfGid svc) = true; decide, h1, h2⟩
def wait7 : Wait := { Wait.none with kind := 17, ipc := demoC.ipc }
/-- Each form before and in its wait, with and without active lanes; a shootdown that can end, as the only thing that the issuer waits for. -/
theorem witness_Shootdowns :
    (∀ w ∈ [Wait.none, wait7], ∀ os ∈ [[Opd.ss false 8, .ss true 10], [.ss false 8], []], ReadySys (onSvc (kernG w) []) svc (kernG w) demoC isService os) ∧
    active (kernG wait7) demoC sysO ≠ 0 ∧ active (kernG wait7) demoC { sysO with g := true, gp := 31 } = 0 ∧ (waitOf (kernG wait7) demoC 17 0).kind ≠ 0 ∧
    (waitOf (kernG .none) demoC 17 0).kind = 0 ∧
    (let x : TlbInv := { gid := svc, kind := 1, ctx := 2, va := 0 }
     let s := { onSvc (kernG wait7) [] with tlbinvs := [x] }
     s.tlbinvs.find? (fun y => y.gid = 64 * 1152 + 0) = some x ∧ SMap.find? s.groups (64 * 1152 + 0) = some (kernG wait7) ∧ (∀ k, (s.clusterOf k).shadow = []) ∧
     (kernG wait7).s0.wait.kind = 17 ∧ (kernG wait7).s1.wait.kind ≠ 17 ∧ x.clear s = true ∧ x.inFlight s = false ∧ (kernG wait7).sq = [] ∧
     relReady s (64 * 1152 + 0) (kernG wait7) 4 = true) := by
  refine ⟨?_, by decide, by decide, by decide, by decide, by decide, by decide +kernel, fun _ => rfl, by decide +kernel⟩
  intro w _ os ho
  simp only [List.mem_cons, List.not_mem_nil, or_false] at ho
  rcases ho with rfl | rfl | rfl <;> exact readySys_svc rfl rfl rfl

/-- A group whose slot 0 is parked with SEQ 1. -/
def parked1 : Group := { demoG with clause := none, s0 := { demoG.s0 with park := { Park.none with active := true, mask := 4, pc := 0x2000, ipc := 0x2004, seq := 1 } } }
/-- A context with 1,024 resolutions. -/
def fullCtx : Ctx := { demoCtx with resolutions := List.replicate 1024 (8, true) }
/-- A handler that names SEQ 1; parkings with that SEQ: a slot's, a job's, a sequencer's, saved ones, and none. -/
def parkS (p : Nat) : State :=
  let s := onSvc (kernG .none) []
  let seqd : Word := 1
  if p = 0 then s
  else if p = 1 then { s with groups := [(5, parked1), (svc, kernG .none)] }
  else if p = 2 then { s with scheds := [(0, [(255, { idleJob with state := .parked, pseq := seqd })])] }
  else if p = 3 then { s with seqs := [(0, { Seq.init with team := some 3, state := 2, pseq := seqd })], teams := [(3, demoTeam)] }
  else { s with teams := [(3, { demoTeam with mseq := some seqd })], ctxs := [(1, if p = 4 then demoCtx else fullCtx)] }
theorem witness_ParkingResolution :
    (∀ p ∈ [0, 1, 2, 3, 4, 5], Issues (parkS p) svc (kernG .none) demoC) ∧ isService (coreOfGid svc) = true ∧ (kernG .none).sup = true ∧
    illOf (kernG .none) demoC [.sd false sysO.d, .ss false sysO.a] = none ∧ CtrRoom (kernG .none) sysO.ctr ∧
    ¬ CtrRoom { kernG .none with counters := List.replicate 8 63 } sysO.ctr ∧
    low (sca (kernG .none) false sysO.a) = 1 ∧ findParking (parkS 0) 1 = none ∧ findParking (parkS 1) 1 = some (.slot 5 0 false) ∧
    findParking (parkS 2) 1 = some (.job 0 255) ∧ findParking (parkS 3) 1 = some (.sequencer 0) ∧ ((parkS 3).seqOf 0).team = some 3 ∧ (kernG .none).team = none ∧
    findParking (parkS 4) 1 = some (.saved 1) ∧ findParking (parkS 5) 1 = some (.saved 1) := by
  unfold CtrRoom
  refine ⟨?_, by decide +kernel⟩
  intro p hp
  simp only [List.mem_cons, List.not_mem_nil, or_false] at hp
  rcases hp with rfl | rfl | rfl | rfl | rfl | rfl <;> exact ⟨rfl, rfl, rfl⟩
theorem witness_ParkingResolution_parked :
    SMap.find? (parkS 1).groups 5 = some parked1 ∧ (parked1.slot 0).park.seq = 1 ∧ parked1.clause = none ∧ Enters (parkS 1) parked1 ∧
    (parkS 4).ctxOf? 1 = some demoCtx ∧ (∀ e ∈ demoCtx.resolutions, e.1 ≠ 1) ∧ demoCtx.resolutions.length < 1024 ∧
    (parkS 5).ctxOf? 1 = some fullCtx ∧ (∀ e ∈ fullCtx.resolutions, e.1 ≠ 1) ∧ 1024 ≤ fullCtx.resolutions.length :=
  ⟨by decide +kernel, by decide, rfl, ⟨rfl, rfl, rfl, by decide +kernel⟩, by decide +kernel, (nofun : ∀ e ∈ ([] : List (Word × Bool)), e.1 ≠ 1), by decide +kernel, by decide +kernel,
    fun e h => by rw [List.eq_of_mem_replicate h]; decide, by decide +kernel⟩
/-- A compute core's handler whose team's image lies at 0x10000, in frames 1 and 2 of a large page. -/
def imgTlb : TlbEntry := { demoTlb with level := 1, page := 0, leaf := 0x0008001F }
/-- The small context, which has touched every stack that it uses. -/
def imgCtx : Ctx := { demoCtx with touched := BitVec.twoPow 144 72 }
def imgG (sq : List QEntry) : Group := { memG.setS 9 0 with sup := true, sq := sq }.setS 8 0x10000
def imgS (g : Group) (q : Seq) (m : SMap Stack := []) : State :=
  { withM g [] with
      memStacks := m, ctxs := [(1, imgCtx)], cores := [(0, { CoreSt.init with tlb := [imgTlb] })], clusters := [(0, { Cluster.init with tlb := [imgTlb], remap := [1, 2] })], seqs := [(0, q)],
      dir := [(1, { DirEntry.free with state := 1, ktag := 1, skind := 2 }), (2, { DirEntry.free with state := 1, ktag := 1, skind := 2 })] }
/-- A sequencer that saves from its first execution to its last, with and without queued stores; the 1,440 lines of its image. -/
theorem witness_SequencerSaveAndRestore :
    (∀ sq ∈ [[], [QEntry.treeArrive 0]], ∀ q ∈ [{ Seq.init with team := some 3, state := 1 }, { Seq.init with team := some 3, saving := 2 }, { Seq.init with team := some 3 }],
      ReadySys (imgS (imgG sq) q) 0 (imgG sq) demoC (fun n => decide (n < 1152)) [.ss true sysO.a] ∧ HasSeq (imgS (imgG sq) q) (imgG sq) 3 demoTeam 0 ∧
      (imgS (imgG sq) q).seqOf 0 = q ∧ (active (imgG sq) demoC sysO).getLsbD 0 = true ∧ (imgG sq).fmask.getLsbD 0 = true ∧
      (sca (imgG sq) true sysO.a).toNat = 0x10000) ∧
    active (imgG []) demoC { sysO with g := true, gp := 31 } = 0 ∧
    storesDone (imgS (imgG []) Seq.init) 0 (imgG []) = true ∧ (imgS (imgG []) Seq.init).reps = [] ∧ Seq.init.arriving = false ∧
    ((imgS (imgG []) { Seq.init with arriving := true }).seqOf 0).arriving = true := by
  refine ⟨?_, by decide, by decide +kernel, by decide, by decide, by decide +kernel⟩
  intro sq hs q hq
  simp only [List.mem_cons, List.not_mem_nil, or_false] at hs hq
  rcases hs with rfl | rfl <;> rcases hq with rfl | rfl | rfl <;>
    exact ⟨⟨⟨rfl, rfl, rfl⟩, by decide, rfl, by decide⟩, ⟨rfl, rfl, 0, rfl, rfl⟩, by decide +kernel, by decide, by decide, by decide⟩
/-- Where the bytes of the image lie; the sequencer of the team, before and during msave; the lines of the image. -/
def imgAdr (p : Nat × Nat) : GAddr := { place := .glob, addr := p.2, key := 1, gc := 0, cp := 0, rep := none, va := p.2, ctx := 1 }
def imgQ (saving : Bool) : Seq := { Seq.init with team := some 3, saving := saving.toNat }
def imgP (k : Nat) : Nat × Nat := (0, 0x10000 + 64 * k)
/-- Each line is translated by the cached leaf, and its home accepts it; nothing is installed anew. -/
theorem image_page {k : Nat} (hk : k < 1440) : (imgP k).2 / pageBytes 1 = 0 := by
  show (0x10000 + 64 * k) / 67108864 = 0
  omega
theorem image_here {k : Nat} (hk : k < 1440) : ¬ remoteBase ≤ (imgP k).2 := by
  rw [show remoteBase = 70368744177664 by decide]
  show ¬ 70368744177664 ≤ 0x10000 + 64 * k
  omega
theorem image_frame {k : Nat} (hk : k < 1440) : (imgP k).2 / 65536 = 1 ∨ (imgP k).2 / 65536 = 2 := by
  show (0x10000 + 64 * k) / 65536 = 1 ∨ (0x10000 + 64 * k) / 65536 = 2
  omega
theorem image_dir {k : Nat} (hk : k < 1440) (q : Seq) (m : SMap Stack) :
    (imgS (imgG []) q m).dirOf ((imgP k).2 / 65536) = { DirEntry.free with state := 1, ktag := 1, skind := 2 } := by
  rcases image_frame hk with h | h <;> rw [h] <;> rfl
theorem image_stack {k : Nat} (hk : k < 1440) (q : Seq) (m : SMap Stack) : (imgS (imgG []) q m).homeStack (imgP k).2 = 0 := by
  simp only [State.homeStack, image_dir hk]
  show ([0] : List Nat).getD (_ % 1) 0 = 0
  rw [Nat.mod_one]
  rfl
theorem image_verdict {k : Nat} (hk : k < 1440) (q : Seq) (m : SMap Stack) (a : Acc) (w : List (Nat × Nat)) :
    laneVerdict (imgS (imgG []) q m) 0 (imgG []) (imgAdr (imgP k)) 64 a w = .ok := by
  have p : poisonStops (imgS (imgG []) q m) (imgP k).2 64 w = false := rfl
  have h : homeCheck (imgS (imgG []) q m) (imgAdr (imgP k)) 64 w = .ok := by
    simp only [homeCheck, show (imgAdr (imgP k)).addr = (imgP k).2 from rfl, image_dir hk, image_stack hk, p]
    rw [if_neg (image_here hk)]
    simp [imgAdr, DirEntry.free, imgS, withM, withG, State.reset]
  rw [laneVerdict, h]
theorem image_homes {k : Nat} (hk : k < 1440) (q : Seq) (m : SMap Stack) (a : Acc) (ha : a = .store ∨ a = .load) (w : List (Nat × Nat)) :
    ∃ m', laneHome (imgS (imgG []) q m) 0 (imgG []) (imgAdr (imgP k)) 64 a w = (.ok, imgS (imgG []) q m') := by
  rcases ha with rfl | rfl
  · refine ⟨m, ?_⟩
    have z : sense (imgS (imgG []) q m) (imgAdr (imgP k)).addr 64 w = imgS (imgG []) q m := rfl
    simp only [laneHome, show coreOfGid 0 = 0 from rfl, show (Acc.store == Acc.load) = false from rfl, Bool.false_and, Bool.false_eq_true, if_false, z,
      image_verdict hk q m .store w]
    rfl
  · refine ⟨(openRow (imgS (imgG []) q m) (imgP k).2 64).memStacks, ?_⟩
    have z : sense (imgS (imgG []) q m) (imgAdr (imgP k)).addr 64 w = imgS (imgG []) q m := rfl
    have l : l1Has (imgS (imgG []) q m) 0 (imgG []) (imgAdr (imgP k)) 64 = false := rfl
    simp only [laneHome, show coreOfGid 0 = 0 from rfl, l, Bool.and_false, Bool.false_eq_true, if_false, z, image_verdict hk q m .load w]
    show ((.ok, openRow (imgS (imgG []) q m) (imgP k).2 64) : Verdict × State) = _
    refine Prod.ext rfl ?_
    unfold openRow
    split <;> rfl
theorem image_check (a : Acc) (ha : a = .store ∨ a = .load) : leafCheck imgCtx imgTlb.leaf 1 a true = none := by rcases ha with rfl | rfl <;> decide
theorem image_resolve {k : Nat} (hk : k < 1440) (q : Seq) (m : SMap Stack) :
    resolve (imgS (imgG []) q m) 0 imgCtx (imgG []) 0 (imgP k).2 64 false = .virt (imgP k).2 false := by
  rw [resolve, if_neg (show ¬ 2 ^ 56 ≤ (imgP k).2 by show ¬ 72057594037927936 ≤ 0x10000 + 64 * k; omega),
    if_pos (show (imgP k).2 < winRegion by show 0x10000 + 64 * k < 0x00FFF00000000000; omega)]
theorem find_one {α : Type} {p : α → Bool} {x : α} {l : List α} (e : l = [x]) (h : p x = true) : l.find? p = some x := e ▸ List.find?_cons_of_pos h
theorem lookup_first {s : State} {va : Nat} {t : TlbEntry} (h : List.find? (fun t : TlbEntry => t.hits 1 va false) (s.coreOf 0).tlb = some t) :
    tlbLookup s (some 0) (some 0) 1 va false = some t := by simp only [tlbLookup, h]
theorem image_lookup {k : Nat} (hk : k < 1440) (q : Seq) (m : SMap Stack) : tlbLookup (imgS (imgG []) q m) (some 0) (some 0) 1 (imgP k).2 false = some imgTlb := by
  have : imgTlb.hits 1 (imgP k).2 false = true := by
    rw [TlbEntry.hits, show imgTlb.level = 1 from rfl, image_page hk]
    decide
  exact lookup_first (find_one rfl this)
theorem image_install {k : Nat} (hk : k < 1440) (v : Bool) (m : SMap Stack) :
    tlbInstall (imgS (imgG []) (imgQ v) m) (some 0) (some 0) 1 (imgP k).2 1 imgTlb.leaf = imgS (imgG []) (imgQ v) m := by
  have h : tlbInstall (imgS (imgG []) (imgQ v)) (some 0) (some 0) 1 (imgP k).2 1 imgTlb.leaf = imgS (imgG []) (imgQ v) := by
    simp only [tlbInstall, image_page hk]
    cases v <;> decide +kernel
  show ({ imgS (imgG []) (imgQ v) m with
    cores := (tlbInstall (imgS (imgG []) (imgQ v)) (some 0) (some 0) 1 (imgP k).2 1 imgTlb.leaf).cores,
    clusters := (tlbInstall (imgS (imgG []) (imgQ v)) (some 0) (some 0) 1 (imgP k).2 1 imgTlb.leaf).clusters } : State) = _
  rw [h]
  rfl
theorem image_leaf {k : Nat} (hk : k < 1440) (q : Seq) (m : SMap Stack) : leafAddr (imgS (imgG []) q m) 1 imgCtx (imgP k).2 1 imgTlb.leaf = imgAdr (imgP k) := by
  have o : (imgP k).2 % pageBytes 1 = (imgP k).2 := Nat.mod_eq_of_lt (by show 0x10000 + 64 * k < 67108864; omega)
  simp only [leafAddr, o]
  show ({ place := .glob, addr := 0 * 65536 + (imgP k).2, key := 1, gc := 0, cp := 0, rep := none, va := _, ctx := 1 } : GAddr) = _
  rw [Nat.zero_mul, Nat.zero_add]
  rfl
theorem translate_hit {s : State} {c : Ctx} {va : Nat} {acc : Acc} {t : TlbEntry} (h1 : tlbLookup s (some 0) (some 0) 1 va (c.kind == 0) = some t)
    (h2 : leafCheck c t.leaf t.level acc true = none) :
    translate s (some 0) (some 0) 1 c va acc true = (.ok (leafAddr s 1 c va t.level t.leaf) t.level 0, tlbInstall s (some 0) (some 0) 1 va t.level t.leaf) := by
  simp only [Machine.translate, h1, h2]
theorem image_trans (a : Acc) (ha : a = .store ∨ a = .load) (v : Bool) {k : Nat} (hk : k < 1440) (m : SMap Stack) :
    translate (imgS (imgG []) (imgQ v) m) (some 0) (some 0) 1 imgCtx (imgP k).2 a true = (.ok (imgAdr (imgP k)) 1 0, imgS (imgG []) (imgQ v) m) := by
  rw [translate_hit (t := imgTlb) (by exact image_lookup hk _ _) (image_check a ha)]
  exact Prod.ext (congrArg (Trans.ok · 1 0) (image_leaf hk _ m)) (image_install hk v m)
theorem image_reach {k : Nat} (hk : k < 1440) (q : Seq) (m : SMap Stack) : reach (imgS (imgG []) q m) 1 (some 0) (imgP k).2 = imgS (imgG []) q m := by
  have h9 : [1, 2].contains ((imgP k).2 / 65536) = true := by rcases image_frame hk with h | h <;> rw [h] <;> rfl
  rw [reach, if_neg (image_here hk)]
  simp only [image_stack hk]
  have c : (imgS (imgG []) q m).modCtx 1 (fun c => { c with touched := c.touched ||| BitVec.twoPow 144 (72 + 0) }) = imgS (imgG []) q m := by
    have : SMap.alter (imgS (imgG []) Seq.init).ctxs 1 (fun c => { c with touched := c.touched ||| BitVec.twoPow 144 (72 + 0) }) = (imgS (imgG []) Seq.init).ctxs := by decide +kernel
    show ({ imgS (imgG []) q m with
      ctxs := SMap.alter (imgS (imgG []) Seq.init).ctxs 1 (fun c => { c with touched := c.touched ||| BitVec.twoPow 144 (72 + 0) }) } : State) = _
    rw [this]
    rfl
  rw [c, remapFill, show ((imgS (imgG []) q m).clusterOf 0).remap = [1, 2] from rfl, h9]
  rfl
theorem target_hit {s s₁ s₂ s₃ : State} {g : Group} {c : Ctx} {ptr va n level : Nat} {entry : DWord} {acc : Acc} {x : GAddr} {ws : List (Nat × Nat)}
    (h1 : resolve s 0 c g 0 ptr n false = .virt va false)
    (h2 : translate s (some 0) (some 0) g.ctx c va acc g.sup = (.ok x level entry, s₁)) (h3 : reach s₁ g.ctx (some 0) x.addr = s₂) (h4 : repFault s₂ 0 x = none)
    (h5 : laneHome s₂ 0 g x n acc (lineWrites (s₂.unitAt x.addr) acc ws ptr x.addr) = (.ok, s₃)) :
    laneTarget s 0 g c 0 ptr n acc false ws = (.ok x, s₃) := by
  simp only [laneTarget, show coreOfGid 0 = 0 from rfl, show clusterOfCore 0 = some 0 from rfl, h1, h2, h3, h4, h5]
/-- So a line's access changes no more than the open rows. -/
theorem image_still (a : Acc) (ha : a = .store ∨ a = .load) (v : Bool) {k : Nat} (hk : k < 1440) (m : SMap Stack) (ws : List (Nat × Nat)) :
    ∃ m', laneTarget (imgS (imgG []) (imgQ v) m) 0 (imgG []) imgCtx 0 (imgP k).2 64 a false ws = (.ok (imgAdr (imgP k)), imgS (imgG []) (imgQ v) m') := by
  obtain ⟨m', h⟩ := image_homes hk (imgQ v) m a ha
    (lineWrites ((imgS (imgG []) (imgQ v) m).unitAt (imgAdr (imgP k)).addr) a ws (imgP k).2 (imgAdr (imgP k)).addr)
  exact ⟨m', target_hit (image_resolve hk (imgQ v) m) (image_trans a ha v hk m) (image_reach hk (imgQ v) m) rfl h⟩
/-- Every access of the image's lines. -/
def imgOk : List (Nat × GAddr) := (List.range 1440).map (fun k => (0, imgAdr (imgP k)))
theorem imgOk_at {x : Nat × GAddr} (h : x ∈ imgOk) : ∃ k < 1440, x = (0, imgAdr (imgP k)) := by
  obtain ⟨k, hk, rfl⟩ := List.mem_map.1 h
  exact ⟨k, List.mem_range.1 hk, rfl⟩
theorem keep_free {r : Lanes} {g : Group} {n : Nat} {a : Acc} (h : r.stall = false) (q : r.s.homeQ = []) : r.keep 0 g n a = r := by
  cases r with | mk ok bad stall walks s =>
  simp only at h q
  subst h
  simp only [Lanes.keep, q, Bool.false_and, Bool.false_eq_true, if_false, List.filter_nil]
  congr 1
  cases s
  simp only at q
  rw [q]
theorem image_access (a : Acc) (ha : a = .store ∨ a = .load) (v : Bool) :
    ∃ m, Access (imgS (imgG []) (imgQ v)) 0 (imgG []) 64 a false ((List.range 1440).map imgP) imgOk (imgS (imgG []) (imgQ v) m) := by
  have hc : (imgS (imgG []) (imgQ v)).ctxOf? (imgG []).ctx = some imgCtx := by cases v <;> decide
  let ws : Nat × Nat → List (Nat × Nat) := fun p => lanesWith 64 ((List.range 1440).map imgP) p.2
  have go : ∀ n ≤ 1440, ∃ m, ((List.range n).map imgP).foldl
      (fun (r : Lanes) p => r.add p.1 (laneTarget r.s 0 (imgG []) imgCtx p.1 p.2 64 a false (ws p))) (Lanes.start (imgS (imgG []) (imgQ v)) false) =
      { ok := (List.range n).map (fun k => (0, imgAdr (imgP k))), bad := [], stall := false, walks := false, s := imgS (imgG []) (imgQ v) m } := by
    intro n
    induction n with
    | zero => exact fun _ => ⟨[], rfl⟩
    | succ n ih =>
      intro hn
      obtain ⟨m, hm⟩ := ih (by omega)
      obtain ⟨m', h⟩ := image_still a ha v (show n < 1440 by omega) m (ws (imgP n))
      refine ⟨m', ?_⟩
      simp only [List.range_succ, List.map_append, List.foldl_append]
      rw [hm]
      simp only [List.map_cons, List.map_nil, List.foldl_cons, List.foldl_nil, show (imgP n).1 = 0 from rfl, h, Lanes.add]
  obtain ⟨m, h⟩ := go 1440 (Nat.le_refl _)
  refine ⟨m, ?_, ?_, ?_⟩
  · intro x hx
    obtain ⟨k, _, rfl⟩ := List.mem_map.1 hx
    show (0x10000 + 64 * k) % 64 = 0
    omega
  · simp only [lanesGo, hc]
    exact (congrArg (fun r => Lanes.keep r 0 (imgG []) 64 a) h).trans (keep_free rfl rfl)
  · intro x hx
    obtain ⟨k, hk, rfl⟩ := imgOk_at hx
    show (0x10000 + 64 * k) % 64 = 0
    omega
/-- msave's image, every line of which is a global one; mrest's, which reads as zeros: a sequencer after reset. -/
theorem witness_SequencerSaveAndRestore_image :
    (∃ s₁, Access ((imgS (imgG []) (imgQ false)).setSeq 0 { imgQ false with saving := 1 }) 0 (imgG []) 64 .store false ((List.range 1440).map imgP) imgOk s₁) ∧
    (∀ x ∈ imgOk, x.2.place = .glob) ∧
    (∃ s₁, Access (imgS (imgG []) (imgQ false)) 0 (imgG []) 64 .load false ((List.range 1440).map imgP) imgOk s₁ ∧
      ∀ x ∈ imgOk, Settled s₁ 0 (imgG []) 64 x.2 ∧ Uncached s₁ 0 x.2) := by
  obtain ⟨m, h⟩ := image_access .load (.inr rfl) false
  obtain ⟨m', h'⟩ := image_access .store (.inl rfl) true
  refine ⟨⟨_, h'⟩, ?_, _, h, ?_⟩
  · intro x hx
    obtain ⟨k, hk, rfl⟩ := imgOk_at hx
    rfl
  · intro x hx
    obtain ⟨k, hk, rfl⟩ := imgOk_at hx
    have f : frameCxl (imgS (imgG []) (imgQ false) m) (imgP k).2 = none := by
      simp only [frameCxl, State.fmtAt, image_dir hk]
      rfl
    have o : frontierOther (imgS (imgG []) (imgQ false) m) (imgG []).alias (imgAdr (imgP k)) = false := by
      have v : (imgAdr (imgP k)).va.toNat = 0x10000 + 64 * k := by
        show (BitVec.ofNat 64 (0x10000 + 64 * k)).toNat = _
        rw [BitVec.toNat_ofNat, Nat.mod_eq_of_lt (by omega)]
      simp only [frontierOther, show (imgS (imgG []) (imgQ false) m).ctxOf? (imgAdr (imgP k)).ctx = some imgCtx from rfl, v,
        show imgCtx.spillBase.toNat = 0x2000000 from rfl]
      have : decide (0x2000000 ≤ 0x10000 + 64 * k) = false := decide_eq_false (by omega)
      simp only [this, Bool.and_false, Bool.false_and]
    exact ⟨⟨rfl, o, fun _ => ⟨rfl, f, rfl⟩⟩, fun _ => rfl⟩
/-- The handler's descriptor, at 0x10040: context `n` of a kernel's kind; a context of that kind that is live, and one more than may be. -/
def descG (w : Wait) (n : Word) : Group := (kernG w).setS 10 n
def liveCtx : Ctx := { demoCtx with ckey := 0, world := 0, kind := 0 }
def descS (g : Group) (n : Byte) (cs : SMap Ctx) : State := { onSvc g [(0x20040, n)] with ctxs := (1, demoCtx) :: cs }
def manyCtxs : SMap Ctx := (List.range' 2 4094).map (fun k => (k + 1, demoCtx))
/-- The operands of ctxld: scalar 40, the address or context in scalar 10. -/
def ldO : Ops := frm 0 40 10 10 0 7
/-- A handler reads a descriptor of a context that is not live, with room and without; of one that is; one that names context 0. -/
theorem witness_ContextsAreLoadedAndTornDown :
    (∀ x ∈ [((2 : Byte), [(3, liveCtx)]), (3, [(3, liveCtx)]), (0, [])],
      let s := descS (descG .none 0x10040) x.1 x.2
      let l := lanesGo s svc (descG .none 0x10040) 64 .load false [(0, 0x10040)]
      Issues s svc (descG .none 0x10040) demoC ∧ illOf (descG .none 0x10040) demoC [.sd false ldO.d, .ss true ldO.a] = none ∧
      (active (descG .none 0x10040) demoC ldO).getLsbD 0 = true ∧ (waitOf (descG .none 0x10040) demoC 17 0).kind = 0 ∧ CtrRoom (descG .none 0x10040) ldO.ctr ∧ (sca (descG .none 0x10040) true ldO.a).toNat = 0x10040 ∧ storesDone s svc (descG .none 0x10040) = true ∧
      l.bad = [] ∧ l.stall = false ∧ l.walks = false ∧ l.ok.length = 1 ∧ (∀ y ∈ l.ok, y.2.addr % 64 = 0 ∧ Settled l.s svc (descG .none 0x10040) 64 y.2 ∧ Uncached l.s svc y.2 ∧
        descOk s (BitVec.ofNat 512 (leNat (readPlace s y.2.place y.2.addr 64))) = (x.1 != 0)) ∧ (l.s.ctxs.filter (fun e => e.1 ≠ 0)).length < 4095) ∧
    (descS (descG .none 0x10040) 2 [(3, liveCtx)]).ctxOf? 2 = none ∧ ((descS (descG .none 0x10040) 3 [(3, liveCtx)]).ctxOf? 3).isSome = true ∧
    isService (coreOfGid svc) = true ∧ (descG .none 0x10040).sup = true := by
  refine ⟨?_, by decide +kernel, by decide +kernel, by decide, by decide⟩
  intro x hx
  simp only [List.mem_cons, List.not_mem_nil, or_false] at hx
  unfold Settled Uncached CtrRoom
  rcases hx with rfl | rfl | rfl <;>
    exact ⟨⟨rfl, rfl, rfl⟩, by decide +kernel⟩
def reached : Ctx := { demoCtx with touched := demoCtx.touched ||| BitVec.twoPow 144 72 }
def descA : GAddr := { place := .glob, addr := 0x20040, key := 1, gc := 0, cp := 0, rep := none, va := 0x10040, ctx := 1 }
def descX (cs : SMap Ctx) : State := { descS (descG .none 0x10040) 2 [] with ctxs := cs }
theorem desc_resolve (cs) : resolve (descX cs) 1152 demoCtx (descG .none 0x10040) 0 0x10040 64 false = .virt 0x10040 false := rfl
theorem desc_translate (cs) : translate (descX cs) (some 1152) none 1 demoCtx 0x10040 .load true = (.ok descA 0 0, descX cs) := by
  have : (translate (descX []) (some 1152) none 1 demoCtx 0x10040 .load true) = (.ok descA 0 0, descX []) := by decide +kernel
  exact Prod.ext (congrArg (·.1) this : _) (congrArg (fun x => { x.2 with ctxs := cs }) this)
theorem desc_reach (cs) : reach (descX ((1, demoCtx) :: cs)) 1 none 0x20040 = descX ((1, reached) :: cs) := by
  have : (reach (descX [(1, demoCtx)]) 1 none 0x20040).ctxs = [(1, reached)] := by decide +kernel
  exact congrArg (fun x : SMap Ctx => descX (x ++ cs)) this
theorem desc_home (cs : SMap Ctx) : laneHome (descX cs) svc (descG .none 0x10040) descA 64 .load [] = (.ok, openRow (descX cs) 0x20040 64) := by
  have z : sense (descX cs) descA.addr 64 [] = descX cs := rfl
  have l : l1Has (descX cs) 1152 (descG .none 0x10040) descA 64 = false := rfl
  have v : laneVerdict (descX cs) 1152 (descG .none 0x10040) descA 64 .load [] = .ok := by
    have c : homeCheck (descX []) descA 64 [] = .ok := by decide +kernel
    have : homeCheck (descX cs) descA 64 [] = homeCheck (descX []) descA 64 [] := by
      simp only [homeCheck, show (descX cs).dirOf (descA.addr / 65536) = (descX []).dirOf (descA.addr / 65536) from rfl,
        show (descX cs).lost = (descX []).lost from rfl, show poisonStops (descX cs) descA.addr 64 [] = poisonStops (descX []) descA.addr 64 [] from rfl,
        show (descX cs).homeStack descA.addr = (descX []).homeStack descA.addr from rfl]
    rw [laneVerdict, this, c]
  simp only [laneHome, show coreOfGid svc = 1152 from rfl, l, Bool.and_false, Bool.false_eq_true, if_false, z, v]
  rfl
theorem desc_row (cs : SMap Ctx) : (openRow (descX cs) 0x20040 64).ctxs = cs ∧ (openRow (descX cs) 0x20040 64).homeQ = [] := by
  unfold openRow
  split <;> exact ⟨rfl, rfl⟩
theorem desc_ctxs (cs : SMap Ctx) :
    (lanesGo (descX ((1, demoCtx) :: cs)) svc (descG .none 0x10040) 64 .load false [(0, 0x10040)]).s.ctxs = (1, reached) :: cs := by
  have t : laneTarget (descX ((1, demoCtx) :: cs)) svc (descG .none 0x10040) demoCtx 0 0x10040 64 .load false (lanesWith 64 [(0, 0x10040)] 0x10040) =
      (.ok descA, openRow (descX ((1, reached) :: cs)) 0x20040 64) := by
    have h : coreOfGid svc = 1152 := rfl
    simp only [laneTarget, desc_resolve, show clusterOfCore 1152 = none from rfl, h,
      show (descG .none 0x10040).ctx = 1 from rfl, show (descG .none 0x10040).sup = true from rfl, desc_translate, show descA.addr = 0x20040 from rfl, desc_reach]
    simp only [show repFault (descX ((1, reached) :: cs)) svc descA = none from rfl, lineWrites, desc_home]
  simp only [lanesGo, show (descX ((1, demoCtx) :: cs)).ctxOf? (descG .none 0x10040).ctx = some demoCtx from rfl, List.foldl_cons, List.foldl_nil,
    show (Lanes.start (descX ((1, demoCtx) :: cs)) false).s = descX ((1, demoCtx) :: cs) from rfl, t]
  obtain ⟨h1, h2⟩ := desc_row ((1, reached) :: cs)
  simp only [Lanes.add, Lanes.start, Lanes.keep, Bool.false_and, Bool.false_eq_true, if_false, h1]
theorem desc_state (cs : SMap Ctx) : descX ((1, demoCtx) :: cs) = descS (descG .none 0x10040) 2 cs := rfl
/-- All 4,095 contexts live. -/
theorem witness_ContextsAreLoadedAndTornDown_full :
    let s := descS (descG .none 0x10040) 2 manyCtxs
    let l := lanesGo s svc (descG .none 0x10040) 64 .load false [(0, 0x10040)]
    l.s.ctxs = (1, reached) :: manyCtxs ∧ 4095 ≤ (((1, reached) :: manyCtxs).filter (fun e => e.1 ≠ 0)).length := by
  have h := desc_ctxs manyCtxs
  rw [desc_state] at h
  refine ⟨h, ?_⟩
  rw [List.filter_eq_self.2]
  · simp [manyCtxs]
  · intro e he
    rcases List.mem_cons.1 he with rfl | h
    · decide
    · obtain ⟨k, _, rfl⟩ := List.mem_map.1 h
      exact decide_eq_true (Nat.succ_ne_zero k)
/-- A ctxld that has waited with its descriptor; a teardown of context 0, of one that is not live, of a live one, and after its wait. -/
theorem witness_ContextsAreLoadedAndTornDown_end :
    (let w : Wait := { wait7 with payload := descWords 3 }
     ReadySys (descS (descG w 0x10040) 0 [(3, liveCtx)]) svc (descG w 0x10040) demoC isService [.sd false ldO.d, .ss true ldO.a] ∧ active (descG w 0x10040) demoC ldO ≠ 0 ∧
     (waitOf (descG w 0x10040) demoC 17 0).kind ≠ 0 ∧ CtrRoom (descG w 0x10040) ldO.ctr ∧
     (descS (descG w 0x10040) 0 [(3, liveCtx)]).ctxOf? ((wordsDesc (waitOf (descG w 0x10040) demoC 17 0).payload).extractLsb' 0 16).toNat = some liveCtx) ∧
    (∀ w ∈ [Wait.none, wait7], ∀ n ∈ [(0 : Word), 2, 3],
      ReadySys (descS (descG w n) 0 [(3, liveCtx)]) svc (descG w n) demoC isService [.sd false ldO.d, .ss false ldO.b] ∧ active (descG w n) demoC ldO ≠ 0 ∧
      ((low (sca (descG w n) false ldO.b)).extractLsb' 0 16) = n.extractLsb' 0 16) ∧
    (waitOf (descG wait7 3) demoC 17 0).kind ≠ 0 ∧ (waitOf (descG .none 3) demoC 17 0).kind = 0 ∧ CtrRoom (descG wait7 3) ldO.ctr ∧ (descS (descG .none 3) 0 [(3, liveCtx)]).ctxOf? 2 = none ∧
    (descS (descG .none 3) 0 [(3, liveCtx)]).ctxOf? 3 = some liveCtx ∧ (descG .none 3).ctx ≠ 3 := by
  unfold CtrRoom
  refine ⟨⟨⟨⟨rfl, rfl, rfl⟩, by decide, rfl, by decide⟩, by decide, by decide +kernel⟩, ?_, by decide +kernel⟩
  intro w hw n hn
  simp only [List.mem_cons, List.not_mem_nil, or_false] at hw hn
  rcases hw with rfl | rfl <;> rcases hn with rfl | rfl | rfl <;> exact ⟨⟨⟨rfl, rfl, rfl⟩, by decide, rfl, by decide⟩, by decide, by decide⟩

def wait8 : Wait := { Wait.none with kind := 18, ipc := demoC.ipc }
/-- wfi: nothing in the rings; an entry in one; the wake flag of the core. A core of each kind, when the configuration enables it; the last of each. -/
def sipiG (n : Word) : Group := (kernG .none).setS 8 n
def wakeS (g : Group) (ring wake : Bool) : State :=
  let s := onSvc g []
  { s with evq := { s.evq with tail := if ring then s.evq.head + 64 else s.evq.head }, cores := [(1152, { CoreSt.init with wake := wake })] }
theorem witness_WaitsForInterruptsAndSignals :
    (∀ ring ∈ [true, false], ∀ wake ∈ [true, false], ∀ w ∈ [Wait.none, wait8], ReadySys (wakeS (kernG w) ring wake) svc (kernG w) demoC isService []) ∧
    active (kernG .none) demoC sysO ≠ 0 ∧ active (kernG .none) demoC { sysO with g := true, gp := 31 } = 0 ∧
    (let s := wakeS (kernG .none) true false; s.evq.head ≠ s.evq.tail) ∧ ((wakeS (kernG .none) false true).coreOf (coreOfGid svc)).wake = true ∧
    (let s := wakeS (kernG .none) false false
     s.fr.head = s.fr.tail ∧ s.hfq.head = s.hfq.tail ∧ s.evq.head = s.evq.tail ∧ (s.coreOf (coreOfGid svc)).wake = false) ∧
    (waitOf (kernG wait8) demoC 18 0).kind ≠ 0 ∧ (waitOf (kernG .none) demoC 18 0).kind = 0 ∧
    (∀ n ∈ [(0 : Word), 1151, 1152, 1351], ReadySys (wakeS (sipiG n) false false) svc (sipiG n) demoC isService [.sd false sysO.d, .ss false sysO.a, .ss false sysO.b] ∧
      active (sipiG n) demoC sysO ≠ 0 ∧ CtrRoom (sipiG n) sysO.ctr ∧ low (sca (sipiG n) false sysO.a) = n) ∧
    (wakeS (sipiG 0) false false).coreEnabled 1152 = true ∧ (wakeS (sipiG 0) false false).coreEnabled 1351 = true ∧
    (wakeS (sipiG 0) false false).coreEnabled 1352 = false ∧
    ∀ n < 1152, (wakeS (sipiG 0) false false).coreEnabled n = Config.enabledCores.getLsbD n := by
  refine ⟨?_, by decide, by decide, by decide, by decide, by decide, by decide, by decide, ?_, by decide, by decide, by decide, ?_⟩
  · intro ring hr wake hw w hx
    exact ⟨⟨rfl, rfl, rfl⟩, by decide, rfl, rfl⟩
  · intro n hn
    unfold CtrRoom
    simp only [List.mem_cons, List.not_mem_nil, or_false] at hn
    rcases hn with rfl | rfl | rfl | rfl <;> exact ⟨⟨⟨rfl, rfl, rfl⟩, by decide, rfl, by decide⟩, by decide, by decide⟩
  · intro n hn
    show (if n < 1152 then Config.enabledCores.getLsbD n && !(0 : BitVec 144).getLsbD (n / 16) else _) = _
    rw [if_pos hn]
    simp

/-! ## Control registers -/

/-- An access of control register `n`: from or to register 40 (vector 40 for a register held per lane), with scalar or vector 8 as the source. -/
def csrO (n : Nat) : Ops := frm 0 40 8 (BitVec.ofNat 8 n) (BitVec.ofNat 8 (n / 256)) 0
/-- A user, a handler, a handler in its RESTORE entry; on compute core 0 in a team, or on a service core. -/
def csrG (sup restore : Bool) : Group :=
  { memG.setS 8 5 with sup := sup, trec := if restore then 0x11 else 0 }
def csrSvc (sup : Bool) : Group := { csrG sup false with team := none }
/-- Registers that exist and do not, in either mode and in either place, with operands that fit; one that does not fit; one that a user may not name. -/
theorem witness_ControlRegisterTraps :
    (∀ sup ∈ [true, false], Issues (withM (csrG sup false) []) 0 (csrG sup false) demoC ∧ Issues (onSvc (csrSvc sup) []) svc (csrSvc sup) demoC) ∧
    Enters (withM (csrG false false) []) (csrG false false) ∧ Enters (onSvc (csrSvc false) []) (csrSvc false) ∧
    (∀ x ∈ csrRows (csrO 0x1CC), (csrFits (csrO 0x1CC) x.2 = true ∧ ¬ NoCsr (csrSvc false) (coreOfGid svc) 0x1CC x.2 ∧ 2 ≤ (csrAccess 0x1CC x.2).1)) ∧
    NoCsr (csrG true false) (coreOfGid 0) 0x1CC false ∧ NoCsr (csrG true false) 0 0x00C false ∧ NoCsr (csrSvc true) 1152 0x130 true ∧ NoCsr (csrG false false) 0 0x10A true ∧
    NoCsr (csrG true false) 0 0x002 true ∧ csrFits { csrO 0x100 with nw := true } false = false ∧ csrOpd { csrO 0x000 with d := 0x40 } false = .sd false 0x40 ∧
    Illegal (csrG false false) demoC (.sd false 0x40) ∧ csrOpd (csrO 0x1CC) true = .ss false 8 ∧ ¬ Illegal (csrSvc false) demoC (.ss false 8) ∧
    csrOpd (csrO 0x1CC) false = .sd false 40 ∧ ¬ Illegal (csrSvc false) demoC (.sd false 40) := by
  unfold NoCsr Illegal
  refine ⟨?_, ⟨rfl, rfl, rfl, by decide⟩, ⟨rfl, rfl, rfl, by decide⟩, ?_, by decide +kernel, by decide +kernel, by decide +kernel, by decide +kernel, by decide +kernel,
    by decide, by decide, by decide, by decide, by decide, by decide, by decide⟩
  · intro sup hs
    exact ⟨⟨rfl, rfl, rfl⟩, ⟨rfl, rfl, rfl⟩⟩
  · intro x hx
    refine ⟨?_, ?_⟩ <;> revert x <;> decide
/-- The numbers of every register that is read, at its first and last word. -/
def readCsrs : List Nat :=
  (csrTable.filter (fun e => e.2.2.1 ≠ 0)).flatMap (fun e => [e.1, e.1 + e.2.1 - 1])
def writtenCsrs : List Nat :=
  (csrTable.filter (fun e => e.2.2.2.1 ≠ 0)).flatMap (fun e => [e.1, e.1 + e.2.1 - 1])
theorem readyCsr_demo {g : Group} {n : Nat} {write : Bool} (h : g.clause = some demoC) (h1 : csrFits (csrO n) write = true) (h2 : 2 ≤ (csrAccess (csrO n).csr write).1 → g.sup = true)
    (h3 : ¬ NoCsr g 0 (csrO n).csr write) (h4 : opTrap g demoC (active g demoC (csrO n)) [csrOpd (csrO n) write] = none) :
    ReadyCsr (withM g demoBytes) 0 g demoC (csrO n) write := ⟨⟨rfl, rfl, h⟩, h3, h2, h1, h4⟩
theorem readyCsr_svc {s : State} {g : Group} {n : Nat} {write : Bool} (h : Issues s svc g demoC) (h1 : csrFits (csrO n) write = true) (h2 : 2 ≤ (csrAccess (csrO n).csr write).1 → g.sup = true)
    (h3 : ¬ NoCsr g 1152 (csrO n).csr write) (h4 : opTrap g demoC (active g demoC (csrO n)) [csrOpd (csrO n) write] = none) :
    ReadyCsr s svc g demoC (csrO n) write := ⟨h, by rw [show coreOfGid svc = 1152 by decide]; exact h3, h2, h1, h4⟩
theorem witness_ControlRegisterReads :
    (∀ n ∈ readCsrs.filter (fun n => n < 0x1CC), ReadyCsr (withM (csrG true false) demoBytes) 0 (csrG true false) demoC (csrO n) false) ∧
    (∀ n ∈ readCsrs.filter (fun n => n < 0x130 ∨ 0x138 ≤ n), ReadyCsr (onSvc (csrSvc true) []) svc (csrSvc true) demoC (csrO n) false) := by
  constructor
  · intro n hn
    refine readyCsr_demo rfl ?_ (fun _ => rfl) ?_ ?_ <;> (try unfold NoCsr) <;> revert n <;> decide +kernel
  · intro n hn
    refine readyCsr_svc ⟨rfl, rfl, rfl⟩ ?_ (fun _ => rfl) ?_ ?_ <;> (try unfold NoCsr) <;> revert n <;> decide +kernel
theorem witness_ControlRegisterWrites :
    (∀ n ∈ writtenCsrs.filter (fun n => n < 0x1CC), ReadyCsr (withM (csrG true true) demoBytes) 0 (csrG true true) demoC (csrO n) true) ∧
    (∀ n ∈ writtenCsrs.filter (fun n => n ≠ 2 ∧ n ≠ 3 ∧ (n < 0x130 ∨ 0x138 ≤ n)), ReadyCsr (onSvc (csrSvc true) []) svc (csrSvc true) demoC (csrO n) true) := by
  constructor
  · intro n hn
    refine readyCsr_demo rfl ?_ (fun _ => rfl) ?_ ?_ <;> (try unfold NoCsr) <;> revert n <;> decide +kernel
  · intro n hn
    refine readyCsr_svc ⟨rfl, rfl, rfl⟩ ?_ (fun _ => rfl) ?_ ?_ <;> (try unfold NoCsr) <;> revert n <;> decide +kernel
/-- A handler that looks at WAITST in a view; the suspended slot that it looks at waits. -/
def viewG (view : BitVec 3) (kind : Nat) (b : Option (DWord × Nat)) : Group :=
  { csrG true false with waitst := view.setWidth 32, bound := b, c0 := { Slot.empty with wait := { Wait.none with kind := kind } } }
theorem witness_ControlRegisterReads_views :
    (∀ view ∈ [(0 : BitVec 3), 1, 2, 3, 4, 7], ∀ kind ∈ [1, 4, 5], ∀ b ∈ [none, some ((0x3000 : DWord), 4)],
      Issues (withM (viewG view kind b) []) 0 (viewG view kind b) demoC ∧ ((viewG view kind b).waitst.extractLsb' 0 3).toNat = view.toNat ∧
      ((viewG view kind b).cslot (shownSlot (viewG view kind b))).wait.kind = kind) ∧
    (∀ k < 8, ((csrG true false).q k).port < 8) ∧ (csrG true false).queues.length = 8 ∧ (∀ k < 8, (0x00DB6DB6 : Word).extractLsb' (3 * k) 3 ≠ 7) ∧
    (csrG true false).team = some 3 ∧ SMap.find? (withM (csrG true false) []).teams 3 = some demoTeam := by
  refine ⟨?_, by decide, by decide, by decide, by decide, by decide⟩
  intro view hv kind hk b hb
  simp only [List.mem_cons, List.not_mem_nil, or_false] at hv hk hb
  rcases hv with rfl | rfl | rfl | rfl | rfl | rfl <;> rcases hk with rfl | rfl | rfl <;> rcases hb with rfl | rfl <;> exact ⟨⟨rfl, rfl, rfl⟩, by decide, by decide⟩
/-- TGTSEL on a service core: what exists and what does not. A core must be enabled besides. -/
def tgtS (t : DWord) : State := { onSvc (csrSvc true) [] with cores := [(1152, { CoreSt.init with tgtsel := t })] }
/-- User code reads its own core and context; a counter that has room; WAITST written with another slot, with the wait that it shows, and with another wait. -/
theorem witness_ControlRegisterReads_user :
    (∀ n ∈ [0x006, 0x00A, 0x010], ReadyCsr (withM (csrG false false) demoBytes) 0 (csrG false false) demoC (csrO n) false) ∧
    ctxNamed (tgtS 0x000004800048FFFF) (csrSvc true) 1152 = none ∧ (csrSvc true).sup = true ∧ CtrRoom (csrG true false) ((csrO 0x138).imm24.extractLsb' 21 3).toNat ∧
    (let g := viewG 0 4 none
     shownSlot g = 0 ∧ (g.cslot 0).wait.code = 4 ∧ (g.cslot 0).wait.target = 0 ∧ ((0x8 : Word).extractLsb' 3 1).toNat ≠ shownSlot g ∧
     ((0x40 : Word).extractLsb' 4 4).toNat = 4 ∧ ((0x50 : Word).extractLsb' 4 4).toNat ≠ 4) := by
  unfold CtrRoom
  refine ⟨?_, by decide⟩
  intro n hn
  refine readyCsr_demo rfl ?_ (fun h => absurd h ?_) ?_ ?_ <;> (try unfold NoCsr) <;> revert n <;> decide +kernel
theorem witness_ControlRegisterReads_targets :
    (∀ t ∈ [(0x0000000000470001 : DWord), 0x000004800048FFFF], Issues (tgtS t) svc (csrSvc true) demoC) ∧
    ctxNamed (tgtS 0x0000000000470001) (csrSvc true) 1152 = some 1 ∧ (tgtS 0x0000000000470001).ctxOf? 1 = some demoCtx ∧
    ctxNamed (tgtS 0x000004800048FFFF) (csrSvc true) 1152 = none ∧
    clusterNamed (tgtS 0x0000000000470001) 1152 = some 71 ∧ clusterNamed (tgtS 0x000004800048FFFF) 1152 = none ∧ coreNamed (tgtS 0x000004800048FFFF) 1152 = none ∧
    ctxNamed (withM (csrG true false) []) (csrG true false) 0 = some 1 ∧ clusterNamed (withM (csrG true false) []) 0 = some 0 ∧ coreNamed (withM (csrG true false) []) 0 = some 0 := by
  exact ⟨fun t _ => ⟨rfl, rfl, rfl⟩, by decide⟩
/-- Writes whose effect has conditions: QLEVEL within and beyond 32, LMASK with lanes left, GSAVE of 1 and of another value, with an empty and a filled queue; a table entry of the scratchpad. -/
theorem witness_RegistersWithWriteRules :
    (low (sca (csrG true true) false 8)).toNat ≤ 32 ∧ 32 < (low (sca ((csrG true true).setS 8 33) false 8)).toNat ∧ (csrG true true).qpopsel < (csrG true true).queues.length ∧
    (let g := (csrG true true).setS 8 4
     ReadyCsr (withM g demoBytes) 0 g demoC (csrO 2) true ∧ g.lmask &&& ~~~(g.lmask &&& ~~~(splice g.lmask 0 (low (sca g false 8)))) ≠ 0) ∧
    (∀ sq ∈ [[], [QEntry.treeArrive 0]], ∀ v ∈ [(1 : Word), 0],
      let g := { (csrG true false).setS 8 v with sq := sq }
      ReadyCsr (withM g demoBytes) 0 g demoC (csrO 0x12A) true ∧ g.leaving = false ∧ low (sca g false 8) = v ∧ active g demoC (csrO 0x12A) ≠ 0) := by
  refine ⟨by decide, by decide, by decide, ⟨readyCsr_demo rfl (by decide) (fun _ => rfl) (by unfold NoCsr; decide +kernel) (by decide), by decide⟩, ?_⟩
  intro sq hs v hv
  simp only [List.mem_cons, List.not_mem_nil, or_false] at hs hv
  rcases hs with rfl | rfl <;> rcases hv with rfl | rfl <;>
    exact ⟨readyCsr_demo rfl (by decide) (fun _ => rfl) (by unfold NoCsr; decide +kernel) (by decide), rfl, by decide, by decide⟩
/-- A handler that installs the kernel whose descriptor lies at an address: one that is not aligned, one beyond 56 bits, one that can be read. -/
def instG (v : Word) : Group := (csrG true false).setS 8 v
def instS (v hi : Word) : State := { withM (instG v) [(0x20040, 0x40)] with ctxs := [(1, { demoCtx with kinst1 := hi })] }
theorem witness_KernelsAreInstalled :
    (∀ x ∈ [((0x10041 : Word), (0 : Word)), (0x40, 0x1000000), (0x10040, 0)],
      ReadyCsr (instS x.1 x.2) 0 (instG x.1) demoC (csrO 0x1C8) true ∧ (csrO 0x1C8).csr = 0x1C8 ∧ ctxNamed (instS x.1 x.2) (instG x.1) (coreOfGid 0) = some 1 ∧
      (instS x.1 x.2).ctxOf? 1 = some { demoCtx with kinst1 := x.2 } ∧ (active (instG x.1) demoC (csrO 0x1C8)).getLsbD 0 = true ∧
      storesDone (instS x.1 x.2) 0 (instG x.1) = true ∧ (x.2 ++ low (sca (instG x.1) false 8)) = x.2 ++ x.1) ∧
    ((0 : Word) ++ (0x10041 : Word)).toNat % 64 ≠ 0 ∧ 2 ^ 56 ≤ ((0x1000000 : Word) ++ (0x40 : Word)).toNat ∧ storesDone (instS 0 0) 0 { instG 0 with sq := [.treeArrive 0] } = false ∧
    (let l := lanesGo (instS 0x10040 0) 0 (instG 0x10040) 64 .load false [(0, 0x10040)]
     Access (instS 0x10040 0) 0 (instG 0x10040) 64 .load false [(0, 0x10040)] l.ok l.s ∧ l.ok.length = 1 ∧
     ∀ y ∈ l.ok, Settled l.s 0 (instG 0x10040) 64 y.2 ∧ Uncached l.s 0 y.2) := by
  unfold Settled Uncached
  refine ⟨?_, by decide, by decide, by decide, access_of (by decide +kernel), by decide +kernel, by decide +kernel⟩
  intro x hx
  simp only [List.mem_cons, List.not_mem_nil, or_false] at hx
  rcases hx with rfl | rfl | rfl <;>
    exact ⟨⟨⟨rfl, rfl, rfl⟩, by unfold NoCsr; decide +kernel, fun _ => rfl, by decide, by decide⟩, by decide +kernel⟩

/-! ## What a core does by itself -/

/-- A group on the service core, about to issue the clause at `pc`. -/
def idleG (pc : DWord) : Group := { demoG with clause := none, s0 := { demoG.s0 with pc := pc } }
/-- A clause at 0x10000, whose header ends in byte `h`; sub-frames in frost. -/
def idleS (pc : DWord) (h : Byte) (frost : BitVec 16) : State :=
  { onSvc (idleG pc) [(0x20003, h)] with cur := none, dir := [(2, { DirEntry.free with state := 1, ktag := 1, skind := 2, frost := frost })] }
def idleY (pc : DWord) (islot : Nat) : Candidate := { gid := svc, g := idleG pc, ctx := demoCtx, choice := { k := 0, islot := islot, pass := 0, pslot := 0 } }
/-- The group alone in its partition: its clause stands, is ILLCLAUSE, lies in frost, or on a page that is not there. -/
theorem witness_ClausesIssue :
    (∀ x ∈ [((0x10000 : DWord), (0xE1 : Byte), (0 : BitVec 16), 0), (0x10000, 0xE0, 0, 3), (0x10000, 0xE1, 1, 3), (0x30000, 0xE1, 0, 3)],
      (idleS x.1 x.2.1 x.2.2.1).resetting = false ∧ (idleS x.1 x.2.1 x.2.2.1).coreEnabled 1152 = true ∧
      (∀ e ∈ (idleS x.1 x.2.1 x.2.2.1).groups, e.2.clause = none) ∧ candidates (idleS x.1 x.2.1 x.2.2.1) 1152 0 x.2.2.2 = [idleY x.1 x.2.2.2] ∧
      Enters (idleS x.1 x.2.1 x.2.2.1) (idleG x.1)) ∧
    (fetchClause (idleS 0x10000 0xE1 0) svc (idleG 0x10000) demoCtx 0x10000).1 = .ok 0xE1000000 [0] ∧ clauseIll 0xE1000000 [0] = false ∧
    (fetchClause (idleS 0x10000 0xE0 0) svc (idleG 0x10000) demoCtx 0x10000).1 = .ok 0xE0000000 [] ∧ clauseIll 0xE0000000 [] = true ∧
    (fetchClause (idleS 0x10000 0xE1 1) svc (idleG 0x10000) demoCtx 0x10000).1 = .wait ∧
    (fetchClause (idleS 0x30000 0xE1 0) svc (idleG 0x30000) demoCtx 0x30000).1 = .fault 0x0C 3 0 0 0 0x30000 0x30000 false := by
  refine ⟨?_, by decide +kernel⟩
  intro x hx
  refine ⟨rfl, ?_, ?_, ?_, ⟨rfl, rfl, rfl, ?_⟩⟩ <;> revert x <;> decide +kernel

/-- Fragment 0 waits with `w`. -/
def restG (w : Wait) : Group := { memG with clause := none, s0 := { memG.s0 with wait := w }, pending := [⟨3, [.v 2 8 7]⟩, ⟨0, [.flags 16]⟩] }
def restS (w : Wait) (m : SMap Byte) : State := { withM (restG w) m with cur := none, clock := 5000 }
theorem resting {w : Wait} {m : SMap Byte} (h : w.ended = false ∧ w.kind ≠ 0) : Waiting' (restS w m) 0 0 0 (restG w) :=
  ⟨by decide, by decide, rfl, by show (5 : DWord) ≠ 0; decide, h.1, h.2⟩
/-- Waits of every kind. A barrier object of another phase and of the same; a future that is unknown and so over; a slot of a mailbox whose word matches the ticket's lap, empty or full; deadlines before and after. -/
theorem witness_ResultsArriveAndWaitsEnd :
    (restG .none).pending[0]? = some ⟨3, [.v 2 8 7]⟩ ∧ (restG .none).pending[1]? = some ⟨0, [.flags 16]⟩ ∧
    (∀ k ∈ [1, 2, 3, 4, 5, 6, 17, 18], ∀ d ∈ [none, some 6000, some 5000], Waiting' (restS { Wait.none with kind := k, deadline := d } []) 0 0 0 (restG { Wait.none with kind := k, deadline := d })) ∧
    Over (restS { Wait.none with kind := 1 } []) 0 0 (restG { Wait.none with kind := 1 }) 5 { Wait.none with kind := 1 } ∧
    ¬ Over (restS { Wait.none with kind := 2 } []) 0 0 (restG { Wait.none with kind := 2 }) 5 { Wait.none with kind := 2 } ∧
    (let g := { restG { Wait.none with kind := 2 } with wp := 1 }
     Over { restS { Wait.none with kind := 2 } [] with groups := [(0, g)] } 0 0 g 5 { Wait.none with kind := 2 }) ∧
    (let g := restG { Wait.none with kind := 18 }
     Over { restS { Wait.none with kind := 18 } [] with cores := [(0, { CoreSt.init with wake := true })] } 0 0 g 5 { Wait.none with kind := 18 } ∧
     Waiting' (restS { Wait.none with kind := 18, deadline := some 6000 } []) 0 0 0 (restG { Wait.none with kind := 18, deadline := some 6000 })) ∧
    (5000 : Nat) < 6000 ∧ (5000 : Nat) ≤ 5000 := by
  refine ⟨rfl, rfl, ?_, .inl ⟨rfl, by decide⟩, ?_, .inr (.inl ⟨rfl, 3, demoTeam, rfl, rfl, by decide, by
      rintro (⟨m, c, i, h, _⟩ | ⟨e, h, _⟩) <;> exact nomatch h⟩),
    ⟨.inr (.inr (.inr (.inr ⟨rfl, .inr (.inr (.inr rfl))⟩))), resting (by decide)⟩, by decide, by decide⟩
  · intro k hk d _
    exact resting ⟨rfl, (by decide : ∀ k ∈ [1, 2, 3, 4, 5, 6, 17, 18], k ≠ 0) k hk⟩
  · rintro (⟨h, _⟩ | ⟨_, tid, t₀, h1, h2, h3, _⟩ | ⟨h, _⟩ | ⟨h, _⟩ | ⟨h, _⟩)
    · exact absurd h (by decide)
    · cases h1
      cases h2
      exact h3 rfl
    all_goals exact absurd h (by decide)
def ticketW (kind : Nat) : Wait := { Wait.none with kind := kind, ticket := some 0, hdr := 0x10000 }
theorem witness_ResultsArriveAndWaitsEnd_tickets :
    ∀ kind ∈ [4, 5], ∀ b ∈ [(0 : Byte), 1], let s := restS (ticketW kind) [(0x2007C, b)]
      let l := lanesGo s 0 (restG (ticketW kind)) 64 .acquire true [(0, slotAt 0x10000 0 0)]
      Waiting' s 0 0 0 (restG (ticketW kind)) ∧ Access s 0 (restG (ticketW kind)) 64 .acquire true [(0, slotAt (ticketW kind).hdr (ticketW kind).logn (0 : Word).toNat)] l.ok l.s ∧
      l.ok.length = 1 ∧ ∀ x ∈ l.ok, Settled l.s 0 (restG (ticketW kind)) 64 x.2 ∧ s.num (x.2.addr + 60) 4 = b.toNat := by
  intro kind hk b hb
  simp only [List.mem_cons, List.not_mem_nil, or_false] at hk hb
  unfold Settled
  rcases hk with rfl | rfl <;> rcases hb with rfl | rfl <;> exact ⟨resting (by decide), access_of (by decide +kernel), by decide +kernel, by decide +kernel⟩

/-- A mailbox on a page that is not there: the post's wait ends, and its instruction faults. -/
theorem witness_ResultsArriveAndWaitsEnd_fault :
    let w := { ticketW 4 with hdr := 0x30000 }
    Waiting' (restS w []) 0 0 0 (restG w) ∧ (lanesGo (restS w []) 0 (restG w) 64 .acquire true [(0, slotAt w.hdr w.logn 0)]).bad ≠ [] :=
  ⟨resting (by decide), by decide +kernel⟩

/-- A group that holds a trap of a cause for lane 2; its fragment waits with `w`. -/
def heldX (cause : Nat) : Held := { cause := cause, reason := 1, info := 7, mask := 4, cpc := 0x2000, ipc := 0x2004, idx := 0 }
def heldG (cause : Nat) (w : Wait) : Group := { restG w with held := [heldX cause] }
def heldS (g : Group) (pre : Bool) : State := { withM g [] with cur := none, teams := [(3, { demoTeam with preempt := pre })] }
/-- The same, parked for the parking that the held trap names. -/
def heldP : Group := { heldG 0x0D .none with s0 := parkedAt memG.s0 5 0x2000 0 7 0x2004 }
/-- An arrival beyond EXPARR for a waiting group and for one that is not, a held progress fault of a post, a cancelled parking. -/
theorem witness_IllbarrierDeliveryCompletes :
    ∀ x ∈ [(0x06, heldG 0x06 { Wait.none with kind := 2 }), (0x06, heldG 0x06 .none), (0x08, heldG 0x08 { Wait.none with kind := 4 }), (0x0D, heldP)],
      SMap.find? (heldS x.2 false).groups (64 * 0 + 0) = some x.2 ∧ x.2.clause = none ∧ x.2.halted = false ∧ Enters (heldS x.2 false) x.2 ∧
      x.2.held = heldX x.1 :: [] ∧ ((heldX x.1).cause = 0x08 → (x.2.slot 0).wait.kind = 4) ∧ DueAt x.2 (heldX x.1) 0 := by
  intro x hx
  simp only [List.mem_cons, List.not_mem_nil, or_false] at hx
  unfold DueAt
  rcases hx with rfl | rfl | rfl | rfl <;> refine ⟨rfl, rfl, rfl, ⟨rfl, rfl, rfl, by decide⟩, rfl, by decide, by decide, by decide, ?_⟩
  case inr.inr.inr => exact .inr (by decide)
  all_goals exact .inl ⟨by decide, 2, by decide⟩
/-- A lost die, held by a group that waits, and by one in a frontier parking. -/
theorem witness_DielossEntryCompletes :
    (∀ g ∈ [heldG 0x10 .none, { heldG 0x10 .none with fpark := some 9 }],
      SMap.find? (heldS g false).groups (64 * 0 + 0) = some g ∧ g.clause = none ∧ g.halted = false ∧ g.held.find? (fun x => x.cause = 0x10) = some (heldX 0x10) ∧
      g.spill = [] ∧ ((heldS g false).ctxOf? g.ctx).isSome = true) ∧ Enters (heldS (heldG 0x10 .none) false) (heldG 0x10 .none) := by
  refine ⟨?_, rfl, rfl, rfl, by decide⟩
  intro g hg
  simp only [List.mem_cons, List.not_mem_nil, or_false] at hg
  rcases hg with rfl | rfl <;> exact ⟨rfl, rfl, rfl, rfl, rfl, rfl⟩
/-- Pre-emption of a running group, of one that has halted, and of one of a team that is not chosen. -/
theorem witness_PreemptEntryCompletes :
    (∀ halted ∈ [true, false], let g := { restG .none with halted := halted }
      SMap.find? (heldS g true).groups (64 * 0 + 0) = some g ∧ g.clause = none ∧ g.team = some 3 ∧ SMap.find? (heldS g true).teams 3 = some { demoTeam with preempt := true } ∧
      (heldS g true).ctxOf? g.ctx = some demoCtx ∧ SMap.find? (heldS g false).teams 3 = some demoTeam ∧ ∀ h ∈ g.held, h.cause ≠ 0x10 ∧ g.dueSlot h = none) ∧
    Enters (heldS (restG .none) true) (restG .none) := by
  refine ⟨?_, rfl, rfl, rfl, by decide⟩
  intro h hh
  simp only [List.mem_cons, List.not_mem_nil, or_false] at hh
  rcases hh with rfl | rfl <;> exact ⟨rfl, rfl, rfl, rfl, rfl, rfl, nofun⟩
def postS (p : Word) (n : Nat) : State := { restS (ticketW 4) [(0x2007C, 1)] with cores := [(0, { CoreSt.init with tlb := [demoTlb], progfault := p, faultcnt := n })] }
/-- A post that waits, as its progress counter ends and before; a counter that is off. -/
theorem witness_ProgressFaultCompletes :
    (∀ x ∈ [((0x4A : Word), 0), (0x4A, 4000), (0x0A, 0)], SMap.find? (postS x.1 x.2).groups (64 * 0 + 0) = some (restG (ticketW 4)) ∧
      (64 * 0 + 0, restG (ticketW 4)) ∈ (postS x.1 x.2).groups ∧ Enters (postS x.1 x.2) (restG (ticketW 4)) ∧ (restG (ticketW 4)).clause = none ∧
      postWaits (postS x.1 x.2) (64 * 0 + 0) (restG (ticketW 4)) = some 0 ∧
      postWaits ((postS x.1 x.2).setCore 0 { (postS x.1 x.2).coreOf 0 with faultcnt := (postS x.1 x.2).clock }) (64 * 0 + 0) (restG (ticketW 4)) = some 0 ∧
      ∀ e ∈ (postS x.1 x.2).groups, e = (64 * 0 + 0, restG (ticketW 4))) ∧
    (let s := postS 0x4A 0; (s.coreOf 0).progfault.getLsbD 6 = true ∧ (s.coreOf 0).faultcnt + 2 ^ ((s.coreOf 0).progfault.extractLsb' 0 6).toNat ≤ s.clock) ∧
    (let s := postS 0x4A 4000; s.clock < (s.coreOf 0).faultcnt + 2 ^ ((s.coreOf 0).progfault.extractLsb' 0 6).toNat) ∧
    ((postS 0x0A 0).coreOf 0).progfault.getLsbD 6 = false := by
  refine ⟨?_, by decide, by decide, by decide⟩
  intro x hx
  refine ⟨rfl, List.mem_singleton.2 rfl, ⟨rfl, rfl, rfl, ?_⟩, rfl, ?_, ?_, fun e h => List.mem_singleton.1 h⟩ <;> revert x <;> decide +kernel

/-- A kernel of one team of one group of 16 lanes and 8 registers, for cluster 0. -/
def oneDesc : BitVec 512 := BitVec.ofNat 512 (0x2000 + 2 ^ 128 + 2 ^ 144 + 2 ^ 160 + 2 ^ 256)
def oneKernel (waiting : List Nat) (saved : List SavedTeam) : Kernel := { desc := oneDesc, order := 0, waiting := waiting, saved := saved, ended := 0, unplaceable := false }
def savedU : SavedGroup := { idx := 0, gid := 0, slices := 1, gsavep := 0x9000, seqs := [], kept := [], held := [] }
def savedT : SavedTeam := { tidx := 0, groups := [savedU], mbase := 0, mseq := none }
def admS (waiting : List Nat) (saved : List SavedTeam) : State :=
  { withM demoG [] with groups := [], teams := [], cur := none, ctxs := [(1, { demoCtx with kernels := [(0, oneKernel waiting saved)] })] }
def oneW (saved : Option SavedTeam) : Waiting := { prio := 0, order := 0, tidx := 0, ctx := 1, kid := 0, desc := oneDesc, saved := saved }
/-- A new team and a saved one, when the configuration enables core 0 (log entry 4: which cores work is the part's own). -/
theorem witness_TeamsComeAndGo_admission (h : Config.enabledCores.getLsbD 0 = true) :
    (∀ x ∈ [([0], []), ([], [savedT])], (admS x.1 x.2).resetting = false ∧ waitingTeams (admS x.1 x.2) 0 = [oneW (x.2.head?)] ∧
      admitPlace (admS x.1 x.2) 0 (oneW x.2.head?) = some (0, [(0, 0)]) ∧
      ∀ sv n, (oneW x.2.head?).saved = some sv → n < [((0 : Nat), (0 : Nat))].length → ∃ e ∈ sv.groups, e.idx = n) := by
  intro x hx
  have place : ∀ w, w.desc = oneDesc → ∀ s : State, s.lost = 0 → (s.coreOf 0).retired = false → s.orphans = [] → s.groups = [] → s.teams = [] →
      admitPlace s 0 w = some (0, [(0, 0)]) := by
    intro w hw s h1 h2 h3 h4 h5
    have f : fits s oneDesc (16 * 0 + 0) none = some [(0, 0)] := by
      have u : usable s 0 = true := by
        simp only [usable, State.coreEnabled, h, h1, h2]
        rfl
      have q : sharedUsed s 0 none = 0 := by
        simp [sharedUsed, h5]
      have r : coreRooms s 0 none = emptyRooms := by
        simp [coreRooms, leftGroups, h4, h5]
        rfl
      simp only [fits, show Kernel.paired oneDesc = false by decide +kernel, show Kernel.sharedKib oneDesc = 0 by decide +kernel,
        show Kernel.mseq oneDesc = false by decide +kernel, u, q, r]
      simpa using (by decide +kernel : placeGroups (sliceNeed oneDesc) false (Kernel.gpt oneDesc) 0 emptyRooms [] = some [(0, 0)])
    simp only [admitPlace, hw, h3, show Kernel.paired oneDesc = false by decide +kernel]
    show (if _ then _ else List.findSome? _ (0 :: _)) = _
    simp [f]
  simp only [List.mem_cons, List.not_mem_nil, or_false] at hx
  rcases hx with rfl | rfl <;> refine ⟨by decide, by decide +kernel, place (oneW _) rfl (admS _ _) (by decide) (by decide) (by decide) (by decide) (by decide), ?_⟩
  · intro sv n hs
    exact absurd hs (by simp [oneW])
  · intro sv n hs hn
    cases hs
    exact ⟨savedU, by simp [savedT], by simp at hn; show 0 = n; omega⟩
/-- A team whose one group has saved itself; the same with a group still there. A core whose team gives way to the one that waits, and to none. -/
theorem witness_TeamsComeAndGo_saved :
    (let s := { admS [] [] with teams := [(65552, { demoTeam with left := [savedU] })] }
     SMap.find? s.teams 65552 = some { demoTeam with left := [savedU] } ∧ (∀ e ∈ s.groups, e.2.team ≠ some 65552) ∧
     teamQuiet s 65552 { demoTeam with left := [savedU] } = true ∧ s.ctxOf? demoTeam.ctx = some { demoCtx with kernels := [(0, oneKernel [] [])] } ∧
     SMap.find? ({ demoCtx with kernels := [(0, oneKernel [] [])] } : Ctx).kernels demoTeam.kid = some (oneKernel [] [])) ∧
    (∃ e ∈ (withM memG []).groups, e.2.team = some 3) ∧ SMap.find? (withM memG []).teams 3 = some demoTeam := by
  exact ⟨⟨by decide +kernel, by decide +kernel, by decide +kernel, by decide +kernel, by decide +kernel⟩, ⟨(0, memG), List.mem_singleton.2 rfl, rfl⟩, by decide⟩
def swapS (w : Word) (clock : Nat) (waiting : List Nat) : State :=
  { admS waiting [] with clock := clock, teams := [(3, demoTeam)], cores := [(0, { CoreSt.init with progwin := w })] }
/-- The swap of core 0, when the configuration enables it. -/
theorem witness_TeamsComeAndGo_swap (h : Config.enabledCores.getLsbD 0 = true) :
    (let s := swapS 0x4A 1024 [0]
     (s.coreOf 0).progwin.getLsbD 6 = true ∧ (s.coreOf 0).wincnt + 2 ^ ((s.coreOf 0).progwin.extractLsb' 0 6).toNat ≤ s.clock ∧ s.teams = [(3, demoTeam)] ∧
     demoTeam.core = 0 ∧ demoTeam.preempt = false ∧ ∃ w ∈ waitingTeams s 0, demoTeam.prio ≤ w.prio ∧ w.desc.getLsbD 154 = false ∧ (fits s w.desc 0 (some 3)).isSome = true) ∧
    waitingTeams (swapS 0x4A 1024 []) 0 = [] ∧ ((swapS 0x0A 1024 []).coreOf 0).progwin.getLsbD 6 = false ∧
    (swapS 0x4A 1023 []).clock < ((swapS 0x4A 1023 []).coreOf 0).wincnt + 2 ^ (((swapS 0x4A 1023 []).coreOf 0).progwin.extractLsb' 0 6).toNat := by
  refine ⟨⟨by decide, by decide, by decide, by decide, by decide, oneW none, by decide +kernel, by decide, by decide +kernel, ?_⟩, by decide +kernel, by decide, by decide⟩
  have u : usable (swapS 0x4A 1024 [0]) 0 = true := by
    simp only [usable, State.coreEnabled, h, show (swapS 0x4A 1024 [0]).lost = 0 by decide, show ((swapS 0x4A 1024 [0]).coreOf 0).retired = false by decide]
    rfl
  have q : sharedUsed (swapS 0x4A 1024 [0]) 0 (some 3) = 0 := by decide +kernel
  have r : coreRooms (swapS 0x4A 1024 [0]) 0 (some 3) = emptyRooms := by decide +kernel
  simp only [fits, show (oneW none).desc = oneDesc from rfl, show Kernel.paired oneDesc = false by decide +kernel, show Kernel.sharedKib oneDesc = 0 by decide +kernel,
    show Kernel.mseq oneDesc = false by decide +kernel, u, q, r]
  simp [(by decide +kernel : placeGroups (sliceNeed oneDesc) false (Kernel.gpt oneDesc) 0 emptyRooms [] = some [(0, 0)])]

/-- A context whose tables stand in frame 4: the root's first entry names the node beside it, whose first entry is a leaf. -/
def tableCtx : Ctx := { demoCtx with rootFn := 4 }
def tableS (c : Option Ctx) (inv : List TlbInv) (v : Byte) (frost : BitVec 16) : State :=
  { withM memG [(0, 1), (0x40000, v), (0x40003, 0x21), (0x42000, 0x1F), (0x42002, 0x08)] with
      ctxs := c.toList.map (fun c => (1, c)), tlbinvs := inv, clusters := [(0, { Cluster.init with walks := [(1, 1)] })],
      dir := [(2, { DirEntry.free with state := 1, ktag := 1, skind := 2 }), (4, { DirEntry.free with state := 1, frost := frost })] }
/-- A walk that is asked for, and one that is not; a context that is not live; a shootdown; a frost node; a walk that ends in a fault, and one that ends in a leaf with the context's key, or with another. -/
theorem witness_PrefetchWalks :
    (1, (0x10000 : DWord).toNat / 65536) ∈ ((tableS (some tableCtx) [] 1 0).clusterOf 0).walks ∧ (2, (0x10000 : DWord).toNat / 65536) ∉ ((tableS (some tableCtx) [] 1 0).clusterOf 0).walks ∧
    (tableS none [] 1 0).ctxOf? 1 = none ∧ (tableS (some tableCtx) [] 1 0).ctxOf? 1 = some tableCtx ∧
    (∃ t ∈ (tableS (some tableCtx) [{ gid := 5, kind := 1, ctx := 1, va := 0 }] 1 0).tlbinvs, t.kind < 2 ∧ t.ctx = 1) ∧
    (∀ t ∈ (tableS (some tableCtx) [] 1 0).tlbinvs, ¬ ((t.kind < 2 ∧ t.ctx = 1) ∨ (t.kind = 2 ∧ tableCtx.kind = 0))) ∧
    (walkReady (askAgain (tableS (some tableCtx) [] 1 1) (.walker 0 1 1)) (some 0) 1 tableCtx (65536 * 1)).1 = false ∧
    (walkReady (askAgain (tableS (some tableCtx) [] 1 0) (.walker 0 1 1)) (some 0) 1 tableCtx (65536 * 1)).1 = true ∧
    (walk (tableS (some tableCtx) [] 0 0) [] 1 tableCtx (65536 * 1)).isOk = false ∧
    walk (tableS (some tableCtx) [] 1 0) [] 1 tableCtx (65536 * 1) = .ok (2, 0x0008001F, [{ ctx := 1, level := 3, pfx := 0, entry := 0x21000001 }]) ∧
    (0x0008001F : DWord).extractLsb' 19 8 = tableCtx.ckey ∧ (0x0008001F : DWord).extractLsb' 19 8 ≠ ({ tableCtx with ckey := 2 } : Ctx).ckey := by
  refine ⟨by decide, by decide, by decide, by decide, ⟨_, List.mem_singleton.2 rfl, by decide⟩, (nofun : ∀ t ∈ ([] : List TlbInv), _), by decide +kernel⟩

/-- One lane alone, whose pointer is beyond the addresses, in the window region named by .g, on no page, on a page that its user may not use, or where it may. -/
def partG (p : DWord) : Group := [(4, p.extractLsb' 0 32), (5, p.extractLsb' 32 32), (8, 7)].foldl (fun g (r : Nat × Word) => g.setV 2 r.1 r.2) { memG with lmask := 4, fmask := 4, s0 := { memG.s0 with mask := 4 } }
theorem witness_MemoryFaultsPark :
    (∀ p ∈ [(0x0100000000000000 : DWord), 0x00FFF00000000000, 0x30000], let o := frm 2 8 4 0xF4 1 0
      Ready (withM (partG p) demoBytes) 0 (partG p) demoC (active (partG p) demoC o) (zOpd true o.var o.d :: addrOpds o true) ∧
      Ready (withM (partG p) demoBytes) 0 (partG p) demoC (active (partG p) demoC o) (zOpd false o.var o.d :: addrOpds o true) ∧ (partG p).sq.length < 32 ∧
      active (partG p) demoC o = BitVec.twoPow 64 2 ∧ (withM (partG p) demoBytes).ctxOf? (partG p).ctx = some demoCtx ∧ (∀ ctr ∈ [true, false], laneAddr (partG p) demoC o true ctr 2 = p.toNat) ∧ CtrRoom (partG p) o.ctr ∧
      p.toNat % zBytes o.var = 0 ∧ o.space = 1) ∧
    (∀ a ∈ [Acc.load, .store], (translate (withM (partG 0x30000) demoBytes) (some 0) (some 0) 1 demoCtx 0x30000 a false).1 = .fault ⟨0x0C, 3, 0⟩ ∧
      (translate (withM (partG 0x30000) demoBytes) (some 0) (some 0) 1 demoCtx 0x30000 a false).2.seqNo = (withM (partG 0x30000) demoBytes).seqNo) := by
  unfold CtrRoom
  refine ⟨?_, by decide +kernel⟩
  intro p hp
  simp only [List.mem_cons, List.not_mem_nil, or_false] at hp
  rcases hp with rfl | rfl | rfl <;> exact ⟨ready_demo rfl (by decide), ready_demo rfl (by decide), by decide⟩

/-! ## Homes, rings, CXL and replica pages -/

/-- A thaw of sub-frame 15 of frame 2 under way; its stack with room, and without; poison in the sub-frame; an open row. -/
def coldS (free : Nat) (banks : SMap (Nat × Nat)) (q : List HomeReq) : State :=
  { withM memG [] with
      clock := 200000, thaws := [{ frame := 2, sub := 15, host := false }], homeQ := q, memStacks := [(0, { Stack.init with freeSub := free, banks := banks })],
      dir := [(2, { DirEntry.free with state := 1, ktag := 1, skind := 2, frost := 0x8000 })], images := [(47, 8)], poison := [(2 * 2048 + 15 * 128, ())] }
def demoDst : GAddr := { place := .glob, addr := 0x20010, key := 1, gc := 0, cp := 0, rep := none, va := 0x10010, ctx := 1 }
def demoReq (cls arrival : Nat) : HomeReq := { cls := cls, arrival := arrival, src := .group 0, dst := demoDst, op := .write [1], pc := 0, aged := false }
/-- The bank of the first sub-channel that a request to the sub-frame uses, and its row. -/
def coldBank : Nat :=
  (coldS 1 [] []).bankOf 0x20010 (gangWidth ((coldS 1 [] []).fmtAt 0x20010) * (coldS 1 [] []).gangOf 0x20000 + 0)
def coldHit : State := coldS 1 [(coldBank, Config.placeRow 2 0 0, 1)] [demoReq 0 0]
/-- The sub-frame of a CXL frame, at whose line another thaw waits. -/
def coldCxl : State :=
  let s := coldS 1 [] [{ demoReq 0 0 with src := .party (thawParty (subKey 2 14)), dst := { demoDst with addr := 0x2F000 }, op := .look 64 }]
  { s with thaws := s.thaws ++ [{ frame := 2, sub := 14, host := false }], dir := s.dir.map (fun e => (e.1, { e.2 with fmt := 5 })) }
theorem hit : coldBank ∈ (demoReq 0 0).banks coldHit := by
  rw [HomeReq.banks, if_neg (by decide +kernel)]
  exact List.mem_map.2 ⟨_, List.mem_flatMap.2 ⟨0x20000, by decide +kernel, List.mem_map.2 ⟨0, by decide +kernel, rfl⟩⟩, rfl⟩
theorem witness_ThawsBanksAndAging :
    (∀ free ∈ [0, 1, 16777216], (coldS free [] []).homeStack (65536 * 2 + 4096 * 15) = 0 ∧ ((coldS free [] []).stackOf 0).freeSub = free ∧
      ((thawOrder (coldS free [] []) 0).take 8).find? (fun t => t.frame = 2 && t.sub = 15) = some { frame := 2, sub := 15, host := false } ∧
      SMap.get 0 (coldS free [] []).images (16 * 2 + 15) ≤ 8) ∧
    (engineAsk (coldS 1 [] []) (thawParty (subKey 2 15)) 3 (65536 * 2 + 4096 * 15) 4096).1 = true ∧
    (engineAsk coldCxl (thawParty (subKey 2 15)) 3 (65536 * 2 + 4096 * 15) 4096).1 = false ∧
    (∀ at' ∈ [200000, 200001], SMap.find? ((coldS 1 [(3, 7, at')] []).stackOf 0).banks 3 = some (7, at')) ∧
    (∃ r ∈ coldHit.homeQ, r.cls = 0 ∧ coldHit.homeStack r.dst.addr = 0 ∧ r.idle coldHit = false ∧ coldBank ∈ r.banks coldHit ∧
      coldHit.placeOf r.dst.addr Config.placeRow = Config.placeRow 2 0 0) ∧
    (coldS 1 [(3, 7, 200000)] []).homeQ = [] ∧ (coldS 1 [] []).clock = 200000 ∧
    (∀ x ∈ [(4, 87500), (4, 87501), (3, 0)], (coldS 1 [] [demoReq x.1 x.2]).homeQ[0]? = some (demoReq x.1 x.2)) ∧ (87500 : Nat) + 112500 ≤ 200000 ∧ (200000 : Nat) < 87501 + 112500 :=
  ⟨by decide +kernel, by decide +kernel, by decide +kernel, by decide +kernel,
    ⟨demoReq 0 0, List.mem_singleton.2 rfl, rfl, by decide +kernel, by decide +kernel, hit, rfl⟩, rfl, rfl, fun x _ => rfl, by decide, by decide⟩

/-- A ring of 16 entries at 0x50000, in a frame of key `k`, with `n` entries not yet taken. -/
def ringR (n : Word) (waiting : List (BitVec 512)) : RingSt := { ptr := 0x50004, head := n, tail := 0, waiting := waiting }
def ringS (k : BitVec 8) (r : RingSt) : State :=
  { withM memG [] with dir := [(5, { DirEntry.free with state := 1, ktag := k })], fr := r, hfq := r, evq := r }
theorem witness_RingsAreWritten :
    (∀ k ∈ [Ring.fr, .hfq, .evq], ∀ w ∈ [[], [(7 : BitVec 512)]],
      CanWrite (ringS 0 (ringR 15 w)) ((ringS 0 (ringR 15 w)).ring k) 64 ∧ CanWrite (ringS 0 (ringR 15 w)) ((ringS 0 (ringR 15 w)).ring k) 32 ∧
      ¬ CanWrite (ringS 0 (ringR 16 w)) ((ringS 0 (ringR 16 w)).ring k) 64 ∧ ¬ CanWrite (ringS 1 (ringR 0 w)) ((ringS 1 (ringR 0 w)).ring k) 32 ∧
      ((ringS 0 (ringR 15 w)).ring k).waiting = w) := by
  have no : ∀ (s : State) (r : RingSt) n, (r.head - r.tail = 16 ∧ r.ptr = 0x50004) → ¬ CanWrite s r n := by
    intro s r n h c
    have := c.room
    rw [h.1, h.2] at this
    exact absurd this (by decide)
  have nk : ∀ (s : State) (r : RingSt) n, (s.dirOf (entryAt r n / 65536)).ktag = 1 → ¬ CanWrite s r n := fun s r n h c => absurd (h ▸ c.key) (by decide)
  intro k hk w hw
  simp only [List.mem_cons, List.not_mem_nil, or_false] at hk hw
  rcases hk with rfl | rfl | rfl <;> rcases hw with rfl | rfl <;>
    exact ⟨⟨by decide, by decide, by decide, by decide, by decide, rfl⟩, ⟨by decide, by decide, by decide, by decide, by decide, rfl⟩, no _ _ _ (by decide), nk _ _ _ (by decide), rfl⟩

/-- A port that has not trained; a line asked of its expander, a write that it has not acknowledged, of the same line or of another. -/
def cxlS (p : CxlPort) (life : Nat) : State :=
  { withM memG [] with cxl := [(7, p)], mgmt := { State.reset.mgmt with life := State.reset.mgmt.life.set 23 life } }
def askedR : CxlRead := { line := 9, shared := true }
def writeU (l : Nat) : CxlWrite := { line := l, gid := 86528, mask := 1 }
def askedP (l : Nat) (db : Bool) : CxlPort := { CxlPort.init with trained := true, hdmDb := db, asked := [askedR], unacked := [writeU l], snoops := [8] }
def reqR (reqs : List HomeReq) (got : Option (Nat × List Byte)) : RepReq :=
  { gid := 0, desc := 1, port := 2, tag := 3, va := 0x10010, line := 4, ctx := 1, since := 0, write := true, reqs := reqs, atom := none, got := got }
def repS (r : RepReq) (clock : Nat) : State := { withM memG [] with reps := [r], clock := clock }
theorem witness_CxlAndReplicaAnswers :
    (∀ life ∈ [0, 1], (cxlS CxlPort.init life).mgmt.life.getD (16 + 7) 0 = life) ∧
    (∀ l ∈ [9, 8], (cxlOwed (cxlS (askedP l true) 1))[0]? = some (7, true, 9) ∧ (cxlOwed (cxlS (askedP l true) 1))[1]? = some (7, false, l) ∧
      ((cxlS (askedP l true) 1).cxlOf 7).asked.find? (fun r => r.line = 9 && !r.conflict) = some askedR ∧
      ((cxlS (askedP l true) 1).cxlOf 7).unacked.find? (fun u => u.line = l) = some (writeU l)) ∧
    (∃ u ∈ ((cxlS (askedP 9 true) 1).cxlOf 7).unacked, u.line = 9) ∧ (∀ u ∈ ((cxlS (askedP 8 true) 1).cxlOf 7).unacked, u.line ≠ 9) ∧
    (let x : CxlPort := { askedP 8 true with asked := [{ askedR with conflict := true }] }
     x.asked.find? (fun r => r.line = 9 && !r.conflict) = none) ∧
    (∀ db ∈ [true, false], ((cxlS (askedP 8 db) 1).cxlOf 7).hdmDb = db) ∧
    (8 ∈ ((cxlS (askedP 8 true) 1).cxlOf 7).snoops ∧ (∃ u ∈ ((cxlS (askedP 8 true) 1).cxlOf 7).unacked, u.line = 8 ∧ 86528 ≤ u.gid ∧ u.gid < hostGid) ∧
      ∀ u ∈ ((cxlS (askedP 9 true) 1).cxlOf 7).unacked, u.line ≠ 8) ∧
    (∀ reqs ∈ [[], [demoReq 3 0]], ∀ got ∈ [none, some (0, [])], (repS (reqR reqs got) 225000).reps[0]? = some (reqR reqs got) ∧
      (got = none → (repS (reqR reqs got) 225000).reps.find? (fun r => r.port = 2 && r.tag = 3 && r.got.isNone) = some (reqR reqs got))) ∧
    (¬ Asked (reqR [] none) ∧ Asked { reqR [] none with write := false }) ∧
    (repS (reqR [] none) 224999).clock < (reqR [] none).since + 225000 ∧ (reqR [] none).since + 225000 ≤ (repS (reqR [] none) 225000).clock := by
  unfold Asked
  refine ⟨by decide, by decide, by decide, by decide, by decide, by decide, by decide, ?_, by decide, by decide, by decide⟩
  intro reqs hr got hg
  simp only [List.mem_cons, List.not_mem_nil, or_false] at hr hg
  rcases hr with rfl | rfl <;> rcases hg with rfl | rfl <;> exact ⟨rfl, by decide⟩

/-! ## The frame engines -/

/-- A frame-engine job: its type and TOPS; read region 0 of 8 bytes at 0x10040 where the type has one. -/
def feCard (ty tops : Nat) (reads : Bool) : BitVec 512 :=
  BitVec.ofNat 512 (ty + 2 ^ 16 + 2 ^ 32 * tops + bif reads then 2 ^ 128 * (0x10040 + 2 ^ 56 * 8 + 2 ^ 80) else 0)
def feJ (ty tops : Nat) (started : Bool) : FeJob :=
  let reads : Bool := ty == 0x28 || ty == 0x29
  { ty := ty, card := feCard ty tops reads, addr := 0x9000, ctx := 1, core := 0,
    rd := if reads then some { place := .glob, base := 0x10040, len := 8, rows := 1, stride := 0 } else none, sup := true, started := started, mask := 0 }
/-- The job alone in its queue. The context's set 0 is every stack, its set 1 stack 0 alone, its set 2 is not valid. Frame 2 has the entry `d`; stack 0 has `free` sub-frames. -/
def feS (j : FeJob) (d : DirEntry) (free : Nat) (poison : SMap Unit) (e : Byte) : State :=
  { withM memG [(0, 1), (8, 5), (0x20040, e)] with feQ := [j], dir := [(2, d)], poison := poison, memStacks := [(0, { Stack.init with freeSub := free })] }
def resD : DirEntry := { DirEntry.free with state := 1, ktag := 1, skind := 2 }
/-- TOPS of a frame, a format, context 1 and a set. -/
def setTops (frame fmt set : Nat) : Nat := frame + 2 ^ 30 * fmt + 2 ^ 34 + 2 ^ 50 * set
theorem feReady_demo {s : State} {j : FeJob} (h1 : s.feQ = [j]) (h2 : s.resetting = false) (h3 : feOk s j = true) : FeReady s 0 j.ty j :=
  ⟨by rw [h1]; rfl, rfl, .inl h2, fun x h => by simp at h, h3⟩
/-- A frame of CXL memory at whose first line a request of class 0 waits. -/
def cxlBusyS (j : FeJob) (state : BitVec 2) : State :=
  { feS j { resD with state := state, fmt := 5, skind := 2, dkind := if state = 2 then 2 else 0, dfmt := if state = 2 then 5 else 0 } 1 [] 0 with homeQ := [{ demoReq 0 0 with dst := { demoDst with addr := 0x20000 }, op := .look 64, pc := 0x2004 }] }
theorem witness_FrameJobs_scrub :
    (let s := feS (feJ 0x27 2 false) resD 1 [(2048 * 2 + 2047, ())] 0
     homeClear s 4 (65536 * 2) 65536 = true ∧ s.upsets = [] ∧ (s.dirOf 2).frost = 0 ∧ feOk s (feJ 0x27 2 false) = true) ∧
    homeClear (cxlBusyS (feJ 0x27 2 false) 1) 4 (65536 * 2) 65536 = false ∧ feOk (cxlBusyS (feJ 0x27 2 false) 1) (feJ 0x27 2 false) = true := by decide +kernel
/-- A granule of class 0 in whose stored bytes one symbol is wrong, and one in which three are; a clean one. -/
def upS (u : SMap Byte) : State := { withM memG [(0x20000, 7)] with upsets := u }
theorem witness_ScrubbedGranules :
    (∀ u ∈ [[], [(0x20000, 3)], [(0x20000, 3), (0x20001, 3), (0x20003, 9)]], let s := upS u
      granuleBytes (s.fmtAt 0x20000) = 32 ∧ (s.dirOf (0x20000 / 65536)).frost = 0 ∧ poisoned s 0x20000 32 = false) ∧
    (upS []).decodeGranule 0x20000 = some (List.replicate 32 0, 0) := by decide +kernel
theorem witness_ScrubbedGranules_corrected : (upS [(0x20000, 3)]).decodeGranule 0x20000 = some (List.replicate 32 0, 1) := by decide +kernel
theorem witness_ScrubbedGranules_lost : (upS [(0x20000, 3), (0x20001, 3), (0x20003, 9)]).decodeGranule 0x20000 = none := by decide +kernel
theorem witness_FrameJobs :
    (∀ x ∈ [(0x20, setTops 6 0 1), (0x21, 2), (0x22, 2), (0x23, setTops 2 1 1), (0x24, 2), (0x25, 2), (0x26, 2), (0x27, 2), (0x28, 0), (0x29, 0), (0x2A, 2)],
      let j := { feJ x.1 x.2 false with card := (feJ x.1 x.2 false).card ||| BitVec.twoPow 512 24 }
      j.ty = x.1 ∧ (feS j resD 4200 [] 0).feQ = [j] ∧ (feS j resD 4200 [] 0).resetting = false ∧ feOk (feS j resD 4200 [] 0) j = false) ∧
    (∀ x ∈ [(0x20, setTops 6 0 1), (0x20, setTops 2 0 1), (0x20, setTops 6 6 1), (0x20, setTops 6 5 1), (0x20, setTops 6 0 2), (0x21, 2), (0x21, 6), (0x22, 2), (0x22, 6), (0x24, 2), (0x24, 6),
        (0x27, 2), (0x2A, 2), (0x2A, 2 ^ 95), (0x2A, 2 ^ 95 + 2 ^ 87), (0x2A, 2 ^ 95 + 2 ^ 88), (0x29, 0), (0x29, 2 ^ 87), (0x29, 2 ^ 88)], ∀ free ∈ [4096, 4112],
      let j := feJ x.1 x.2 false
      j.ty = x.1 ∧ (feS j resD free [] 0).feQ = [j] ∧ (feS j resD free [] 0).resetting = false ∧ feOk (feS j resD free [] 0) j = true) ∧
    (let j := feJ 0x20 (setTops 6 0 1) false
     feFrame j = 6 ∧ feSet (feS j resD 4112 [] 0) j = some (2, 0, 0) ∧ (feFmt j).toNat < 6 ∧ setFits (feS j resD 4112 [] 0) (feFmt j) (2, 0, 0) = true ∧
     ((feS j resD 4112 [] 0).dirOf 6).state = 0 ∧ ((feS j resD 4112 [] 0).dirOf 2).state = 1) ∧
    feSet (feS (feJ 0x20 (setTops 6 0 2) false) resD 4112 [] 0) (feJ 0x20 (setTops 6 0 2) false) = none ∧ 6 ≤ (feFmt (feJ 0x20 (setTops 6 6 1) false)).toNat ∧
    setFits (feS (feJ 0x20 (setTops 6 5 1) false) resD 4112 [] 0) 5 (2, 0, 0) = false := by
  decide +kernel
/-- Room for sixteen sub-frames above THAWRES, and for none. -/
theorem witness_FrameJobs_room :
    Claims.Room (feS (feJ 0x20 (setTops 6 0 1) false) resD 4112 [] 0) 0 (2, 0, 0) 6 ∧ ¬ Claims.Room (feS (feJ 0x20 (setTops 6 0 1) false) resD 4111 [] 0) 0 (2, 0, 0) 6 := by
  unfold Claims.Room
  rw [if_neg (by decide), if_neg (by decide)]
  exact ⟨by decide +kernel, by decide +kernel⟩
/-- Registers of base dies, read and written; a poisoned operand; a frame with one poisoned unit, and without. -/
theorem witness_FrameJobs_registers :
    (∀ r ∈ [0, 1], let j := feJ 0x29 (2 ^ 87 * r) false
      j.reg = r ∧ (feRead (feS j resD 4112 [] 7) j).1 = .ok ∧ (feRead (feS j resD 4112 [] 7) j).2.1 = [7, 0, 0, 0, 0, 0, 0, 0] ∧ 8 ≤ (cardRegion j.card 0).bytes ∧
      (feRead (feS j resD 4112 [(0x20040 / 32, ())] 7) j).1 = .error ∧ feOk (feS j resD 4112 [(0x20040 / 32, ())] 7) j = true) ∧
    (feJ 0x29 (2 ^ 88) false).reg = 2 ∧ (feJ 0x2A 2 false).range = false ∧
    (∀ r ∈ [0, 1, 2], (feJ 0x2A (2 ^ 95 + 2 ^ 87 * r) false).range = true ∧ (feJ 0x2A (2 ^ 95 + 2 ^ 87 * r) false).reg = r) ∧
    (feJ 0x27 2 false).range = false ∧ feFrame (feJ 0x27 2 false) = 2 ∧ (∀ e ∈ (feS (feJ 0x27 2 false) resD 1 [(2048 * 3, ())] 0).poison, e.1 < 2048 * 2 ∨ 2048 * (2 + 1) ≤ e.1) ∧
    (2048 * 2 + 2047) / 2048 = 2 ∧ feOk (feS (feJ 0x27 2 false) resD 1 [(2048 * 2 + 2047, ())] 0) (feJ 0x27 2 false) = true := by
  decide +kernel
/-- A migration that starts, has started, meets poison, lies partly in frost; one whose copy goes on, has reached its end, meets poison on the way. -/
def moveD (state cursor : Nat) (frost : BitVec 16) : DirEntry :=
  { resD with state := BitVec.ofNat 2 state, cursor := BitVec.ofNat 8 cursor, frost := frost, dkind := if state = 2 then 2 else 0, dnum := if state = 2 then 1 else 0, dfmt := if state = 2 then 1 else 0 }
def moveJ (started : Bool) : FeJob := feJ 0x23 (setTops 2 1 1) started
def moveS (started : Bool) (d : DirEntry) (free : Nat) (poison : SMap Unit) : State := feS (moveJ started) d free poison 0
theorem witness_MigrationKeepsOneHome :
    (∀ started ∈ [true, false], ∀ d ∈ [moveD 1 0 0, moveD 1 0 1, moveD 0 0 0], FeReady (moveS started d 4112 []) 0 0x23 (moveJ started) ∧ (moveJ started).started = started) ∧
    feSet (moveS false (moveD 1 0 0) 4112 []) (moveJ false) = some (2, 0, 0) ∧ (feFmt (moveJ false)).toNat < 6 ∧ setFits (moveS false (moveD 1 0 0) 4112 []) (feFmt (moveJ false)) (2, 0, 0) = true ∧
    ((moveS false (moveD 1 0 1) 4112 []).dirOf 2).frost ≠ 0 ∧ ((moveS false (moveD 1 0 0) 4112 []).dirOf 2).frost = 0 ∧ ((moveS false (moveD 0 0 0) 4112 []).dirOf 2).state ≠ 1 ∧
    FeReady (feS (feJ 0x23 (setTops 2 6 1) false) resD 4112 [] 0) 0 0x23 (feJ 0x23 (setTops 2 6 1) false) ∧ 6 ≤ (feFmt (feJ 0x23 (setTops 2 6 1) false)).toNat ∧
    FeReady (feS (feJ 0x23 (setTops 2 1 2) false) resD 4112 [] 0) 0 0x23 (feJ 0x23 (setTops 2 1 2) false) ∧ feSet (feS (feJ 0x23 (setTops 2 1 2) false) resD 4112 [] 0) (feJ 0x23 (setTops 2 1 2) false) = none := by
  refine ⟨?_, by decide +kernel, by decide +kernel, by decide +kernel, by decide, by decide, by decide,
    feReady_demo (s := feS (feJ 0x23 (setTops 2 6 1) false) resD 4112 [] 0) (j := feJ 0x23 (setTops 2 6 1) false) rfl rfl (by decide +kernel), by decide +kernel,
    feReady_demo (s := feS (feJ 0x23 (setTops 2 1 2) false) resD 4112 [] 0) (j := feJ 0x23 (setTops 2 1 2) false) rfl rfl (by decide +kernel), by decide +kernel⟩
  intro st hs d hd
  refine ⟨feReady_demo (s := moveS st d 4112 []) (j := moveJ st) rfl rfl ?_, ?_⟩
  · revert d st
    decide +kernel
  · rfl
/-- The turn of a copy block, when nothing waits at its line and when a request of class 0 does. -/
theorem witness_MigrationKeepsOneHome_turn :
    (let s := moveS true (moveD 2 127 0) 1 []
     (engineAsk s (feParty 2) (blockClass s (65536 * 2 + 512 * 127)) (65536 * 2 + 512 * 127) 512).1 = true) ∧
    (let s := cxlBusyS (moveJ true) 2
     (s.dirOf 2).state = 2 ∧ (s.dirOf 2).cursor = 0 ∧ (engineAsk s (feParty 2) (blockClass s (65536 * 2)) (65536 * 2) 512).1 = false) := by decide +kernel
theorem witness_MigrationKeepsOneHome_space :
    Uncopyable (moveS false (moveD 1 0 0) 4112 [(2048 * 2, ())]) (65536 * 2) 65536 ∧ ¬ Uncopyable (moveS false (moveD 1 0 0) 4112 []) (65536 * 2) 65536 ∧
    Claims.Room (moveS false (moveD 1 0 0) 4112 []) 1 (2, 0, 0) 2 ∧ ¬ Claims.Room (moveS false (moveD 1 0 0) 4111 []) 1 (2, 0, 0) 2 ∧
    (∀ c ∈ [0, 127], ((moveS true (moveD 2 c 0) 1 []).dirOf 2).state = 2 ∧ ((moveS true (moveD 2 c 0) 1 []).dirOf 2).cursor.toNat = c ∧
      ((moveS true (moveD 2 c 0) 1 []).dirOf 2).fmt ≠ 5 ∧ ((moveS true (moveD 2 c 0) 1 []).dirOf 2).dfmt ≠ 5) ∧
    (∀ x ∈ [([], false), ([(2048 * 2 + 2047, ())], true)], let s := moveS true (moveD 2 127 0) 1 x.1
      badSource (sense (engineAsk s (feParty 2) (blockClass s (65536 * 2 + 512 * 127)) (65536 * 2 + 512 * 127) 512).2 (65536 * 2 + 512 * 127) 512 []) (65536 * 2 + 512 * 127) 512 = x.2) ∧
    feOf (moveS true (moveD 2 127 0) 1 []) 0x23 2 = some (0, moveJ true) ∧ feOf (moveS true (moveD 2 128 0) 1 []) 0x23 2 = some (0, moveJ true) ∧
    ((moveS true (moveD 2 128 0) 1 []).dirOf 2).cursor = 128 ∧ ((moveS true (moveD 2 128 0) 1 []).dirOf 2).dfmt ≠ 5 ∧
    SMap.find? { moveS true resD 1 [] with releases := [(2, [0, 0])], homeQ := [demoReq 3 0] }.releases 2 = some [0, 0] ∧
    (demoReq 3 0).dst.addr / 65536 = 2 ∧ (demoReq 3 0).forwarded = false := by
  unfold Uncopyable Claims.Room
  rw [if_neg (by decide), if_neg (by decide)]
  decide +kernel

/-- FFROST of sub-frames 0 and 15, before and after it has started; of a frame in the wrong state or format; with every named sub-frame frost already. FTHAW likewise. -/
def coldJ (ty : Nat) (started : Bool) : FeJob := { feJ ty (2 + 2 ^ 64 * 0x8001) started with mask := 0x8001 }
def frostS (ty : Nat) (started : Bool) (d : DirEntry) (fr : List Frosting) : State := { feS (coldJ ty started) d 100 [] 0 with mem := [], frosting := fr }
theorem witness_FrostAndThaw :
    (∀ ty ∈ [0x25, 0x26], ∀ started ∈ [true, false], ∀ d ∈ [resD, { resD with frost := 0x8001 }, { resD with fmt := 5 }, DirEntry.free],
      FeReady (frostS ty started d []) 0 ty (coldJ ty started) ∧ (coldJ ty started).started = started ∧ ((frostS ty started d []).dirOf (feFrame (coldJ ty started))) = d) ∧
    (∀ x ∈ [(resD, [0, 15]), ({ resD with frost := 0x8001 }, [])], let s := frostS 0x25 false x.1 []
      let turn := engineAsk s (coldJ 0x25 false).party 4 (65536 * 2) 65536
      turn.1 = true ∧ (List.range 16).filter (fun i => ((coldJ 0x25 false).card.extractLsb' 96 16).getLsbD i &&
        frostable (frostRead turn.2 x.1 2 ((coldJ 0x25 false).card.extractLsb' 96 16).toNat) x.1 2 i) = x.2) ∧
    (∀ c ∈ [true, false], (frostS 0x25 true resD [⟨2, 15, 0, c⟩]).frosting.find? (fun x => x.frame = 2 && x.sub = 15) = some ⟨2, 15, 0, c⟩) ∧
    feOf (frostS 0x25 true resD []) 0x25 2 = some (0, coldJ 0x25 true) ∧
    (coldJ 0x26 false).card.extractLsb' 96 16 &&& (0x8001 : BitVec 16) ≠ 0 ∧ (coldJ 0x26 false).card.extractLsb' 96 16 &&& resD.frost = 0 ∧
    (0x8001 : BitVec 16) &&& (coldJ 0x26 true).mask ≠ 0 ∧ resD.frost &&& (coldJ 0x26 true).mask = 0 := by
  refine ⟨?_, by decide +kernel, by decide +kernel, by decide +kernel, by decide +kernel⟩
  intro ty ht st hs d hd
  refine ⟨?_, rfl, ?_⟩
  · have h : feOk (frostS ty st d []) (coldJ ty st) = true := by
      revert d st ty
      decide +kernel
    exact feReady_demo rfl rfl h
  · revert d st ty
    decide +kernel

/-- HMWRITE of host 63's last frame: entries that R28 allows and forbids, read at 0x10040; its write, with an access of the old entry under way and without. -/
def hmTops : Nat := 63 + 2 ^ 6 * (2 ^ 36 - 1)
def hmJ (started : Bool) : FeJob := feJ 0x28 hmTops started
def hmW (done : List Nat) : HmWrite := { host := 63, hfn := 2 ^ 36 - 1, entry := 3, addr := 0x9000, done := done }
def hmS (started : Bool) (e : Byte) (q : List HomeReq) (done : List Nat := []) : State :=
  { feS (hmJ started) resD 1 [] e with homeQ := q, hmWrites := if started then [hmW done] else [] }
theorem witness_HostMapWrites :
    (∀ started ∈ [true, false], FeReady (hmS started 3 []) 0 0x28 (hmJ started) ∧ (hmJ started).started = started) ∧ (cardRegion (hmJ false).card 0).bytes = 8 ∧
    (∀ e ∈ [(3 : Byte), 5], (feRead (hmS false e []) (hmJ false)).1 = .ok ∧ (feRead (hmS false e []) (hmJ false)).2.1 = [e, 0, 0, 0, 0, 0, 0, 0] ∧
      (feRead (hmS false e []) (hmJ false)).2.2.worlds = (hmS false e []).worlds ∧ (feRead (hmS false e []) (hmJ false)).2.2.feQ = (hmS false e []).feQ) ∧
    (let e : DWord := BitVec.ofNat 64 (leNat [(3 : Byte), 0, 0, 0, 0, 0, 0, 0])
     e.extractLsb' 22 5 = 0 ∧ e.extractLsb' 57 7 = 0 ∧ (e.getLsbD 2 = true → e.getLsbD 1 = true) ∧ (e.extractLsb' 12 3).toNat < 6 ∧ e.getLsbD 3 = false ∧ e.extractLsb' 4 8 = 0) ∧
    (let e : DWord := BitVec.ofNat 64 (leNat [(5 : Byte), 0, 0, 0, 0, 0, 0, 0]); ¬ (e.getLsbD 2 = true → e.getLsbD 1 = true)) ∧
    (∀ done ∈ [[], List.range 72], (hmS true 3 [] done).hmWrites.find? (fun w => w.host = 63 && w.hfn = 2 ^ 36 - 1) = some (hmW done)) ∧
    (hmW []).done.length < 72 ∧ 72 ≤ (hmW (List.range 72)).done.length ∧
    (∀ j ∈ ({ hmS true 3 [] with feQ := [] } : State).feQ, ¬ (j.ty = 0x28 ∧ j.started = true ∧ j.host = 63 ∧ j.hfn = 2 ^ 36 - 1)) ∧
    (hmS true 3 []).feQ[0]? = some (hmJ true) ∧ (hmJ true).host = 63 ∧ (hmJ true).hfn = 2 ^ 36 - 1 := by
  refine ⟨?_, by decide +kernel, by decide +kernel, by decide +kernel, by decide +kernel, by decide +kernel, by decide, by decide, by decide, rfl, by decide +kernel⟩
  intro st hs
  refine ⟨feReady_demo (s := hmS st 3 []) (j := hmJ st) rfl rfl ?_, rfl⟩
  revert st
  decide +kernel

/-! ## Jobs under way -/

/-- A job in slot 255 of cluster 0's scheduler, of a group of the small team; its regions lie in the team's shared memory. -/
def runJ (ty : Nat) (phase : Nat) (card : Nat) : Job :=
  { idleJob with state := .running, card := BitVec.ofNat 512 (ty + 2 ^ 32 * card), phase := phase, scope := 3 }
def shR (a n : Nat) : Region := { place := .shared 3, base := a, len := n, rows := 1, stride := 0 }
def runS (j : Job) : State := { withM memG demoBytes with scheds := [(0, [(255, j)])] }
theorem mayRun_of {s : State} {j : Job} {ty : Nat} (q : s.homeQ = []) (h : s.job 0 255 = j) (h1 : (j.card.extractLsb' 0 8).toNat = ty) (h2 : j.state = .running) (h3 : j.phase < 3) :
    MayRun s s 0 255 ty j :=
  ⟨by rw [h, if_neg (by rw [h2]; decide)], ⟨h1, .inl ⟨h2, h3⟩⟩, by cases s; subst q; rfl⟩
theorem mayRun_demo {j : Job} {ty : Nat} (h : (runS j).job 0 255 = j) (h1 : (j.card.extractLsb' 0 8).toNat = ty) (h2 : j.state = .running) (h3 : j.phase < 3) :
    MayRun (runS j) (runS j) 0 255 ty j := mayRun_of rfl h h1 h2 h3
/-- A job that has been resumed; one that starts, its region in its context's part of a scratchpad and its edges over: another generation, no job any more, only its reads still to wait for. -/
def startS (j : Job) : State :=
  let a : Job := { idleJob with state := .pending, readsDone := true }
  { runS j with scheds := [(0, [(0, { a with gen := 8 }), (2, { a with state := .complete }), (3, a), (255, j)])],
                clusters := [(0, { Cluster.init with spp := [(5, 2 ^ 63 + 2 ^ 26 + 2 ^ 16 + 1)] })] }
def startJ (a : Nat) : Job :=
  { runJ 1 0 0 with state := .pending, edges := [(0, 7, false), (2, 1, false), (3, 1, true)], rd0 := some { place := .scratch 0, base := a, len := 16, rows := 1, stride := 0 }, wr := some (shR 0x20 16) }
theorem mayStart_demo (a ty : Nat) (h : a = 0x10 ∨ a = 0xFFF8) (ht : ty ∈ [1, 2, 3, 4, 5, 6, 0x10, 0x11]) :
    MayStart (startS { startJ a with card := BitVec.ofNat 512 ty }) 0 255 ty { startJ a with card := BitVec.ofNat 512 ty } := by
  have e : ∀ a ∈ [0x10, 0xFFF8], ∀ ty ∈ [1, 2, 3, 4, 5, 6, 0x10, 0x11], let j := { startJ a with card := BitVec.ofNat 512 ty }
      (j.card.extractLsb' 0 8).toNat = ty ∧ (∀ e ∈ (startS j).jobs, ¬ (e.1 = 0 ∧ e.2.1 ≠ 255 ∧ e.2.2.engine = j.engine ∧ e.2.2.state = .running)) ∧
      ∀ e ∈ j.edges, let i := (startS j).job (e.1 / 256) (e.1 % 256); i.gen ≠ e.2.1 ∨ i.live = false ∨ (e.2.2 = true ∧ i.readsDone = true) := by decide +kernel
  have k := e a (by simpa using h) ty ht
  exact ⟨k.1, .inr ⟨k.2.1, .inr ⟨rfl, k.2.2⟩⟩⟩
theorem witness_MayRun :
    (let j := { runJ 1 0 0 with state := .parked, resume := true }; MayRun (runS j) (runS j) 0 255 1 j) ∧
    MayRun (startS (startJ 0x10)) (startS (startJ 0x10)) 0 255 1
      { startJ 0x10 with rd0 := some { place := .scratch 0, base := 0x10, len := 16, rows := 1, stride := 0, part := 0x10000 } } := by
  refine ⟨⟨by decide +kernel, ⟨by decide +kernel, .inr ⟨by decide +kernel, .inl ⟨rfl, rfl⟩⟩⟩, rfl⟩, ⟨by decide +kernel, ?_, rfl⟩⟩
  have := mayStart_demo 0x10 1 (.inl rfl) (by decide)
  exact ⟨by decide +kernel, .inr ⟨by decide +kernel, .inr ⟨rfl, by decide +kernel⟩⟩⟩
/-- The same job with a region that ends beyond that part, as a job of each type. -/
theorem witness_JobsOutsideTheirPart : ∀ ty ∈ [1, 2, 3, 4, 5, 6, 0x10, 0x11], let j := { startJ 0xFFF8 with card := BitVec.ofNat 512 ty }
    (startS j).job 0 255 = j ∧ j.state = .pending ∧ MayStart (startS j) 0 255 ty j ∧ ∃ r, (j.rd0 = some r ∨ j.rd1 = some r ∨ j.wr = some r) ∧ OutOfPart (startS j) j.ctx r := by
  intro ty ht
  refine ⟨?_, rfl, mayStart_demo _ _ (.inr rfl) ht, _, .inl rfl, 0, rfl, ?_⟩
  · revert ty; decide +kernel
  · intro b size h
    have e : scratchEntry ((startS { startJ 0xFFF8 with card := BitVec.ofNat 512 ty }).clusterOf 0) 1 = some (0x10000, 0x10000) := by
      clear h
      revert ty
      decide +kernel
    have h' := e.symm.trans h
    cases h'
    decide
/-- Reading and writing 16 bytes of shared memory. -/
theorem reads_demo (j : Job) : ∃ bs, JobReads 0 255 j (.shared 3) (runS j) (shR 0x10 16).pieces bs (runS j) :=
  ⟨readPlace (runS j) (.shared 3) 0x10 16 ++ [], _, _, _, rfl, ⟨rfl, rfl⟩, rfl⟩
theorem writes_demo (who : Actor) (j : Job) (bs : List Byte) (h : bs.length = 16) : ∃ s', JobWrites who j (shR 0x20 16) (runS j) (shR 0x20 16).pieces bs s' := by
  have e : bs.take 16 = bs := List.take_of_length_le (by omega)
  refine ⟨_, writePlace (runS j) (.shared 3) 0x20 bs, ?_, rfl⟩
  show jobWrite (runS j) who (.shared 3) 0x20 (bs.take 16) _ = _
  rw [e]
  have o : outside (runS j) (.shared 3) 0x20 bs.length = none := by rw [h]; rfl
  simp only [jobWrite, o]
def copyJ (phase : Nat) (buf : List Byte) : Job := { runJ 1 phase 0 with rd0 := some (shR 0x10 16), wr := some (shR 0x20 16), buf := buf }
def fillJ : Job := { runJ 2 0 0x12345678 with wr := some (shR 0x20 16) }
/-- A copy that reads and one that writes; a fill. -/
theorem witness_CopiesAndFills :
    (MayRun (runS (copyJ 0 [])) (runS (copyJ 0 [])) 0 255 0x01 (copyJ 0 []) ∧ ∃ bs, JobReads 0 255 (copyJ 0 []) (.shared 3) (runS (copyJ 0 [])) ((shR 0x10 16).pieces.drop (copyJ 0 []).unit) bs (runS (copyJ 0 []))) ∧
    (let j := copyJ 1 (List.replicate 16 5)
     MayRun (runS j) (runS j) 0 255 0x01 j ∧ j.unit = 0 ∧ j.counted = 0 ∧ ∃ s', JobWrites (jobActor (runS j) 0 255 j) j (shR 0x20 16) (runS j) (shR 0x20 16).pieces j.buf s') ∧
    (MayRun (runS fillJ) (runS fillJ) 0 255 0x02 fillJ ∧ fillJ.wr = some (shR 0x20 16) ∧
     ∃ s', JobWrites (jobActor (runS fillJ) 0 255 fillJ) fillJ (shR 0x20 16) (runS fillJ) (shR 0x20 16).pieces
       ((List.range ((shR 0x20 16).len * (shR 0x20 16).rows)).map (fun i => fillJ.card.extractLsb' (32 + 8 * (i % 4)) 8)) s') :=
  ⟨⟨mayRun_demo (by decide +kernel) (by decide +kernel) rfl (by decide), reads_demo _⟩,
   ⟨mayRun_demo (by decide +kernel) (by decide +kernel) rfl (by decide), rfl, rfl, writes_demo _ _ _ rfl⟩,
   ⟨mayRun_demo (by decide +kernel) (by decide +kernel) rfl (by decide), rfl, writes_demo _ _ _ rfl⟩⟩
/-- Global pieces: readable, on no page, in frost, poisoned. -/
def globJ (a : Nat) : Job := { runJ 1 0 0 with rd0 := some { shR a 16 with place := .glob }, wr := some (shR 0x20 16) }
def demoActor : Actor := jobActor (runS (globJ 0)) 0 255 (globJ 0)
def globS (a : Nat) (frost : BitVec 16) (p : SMap Unit) : State :=
  { runS (globJ a) with dir := [(2, { DirEntry.free with state := 1, ktag := 1, skind := 2, frost := frost })], poison := p }
theorem witness_CopiesAndFills_global :
    (∀ a ∈ [0x10010, 0x30000], MayRun (runS (globJ a)) (runS (globJ a)) 0 255 0x01 (globJ a) ∧ ({ shR a 16 with place := .glob } : Region).pieces = [(a, 16)]) ∧
    (jobRead (globS 0x30000 0 []) demoActor .glob 0x30000 16).1 = .fault 0x0C 0x30000 3 0 0 0 ∧
    (jobRead (globS 0x10010 1 []) demoActor .glob 0x10010 16).1 = .wait ∧
    (jobRead (globS 0x10010 0 [(4096, ())]) demoActor .glob 0x10010 16).1 = .error ∧
    (∀ acc ∈ [Acc.load, .store], let r := jobTarget (globS 0x10010 0 []) demoActor 0x10010 16 acc (0x10010, 16)
      r.1 = .ok ∧ r.2.1 = some { demoDst with addr := 0x20010 } ∧ frameCxl r.2.2 0x20010 = none ∧ frontierOther r.2.2 demoActor.self demoDst = false) ∧ demoDst.rep = none ∧ demoDst.place = .glob ∧
    SMap.find? (runS (copyJ 0 [])).teams 3 = some demoTeam ∧ 0xFF0 + 16 ≤ demoTeam.sharedBytes := by
  refine ⟨?_, by decide +kernel, by decide +kernel, by decide +kernel, by decide +kernel, rfl, rfl, by decide, by decide⟩
  intro a ha
  simp only [List.mem_cons, List.not_mem_nil, or_false] at ha
  rcases ha with rfl | rfl <;> exact ⟨mayRun_demo (by decide +kernel) (by decide +kernel) rfl (by decide), by decide⟩

/-- Elements named by the index 0, and an index beyond the table: the word at 0x100 of shared memory is 0, the one at 0x10 is 0x12345678. -/
def movesJ (ty : Nat) (idx : Nat) (toMem : Bool) : Job :=
  { runJ ty 0 0 with rd0 := some (shR idx 4), rd1 := some (shR 0x10 4), wr := if toMem then some (shR 0x20 4) else none }
theorem witness_GathersScattersAndCollectives :
    (∀ x ∈ [(0x03, false), (0x04, true)], ∀ idx ∈ [0x100, 0x10], MayRun (runS (movesJ x.1 idx true)) (runS (movesJ x.1 idx true)) 0 255 x.1 (movesJ x.1 idx true)) ∧
    (∃ s', Transfers 0 255 (movesJ 3 0x100 true) false (shR 0x100 4) (shR 0x10 4) (shR 0x20 4) 4 (List.range ((shR 0x100 4).len / 4)) (runS (movesJ 3 0x100 true)) s') ∧
    (∃ s', Transfers 0 255 (movesJ 4 0x100 true) true (shR 0x100 4) (shR 0x10 4) (shR 0x20 4) 4 (List.range ((shR 0x100 4).len / 4)) (runS (movesJ 4 0x100 true)) s') ∧
    (∀ ty ∈ [3, 4], readRun 0 255 (runS (movesJ ty 0x10 true)) (movesJ ty 0x10 true) (.shared 3) 0x10 4 = (.ok, [0x78, 0x56, 0x34, 0x12], runS (movesJ ty 0x10 true))) ∧
    1 ≤ leNat [(0x78 : Byte), 0x56, 0x34, 0x12] ∧
    (∃ bs s', Takes 0 255 (movesJ 3 0x100 false) (shR 0x100 4) (shR 0x10 4) 4 (List.range ((shR 0x100 4).len / 4)) (runS (movesJ 3 0x100 false)) bs s') ∧
    MayRun (runS (movesJ 3 0x100 false)) (runS (movesJ 3 0x100 false)) 0 255 3 (movesJ 3 0x100 false) ∧ (movesJ 3 0x100 false).card.extractLsb' 32 2 = 0 := by
  refine ⟨?_, ⟨_, _, _, _, _, _, rfl, by decide, by decide, rfl, rfl, rfl⟩, ⟨_, _, _, _, _, _, rfl, by decide, by decide, rfl, rfl, rfl⟩, by decide +kernel, by decide,
    ⟨_, _, _, _, _, _, _, rfl, by decide, rfl, ⟨rfl, rfl⟩, rfl⟩, mayRun_demo (by decide +kernel) (by decide +kernel) rfl (by decide), by decide +kernel⟩
  intro x hx idx hi
  simp only [List.mem_cons, List.not_mem_nil, or_false] at hx hi
  rcases hx with rfl | rfl <;> rcases hi with rfl | rfl <;> exact mayRun_demo (by decide +kernel) (by decide +kernel) rfl (by decide)
/-- A collective of two members, this one of rank 1: its operation, whether it reads and writes queue registers, its phase. -/
def colJ (op qin qout phase : Nat) : Job := { runJ 5 phase (2 ^ 8 * op + 2 ^ 11 * qin + 2 ^ 12 * qout) with rd0 := some (shR 0x10 16), wr := some (shR 0x20 16), buf := if phase = 0 then [] else List.replicate 16 1 }
def colG : CollGroup := { num := 0, ctx := 1, rank := 1, members := [8, 9], port := 2 }
def colS (j : Job) (g : Group) : State := { runS j with colls := [(0, colG)], groups := [(0, g)] }
def colPeer : CollPeer := { rank := 0, n := 4, data := List.replicate 16 2 }
theorem witness_GathersScattersAndCollectives_collective :
    (∀ op ∈ [0, 1, 3, 4], ∀ qin ∈ [0, 1], ∀ qout ∈ [0, 1], ∀ ph ∈ [0, 1, 2], let j := colJ op qin qout ph
      MayRun (colS j (queueG 4 [] [])) (colS j (queueG 4 [] [])) 0 255 5 j ∧ SMap.find? (colS j (queueG 4 [] [])).colls (j.card.extractLsb' 32 8).toNat = some colG ∧ (j.card.extractLsb' 40 3).toNat = op ∧
      j.card.getLsbD 43 = (qin == 1) ∧ j.card.getLsbD 44 = (qout == 1)) ∧
    colG.ctx = (colJ 0 0 0 0).ctx ∧ (∃ k < colG.members.length, k ≠ colG.rank ∧ ∀ p ∈ ([] : List CollPeer), p.rank ≠ k) ∧
    (∀ k < colG.members.length, k ≠ colG.rank → ∃ p ∈ [colPeer], p.rank = k) ∧
    (∀ k < colG.members.length, k ≠ colG.rank → ∀ p, [colPeer].find? (fun p => p.rank = k) = some p → p.n = 16 / 4 ∧ p.data.length = (colJ 1 0 0 1).buf.length) ∧
    (colJ 1 0 0 1).buf.length = 4 * (16 / 4) ∧
    (∀ fifo ∈ [[], [[(2, 7)]]], jobGroup (colS (colJ 0 1 0 0) (queueG 4 fifo [])) (colJ 0 1 0 0) = some (0, queueG 4 fifo []) ∧ ¬ (queueG 4 fifo []).sup = true ∧
      7 < (queueG 4 fifo []).queues.length ∧ ((queueG 4 fifo []).q 7).port = 4 ∧ ∀ k < 7, ((queueG 4 fifo []).q k).port ≠ 4) ∧
    (∃ s', JobWrites (jobActor (runS (colJ 1 0 0 2)) 0 255 (colJ 1 0 0 2)) (colJ 1 0 0 2) (shR 0x20 16) (runS (colJ 1 0 0 2)) (shR 0x20 16).pieces (colJ 1 0 0 2).buf s') := by
  refine ⟨?_, by decide, by decide, by decide, ?_, by decide, by decide +kernel, writes_demo _ _ _ rfl⟩
  · intro op ho qin hi qout hq ph hp
    have h : (colS (colJ op qin qout ph) (queueG 4 [] [])).job 0 255 = colJ op qin qout ph ∧ ((colJ op qin qout ph).card.extractLsb' 0 8).toNat = 5 ∧ (colJ op qin qout ph).phase < 3 := by
      revert ph qout qin op
      decide +kernel
    refine ⟨mayRun_of rfl h.1 h.2.1 rfl h.2.2, ?_⟩
    revert ph qout qin op
    decide +kernel
  · intro k hk hr p hp
    have : k = 0 := by simp only [colG, List.length_cons, List.length_nil] at hk hr; omega
    subst this
    cases hp
    exact ⟨by decide, by decide⟩

/-- World 1 with data key 1 and one gate, through which the small context's first 64 shared bytes go; context 2 is the destination. -/
def demoGate : GateDesc := { gid := 0, world := 1, skey := 1, dkey := 1, resv := 0, resvHigh := 0, dir := 0, dctxn := 1, sbase := 0, slen := 64, dbase := 0x40, naddr := 0x10018, signed := true }
def gateJ (phase : Nat) : Job := { runJ 6 phase (2 ^ 40 * 64) with rd0 := some (shR 0x10 16), buf := if phase = 0 then [] else List.replicate 16 1 }
def gateS (phase : Nat) : State :=
  { runS (gateJ phase) with worlds := [(1, { num := 1, modelKey := 2, dataKey := 1, modelHost := none, dataHost := none, gates := [demoGate], signed := true })] }
/-- Who makes the writes of the gate. -/
def gateActor (ph : Nat) : Actor := { jobActor (gateS ph) 0 255 (gateJ ph) with ctx := demoGate.dctxn, key := some (BitVec.ofNat 8 demoGate.dkey), self := noAlias }
theorem witness_GatesAndSealedPages :
    (∀ ph ∈ [0, 1, 2], MayRun (gateS ph) (gateS ph) 0 255 6 (gateJ ph) ∧ (gateS ph).ctxOf? (gateJ ph).ctx = some demoCtx ∧ gateOk (gateS ph) demoCtx (gateJ ph).card = some demoGate ∧
      ∀ e ∈ (gateS ph).ctxs, e.2.dead = false) ∧
    (∃ bs, JobReads 0 255 (gateJ 0) (.shared 3) (gateS 0) (shR 0x10 16).pieces bs (gateS 0)) ∧
    (let w : Region := { shR 0x10 16 with base := demoGate.dbase.toNat + ((gateJ 1).card.extractLsb' 32 40).toNat }
     ∃ s', JobWrites (gateActor 1) (gateJ 1) w (gateS 1) w.pieces (gateJ 1).buf s') ∧
    (∃ y ∈ ({ gateS 2 with homeQ := [{ demoReq 3 0 with src := .job 0 255 }] } : State).homeQ, y.src = .job 0 255) ∧ (∀ y ∈ (gateS 2).homeQ, y.src ≠ .job 0 255) ∧
    jobReleased (gateS 2) (gateJ 2) = (true, gateS 2) ∧
    (let j := { gateJ 2 with scope := 5 }; (jobReleased { gateS 2 with scheds := [(0, [(255, j)])], cxl := [(0, { CxlPort.init with unacked := [⟨0, 0, 0⟩] })] } j).1 = false) ∧
    (let r := jobTarget (gateS 2) (gateActor 2) demoGate.naddr.toNat 8 .atomic (demoGate.naddr.toNat, 8)
     r.1 = .ok ∧ r.2.1 = some { demoDst with addr := 0x20018, va := 0x10018 } ∧ frameCxl r.2.2 0x20018 = none) := by
  have b : demoGate.dbase.toNat + ((gateJ 1).card.extractLsb' 32 40).toNat = 0x40 := by decide +kernel
  rw [b]
  refine ⟨?_, ⟨readPlace (gateS 0) (.shared 3) 0x10 16 ++ [], _, _, _, rfl, ⟨rfl, rfl⟩, rfl⟩, ⟨_, writePlace (gateS 1) (.shared 3) 0x40 (List.replicate 16 1), ?_, rfl⟩, by decide, by decide, by decide +kernel, by decide +kernel, by decide +kernel⟩
  · intro ph hp
    have h : (gateS ph).job 0 255 = gateJ ph ∧ ((gateJ ph).card.extractLsb' 0 8).toNat = 6 ∧ (gateJ ph).phase < 3 := by
      revert ph
      decide +kernel
    refine ⟨mayRun_of rfl h.1 h.2.1 rfl h.2.2, ?_⟩
    revert ph
    decide +kernel
  · decide +kernel
/-- SEAL of a page, while its compartment has a version of it, has none, or the stack's version store is full; UNSEAL of frame 2 and of frame 5, which holds no page of the context; with the image that the version seals, and with another. -/
def sealJ (phase : Nat) : Job := { runJ 16 phase 0 with rd0 := some (shR 0x10 16), wr := some (shR 0x20 16), buf := if phase = 0 then [] else List.replicate 16 1 }
def ver (page : DWord) : Version := { world := 1, key := 1, page := page, v := 1, stack := 0, plain := [(0, 7)] }
def sealS (phase : Nat) (vs : List Version) : State := { runS (sealJ phase) with versions := vs }
theorem witness_GatesAndSealedPages_seal :
    (∀ ph ∈ [0, 1], ∀ vs ∈ [[], [ver 0x10], List.replicate (2 ^ 20) (ver 0x20000)], MayRun (sealS ph vs) (sealS ph vs) 0 255 0x10 (sealJ ph) ∧ (sealS ph vs).ctxOf? (sealJ ph).ctx = some demoCtx ∧
      ∃ bs, JobReads 0 255 (sealJ ph) (.shared 3) (sealS ph vs) (shR 0x10 16).pieces bs (sealS ph vs)) ∧
    (let mine (y : Version) : Bool := y.world = demoCtx.world && y.key = demoCtx.ckey && y.page.toNat = (shR 0x10 16).base
     (∃ y ∈ [ver 0x10], mine y = true) ∧ (∀ y ∈ List.replicate (2 ^ 20) (ver 0x20000), mine y = false)) ∧
    (([] : List Version).filter (fun y => y.stack = (shR 0x10 16).base / 65536 % 72)).length < 2 ^ 20 ∧
    2 ^ 20 ≤ ((List.replicate (2 ^ 20) (ver 0x20000)).filter (fun y => y.stack = (shR 0x10 16).base / 65536 % 72)).length ∧
    (∃ s', JobWrites (jobActor (runS (sealJ 1)) 0 255 (sealJ 1)) (sealJ 1) (shR 0x20 16) (runS (sealJ 1)) (shR 0x20 16).pieces (sealJ 1).buf s') := by
  refine ⟨?_, ⟨⟨_, List.mem_singleton.2 rfl, by decide⟩, fun y h => by rw [List.eq_of_mem_replicate h]; decide⟩, by decide, ?_, writes_demo _ _ _ rfl⟩
  · intro ph hp vs _
    have h : ∀ ph ∈ [0, 1], (runS (sealJ ph)).job 0 255 = sealJ ph ∧ ((sealJ ph).card.extractLsb' 0 8).toNat = 16 ∧ (sealJ ph).phase < 3 ∧ (runS (sealJ ph)).ctxOf? (sealJ ph).ctx = some demoCtx := by decide +kernel
    obtain ⟨h1, h2, h3, h4⟩ := h ph hp
    exact ⟨mayRun_of rfl h1 h2 rfl h3, h4, readPlace (sealS ph vs) (.shared 3) 0x10 16 ++ [], _, _, _, rfl, ⟨rfl, rfl⟩, rfl⟩
  · rw [List.filter_replicate, if_pos (by decide), List.length_replicate]
def unsealJ (phase frame : Nat) (buf : List Byte) : Job := { runJ 17 phase (frame + 2 ^ 32 * 0x40000) with rd0 := some (shR 0x10 16), buf := buf }
/-- Whether a version is of the page; whether the bytes read are its image. -/
def mineV (y : Version) : Bool := y.world = demoCtx.world && y.key = demoCtx.ckey && y.page.toNat = 0x40000
def agreesV (buf : List Byte) (y : Version) : Bool := buf.take 32 = (Image demoCtx 0x40000 y.v.toNat).take 32 && buf.drop 64 = (Image demoCtx 0x40000 y.v.toNat).drop 64
def unsealS (phase frame : Nat) (buf : List Byte) : State := { runS (unsealJ phase frame buf) with versions := [ver 0x40000] }
theorem witness_GatesAndSealedPages_unseal :
    (∀ ph ∈ [0, 1], ∀ f ∈ [2, 5], MayRun (unsealS ph f []) (unsealS ph f []) 0 255 0x11 (unsealJ ph f []) ∧ ((unsealJ ph f []).card.extractLsb' 32 30).toNat = f ∧
      ((unsealJ ph f []).card.extractLsb' 64 56).toNat = 0x40000) ∧ (unsealS 1 2 []).ctxOf? (unsealJ 1 2 []).ctx = some demoCtx ∧
    (∃ bs, JobReads 0 255 (unsealJ 0 2 []) (.shared 3) (unsealS 0 2 []) (shR 0x10 16).pieces bs (unsealS 0 2 [])) ∧
    ((unsealS 1 2 []).dirOf 2).state ≠ 0 ∧ ((unsealS 1 2 []).dirOf 2).ktag = demoCtx.ckey ∧ ((unsealS 1 5 []).dirOf 5).state = 0 ∧
    (∃ buf, MayRun (unsealS 1 2 buf) (unsealS 1 2 buf) 0 255 0x11 (unsealJ 1 2 buf) ∧ mineV (ver 0x40000) = true ∧ agreesV buf (ver 0x40000) = true ∧
      (unsealS 1 2 buf).versions.find? (fun y => mineV y && agreesV buf y) = some (ver 0x40000)) ∧
    (∀ y ∈ (unsealS 1 2 []).versions, mineV y = true → agreesV [] y = false) := by
  have h : ∀ ph ∈ [0, 1], ∀ f ∈ [2, 5], ((unsealJ ph f []).card.extractLsb' 0 8).toNat = 17 ∧ (unsealJ ph f []).phase < 3 ∧ ((unsealJ ph f []).card.extractLsb' 32 30).toNat = f ∧
      ((unsealJ ph f []).card.extractLsb' 64 56).toNat = 0x40000 := by decide +kernel
  refine ⟨fun ph hp f hf => ⟨mayRun_of rfl rfl (h ph hp f hf).1 rfl (h ph hp f hf).2.1, (h ph hp f hf).2.2⟩, by decide +kernel,
    ⟨readPlace (unsealS 0 2 []) (.shared 3) 0x10 16 ++ [], _, _, _, rfl, ⟨rfl, rfl⟩, rfl⟩, by decide +kernel, by decide +kernel, by decide +kernel,
    ?_, by decide +kernel⟩
  have m : mineV (ver 0x40000) = true ∧ agreesV (Image demoCtx 0x40000 (ver 0x40000).v.toNat) (ver 0x40000) = true := ⟨by decide, by simp [agreesV]⟩
  refine ⟨Image demoCtx 0x40000 (ver 0x40000).v.toNat, mayRun_of rfl rfl (h 1 (by decide) 2 (by decide)).1 rfl (by show 1 < 3; decide), m.1, m.2, ?_⟩
  show List.find? _ [ver 0x40000] = _
  rw [List.find?_singleton, if_pos (by rw [m.1, m.2]; rfl)]
/-- A page of zeros goes into frame 2, block by block, from the first block on or from the last one. -/
def zeroBlocks (who : Actor) (f : Nat) : Nat → Nat → State → Option State
  | 0, _, s => some s
  | n + 1, k, s =>
    let x : GAddr := { place := .glob, addr := 65536 * f + 512 * k, key := (s.dirOf f).ktag, gc := (s.dirOf f).fmt, cp := 1, rep := none, va := 0, ctx := 1 }
    match actorHome (reach s 1 who.cl x.addr) who 0 x 512 .store 0 [(x.addr, 512)] with
    | (.ok, some _, s₁) => zeroBlocks who f n (k + 1) (storeFrame s₁ who.id (65536 * f + 512 * k) (List.replicate 512 0))
    | _ => none
theorem zeroBlocks_blocks {who : Actor} {f : Nat} {t : State} : ∀ n k s, n + k ≤ 128 → zeroBlocks who f n k s = some t → Blocks who 1 f (List.replicate 65536 0) n k s t
  | 0, _, _, _, h => by cases h; rfl
  | n + 1, k, s, b, h => by
    simp only [zeroBlocks] at h
    split at h
    · rename_i x s₁ e
      refine ⟨x, s₁, e, ?_⟩
      rw [List.drop_replicate, List.take_replicate, Nat.min_eq_left (by omega)]
      exact zeroBlocks_blocks n (k + 1) _ (by omega) h
    · cases h
theorem witness_GatesAndSealedPages_blocks : ∀ x ∈ [(128, 0), (1, 127)],
    let j := { unsealJ (if x.2 = 0 then 1 else 2) 2 [] with unit := x.2 }
    ∃ t, Blocks (jobActor (runS j) 0 255 j) 1 2 (List.replicate 65536 0) x.1 x.2 { runS j with unseals := [1] } t := by
  intro x hx
  have h : ∀ x ∈ [(128, 0), (1, 127)], x.1 + x.2 ≤ 128 ∧ let j := { unsealJ (if x.2 = 0 then 1 else 2) 2 [] with unit := x.2 }
      (zeroBlocks (jobActor (runS j) 0 255 j) 2 x.1 x.2 { runS j with unseals := [1] }).isSome = true := by decide +kernel
  obtain ⟨t, e⟩ := Option.isSome_iff_exists.1 (h x hx).2
  exact ⟨t, zeroBlocks_blocks _ _ _ (h x hx).1 e⟩

/-- A job at each point of its end; with a write under way; with a shadow reduction of its cluster to merge; with a queue entry to deliver, to a register with room, a full one, and of a group that is being saved. -/
def endJ (phase : Nat) (rd : Bool) (scope : Nat) (out : List (SMap Word)) : Job := { runJ 3 phase 0 with readsDone := rd, scope := scope, out := out, engine := 4 }
def endS (j : Job) (q : List HomeReq) (sh : List Shadow) (g : Group) : State := { runS j with homeQ := q, clusters := [(0, { Cluster.init with tlb := [demoTlb], shadow := sh })], groups := [(0, g)] }
theorem witness_JobsComplete :
    (∀ ph ∈ [0, 1, 3], ∀ rd ∈ [true, false], ∀ sc ∈ [3, 4, 5], ∀ q ∈ [[], [{ demoReq 3 0 with src := .job 0 255 }]],
      let j := endJ ph rd sc []; (endS j q [] memG).job 0 255 = j ∧ j.state = .running ∧ j.phase = ph ∧ j.readsDone = rd ∧ j.scope = sc ∧ j.cluster < 72) ∧
    (∃ r ∈ (endS (endJ 3 true 3 []) [{ demoReq 3 0 with src := .job 0 255 }] [] memG).homeQ, r.src = .job 0 255) ∧
    (let s := endS (endJ 3 true 5 []) [] [] memG
     ¬ ((∃ r ∈ s.homeQ, r.src = .job 0 255) ∨ ∃ r ∈ s.reps, r.gid = jobGid 0 255 ∧ r.write = true) ∧ (∀ r ∈ s.reps, r.write = true → r.got ≠ none) ∧ (∀ e ∈ s.cxl, e.2.unacked = []) ∧
     ∃ e ∈ ({ s with cxl := [(0, { CxlPort.init with unacked := [⟨0, 0, 0⟩] })] } : State).cxl, e.2.unacked ≠ []) ∧
    (∀ sh ∈ [[], [⟨demoDst, ⟨0, 0⟩, [1, 0, 0, 0], 0⟩]], let s := endS (endJ 3 true 4 []) [] sh memG
      let s₁ := mergeShadows s 0 (fun _ => true)
      if sh = [] then (s₁.clusterOf 0).shadow = [] ∧ ∀ r ∈ s₁.homeQ, r.src ≠ .shadow 0 else ∃ r ∈ s₁.homeQ, r.src = .shadow 0) ∧
    (∀ fifo ∈ [[], List.replicate 31 [], List.replicate 32 []], ∀ c ∈ [0, 9], let g := { queueG 1 fifo [] with sup := c != 0, trec := BitVec.ofNat 512 c }
      let s := endS (endJ 3 true 3 [[(2, 7)], []]) [] [] g
      (s.job 0 255).out = [(2, 7)] :: [[]] ∧ jobGroup s (s.job 0 255) = some (0, g) ∧ ((s.job 0 255).card.extractLsb' 0 8).toNat ≠ 5 ∧ (s.job 0 255).engine = 4 ∧
      7 < g.queues.length ∧ (g.q 7).port = 1 ∧ (∀ k < 7, (g.q k).port ≠ 1) ∧ g.tcause = c) ∧
    (32 : Nat) ≤ (List.replicate 32 ([] : SMap Word)).length := by
  refine ⟨by decide +kernel, by decide, by decide +kernel, by decide +kernel, by decide +kernel, by decide⟩

/-! ## The host path, management and losses -/

/-- A port in RUN whose windows admit sixteen tags of each kind. -/
def demoPort : Port := { trained := true, rdwin := 16, wrwin := 16, tags := [], retry := [] }
/-- A host-map entry with `low` in its low bits: valid, readable, writable; key 1; frame 2. -/
def mapE (low : Nat) : DWord := BitVec.ofNat 64 (low + 2 ^ 4 * 1 + 2 ^ 27 * 2)
/-- The payload of a fetch-add of 5 to word 1, its high half filled with `pad`. -/
def payload (pad : Byte) : List Byte := [0, 1, 0, 0, 0, 0, 0, 0, 5] ++ List.replicate 15 0 ++ List.replicate 40 pad
/-- A request at port 2 for the frame 4 of host 3, or a peer's for frame-space address 0x40000. -/
def reqH (peer : Bool) (tag : BitVec 16) (pad : Byte) : HostReq :=
  { peer := peer, host := 3, port := 2, tag := tag, addr := 0x40000, mask := 0xFF, data := payload pad, key := 1 }
/-- The module with port 2 in lifecycle state `life`, the entry `e` for the frame, and the host-fault queue `q`. -/
def hostS (life : BitVec 2) (p : Port) (e : DWord) (q : RingSt) : State :=
  { withM memG [] with
      ports := [(2, p)], hosts := [(3, { hmbase := 0, hmcount := 16, sst := [], map := [(4, e)] })], hfq := q,
      dir := [(5, { DirEntry.free with state := 1 })], mgmt := { State.reset.mgmt with life := State.reset.mgmt.life.set 2 life } }
def openQ : RingSt := ringR 0 []
def demoMiss (held : List (HostKind × HostReq × Nat)) : HostMiss :=
  { host := 3, hfn := 4, arrival := 1, deadline := 1801, joined := 0, index := 0, heldReqs := held }
theorem tagFits_demo (s : State) (h : s.portOf 2 = demoPort) : TagFits (s.portOf 2) .read 3 ∧ TagFits (s.portOf 2) .atomic 0x8003 ∧
    ¬ TagFits (s.portOf 2) .read 0x8003 ∧ ¬ TagFits (s.portOf 2) .read 16 := by
  rw [h]
  exact ⟨⟨by decide, by decide, by decide⟩, ⟨by decide, by decide, by decide⟩, fun t => absurd t.kind (by decide), fun t => absurd t.window (by decide)⟩
theorem witness_HostTransactions :
    (∀ life ∈ [0, 1, 2], (hostS life demoPort 0 openQ).mgmt.life.getD 2 0 = life ∧ (hostS life demoPort 0 openQ).portOf 2 = demoPort) ∧
    (∀ k ∈ [HostKind.read, .write, .partialWrite, .atomic], ∃ i, HostForm (reqH false 3 0) i k) ∧ (reqH false 3 0).port < 16 ∧
    AtomicForm (payload 0) ∧ (payload 0).length = 64 ∧ ¬ AtomicForm (payload 1) ∧ (payload 1).length = 64 ∧
    (∀ peer ∈ [true, false], (reqH peer 3 0).peer = peer) ∧ (reqH true 3 0).addr.toNat < 2 ^ 46 ∧ (2 : Nat) ^ 46 ≤ ({ reqH true 3 0 with addr := BitVec.allOnes 52 }).addr.toNat := by
  refine ⟨by decide, ?_, by decide, ⟨by decide, by decide, by decide⟩, by decide, fun h => absurd (h.pad 63 (by decide) (by decide) (by decide)) (by decide),
    by decide, by decide, by decide, by decide⟩
  intro k hk
  simp only [List.mem_cons, List.not_mem_nil, or_false] at hk
  rcases hk with rfl | rfl | rfl | rfl
  · exact ⟨.hostRead (reqH false 3 0), by simp [HostForm]⟩
  · exact ⟨.hostWrite (reqH false 3 0), by simp [HostForm]⟩
  · exact ⟨.hostPartialWrite (reqH false 3 0), by simp [HostForm]⟩
  · exact ⟨.hostAtomic (reqH false 3 0), by simp [HostForm]⟩
/-- The frame's entry permits both, one or none; or there is none, with an entry of the queue pending or not, the queue open, full, or behind another key. -/
theorem shows_demo (e : DWord) (k : Nat) : Shows (hostS 2 demoPort e openQ) k 3 4 e :=
  ⟨fun x h => absurd (show (none : Option HmWrite) = some x from h) (by simp), fun _ => rfl⟩
/-- A host-map write of the frame's entry. -/
def demoHw : HmWrite := { host := 3, hfn := 4, entry := mapE 3, addr := 0, done := [] }
theorem witness_HostTransactions_maps :
    (∀ low ∈ [7, 3, 5, 1], Shows (hostS 2 demoPort (mapE low) openQ) (portStack 2) 3 4 (mapE low) ∧ Maps (hostS 2 demoPort (mapE low) openQ) 3 4 (mapE low)) ∧
    Permits .atomic (mapE 7) ∧ Permits .read (mapE 3) ∧ ¬ Permits .write (mapE 3) ∧ Permits .write (mapE 5) ∧ ¬ Permits .atomic (mapE 5) ∧ ¬ Permits .read (mapE 1) ∧
    (∃ e, Shows (hostS 2 demoPort 0 openQ) (portStack 2) 3 4 e ∧ ¬ Maps (hostS 2 demoPort 0 openQ) 3 4 e) ∧
    (∀ r ∈ [true, false], ({ hostS 2 demoPort 0 openQ with resetting := r }).resetting = r) ∧
    (let s := { hostS 2 demoPort 0 openQ with misses := [demoMiss []] }
     s.misses.find? (fun m => m.host = 3 && m.hfn = 4) = some (demoMiss []) ∧ s.misses.find? (fun m => m.host = 3 && m.hfn = 5) = none) ∧
    FaultQueueOpen (hostS 2 demoPort 0 openQ) ∧ CanWrite (hostS 2 demoPort 0 openQ) openQ 32 ∧ ¬ FaultQueueOpen (hostS 2 demoPort 0 (ringR 16 [])) ∧
    FaultQueueOpen (hostS 2 demoPort 0 (ringR 14 [0])) ∧ ¬ FaultQueueOpen (hostS 2 demoPort 0 (ringR 15 [0])) ∧
    ((0 : Word) - openQ.tail).toNat < ((ringR 1 []).head - (ringR 1 []).tail).toNat ∧ (openQ.head - openQ.tail).toNat ≤ ((0 : Word) - openQ.tail).toNat := by
  refine ⟨?_, ⟨by decide, by decide⟩, ⟨by decide, by decide⟩, fun h => absurd (h.2 (by decide)) (by decide), ⟨by decide, by decide⟩,
    fun h => absurd (h.1 (.inr rfl)) (by decide), fun h => absurd (h.1 (.inl rfl)) (by decide), ⟨_, shows_demo _ _, fun h => absurd h.2.2 (by decide)⟩, by decide, by decide,
    ⟨by decide, by decide, by decide, by decide⟩, ⟨by decide, by decide, by decide, by decide, by decide, by decide⟩, fun h => absurd h.room (by decide),
    ⟨by decide, by decide, by decide, by decide⟩, fun h => absurd h.room (by decide), by decide, by decide⟩
  intro low hl
  refine ⟨shows_demo _ _, ?_⟩
  simp only [List.mem_cons, List.not_mem_nil, or_false] at hl
  rcases hl with rfl | rfl | rfl | rfl <;> exact ⟨by decide, by decide, by decide⟩
/-- While the entry is being written: a stack that holds the new one, and one that does not. -/
theorem witness_HostTransactions_replica :
    let s := { hostS 2 demoPort (mapE 7) openQ with hmWrites := [{ demoHw with done := [1] }] }
    Shows s 1 3 4 demoHw.entry ∧ Shows s 2 3 4 (mapE 7) := by
  refine ⟨⟨fun x h _ => ?_, fun h => absurd (h _ rfl) (by decide)⟩, ⟨fun x h d => ?_, fun _ => rfl⟩⟩
  · cases h; rfl
  · cases h; exact absurd d (by decide)
/-- Lines in their RETRY window: of this tag, of another, of none; a compressed page of a peer. -/
theorem witness_HostTransactions_retry :
    let p (l : List (Nat × BitVec 16)) : Port := { demoPort with retry := l }
    (∃ tag, (0x1000, tag) ∈ (p [(0x1000, 4)]).retry) ∧ (0x1000, (3 : BitVec 16)) ∉ (p [(0x1000, 4)]).retry ∧ (0x1000, (3 : BitVec 16)) ∈ (p [(0x1000, 3)]).retry ∧
    ∀ tag, (0x1000, tag) ∉ (p []).retry := by
  refine ⟨⟨4, by decide⟩, by decide, by decide, fun tag => ?_⟩
  exact List.not_mem_nil (a := ((0x1000, tag) : Nat × BitVec 16))

/-- A home with one host request for 64 bytes of frame 2: its class in the directory, its sub-frame in frost, the lost dies, poison, the clock. -/
def reqAt (op : HomeOp) (decided : Bool) : HomeReq :=
  { cls := 0, arrival := 0, src := .host (reqH false 3 0), dst := { demoDst with addr := 0x20040, cp := 1 }, op := op, pc := 0, aged := false, decided := decided }
def servS (d : DirEntry) (q : HomeReq) : State := { withM memG [] with dir := [(2, { d with state := if d.state = 2 then 2 else 1, ktag := 1 })], homeQ := [q] }
theorem homeAgrees_demo (d : DirEntry) (q : HomeReq) (h : (servS d q).dirOf (q.dst.addr / 65536) = { d with state := if d.state = 2 then 2 else 1, ktag := 1 })
    (hk : q.dst.key = 1) (hf : d.fmt = q.dst.gc) (hl : (servS d q).lost.getLsbD (72 + (servS d q).homeStack q.dst.addr) = false) :
    HomeAgrees (servS d q) (reqH false 3 0) q := by
  refine ⟨?_, ?_, .inr (.inl ?_), hl⟩
  · rw [h]; show (if d.state = 2 then (2 : BitVec 2) else 1) ≠ 0; split <;> decide
  · rw [h, hk]
  · rw [h, hf]
theorem witness_HomesServeHosts :
    (∀ op ∈ [HomeOp.hostRead, .hostWrite 0xFF (payload 0), .hostAtomic (payload 0)], ∀ b ∈ [true, false],
      let s := servS DirEntry.free (reqAt op b)
      homeTurn s 0 = some (reqAt op b) ∧ HomeAgrees s (reqH false 3 0) (reqAt op b) ∧ Clean s (reqAt op b) ∧ senseHost s (reqAt op b) = s) ∧
    (¬ HomeAgrees (servS { DirEntry.free with fmt := 5 } (reqAt .hostRead true)) (reqH false 3 0) (reqAt .hostRead true)) ∧
    (let s := { servS DirEntry.free (reqAt .hostRead true) with lost := BitVec.twoPow 144 (72 + (servS DirEntry.free (reqAt .hostRead true)).homeStack 0x20040) }
     HomeAgrees { s with lost := 0 } (reqH false 3 0) (reqAt .hostRead true) ∧ s.lost.getLsbD (72 + s.homeStack 0x20040) = true) ∧
    (∀ op ∈ [HomeOp.hostRead, .hostWrite 0xFF (payload 0), .hostAtomic (payload 0)],
      ¬ Clean { servS DirEntry.free (reqAt op true) with poison := [(0x20040 / 32, ())] } (reqAt op true)) := by
  refine ⟨?_, fun h => ?_, ?_, ?_⟩
  · intro op ho b hb
    have k : ∀ op ∈ [HomeOp.hostRead, .hostWrite 0xFF (payload 0), .hostAtomic (payload 0)], ∀ b ∈ [true, false], let s := servS DirEntry.free (reqAt op b)
        homeTurn s 0 = some (reqAt op b) ∧ poisoned s 0x20040 64 = false ∧ (∀ w ∈ (reqAt op b).writes, poisonStops s (0x20040 + w.1) w.2 (reqAt op b).whole = false) ∧
        senseHost s (reqAt op b) = s ∧ s.dirOf ((reqAt op b).dst.addr / 65536) = { DirEntry.free with state := if DirEntry.free.state = 2 then 2 else 1, ktag := 1 } ∧ s.lost.getLsbD (72 + s.homeStack 0x20040) = false := by decide +kernel
    have k := k op ho b hb
    exact ⟨k.1, homeAgrees_demo DirEntry.free (reqAt op b) k.2.2.2.2.1 rfl rfl k.2.2.2.2.2, ⟨fun _ => k.2.1, fun _ => k.2.2.1⟩, k.2.2.2.1⟩
  · rcases h.format with h | h | h
    · exact absurd h (by decide)
    · exact absurd h (by decide)
    · exact absurd h.1 (by decide)
  · exact ⟨⟨by decide, by decide, .inr (.inl (by decide)), by decide⟩, by decide⟩
  · intro op ho h
    simp only [List.mem_cons, List.not_mem_nil, or_false] at ho
    rcases ho with rfl | rfl | rfl
    · exact absurd (h.1 rfl) (by decide)
    · exact absurd (h.2 (by decide)) (by decide +kernel)
    · exact absurd (h.2 (by decide)) (by decide +kernel)
/-- A frost image with a bad granule; a CXL frame whose line has come from its expander, and one whose line has not. -/
theorem witness_HomesServeHosts_frost :
    poisoned { servS { DirEntry.free with frost := 1 } (reqAt .hostRead true) with poison := [(0x20040 / 32, ())] } 0x20040 64 = true ∧
    ¬ (poisoned (servS { DirEntry.free with frost := 1 } (reqAt .hostRead true)) 0x20040 64 = true ∨ imageDecode (servS { DirEntry.free with frost := 1 } (reqAt .hostRead true)) 0x20040 = none) ∧
    (∀ op ∈ [HomeOp.hostRead, .hostAtomic (payload 0)], ∀ ready ∈ [[], [0x20040 / 64]],
      let r := { reqAt op true with dst := { demoDst with addr := 0x20040, cp := 1, gc := 5 } }
      let s := { servS { DirEntry.free with fmt := 5, skind := 2 } r with cxl := (List.range 72).map (fun k => (k, { CxlPort.init with trained := true, ready := ready })) }
      homeTurn s 0 = some r ∧ (s.dirOf 2).fmt = 5 ∧ (0x20040 / 64 ∈ (s.cxlOf (cxlPortOf (s.homeStack 0x20040))).ready ↔ ready ≠ [])) := by
  refine ⟨by decide +kernel, by decide +kernel, by decide +kernel⟩
/-- In time and too late; in frost and not; under the copy cursor and not; compressed and not. -/
theorem witness_HomesServeHosts_cases :
    (∀ d ∈ [DirEntry.free, { DirEntry.free with frost := 1 }, { DirEntry.free with state := 2, cursor := 0 }, { DirEntry.free with state := 2, cursor := 1 },
        { DirEntry.free with frost := 2 }, { DirEntry.free with pv := true, prevfmt := 0, fmt := 5 }], ∀ op ∈ [HomeOp.hostRead, .hostAtomic (payload 0)],
      ¬ TooLate (servS d (reqAt op false)) (reqAt op false) ∧ TooLate { servS d (reqAt op false) with clock := 3000 } (reqAt op false)) ∧
    (let d := { DirEntry.free with frost := 1 }; (servS d (reqAt .hostRead false)).dirOf 2 = { d with state := 1, ktag := 1 } ∧ d.frost.getLsbD 0 = true) ∧
    (let d := { DirEntry.free with state := 2, cursor := 0 }; (servS d (reqAt .hostRead false)).dirOf 2 = { d with ktag := 1 } ∧ d.cursor.toNat = 0x40 / 512) ∧
    (let x : Thaw := { frame := 2, sub := 0, host := true, bg := false }
     (∃ y ∈ ({ servS DirEntry.free (reqAt .hostRead false) with thaws := [x] }).thaws, y.frame = x.frame ∧ y.sub = x.sub) ∧ ∀ y ∈ (servS DirEntry.free (reqAt .hostRead false)).thaws, ¬ (y.frame = x.frame ∧ y.sub = x.sub)) := by
  refine ⟨?_, by decide, by decide, by decide⟩
  intro d hd op ho
  simp only [List.mem_cons, List.not_mem_nil, or_false] at hd ho
  rcases hd with rfl | rfl | rfl | rfl | rfl | rfl <;> rcases ho with rfl | rfl <;>
    exact ⟨fun h => absurd h.2 (by decide), ⟨rfl, by decide⟩⟩

theorem witness_MissesEndAndWindowsChange :
    (∀ e ∈ [mapE 7, 0], ∀ c ∈ [1800, 1801],
      let s := { hostS 2 demoPort e openQ with misses := [demoMiss [(.read, reqH false 3 0, 1)]], clock := c }
      s.misses.find? (fun m => m.host = 3 && m.hfn = 4) = some (demoMiss [(.read, reqH false 3 0, 1)]) ∧ s.misses.find? (fun m => m.host = 3 && m.hfn = 5) = none ∧
      (∀ w ∈ s.hmWrites, ¬ (w.host = 3 ∧ w.hfn = 4)) ∧ SMap.get 0 (s.hostOf 3).map 4 = e ∧ s.clock = c ∧ (Maps s 3 4 e ↔ e = mapE 7)) ∧
    (∀ life ∈ [0, 1, 2], (hostS life demoPort 0 openQ).mgmt.life.getD 2 0 = life) ∧ (∀ b ∈ [true, false], ((hostS 0 { demoPort with trained := b } 0 openQ).portOf 2).trained = b) := by
  refine ⟨?_, by decide, by decide⟩
  intro e he c hc
  simp only [List.mem_cons, List.not_mem_nil, or_false] at he hc
  rcases he with rfl | rfl <;> rcases hc with rfl | rfl
  · exact ⟨by decide, by decide, by decide, by decide, rfl, fun _ => rfl, fun _ => ⟨by decide, by decide, by decide⟩⟩
  · exact ⟨by decide, by decide, by decide, by decide, rfl, fun _ => rfl, fun _ => ⟨by decide, by decide, by decide⟩⟩
  · exact ⟨by decide, by decide, by decide, by decide, rfl, fun h => absurd h.2.2 (by decide), fun h => absurd h (by decide)⟩
  · exact ⟨by decide, by decide, by decide, by decide, rfl, fun h => absurd h.2.2 (by decide), fun h => absurd h (by decide)⟩

theorem witness_LossesAndResets :
    (∀ bit ∈ [0, 71, 72, 143], bit < 144 ∧ State.reset.lost.getLsbD bit = false ∧ ({ State.reset with lost := BitVec.twoPow 144 bit }).lost.getLsbD bit = true) ∧
    (∀ r ∈ [true, false], ({ State.reset with resetting := r }).resetting = r) := by
  refine ⟨?_, fun r _ => rfl⟩
  decide
/-- The module with an owner and a handover pending. -/
def ownS (owner : Option Nat) (hand : Option (Nat × Nat)) : State := { withM memG [] with mgmt := { State.reset.mgmt with owner := owner, handover := hand } }
theorem witness_CommandsAreDenied :
    ∀ c : CollGroup, ∀ x ∈ [(Instr.claim 7, False), (.handover 7 8, False), (.reclaim 7, False), (.lifecycle 7 0, False), (.creset 7, False), (.setcoll 7 true c, False), (.powercap 7 12000, False)],
      ∃ ok : Prop, (x.1, ok) ∈ [(Instr.claim 7, (ownS (some 3) none).mgmt.owner = none ∨ ∃ till, (ownS (some 3) none).mgmt.handover = some (7, till) ∧ (ownS (some 3) none).clock ≤ till),
        (.handover 7 8, (ownS (some 3) none).mgmt.owner = some 7), (.reclaim 7, (7 : Nat) = 0), (.lifecycle 7 0, (ownS (some 3) none).mgmt.owner = some 7),
        (.creset 7, (ownS (some 3) none).mgmt.owner = some 7 ∨ (7 : Nat) = 81), (.setcoll 7 true c, (7 : Nat) = 81), (.powercap 7 12000, (ownS (some 3) none).mgmt.owner = some 7)] ∧ ¬ ok := by
  have o : ¬ (ownS (some 3) none).mgmt.owner = some 7 := by decide
  have n : ¬ ((ownS (some 3) none).mgmt.owner = none ∨ ∃ till, (ownS (some 3) none).mgmt.handover = some (7, till) ∧ (ownS (some 3) none).clock ≤ till) := by
    rintro (h | ⟨t, h, -⟩)
    · exact absurd h (by decide)
    · exact absurd (show (none : Option (Nat × Nat)) = some (7, t) from h) (by simp)
  intro c x hx
  simp only [List.mem_cons, List.not_mem_nil, or_false] at hx
  rcases hx with rfl | rfl | rfl | rfl | rfl | rfl | rfl
  · exact ⟨_, List.mem_cons_self .., n⟩
  · exact ⟨_, List.mem_cons_of_mem _ (List.mem_cons_self ..), o⟩
  · exact ⟨_, List.mem_cons_of_mem _ (List.mem_cons_of_mem _ (List.mem_cons_self ..)), by decide⟩
  · exact ⟨_, List.mem_cons_of_mem _ (List.mem_cons_of_mem _ (List.mem_cons_of_mem _ (List.mem_cons_self ..))), o⟩
  · exact ⟨_, List.mem_cons_of_mem _ (List.mem_cons_of_mem _ (List.mem_cons_of_mem _ (List.mem_cons_of_mem _ (List.mem_cons_self ..)))), fun h => h.elim o (by decide)⟩
  · exact ⟨_, List.mem_cons_of_mem _ (List.mem_cons_of_mem _ (List.mem_cons_of_mem _ (List.mem_cons_of_mem _ (List.mem_cons_of_mem _ (List.mem_cons_self ..))))), by decide⟩
  · exact ⟨_, List.mem_cons_of_mem _ (List.mem_cons_of_mem _ (List.mem_cons_of_mem _ (List.mem_cons_of_mem _ (List.mem_cons_of_mem _ (List.mem_cons_of_mem _ (List.mem_cons_self ..)))))), o⟩

def demoColl (n : Nat) : CollGroup := { num := n, ctx := 1, rank := 0, members := [1, 2], port := 0 }
theorem witness_CommandsAndTheirEvents :
    (∃ c, (withM memG []).ctxOf? 1 = some c) ∧ (ownS none none).mgmt.owner = none ∧ (ownS (some 7) none).mgmt.owner = some 7 ∧
    (ownS (some 3) (some (7, 1))).mgmt.handover = some (7, 1) ∧ (ownS (some 3) (some (7, 1))).clock = 1 ∧ (ownS (some 3) (some (7, 0))).mgmt.handover = some (7, 0) ∧
    (∀ x ∈ [0, 1, 2], (hostS x demoPort 0 openQ).mgmt.life[2]? = some x) ∧ (hostS 0 demoPort 0 openQ).mgmt.life[25]? = none ∧
    (∀ n ∈ [255, 256], ((withM memG []).ctxOf? (demoColl n).ctx).isSome = true ∧ ((demoColl n).num < 256 ↔ n = 255)) ∧
    SMap.find? ({ withM memG [] with colls := [(9, demoColl 9)] }).colls (demoColl 9).num ≠ none ∧ SMap.find? (withM memG []).colls (demoColl 9).num = none ∧
    (∀ x ∈ [0, 28, 29], ({ State.reset.mgmt with cap := 15000, steps := x }).steps = x) ∧
    (∀ x ∈ State.reset.mgmt.life, x = 0) ∧ (∃ x ∈ (hostS 2 demoPort 0 openQ).mgmt.life, x ≠ 0) := by
  refine ⟨⟨_, rfl⟩, rfl, rfl, rfl, rfl, rfl, by decide, by decide, by decide, by decide, by decide, fun x _ => rfl, by decide, by decide⟩

/-- A world of two tenants on keys 20 and 21, with one gate each way. -/
def demoWorld : WorldDesc :=
  { num := 1, modelKey := 20, dataKey := 21, modelHost := some 1, dataHost := some 2, signed := true,
    gates := [{ gid := 0, skey := 20, dkey := 21, dir := 1, world := 1, resv := 0, resvHigh := 0, dctxn := 5, sbase := 0, slen := 64, dbase := 0, naddr := 0, signed := true },
              { gid := 1, skey := 21, dkey := 20, dir := 2, world := 1, resv := 0, resvHigh := 0, dctxn := 5, sbase := 0, slen := 65, dbase := 0, naddr := 0, signed := true }] }
def worldS (num : Nat) : State :=
  { withM memG [] with worlds := [(num, { demoWorld with modelKey := 30, dataKey := 31, modelHost := none, dataHost := none })],
                       mgmt := { State.reset.mgmt with life := State.reset.mgmt.life.map (fun _ => 2) } }
theorem witness_WorldsComeAndGo :
    WorldFits (worldS 2) demoWorld ∧ ¬ WorldFits (worldS 1) demoWorld ∧ (∃ g ∈ demoWorld.gates, GateFits demoWorld g) ∧ ∃ g ∈ demoWorld.gates, ¬ GateFits demoWorld g := by
  refine ⟨⟨rfl, by decide, by decide, ⟨by decide, ?_⟩, ?_, by decide⟩, fun h => absurd h.num.2.2 (by decide), ⟨_, List.mem_cons_self .., rfl, by decide +kernel⟩,
    ⟨_, List.mem_cons_of_mem _ (List.mem_cons_self ..), fun h => absurd h.2.2.2.2.2.1 (by decide)⟩⟩
  · rintro k (rfl | rfl) <;> exact ⟨by decide, by decide, by decide⟩
  · rintro h (e | e) <;> obtain rfl := Option.some.inj e <;> exact ⟨by decide, by decide⟩

/-! ## One step of what the witnesses above prepare -/

/-- The next state satisfies `f`. -/
def sees (i : Instr) (s : State) (f : State → Bool) : Bool :=
  match exec i s with
  | .next t => f t
  | _ => false
/-- R359, R360: EXPB grows by the count 16 and EXPARR becomes 3; 0xF4 makes the object idle; the test of a complete phase and of one that is not. -/
theorem test_barrier_forms :
    sees (.bexp (frm 0x2F 0 0 11 3 0)) (barS (memG.setS 11 16) (obj2 0)) (fun t => (SMap.find? t.teams 3).any (fun x => (x.obj 15).close.1.expb == 16 && (x.obj 15).close.1.exparr == 3)) ∧
    sees (.bexp (frm 0x2F 0 0 11 0xF4 0)) (barS (memG.setS 11 16) (obj2 0)) (fun t => (SMap.find? t.teams 3).any (fun x => (x.obj 15).close.1.exparr == 0)) ∧
    sees (.btest (frm 15 5 0 0 0 0)) (barS memG { obj2 0 with phase := true }) (fun t => (SMap.find? t.groups 0).any (fun g => g.p 5 == 5)) ∧
    sees (.btest (frm 15 5 0 0 0 0)) (barS (memG.setP 5 2 1) (obj2 0)) (fun t => (SMap.find? t.groups 0).any (fun g => g.p 5 == 0)) := by decide +kernel
/-- R108: at the end of its cycle the second of two arrivals ends the phase, and one more does not count. -/
theorem test_barrier_arrivals :
    sees (.barrierArrival 0 0) (barS (headG (.arrive 15 5 0x2000 0x2004 1)) (obj2 1))
      (fun t => (SMap.find? t.teams 3).any (fun x => (x.obj 15).close.1.phase && (x.obj 15).close.1.arr == 0) && (SMap.find? t.groups 0).any (fun g => g.sq == [])) ∧
    sees (.barrierArrival 0 0) (barS (headG (.arrive 15 5 0x2000 0x2004 1)) (obj2 2))
      (fun t => (SMap.find? t.teams 3).any (fun x => (x.obj 15).close.2.map (fun e => (e.1.idx, e.2)) == [(1, false)])) := by decide +kernel
/-- R384, R386: jumps and loops count 8-byte words; mzero clears two slots of 8 KiB; mend stops the stream. -/
theorem test_matrix_flow :
    sees (.mjmp 0xFFFFFFFE) (mtxS 16 { runQ with soff := 0x40 } demoObj []) (fun t => (t.seqOf 0).soff == 0x30) ∧
    sees (.mloop ⟨true, false, 3, 0xFFFFFFFE⟩) (mtxS 16 { runQ with soff := 0x40, lact1 := true, lc1 := 1 } demoObj []) (fun t => (t.seqOf 0).soff == 0x30 && (t.seqOf 0).lc1 == 0) ∧
    sees (.mloop ⟨true, false, 3, 0xFFFFFFFE⟩) (mtxS 16 { runQ with soff := 0x40, lact1 := true, lc1 := 0 } demoObj []) (fun t => (t.seqOf 0).soff == 0x48 && !(t.seqOf 0).lact1) := by decide +kernel
theorem test_matrix_words :
    sees (.mzero 1 1) (mtxS 16 { runQ with acc := [(8191, 1), (8192, 2), (24575, 3), (24576, 4)] } demoObj []) (fun t => (t.seqOf 0).acc == [(8191, 1), (24576, 4)]) ∧
    sees .mend (mtxS 16 runQ demoObj []) (fun t => (t.seqOf 0).state == 0) ∧
    sees (.mstreamUnassignedWord 0x0E00000000000000) (mtxS 16 { runQ with soff := 8 } demoObj []) (fun t => (t.seqOf 0).state == 3 && (t.seqOf 0).reason == 1 && (t.seqOf 0).soff == 8) := by decide +kernel
/-- R81: an entry of the host-fault queue: HOST 3, KIND 0, PORT 2, TAG 3, ARRIVAL 1, DEADLINE 1,801; a second miss of the frame joins it. -/
theorem test_host_miss :
    sees (.hostRead (reqH false 3 0)) (hostS 2 demoPort 0 openQ) (fun t => t.hfq.head == 1 && readBytes t.mem 0x50000 12 == [3, 2, 3, 0, 0, 0, 0, 0, 0, 0, 4, 0] &&
      readBytes t.mem 0x50010 10 == [1, 0, 0, 0, 0, 0, 0, 0, 0x09, 0x07] && t.misses.map (fun m => (m.hfn, m.deadline)) == [(4, 1801)]) ∧
    sees (.hostRead (reqH false 3 0)) { hostS 2 demoPort 0 (ringR 1 []) with misses := [demoMiss []] } (fun t => readBytes t.mem 0x50004 2 == [1, 0] && t.hfq.head == 1) := by decide +kernel
/-- R78: a mapped read goes to its home as a class 0 request, its tag outstanding; R433: a tag in use breaks the window rules. -/
theorem test_host_read :
    sees (.hostRead (reqH false 3 0)) (hostS 2 demoPort (mapE 7) openQ) (fun t => t.homeQ.map (fun r => (r.cls, r.dst.addr, r.dst.key)) == [(0, 0x20000, 1)] && (t.portOf 2).tags == [3] && t.sent == []) ∧
    sees (.hostWrite (reqH false 0x8003 0)) (hostS 2 demoPort (mapE 3) openQ) (fun t => t.sent.map (fun c => (c.port, c.tag, c.status)) == [(2, 0x8003, 2)] && t.homeQ == []) ∧
    sees (.hostRead (reqH false 3 0)) (hostS 2 { demoPort with tags := [3] } (mapE 7) openQ) (fun t => t.homeQ == [] && t.sent == []) := by decide +kernel
/-- R433: bytes under their enables; a fetch-add of 5 to the word at 0x20048 answers with its old value. -/
theorem test_home_serves_host :
    sees (.homeAccess 0) { servS DirEntry.free (reqAt (.hostWrite 0x0A (List.replicate 64 7)) false) with mem := [(0x20042, 9)] }
      (fun t => readBytes t.mem 0x20040 5 == [0, 7, 9, 7, 0] && t.sent.map (fun c => c.status) == [0] && t.homeQ == []) ∧
    sees (.homeAccess 0) { servS DirEntry.free (reqAt (.hostAtomic (payload 0)) false) with mem := [(0x20048, 0xFF)] }
      (fun t => readNat t.mem 0x20048 8 == 0x104 && t.sent.map (fun c => c.data.take 2) == [[0xFF, 0]]) := by decide +kernel
/-- R436-R438, R444: a claim of a module without owner, a handover, a step of the lifecycle, a power cap out of range. -/
theorem test_commands :
    sees (.claim 7) (ownS none none) (fun t => t.mgmt.owner == some 7 && t.mgmt.replies.map (fun r => (r.master, r.status)) == [(7, 0)]) ∧
    sees (.claim 7) (ownS (some 3) none) (fun t => t.mgmt.owner == some 3 && t.mgmt.replies.map (fun r => r.status) == [1]) ∧
    sees (.lifecycle 7 24) (ownS (some 7) none) (fun t => t.mgmt.life[24]? == some 1 && t.mgmt.life[23]? == some 0) ∧
    sees (.powercap 7 9999) (ownS (some 7) none) (fun t => t.mgmt.replies.map (fun r => r.status) == [2]) := by decide +kernel
/-- R158: the gate whose length is no multiple of 64 is not accepted. -/
theorem test_worlds :
    sees (.worldCreate demoWorld) (worldS 2) (fun t => (SMap.find? t.worlds 1).any (fun d => d.gates.map (fun g => g.gid) == [0])) ∧
    sees (.worldEnd 2) { worldS 2 with evict := [(0x205, 1), (0x305, 2)] } (fun t => SMap.find? t.worlds 2 == none && SMap.find? t.evict 0x205 == none && SMap.find? t.evict 0x305 == some 2) := by decide +kernel
/-- R48-R55: a frame of each granule class; bytes of each length. -/
theorem witness_GranulesOnTheirPins : ∀ gc ∈ [0, 1, 2, 3, 4], let s := servS { DirEntry.free with fmt := gc } (reqAt .hostRead true)
    (s.fmtAt 0x20000).toNat = gc.toNat ∧ gc.toNat < 5 ∧ 0x20000 % 4096 = 0 ∧ (List.replicate (granuleBytes gc) 255).length = granuleBytes gc ∧
    (∃ c ∈ codewords gc, 0 < c.check.length) := by decide +kernel
/-- R50: in class 0 byte 5 is on DQ8 to DQ15 in beat 1; in class 2 bit 3 of byte 70 on DQ6 of the third sub-channel in beat 3, and check symbol 9 on its CB1. -/
theorem test_pins : dataPin 0 5 7 = ⟨0, 15, 1⟩ ∧ dataPin 2 70 3 = ⟨2, 6, 3⟩ ∧ checkPin 9 3 = ⟨2, 1, 3⟩ := by decide
/-- R54, R56: two wrong symbols of 36 are found; of three, the decode says no. -/
theorem test_reed_solomon :
    rsMul 2 0x80 = 0x1D ∧ rsGen 4 = [1, 15, 54, 120, 64] ∧
    (let wrong (l : List Nat) : List Nat := (List.range 36).map (fun i => if i ∈ l then 0x40 + i else 0)
     rsDecode 4 (wrong [0, 35]) = some (wrong [0, 35]) ∧ rsDecode 4 (wrong [3, 17, 35]) = none) := by decide +kernel
/-- R53: the AES-256 example of FIPS 197, appendix C.3. -/
theorem test_aes : aesEncrypt (List.range 32) ((List.range 16).map (fun i => 17 * i)) =
    [0x8E, 0xA2, 0xB7, 0xCA, 0x51, 0x67, 0x45, 0xBF, 0xEA, 0xFC, 0x49, 0x90, 0x4B, 0x49, 0x60, 0x89] := by decide +kernel

end Sys2Proof.Tests
end

section
/-! PROOFS (00_scope). Laws of sparse maps and of the module's parts that resets and losses need beside those above. -/

namespace Sys2Proof.SMap

variable {α β : Type}

theorem find?_map (m : SMap α) (f : α → β) (n : Nat) :
    find? (m.map (fun e => (e.1, f e.2))) n = (find? m n).map f := by
  induction m with
  | nil => rfl
  | cons e m ih =>
    simp only [List.map_cons, find?, ih]
    split <;> rfl

theorem find?_eq_none_of_forall_ne {m : SMap α} {n : Nat} (h : ∀ e ∈ m, e.1 ≠ n) : find? m n = none := by
  induction m with
  | nil => rfl
  | cons e m ih =>
    simp only [find?, if_neg (h e List.mem_cons_self)]
    exact ih fun x hx => h x (List.mem_cons_of_mem _ hx)

/-- A table that lists `f i` under the key `k i`. -/
theorem find?_table {k : Nat → Nat} (hk : Function.Injective k) (f : Nat → α) (l : List Nat) (j : Nat) :
    find? (l.map (fun i => (k i, f i))) (k j) = if j ∈ l then some (f j) else none := by
  induction l with
  | nil => rfl
  | cons i l ih =>
    simp only [List.map_cons, find?, ih, hk.eq_iff, List.mem_cons, eq_comm (a := j)]
    by_cases h : i = j <;> simp [h]

theorem get_filter_key (d : α) (m : SMap α) (p : Nat → Bool) (k : Nat) :
    get d (m.filter (fun e => p e.1)) k = if p k then get d m k else d := by
  unfold get
  rw [find?_filter_key]
  split <;> rfl

theorem get_del (d : α) (m : SMap α) (n k : Nat) : get d (del m n) k = if k = n then d else get d m k := by
  unfold get
  by_cases h : k = n <;> simp [h]

end Sys2Proof.SMap

namespace Sys2Proof.Machine

/-! ## The groups of the service cores -/

/-- R10, R222: each service core holds its group in slot 0. -/
theorem find?_serviceGroups {core : Nat} (lo : 1152 ≤ core) (hi : core < 1352) :
    SMap.find? serviceGroups (64 * core) = some (Group.service core) := by
  have key : Function.Injective (fun i => 64 * (1152 + i)) := fun i j h => by simpa using h
  have h := SMap.find?_table key (fun i => Group.service (1152 + i)) (List.range 200) (core - 1152)
  rwa [if_pos (List.mem_range.mpr (by omega)), show 1152 + (core - 1152) = core by omega] at h

theorem find?_serviceGroups_eq_none {gid : Nat} (h : coreOfGid gid < 1152 ∨ 1352 ≤ coreOfGid gid) :
    SMap.find? serviceGroups gid = none := by
  refine SMap.find?_eq_none_of_forall_ne fun e he => ?_
  obtain ⟨i, hi, rfl⟩ := List.mem_map.mp he
  have := List.mem_range.mp hi
  unfold coreOfGid at h
  simp only [ne_eq]
  omega

/-- R222: where some dies are lost, the service cores of the others have their groups. -/
theorem find?_enabledServiceGroups (s : State) (gid : Nat) :
    SMap.find? (serviceGroups.filter (fun e => s.coreEnabled (coreOfGid e.1))) gid =
      if 1280 ≤ coreOfGid gid ∧ s.lost.getLsbD (coreOfGid gid - 1280) = true then none else SMap.find? serviceGroups gid := by
  rw [SMap.find?_filter_key serviceGroups (fun k => s.coreEnabled (coreOfGid k)) gid]
  by_cases service : 1152 ≤ coreOfGid gid ∧ coreOfGid gid < 1352
  · have enabled : s.coreEnabled (coreOfGid gid) = !decide (1280 ≤ coreOfGid gid ∧ s.lost.getLsbD (coreOfGid gid - 1280) = true) := by
      unfold State.coreEnabled
      rw [if_neg (by omega)]
      by_cases ring : coreOfGid gid < 1280
      · simp [ring]
      · simp [ring, service.2, Nat.le_of_not_lt ring]
    rw [enabled]
    simp only [Bool.not_eq_true', decide_eq_false_iff_not, ite_not]
  · rw [find?_serviceGroups_eq_none (by omega)]
    simp only [ite_self]

/-! ## The parts of the reset state -/

@[simp] theorem State.reset_coreOf (core : Nat) : State.reset.coreOf core = CoreSt.init := rfl
@[simp] theorem State.reset_stackOf (k : Nat) : State.reset.stackOf k = Stack.init := rfl
@[simp] theorem State.reset_dirOf (f : Nat) : State.reset.dirOf f = DirEntry.free := rfl
@[simp] theorem State.reset_seqOf (key : Nat) : State.reset.seqOf key = Seq.init := rfl

/-- R12: context 0 alone is live. -/
theorem State.reset_ctxOf?_isSome (c : Nat) : (State.reset.ctxOf? c).isSome = decide (c = 0) := by
  by_cases h : c = 0 <;> simp [State.ctxOf?, State.reset, SMap.find?, h, Ne.symm]

/-! ## Losses, resets and worlds: their rows of the opcode table, and the operations they share -/

theorem exec_dieLost (bit : Nat) (s : State) : exec (.dieLost bit) s = execDieLost bit s := rfl
theorem exec_warmReset (die : Nat) (s : State) : exec (.warmReset die) s = execWarmReset die s := rfl
theorem exec_moduleReset (s : State) : exec .moduleReset s = execModuleReset s := rfl
theorem exec_computeResetEnd (s : State) : exec .computeResetEnd s = execComputeResetEnd s := rfl
theorem exec_thermalTrip (bit : Nat) (s : State) : exec (.thermalTrip bit) s = execThermalTrip bit s := rfl
theorem exec_worldCreate (d : WorldDesc) (s : State) : exec (.worldCreate d) s = execWorldCreate d s := rfl
theorem exec_worldEnd (n : Nat) (s : State) : exec (.worldEnd n) s = execWorldEnd n s := rfl

/-- R220: the jobs that end are those of one scheduler. -/
theorem find?_endJobs_scheds (s : State) (sched status : Nat) (pick : Job → Bool) (k : Nat) :
    SMap.find? (endJobs s sched status pick).scheds k = if k = sched then
      (SMap.find? s.scheds sched).map (fun m => m.map (fun e => (e.1, if e.2.live && pick e.2 then e.2.end status else e.2)))
    else SMap.find? s.scheds k :=
  SMap.find?_alter ..

/-- R433: a completion frees its tag at its port. -/
theorem portOf_complete (s : State) (p : Nat) (tag : BitVec 16) (status : Nat) (data : List Byte) (q : Nat) :
    (complete s p tag status data).portOf q = if q = p then { s.portOf p with tags := (s.portOf p).tags.erase tag } else s.portOf q :=
  SMap.get_set ..

end Sys2Proof.Machine
end

section
/-! PROOFS (00_scope). What a module reset leaves (O26); losses and resets of dies and of the module, and tenant worlds (O59): a lemma for each row, from a lemma for each operation. -/

namespace Sys2Proof.Claims

open Machine

/-! ## What a module reset leaves -/

/-- Settles O26: the reset state lists nothing but context 0, the hosts' maps and the service cores' groups, so that every other part reads as its reset value. -/
theorem resetLeaves : Obligations.ResetLeaves :=
  ⟨reset_memory_wf, rfl, rfl, rfl, rfl,
    fun core => by rw [State.reset_coreOf]; exact ⟨rfl, rfl, rfl, rfl⟩,
    fun k => by rw [State.reset_stackOf]; exact ⟨rfl, rfl, rfl, rfl⟩,
    State.reset_dirOf,
    fun key => by rw [State.reset_seqOf]; exact ⟨rfl, rfl⟩,
    State.reset_ctxOf?_isSome,
    fun _ lo hi => ⟨_, find?_serviceGroups lo hi, rfl, rfl, rfl⟩⟩

/-! ## Loss and warm reset of a die -/

theorem onDie_iff (core d : Nat) : onDie core d = true ↔ CoreOnDie core d := by
  simp only [onDie, CoreOnDie, Bool.or_eq_true, Bool.and_eq_true, decide_eq_true_eq, and_comm]

theorem lossHeld_holdDieloss (s : State) (bit reason : Nat) : LossHeld s (holdDieloss s bit reason) bit reason :=
  ⟨rfl, SMap.find?_map s.groups (heldLoss s bit reason)⟩

/-- R219-R221: the die's part of every table goes, and every other part stays. The collective engine's scheduler, 255, is no die's. -/
theorem dieGone_dropDie (s : State) {d : Nat} (hd : d < 72) : DieGone s (dropDie s d) d where
  rest := rfl
  groups gid := by
    refine (SMap.find?_filter_key s.groups (fun k => !onDie (coreOfGid k) d) gid).trans ?_
    by_cases h : onDie (coreOfGid gid) d <;> simp [h, ← onDie_iff]
  teams := ⟨rfl, List.filter_congr fun x _ => by simp [← onDie_iff]⟩
  seqs k := by
    refine (SMap.get_filter_key Seq.init s.seqs (fun k => k / 64 ≠ d) k).trans ?_
    by_cases h : k / 64 = d <;> simp [h, State.seqOf]
  cores := by
    simp only [← onDie_iff]
    exact List.filter_congr fun e _ => decide_not.symm
  cluster k := SMap.get_del Cluster.init s.clusters d k
  jobs := by
    refine ⟨?_, fun k hk hs => ?_, ?_⟩
    · exact (find?_endJobs_scheds ..).trans (by rw [if_neg (by omega)]; exact SMap.find?_del_same ..)
    · exact (find?_endJobs_scheds ..).trans (by rw [if_neg hs]; exact SMap.find?_del_other _ hk)
    · refine (find?_endJobs_scheds ..).trans ?_
      rw [if_pos rfl, show SMap.find? _ 255 = _ from SMap.find?_del_other s.scheds (show 255 ≠ d by omega)]
      simp only [Bool.and_eq_true, decide_eq_true_eq]
  waits := ⟨List.filter_congr fun x _ => by simp [← onDie_iff],
    List.filter_congr fun r _ => by rw [Bool.eq_iff_iff]; simp [← onDie_iff]⟩

theorem kernelBack_restoreKernel (s : State) (die : Nat) : KernelBack s (restoreKernel s die) die := by
  unfold KernelBack restoreKernel
  refine ⟨fun anew => ?_, fun g m kept stands => ⟨_, ?_, rfl⟩⟩
  · have none_kept : (if s.lost.getLsbD (72 + checkpointStack die) then none
        else (SMap.get DieKernel.init s.dieKernels die).checkpoint) = none := by
      rcases anew with h | h <;> simp [h]
    simp only [none_kept, Option.isNone_none, if_true]
  · have some_kept : (if s.lost.getLsbD (72 + checkpointStack die) then none
        else (SMap.get DieKernel.init s.dieKernels die).checkpoint) = some (g, m) := by
      rw [if_neg stands, kept]
    simp only [some_kept, Option.isNone_some, Bool.false_eq_true, if_false]
    rfl

theorem dieLost_spec (s : State) (bit : Nat) (hb : bit < 144) (stands : s.lost.getLsbD bit = false) :
    ∃ s₁ s₂, LossHeld { s with lost := s.lost ||| BitVec.twoPow 144 bit } s₁ bit 0 ∧ (bit < 72 → DieGone s₁ s₂ bit) ∧
      (72 ≤ bit → s₂ = s₁) ∧ exec (.dieLost bit) s = .next (checkPlaceable (postEvent s₂ 0x08 bit 0)) := by
  let s₁ := holdDieloss { s with lost := s.lost ||| BitVec.twoPow 144 bit } bit 0
  refine ⟨s₁, if bit < 72 then dropDie s₁ bit else s₁, lossHeld_holdDieloss .., fun h => ?_, fun h => if_neg (by omega), ?_⟩
  · rw [if_pos h]; exact dieGone_dropDie s₁ h
  · rw [exec_dieLost, execDieLost, if_neg (by simp [stands]; omega)]

theorem dieLost_idle (s : State) (bit : Nat) (h : 144 ≤ bit ∨ s.lost.getLsbD bit = true) : exec (.dieLost bit) s = .next s := by
  rw [exec_dieLost, execDieLost, if_pos (by simpa using h)]

theorem warmReset_spec (s : State) (die : Nat) (hd : die < 72) (stands : s.lost.getLsbD die = false) :
    ∃ s₁ s₂ s₃, LossHeld s s₁ die 1 ∧ DieGone s₁ s₂ die ∧ KernelBack s₂ s₃ die ∧
      exec (.warmReset die) s = .next (if s.resetting then s₂ else checkPlaceable s₃) := by
  refine ⟨_, _, _, lossHeld_holdDieloss s die 1, dieGone_dropDie _ hd, kernelBack_restoreKernel _ die, ?_⟩
  rw [exec_warmReset, execWarmReset, if_neg (by simp [stands]; omega)]
  rfl

/-! ## Resets of the module and of its compute side -/

theorem moduleReset_spec (s : State) : ∃ t, exec .moduleReset s = .next t ∧
    t = { State.reset with inputs := s.inputs, lost := s.lost, groups := t.groups, ctxs := [(0, Ctx.kernelOn s.lost)] } ∧ ServiceRestart s t :=
  ⟨_, exec_moduleReset s, rfl, find?_enabledServiceGroups { State.reset with lost := s.lost }⟩

theorem computeResetEnd_spec (s : State) (h : s.resetting = true) : ∃ t, exec .computeResetEnd s = .next t ∧
    t = { s with resetting := false, ctxs := [(0, Ctx.kernelOn s.lost)], groups := t.groups } ∧ ServiceRestart s t := by
  rw [exec_computeResetEnd, execComputeResetEnd, if_neg (by simp [h])]
  exact ⟨_, rfl, rfl, find?_enabledServiceGroups s⟩

theorem computeResetEnd_idle (s : State) (h : s.resetting = false) : exec .computeResetEnd s = .next s := by
  rw [exec_computeResetEnd, execComputeResetEnd, if_pos (by simp [h])]

theorem allReplied_complete (hs : List HostReq) (s : State) (status : Nat) :
    AllReplied s (hs.foldl (fun s h => complete s h.port h.tag status []) s) hs status := by
  induction hs generalizing s with
  | nil => exact ⟨by simp, fun q => rfl⟩
  | cons h hs ih =>
    obtain ⟨frame, ports⟩ := ih (complete s h.port h.tag status [])
    refine ⟨?_, fun q => ?_⟩
    · rw [List.foldl_cons, frame]
      simp [complete, State.setPort]
    · rw [List.foldl_cons, ports q, portOf_complete]
      by_cases hq : h.port = q
      · simp [hq]
      · simp [hq, Ne.symm hq]

/-- R83: the held misses complete with RESET; of what waits at the homes, the hosts' and the engines' requests stay. -/
theorem computeReset_spec (s : State) : ComputeReset s (computeReset s) := by
  obtain ⟨frame, ports⟩ := allReplied_complete ((s.misses.flatMap (fun m => m.heldReqs)).map (fun x => x.2.1)) { s with misses := [] } 4
  rw [List.foldl_map] at frame ports
  refine ⟨{ s with ports := _, sent := _ }, ⟨rfl, ports⟩, ?_⟩
  unfold computeReset
  simp only
  rw [frame]
  congr 1
  exact List.filter_congr fun r _ => by rw [HomeReq.ofEngine]; cases r.src <;> simp

theorem thermalTrip_spec (s : State) (bit : Nat) (hb : bit < 144) :
    ∃ s₁, ComputeReset s s₁ ∧ exec (.thermalTrip bit) s = .next (postEvent s₁ 0x0C bit 0) :=
  ⟨_, computeReset_spec s, by rw [exec_thermalTrip, execThermalTrip, if_neg (by omega)]⟩

/-! ## Tenant worlds -/

theorem gateAccepted_iff (d : WorldDesc) (g : GateDesc) : gateAccepted d g = true ↔ GateFits d g := by
  simp only [gateAccepted, GateFits, Bool.and_eq_true, Bool.or_eq_true, decide_eq_true_eq, and_assoc]

/-- R158: the step of acceptGates: after the gates `l`, the next is accepted when it fits and its number is new. -/
def takeGate (d : WorldDesc) (l : List GateDesc) (g : GateDesc) : List GateDesc :=
  if gateAccepted d g && l.all (fun x => x.gid ≠ g.gid) then l ++ [g] else l

theorem acceptGates_eq_foldl (d : WorldDesc) : acceptGates d = d.gates.foldl (takeGate d) [] := rfl

/-- Of the gates `seen`, those in `l` have been accepted: each fits, no two have one number, and each number of a gate that fits is there. -/
structure GatesTaken (d : WorldDesc) (seen l : List GateDesc) : Prop where
  fit   : ∀ g ∈ l, g ∈ seen ∧ GateFits d g
  apart : (l.map (fun g => g.gid)).Nodup
  all   : ∀ g ∈ seen, GateFits d g → ∃ g' ∈ l, g'.gid = g.gid

theorem gatesTaken_takeGate {d : WorldDesc} {seen l : List GateDesc} (h : GatesTaken d seen l) (g : GateDesc) :
    GatesTaken d (seen ++ [g]) (takeGate d l g) := by
  unfold takeGate
  split
  case isTrue new =>
    simp only [Bool.and_eq_true, gateAccepted_iff, List.all_eq_true, decide_eq_true_eq] at new
    obtain ⟨fits, fresh⟩ := new
    refine ⟨fun x hx => ?_, ?_, fun x hx hf => ?_⟩
    · rcases List.mem_append.mp hx with old | last
      · exact ⟨List.mem_append_left _ (h.fit x old).1, (h.fit x old).2⟩
      · obtain rfl := List.mem_singleton.mp last
        exact ⟨by simp, fits⟩
    · rw [List.map_append, List.nodup_append]
      simpa [h.apart] using fresh
    · rcases List.mem_append.mp hx with old | last
      · obtain ⟨y, hy, e⟩ := h.all x old hf
        exact ⟨y, List.mem_append_left _ hy, e⟩
      · obtain rfl := List.mem_singleton.mp last
        exact ⟨x, by simp, rfl⟩
  case isFalse old =>
    refine ⟨fun x hx => ⟨List.mem_append_left _ (h.fit x hx).1, (h.fit x hx).2⟩, h.apart, fun x hx hf => ?_⟩
    rcases List.mem_append.mp hx with seen | last
    · exact h.all x seen hf
    · obtain rfl := List.mem_singleton.mp last
      simpa [(gateAccepted_iff d x).mpr hf] using old

theorem gatesTaken_foldl {d : WorldDesc} (gs : List GateDesc) {seen l : List GateDesc} (h : GatesTaken d seen l) :
    GatesTaken d (seen ++ gs) (gs.foldl (takeGate d) l) := by
  induction gs generalizing seen l with
  | nil => simpa using h
  | cons g gs ih => simpa using ih (gatesTaken_takeGate h g)

theorem gatesTaken_acceptGates (d : WorldDesc) : GatesTaken d d.gates (acceptGates d) := by
  rw [acceptGates_eq_foldl]
  exact gatesTaken_foldl (seen := []) d.gates ⟨by simp, by simp, by simp⟩

theorem mem_worldKeys (d : WorldDesc) (k : Nat) : k ∈ worldKeys d ↔ k = d.modelKey ∨ k = d.dataKey := by simp [worldKeys]

theorem mem_worldHosts (d : WorldDesc) (h : Nat) : h ∈ worldHosts d ↔ some h = d.modelHost ∨ some h = d.dataHost := by
  simp [worldHosts, eq_comm]

theorem nodup_worldHosts (d : WorldDesc) : (worldHosts d).Nodup ↔ d.modelHost ≠ d.dataHost ∨ d.modelHost = none := by
  unfold worldHosts
  rcases d.modelHost with _ | a <;> rcases d.dataHost with _ | b <;> simp

theorem worldOk_iff (s : State) (d : WorldDesc) : worldOk s d = true ↔ WorldFits s d := by
  simp only [worldOk, Bool.and_eq_true, decide_eq_true_eq, List.all_eq_true, Bool.not_eq_true', List.any_eq_false, mem_worldKeys,
    mem_worldHosts, nodup_worldHosts, Option.isNone_iff_eq_none, List.contains_eq_mem, beq_iff_eq, not_or, and_assoc]
  constructor
  · rintro ⟨signed, run, lo, hi, new, keys, apart, hosts, two⟩
    exact ⟨signed, run, ⟨lo, hi, new⟩, ⟨apart, keys⟩, hosts, two⟩
  · rintro ⟨signed, run, ⟨lo, hi, new⟩, ⟨apart, keys⟩, hosts, two⟩
    exact ⟨signed, run, lo, hi, new, keys, apart, hosts, two⟩

theorem worldCreate_spec (s : State) (d : WorldDesc) (h : WorldFits s d) : ∃ t gates, exec (.worldCreate d) s = .next t ∧
    t = { s with worlds := t.worlds } ∧
    (∀ k, SMap.find? t.worlds k = if k = d.num then some { d with gates := gates } else SMap.find? s.worlds k) ∧
    (∀ g ∈ gates, g ∈ d.gates ∧ GateFits d g) ∧ (gates.map (fun g => g.gid)).Nodup ∧
    ∀ g ∈ d.gates, GateFits d g → ∃ g' ∈ gates, g'.gid = g.gid := by
  obtain ⟨fit, apart, all⟩ := gatesTaken_acceptGates d
  rw [exec_worldCreate, execWorldCreate, if_pos ((worldOk_iff s d).mpr h)]
  exact ⟨_, acceptGates d, rfl, rfl, fun k => SMap.find?_put .., fit, apart, all⟩

theorem worldCreate_idle (s : State) (d : WorldDesc) (h : ¬ WorldFits s d) : exec (.worldCreate d) s = .next s := by
  rw [exec_worldCreate, execWorldCreate, if_neg (mt (worldOk_iff s d).mp h)]

theorem worldEnd_spec (s : State) (n : Nat) : ∃ t, exec (.worldEnd n) s = .next t ∧
    t = { s with worlds := t.worlds, evict := t.evict, versions := s.versions.filter (fun v => v.world.toNat ≠ n) } ∧
    (∀ k, SMap.find? t.worlds k = if k = n then none else SMap.find? s.worlds k) ∧
    ∀ k, SMap.find? t.evict k = if k / 256 = n then none else SMap.find? s.evict k := by
  refine ⟨_, exec_worldEnd n s, rfl, fun k => ?_, fun k => ?_⟩
  · by_cases h : k = n
    · subst h; simp
    · simp [h]
  · have keys_of_world : (256 * n ≤ k ∧ k < 256 * n + 256) ↔ k / 256 = n := by omega
    exact (SMap.find?_delRange ..).trans (by simp only [keys_of_world])

/-- Settles O59: a die's loss and warm reset come from what dropDie and restoreKernel do, the module's and the compute side's resets from what stays of the tables, a world's from the descriptor's check and the gates it accepts. -/
theorem lossesResetsAndWorlds : Obligations.LossesResetsAndWorlds :=
  ⟨⟨dieLost_spec, dieLost_idle, warmReset_spec, moduleReset_spec, computeResetEnd_spec, computeResetEnd_idle, thermalTrip_spec⟩,
    worldCreate_spec, worldCreate_idle, worldEnd_spec⟩

end Sys2Proof.Claims
end

section
/-! PROOFS (00_scope). Transactions of hosts at their homes (O58): a request that only keeps a place (R69, R87) sends nothing when its turn comes, whoever made it. -/

namespace Sys2Proof.Machine

theorem exec_homeAccess (n : Nat) (s : State) : exec (.homeAccess n) s = execHomeAccess n s := rfl

/-- R87: a request that waits alone has its turn: none is served before itself. -/
theorem homeTurn_alone {s : State} {r : HomeReq} (alone : s.homeQ = [r]) : homeTurn s 0 = some r := by
  simp [homeTurn, alone, HomeReq.first]

/-- R69, R87: the turn of a place is its issuer's to use; the home itself at most gives the place up. -/
theorem exec_homeAccess_place {s : State} {n : Nat} {r : HomeReq} (turn : homeTurn s n = some r) (place : r.looks = true) :
    exec (.homeAccess n) s = .next (if r.gone s then { s with homeQ := s.homeQ.eraseIdx n } else s) := by
  simp only [exec_homeAccess, execHomeAccess, turn, place, if_true]

theorem homeAccess_place_sent {s t : State} {n : Nat} {r : HomeReq} (turn : homeTurn s n = some r) (place : r.looks = true)
    (step : exec (.homeAccess n) s = .next t) : t.sent = s.sent := by
  rw [exec_homeAccess_place turn place] at step
  injection step with next
  rw [← next]
  split <;> rfl

end Sys2Proof.Machine

namespace Sys2Proof.Claims

open Machine

/-- R433: an answered request has sent its completion. -/
theorem Replied.sent_ne_nil {s t : State} {h : HostReq} {status : Nat} {data : List Byte} (answered : Replied s t h status data) :
    t.sent ≠ [] := by
  obtain ⟨frame, -⟩ := answered
  have completion : t.sent = s.sent ++ [{ port := h.port, tag := h.tag, status := status, data := data }] := congrArg State.sent frame
  simp [completion]

theorem not_homeAgrees_of_free {s : State} {h : HostReq} {r : HomeReq} (free : (s.dirOf (r.dst.addr / 65536)).state = 0) :
    ¬ HomeAgrees s h r := fun agrees => agrees.alloc free

/-- A request of a peer for the first block of frame 0. -/
def peerReq : HostReq := { peer := true, host := 0, port := 0, tag := 0, addr := 0, mask := 0, data := [], key := 0 }

/-- A place of 64 bytes kept in that peer's name at the home of frame 0. -/
def peerPlace : HomeReq :=
  { cls := 3, arrival := 0, src := .host peerReq, op := .look 64, pc := 0, aged := false,
    dst := { place := .glob, addr := 0, key := 0, gc := 0, cp := 1, rep := none, va := 0, ctx := 0 } }

/-- HomesServeHosts names a host's request by its source alone. One that is a place meets the premises of its clause for a frame that the directory refuses, and is not answered with MAPERR. -/
theorem not_homesServeHosts : ¬ Claims.HomesServeHosts := by
  intro serve
  let s : State := { State.reset with homeQ := [peerPlace] }
  have turn : homeTurn s 0 = some peerPlace := homeTurn_alone rfl
  have refused : ¬ HomeAgrees s peerReq peerPlace := not_homeAgrees_of_free rfl
  have in_time : peerPlace.decided = true ∨ 4 * (s.clock - peerPlace.arrival) ≤ 9 * 386 := .inr (by decide)
  obtain ⟨-, -, mapErr, -⟩ := serve s 0 peerReq peerPlace turn rfl rfl
  obtain ⟨t, s₁, step, answered, no_event⟩ := mapErr refused (BitVec.getLsbD_zero ..) in_time
  obtain rfl : t = s₁ := no_event
  exact answered.sent_ne_nil (homeAccess_place_sent turn rfl step)

/-- Refutes O58: its second part counts every request whose source is a host, also one whose operation is `.look`, a place that a home does not answer. After a reset, with such a place of a peer alone at the home of frame 0, which is free, the home sends nothing where the clause asks for MAPERR. -/
theorem not_hostAccesses : ¬ Obligations.HostAccesses :=
  fun ⟨_, serve, _⟩ => not_homesServeHosts serve

end Sys2Proof.Claims
end

section
/-! PROOFS (00_scope). CXL ports and the switch (O53): a lemma for each row of the opcode table, from what the line's reads, the merges of a line and the switch's answers change. -/

namespace Sys2Proof.Machine

/-! ## CXL ports, snoops and replica pages: their rows of the opcode table -/

theorem exec_cxlLinkTraining (port : Nat) (d : CxlDevice) (s : State) : exec (.cxlLinkTraining port d) s = execCxlLinkTraining port d s := rfl
theorem exec_cxlCompletion (n : Nat) (bad : Bool) (data : List Byte) (s : State) : exec (.cxlCompletion n bad data) s = execCxlCompletion n bad data s := rfl
theorem exec_bisnp (port line kind : Nat) (s : State) : exec (.bisnp port line kind) s = execBisnp port line kind s := rfl
theorem exec_fezalCompletion (port : Nat) (tag : BitVec 16) (status : Nat) (data : List Byte) (s : State) :
    exec (.fezalCompletion port tag status data) s = execFezalCompletion port tag status data s := rfl
theorem exec_replicaAckTimeout (n : Nat) (s : State) : exec (.replicaAckTimeout n) s = execReplicaAckTimeout n s := rfl

/-! ## Bytes and marks -/

/-- What memory holds after a write, by the offset in the bytes written. -/
theorem readByte_writeBytes (bs : List Byte) (m : Memory) (a j : Nat) :
    readByte (writeBytes m a bs) j = if a ≤ j ∧ j < a + bs.length then bs.getD (j - a) 0 else readByte m j := by
  split
  case isTrue inside =>
    have h := readByte_writeBytes_inside bs m a (j - a) (by omega)
    rw [Nat.add_sub_cancel' inside.1] at h
    rw [h, List.getD_eq_getElem _ _ (by omega)]
  case isFalse outside => exact readByte_writeBytes_outside bs m a j (by omega)

/-! ## The records and the lines that a write leaves alone -/

@[simp] theorem State.setRing_reps (s : State) (k : Ring) (r : RingSt) : (s.setRing k r).reps = s.reps := by cases k <;> rfl

theorem startThaw_reps (s : State) (addr : Nat) (host : Bool) : (startThaw s addr host).reps = s.reps := by
  unfold startThaw startThawFor
  dsimp only
  split <;> rfl

theorem storeFrame_reps (s : State) (gid addr : Nat) (bs : List Byte) : (storeFrame s gid addr bs).reps = s.reps :=
  (congrArg State.reps (storeWhole_stored s gid addr bs [(addr, bs.length)])).trans rfl

/-- A record that is posted leaves the requests to the switch as they are. -/
theorem postFault_reps (s : State) (f : FaultRec) : (postFault s f).reps = s.reps := by
  unfold postFault ringPost
  dsimp only
  split
  · simp only [ringWrite, State.setRing_reps, storeFrame_reps]
  · simp only [State.setRing_reps, startThaw_reps]

/-! ## Snoops (R76) -/

/-- R129: of a cluster's shadow reductions those that a test picks wait at their homes; the others stay, and so do those of other clusters. -/
theorem clusterOf_mergeShadows (s : State) (cl k : Nat) (pick : Shadow → Bool) :
    (mergeShadows s cl pick).clusterOf k = if k = cl then { s.clusterOf cl with shadow := (s.clusterOf cl).shadow.filter (fun e => !pick e) } else s.clusterOf k :=
  SMap.get_set ..

theorem mergeShadows_frame (s : State) (cl : Nat) (pick : Shadow → Bool) :
    ∃ merged, mergeShadows s cl pick = { s with clusters := (mergeShadows s cl pick).clusters, homeQ := s.homeQ ++ merged } ∧
      ∀ r ∈ merged, (∃ e, pick e = true ∧ r.dst = e.dst) ∧ r.src = .shadow cl := by
  refine ⟨_, rfl, fun r hr => ?_⟩
  obtain ⟨e, he, rfl⟩ := List.mem_map.mp hr
  exact ⟨⟨e, (List.mem_filter.mp he).2, rfl⟩, rfl⟩

/-- R76: merges of a line, cluster after cluster, leave no reduction of it that was not there before, and none in the clusters that they have passed. -/
theorem mergeLine_foldl (line : Nat) (cs : SMap Cluster) (s : State) :
    ∃ merged, let t := cs.foldl (fun s e => mergeShadows s e.1 (fun x => x.dst.addr / 64 = line)) s
      t = { s with clusters := t.clusters, homeQ := s.homeQ ++ merged } ∧
      (∀ r ∈ merged, r.dst.addr / 64 = line ∧ ∃ k, r.src = .shadow k) ∧
      (∀ k, ∀ x ∈ (t.clusterOf k).shadow, x ∈ (s.clusterOf k).shadow) ∧
      ∀ e ∈ cs, ∀ x ∈ (t.clusterOf e.1).shadow, x.dst.addr / 64 ≠ line := by
  induction cs generalizing s with
  | nil => exact ⟨[], by simp, by simp, fun _ _ h => h, by simp⟩
  | cons c cs ih =>
    obtain ⟨first, frame₁, sent₁⟩ := mergeShadows_frame s c.1 (fun x => x.dst.addr / 64 = line)
    obtain ⟨rest, frame, sent, kept, gone⟩ := ih (mergeShadows s c.1 (fun x => x.dst.addr / 64 = line))
    have stay (k : Nat) (x : Shadow) (hx : x ∈ ((mergeShadows s c.1 (fun x => x.dst.addr / 64 = line)).clusterOf k).shadow) :
        x ∈ (s.clusterOf k).shadow ∧ (k = c.1 → x.dst.addr / 64 ≠ line) := by
      rw [clusterOf_mergeShadows] at hx
      by_cases hk : k = c.1
      · subst hk
        simpa using hx
      · rw [if_neg hk] at hx
        exact ⟨hx, fun h => absurd h hk⟩
    refine ⟨first ++ rest, ?_, fun r hr => ?_, fun k x hx => (stay k x (kept k x hx)).1, fun e he x hx => ?_⟩
    · rw [List.foldl_cons, frame, frame₁]
      simp
    · rcases List.mem_append.mp hr with h | h
      · obtain ⟨⟨e, picked, dst⟩, src⟩ := sent₁ r h
        exact ⟨by rw [dst]; simpa using picked, _, src⟩
      · exact sent r h
    · rcases List.mem_cons.mp he with rfl | h
      · exact (stay e.1 x (kept e.1 x hx)).2 rfl
      · exact gone e h x hx

theorem mergeLine_spec (s : State) (line : Nat) : ∃ merged,
    mergeLine s line = { s with clusters := (mergeLine s line).clusters, homeQ := s.homeQ ++ merged } ∧
      (∀ r ∈ merged, r.dst.addr / 64 = line ∧ ∃ k, r.src = .shadow k) ∧
      ∀ e ∈ s.clusters, ∀ x ∈ ((mergeLine s line).clusterOf e.1).shadow, x.dst.addr / 64 ≠ line := by
  obtain ⟨merged, frame, sent, -, gone⟩ := mergeLine_foldl line s.clusters s
  exact ⟨merged, frame, sent, gone⟩

/-- R76: a snoop's merges into its line have not completed. -/
theorem snoopDone_eq_false_iff (s : State) (x : CxlPort) (line : Nat) :
    snoopDone s x line = false ↔
      (∃ r ∈ s.homeQ, r.dst.addr / 64 = line ∧ ∃ k, r.src = .shadow k) ∨ ∃ u ∈ x.unacked, u.line = line ∧ 86528 ≤ u.gid ∧ u.gid < hostGid := by
  simp only [snoopDone, Bool.and_eq_false_iff, Bool.not_eq_false', List.any_eq_true, Bool.and_eq_true, decide_eq_true_eq, and_assoc]
  refine or_congr (exists_congr fun r => and_congr_right fun _ => and_congr_right fun _ => ?_) Iff.rfl
  cases r.src <;> simp

end Sys2Proof.Machine

namespace Sys2Proof.Claims

open Machine

/-! ## Training, completions and snoops of the CXL ports -/

theorem cxlLinkTraining_spec (s : State) (port : Nat) (d : CxlDevice) (hp : port < 8) :
    (s.mgmt.life.getD (16 + port) 0 ≠ 0 → exec (.cxlLinkTraining port d) s = .next s) ∧
    (s.mgmt.life.getD (16 + port) 0 = 0 →
      (d.cache = true → exec (.cxlLinkTraining port d) s = .next (postEvent (s.setCxl port { CxlPort.init with ioOnly := true }) 0x0B port 0)) ∧
      (d.cache = false → d.type3 = false → exec (.cxlLinkTraining port d) s = .next (s.setCxl port { CxlPort.init with ioOnly := true })) ∧
      (d.cache = false → d.type3 = true → exec (.cxlLinkTraining port d) s = .next (s.setCxl port { CxlPort.init with trained := true, hdmDb := d.hdmDb }))) := by
  rw [exec_cxlLinkTraining, execCxlLinkTraining]
  refine ⟨fun closed => ?_, fun opened => ?_⟩
  · rw [if_pos (by simp only [closed, ne_eq, not_false_eq_true, decide_true, Bool.or_true])]
  · rw [if_neg (by simp only [opened, ne_eq, not_true_eq_false, decide_false, Bool.or_false, decide_eq_true_eq]; omega)]
    refine ⟨fun cache => if_pos cache, fun cache other => ?_, fun cache expander => ?_⟩
    · rw [if_neg (by simp [cache]), if_pos (by simp [other])]
    · rw [if_neg (by simp [cache]), if_neg (by simp [expander])]

/-- R53, R56, R74: what an expander's answer to a read leaves of a line: its deciphered bytes, or its poison. -/
theorem cxlLine_spec (s : State) (line : Nat) (data : List Byte) (bad : Bool) :
    let plain := plainText (s.dirOf (line / 1024)).ktag (2 * line) (data.map (·.toNat))
    let t := cxlLine s line bad data
    t = { s with mem := t.mem, poison := t.poison } ∧
    (bad = false → t.poison = s.poison ∧
      ∀ a, readByte t.mem a = if 64 * line ≤ a ∧ a < 64 * line + plain.length then BitVec.ofNat 8 (plain.getD (a - 64 * line) 0) else readByte s.mem a) ∧
    (bad = true → t.mem = s.mem ∧
      ∀ k, (SMap.find? t.poison k).isSome = true ↔ (SMap.find? s.poison k).isSome = true ∨ k = 2 * line ∨ k = 2 * line + 1) := by
  cases bad with
  | false =>
    refine ⟨rfl, fun _ => ⟨rfl, fun a => ?_⟩, nofun⟩
    refine (readByte_writeBytes _ _ _ _).trans ?_
    rw [List.length_map]
    split
    · simp [List.getD_eq_getElem?_getD, List.getElem?_map, Option.getD_map]
    · rfl
  | true =>
    refine ⟨rfl, nofun, fun _ => ⟨rfl, fun k => ?_⟩⟩
    simp only [cxlLine, if_true, SMap.find?_put]
    by_cases upper : k = 2 * line + 1
    · simp [upper]
    · by_cases lower : k = 2 * line
      · simp [lower]
      · simp [upper, lower]

/-- R74, R77: a read's answer comes, for a request of its line that no snoop has met; a write of the module that has overtaken the read keeps its bytes. -/
theorem cxlCompletion_read (s : State) (n : Nat) (bad : Bool) (data : List Byte) (p line : Nat)
    (owed : (cxlOwed s)[n]? = some (p, true, line)) (whole : bad = true ∨ data.length = 64) :
    let x := s.cxlOf p
    let plain := plainText (s.dirOf (line / 1024)).ktag (2 * line) (data.map (·.toNat))
    (x.asked.find? (fun r => r.line = line && !r.conflict) = none → exec (.cxlCompletion n bad data) s = .next s) ∧
    ∀ r, x.asked.find? (fun r => r.line = line && !r.conflict) = some r →
      ∃ t, exec (.cxlCompletion n bad data) s = .next t ∧ t = { s with mem := t.mem, poison := t.poison, cxl := t.cxl } ∧ (∀ q, q ≠ p → t.cxlOf q = s.cxlOf q) ∧
      t.cxlOf p = { x with asked := x.asked.erase r, ready := x.ready ++ [line] } ∧
      ((∃ u ∈ x.unacked, u.line = line) → t.mem = s.mem ∧ t.poison = s.poison) ∧
      ((∀ u ∈ x.unacked, u.line ≠ line) → bad = false → t.poison = s.poison ∧
        ∀ a, readByte t.mem a = if 64 * line ≤ a ∧ a < 64 * line + plain.length then BitVec.ofNat 8 (plain.getD (a - 64 * line) 0) else readByte s.mem a) ∧
      ((∀ u ∈ x.unacked, u.line ≠ line) → bad = true → t.mem = s.mem ∧
        ∀ k, (SMap.find? t.poison k).isSome = true ↔ (SMap.find? s.poison k).isSome = true ∨ k = 2 * line ∨ k = 2 * line + 1) := by
  rw [exec_cxlCompletion, execCxlCompletion, owed]
  refine ⟨fun none_asked => by simp only [none_asked], fun r asked => ?_⟩
  have comes : ¬ (decide (data.length ≠ 64) && !bad) = true := by rcases whole with h | h <;> simp [h]
  simp only [asked, if_neg comes]
  obtain ⟨frame, bytes, poison⟩ := cxlLine_spec s line data bad
  by_cases overtaken : ∃ u ∈ (s.cxlOf p).unacked, u.line = line
  · have written : (s.cxlOf p).unacked.any (fun u => decide (u.line = line)) = true := by simpa using overtaken
    have unwritten : ¬ ∀ u ∈ (s.cxlOf p).unacked, u.line ≠ line := by simpa using overtaken
    refine ⟨_, rfl, ?_⟩
    rw [if_pos written]
    exact ⟨rfl, fun q hq => State.cxlOf_setCxl_other _ _ hq, State.cxlOf_setCxl_same .., fun _ => ⟨rfl, rfl⟩,
      fun h => absurd h unwritten, fun h => absurd h unwritten⟩
  · have unwritten : ¬ (s.cxlOf p).unacked.any (fun u => decide (u.line = line)) = true := by simpa using overtaken
    refine ⟨_, rfl, ?_⟩
    rw [if_neg unwritten]
    refine ⟨?_, fun q hq => ?_, State.cxlOf_setCxl_same .., fun h => absurd h overtaken, fun _ => bytes, fun _ => poison⟩
    · rw [frame]; rfl
    · refine (State.cxlOf_setCxl_other _ _ hq).trans ?_
      rw [frame]; rfl

theorem cxlCompletion_write (s : State) (n : Nat) (bad : Bool) (data : List Byte) (p line : Nat) (u : CxlWrite)
    (owed : (cxlOwed s)[n]? = some (p, false, line)) (out : (s.cxlOf p).unacked.find? (fun u => u.line = line) = some u) :
    exec (.cxlCompletion n bad data) s = .next (s.setCxl p { s.cxlOf p with unacked := (s.cxlOf p).unacked.erase u }) := by
  rw [exec_cxlCompletion, execCxlCompletion, owed]
  simp only [out]

theorem bisnp_spec (s : State) (port line kind : Nat) : let x := s.cxlOf port
    (x.hdmDb = false → exec (.bisnp port line kind) s = .next s) ∧
    (x.hdmDb = true → ∃ t merged, exec (.bisnp port line kind) s = .next t ∧
      t = { s with cxl := t.cxl, cores := t.cores, clusters := t.clusters, homeQ := s.homeQ ++ merged } ∧ (∀ q, q ≠ port → t.cxlOf q = s.cxlOf q) ∧
      t.cxlOf port = { x with asked := x.asked.map (fun r => if r.line = line then { r with conflict := true } else r)
                              ready := x.ready.filter (fun l => l ≠ line), snoops := x.snoops ++ [line], filter := SMap.del x.filter line } ∧
      t.cores = (s.cores.map (fun e => (e.1, { e.2 with l1 := SMap.del e.2.l1 (line / 2) }))).filter (fun e => e.2 != CoreSt.init) ∧
      (∀ r ∈ merged, r.dst.addr / 64 = line ∧ ∃ k, r.src = .shadow k) ∧
      (∀ e ∈ s.clusters, ∀ x ∈ (t.clusterOf e.1).shadow, x.dst.addr / 64 ≠ line)) := by
  rw [exec_bisnp, execBisnp]
  refine ⟨fun unshared => if_pos (by simp [unshared]), fun shared => ?_⟩
  dsimp only
  rw [if_neg (by simp [shared])]
  generalize snooped : s.setCxl port _ = s₁
  obtain ⟨merged, frame, sent, gone⟩ := mergeLine_spec (l1DropAll s₁ (line / 2)) line
  have ports : (mergeLine (l1DropAll s₁ (line / 2)) line).cxl = s₁.cxl := (congrArg State.cxl frame).trans rfl
  have port_of (q : Nat) : (mergeLine (l1DropAll s₁ (line / 2)) line).cxlOf q = s₁.cxlOf q := congrArg (SMap.get _ · q) ports
  subst snooped
  refine ⟨_, merged, rfl, ?_, fun q hq => ?_, ?_, congrArg State.cores frame, sent, gone⟩
  · rw [frame]; rfl
  · rw [port_of, State.cxlOf_setCxl_other _ _ hq]
  · rw [port_of, State.cxlOf_setCxl_same]

theorem answerSnoops_spec (s : State) (port : Nat) : let x := s.cxlOf port
    let held (l : Nat) : Prop := (∃ r ∈ s.homeQ, r.dst.addr / 64 = l ∧ ∃ k, r.src = .shadow k) ∨ ∃ u ∈ x.unacked, u.line = l ∧ 86528 ≤ u.gid ∧ u.gid < hostGid
    let t := answerSnoops s port
    t = { s with cxl := t.cxl } ∧ (∀ q, q ≠ port → t.cxlOf q = s.cxlOf q) ∧
    (∀ l, l ∈ (t.cxlOf port).snoops ↔ l ∈ x.snoops ∧ held l) ∧ (t.cxlOf port).ready = x.ready ∧ (t.cxlOf port).unacked = x.unacked ∧
    ∀ r, r ∈ x.asked → (r.line ∈ x.snoops → ¬ held r.line → { r with conflict := false } ∈ (t.cxlOf port).asked) ∧
      (r.line ∉ x.snoops ∨ held r.line → r ∈ (t.cxlOf port).asked) := by
  intro x held
  have held_iff (l : Nat) : held l ↔ ¬ snoopDone s x l = true := by rw [Bool.not_eq_true]; exact (snoopDone_eq_false_iff s x l).symm
  have done_iff (l : Nat) : (x.snoops.filter (snoopDone s x)).contains l = true ↔ l ∈ x.snoops ∧ ¬ held l := by
    simp [held_iff]
  simp only [answerSnoops]
  split
  case isTrue none_done =>
    have stays (l : Nat) (hl : l ∈ x.snoops) : held l := by
      by_contra free
      have := (done_iff l).mpr ⟨hl, free⟩
      rw [List.isEmpty_iff.mp none_done] at this
      simp at this
    exact ⟨rfl, fun _ _ => rfl, fun l => ⟨fun hl => ⟨hl, stays l hl⟩, And.left⟩, rfl, rfl,
      fun r hr => ⟨fun hl free => absurd (stays _ hl) free, fun _ => hr⟩⟩
  case isFalse some_done =>
    refine ⟨rfl, fun q hq => State.cxlOf_setCxl_other _ _ hq, ?_⟩
    rw [State.cxlOf_setCxl_same]
    refine ⟨fun l => ?_, rfl, rfl, fun r hr => ⟨fun hl free => ?_, fun waits => ?_⟩⟩
    · simp only [List.mem_filter, Bool.not_eq_true', ← Bool.not_eq_true]
      rw [done_iff]
      exact ⟨fun ⟨hl, waits⟩ => ⟨hl, by_contra fun free => waits ⟨hl, free⟩⟩, fun ⟨hl, waits⟩ => ⟨hl, fun done => done.2 waits⟩⟩
    · exact List.mem_map.mpr ⟨r, hr, if_pos ((done_iff _).mpr ⟨hl, free⟩)⟩
    · exact List.mem_map.mpr ⟨r, hr, if_neg fun done => waits.elim (· ((done_iff _).mp done).1) ((done_iff _).mp done).2⟩

/-! ## Answers of the switch (R161) -/

/-- R161: the switch keeps an answer for who asks for it. -/
theorem asked_iff (r : RepReq) : (!r.write || r.atom.isSome || decide (jobGid 0 0 ≤ r.gid)) = true ↔ Asked r := by
  simp only [Asked, Bool.or_eq_true, Bool.not_eq_true', decide_eq_true_eq, Option.isSome_iff_ne_none, or_assoc]
  rfl

theorem refuseReq_reps (s : State) (q : HomeReq) (cause : Nat) (tag : BitVec 8) (fmt : BitVec 3) : (refuseReq s q cause tag fmt).reps = s.reps := by
  unfold refuseReq
  split
  · exact postFault_reps ..
  · dsimp only
    split <;> rfl
  · rfl

theorem answered_repAnswer (s : State) (r : RepReq) (status : Nat) (data : List Byte) : Answered s (repAnswer s r status data) r status data := by
  unfold repAnswer
  by_cases kept : Asked r
  · have asked := (asked_iff r).mpr kept
    simp only [asked, if_true]
    by_cases ok : status = 0
    · rw [if_pos ok]
      exact ⟨fun _ => rfl, fun h => absurd kept h, fun _ => ⟨rfl, rfl⟩, fun h => absurd ok h, fun h => absurd ok h⟩
    · rw [if_neg ok]
      exact ⟨fun _ => rfl, fun h => absurd kept h, fun h => absurd h ok, fun _ _ => rfl, fun _ h => absurd kept h⟩
  · have unasked := mt (asked_iff r).mp kept
    simp only [if_neg unasked]
    by_cases ok : status = 0
    · rw [if_pos ok]
      exact ⟨fun h => absurd h kept, fun _ => rfl, fun _ => ⟨rfl, rfl⟩, fun h => absurd ok h, fun h => absurd ok h⟩
    · rw [if_neg ok]
      refine ⟨fun h => absurd h kept, fun _ => ?_, fun h => absurd h ok, fun _ h => ?_, fun _ _ q l gid reqs src => ?_⟩
      · split
        · exact refuseReq_reps ..
        · rfl
      · rw [h.resolve_left kept]
      · rw [reqs]
        exact ⟨_, by simp only [refuseReq, src]; rfl, rfl, rfl, rfl, rfl, rfl, rfl⟩

theorem fezalCompletion_spec (s : State) (port : Nat) (tag : BitVec 16) (status : Nat) (data : List Byte) (r : RepReq)
    (out : s.reps.find? (fun r => r.port = port && r.tag = tag && r.got.isNone) = some r) :
    ∃ t, exec (.fezalCompletion port tag status data) s = .next t ∧ Answered s t r status data := by
  refine ⟨_, ?_, answered_repAnswer s r status data⟩
  simp only [exec_fezalCompletion, execFezalCompletion, out]

theorem replicaAckTimeout_spec (s : State) (n : Nat) (r : RepReq) (out : s.reps[n]? = some r) :
    (r.got ≠ none ∨ s.clock < r.since + 225000 → exec (.replicaAckTimeout n) s = .next s) ∧
    (r.got = none → r.since + 225000 ≤ s.clock →
      ∃ s₁, Answered s s₁ r 3 [] ∧ exec (.replicaAckTimeout n) s = .next (postEvent s₁ 0x0D r.desc r.va.toNat)) := by
  rw [exec_replicaAckTimeout, execReplicaAckTimeout, out]
  have waits : (r.got.isSome || decide (s.clock < r.since + 225000)) = true ↔ r.got ≠ none ∨ s.clock < r.since + 225000 := by
    simp only [Bool.or_eq_true, decide_eq_true_eq, Option.isSome_iff_ne_none]
  refine ⟨fun h => if_pos (waits.mpr h), fun unanswered late => ⟨_, answered_repAnswer s r 3 [], if_neg fun h => ?_⟩⟩
  exact (waits.mp h).elim (fun h => h unanswered) (fun h => by omega)

/-- Settles O53: each row answers as what it shares with others does: an expander's line, the merges of a snooped line, and the switch's answer to one request. -/
theorem cxlAndReplicaAnswers : Obligations.CxlAndReplicaAnswers :=
  ⟨cxlLinkTraining_spec, cxlCompletion_read, cxlCompletion_write, bisnp_spec, answerSnoops_spec, fezalCompletion_spec, replicaAckTimeout_spec⟩

end Sys2Proof.Claims
end

section
/-! PROOFS (00_scope). Laws of jobs under way (O57): when a job runs, what its reading and writing phases come to, and what a write of whole granules changes. -/

namespace Sys2Proof

/-- R239: a number's bytes spell it, as far as they reach. -/
theorem leNat_natLe (n x : Nat) : leNat (natLe n x) = x % 256 ^ n := by
  induction n generalizing x with
  | zero => simp [natLe, leNat, Nat.mod_one]
  | succ n ih =>
    rw [natLe, leNat, ih, BitVec.toNat_ofNat, pow_succ' 256 n]
    exact Nat.mod_mul.symm

theorem length_natLe (n x : Nat) : (natLe n x).length = n := by
  induction n generalizing x with
  | zero => rfl
  | succ n ih => rw [natLe, List.length_cons, ih]

end Sys2Proof

namespace Sys2Proof.Machine

open Claims

/-! ## Jobs and their slots -/

theorem exec_gateJob (sched slot : Nat) (s : State) : exec (.gateJob sched slot) s = execGateJob sched slot s := rfl
theorem exec_seal (sched slot : Nat) (s : State) : exec (.seal sched slot) s = execSeal sched slot s := rfl
theorem exec_unseal (sched slot : Nat) (s : State) : exec (.unseal sched slot) s = execUnseal sched slot s := rfl
theorem exec_jobReadsPerformed (sched slot : Nat) (s : State) : exec (.jobReadsPerformed sched slot) s = execJobReadsPerformed sched slot s := rfl
theorem exec_jobComplete (sched slot : Nat) (s : State) : exec (.jobComplete sched slot) s = execJobComplete sched slot s := rfl
theorem exec_gatherEntryDelivery (sched slot : Nat) (s : State) :
    exec (.gatherEntryDelivery sched slot) s = execGatherEntryDelivery sched slot s := rfl

theorem job_setJob (s : State) (sched slot : Nat) (j : Job) (cl k : Nat) :
    (s.setJob sched slot j).job cl k = if cl = sched ∧ k = slot then j else s.job cl k := by
  unfold State.job State.setJob
  by_cases hs : cl = sched
  · subst hs
    by_cases hk : k = slot
    · subst hk; simp
    · simp [hk]
  · simp [hs]

@[simp] theorem setJob_mem (s : State) (sched slot : Nat) (j : Job) : (s.setJob sched slot j).mem = s.mem := rfl

/-! ## When a job runs (R144) -/

theorem edgeDone_iff (s : State) (e : Nat × Word × Bool) : edgeDone s e = true ↔
    let i := s.job (e.1 / 256) (e.1 % 256)
    i.gen ≠ e.2.1 ∨ i.live = false ∨ (e.2.2 = true ∧ i.readsDone = true) := by
  simp only [edgeDone, Bool.or_eq_true, bne_iff_ne, Bool.not_eq_true', Bool.and_eq_true, or_assoc]

theorem ready_of_mayStart {s : State} {sched slot ty : Nat} {j : Job} (h : MayStart s sched slot ty j) :
    cardType j.card = ty ∧ jobReady s sched slot j = true := by
  obtain ⟨type, may⟩ := h
  refine ⟨type, ?_⟩
  unfold jobReady
  rcases may with ⟨running, phase⟩ | ⟨free, may⟩
  · simp [running, phase]
  · have engine : (!s.jobs.any (fun e => e.1 = sched && e.2.1 ≠ slot && e.2.2.engine = j.engine && e.2.2.state == .running)) = true := by
      simpa [and_assoc] using free
    rcases may with ⟨parked, resumed⟩ | ⟨pending, edges⟩
    · simp only [engine, parked, resumed, BEq.rfl, Bool.and_self, Bool.or_true, Bool.true_or]
    · have resolved : j.edges.all (edgeDone s) = true := List.all_eq_true.mpr fun e he => (edgeDone_iff s e).mpr (edges e he)
      simp only [engine, pending, resolved, BEq.rfl, Bool.and_self, Bool.true_or]

/-- R102: a job's start resolves its regions and nothing else. -/
theorem startJob_frame {s : State} {j j' : Job} (h : startJob s j = some j') : j' = { j with rd0 := j'.rd0, rd1 := j'.rd1, wr := j'.wr } := by
  unfold startJob at h
  split at h
  · cases h; rfl
  · cases h

/-- R144: the row of a job's type runs the job. -/
theorem jobStep_of_mayRun {s s₀ : State} {sched slot ty : Nat} {j : Job} (h : MayRun s s₀ sched slot ty j) (run : State → Job → State) :
    jobStep sched slot ty s run = .next (run s₀ j) := by
  obtain ⟨start, may, rfl⟩ := h
  obtain ⟨type, ready⟩ := ready_of_mayStart may
  unfold jobStep
  by_cases pending : (s.job sched slot).state = .pending
  · rw [if_pos pending] at start
    have frame := startJob_frame start
    have type₀ : cardType (s.job sched slot).card = ty := by rw [← type, frame]
    have ready₀ : jobReady s sched slot (s.job sched slot) = true := by rw [← ready, frame]; rfl
    simp only [type₀, ready₀, pending, start, decide_true, Bool.and_self, BEq.rfl, if_true]
  · rw [if_neg pending] at start
    simp only [start, type, ready, decide_true, Bool.and_self, if_true, beq_eq_false_iff_ne.mpr (start ▸ pending), Bool.false_eq_true, if_false]

/-- R69: what lapses with an earlier attempt are places alone: who waits for a request, still does. -/
theorem exists_src_askAgain (s : State) (id : Nat) {src : Source} (other : src ≠ .party id) :
    (∃ y ∈ (askAgain s (.party id)).homeQ, y.src = src) ↔ ∃ y ∈ s.homeQ, y.src = src := by
  constructor
  · rintro ⟨y, hy, rfl⟩
    obtain ⟨x, hx, rfl⟩ := List.mem_map.mp hy
    refine ⟨x, (List.mem_filter.mp hx).1, ?_⟩
    split <;> rfl
  · rintro ⟨y, hy, rfl⟩
    refine ⟨y, List.mem_map.mpr ⟨y, List.mem_filter.mpr ⟨hy, ?_⟩, ?_⟩, rfl⟩
    · simp [other]
    · simp [other]

/-! ## Reading and writing phases (R146, R375) -/

/-- R375: the step of readPieces: the next piece is read, unless an earlier one has not been. -/
def readPiece (sched slot : Nat) (p : Place) (x : JRun) (a : Nat × Nat) : JRun :=
  if x.res ≠ .ok then x
  else match jobRead x.s (jobActor x.s sched slot x.j) p a.1 a.2 with
    | (.ok, bs, s) => { x with s := s, j := { x.j with unit := x.j.unit + 1, buf := x.j.buf ++ bs } }
    | (f, _, s) => { x with s := s, res := f }

theorem readPieces_eq_foldl (sched slot : Nat) (s : State) (j : Job) (r : Region) :
    readPieces sched slot s j r = (r.pieces.drop j.unit).foldl (readPiece sched slot r.place) { s := s, j := j, res := .ok } := rfl

theorem foldl_readPiece {sched slot : Nat} {j : Job} {p : Place} {ps : List (Nat × Nat)} {s t : State} {bs : List Byte}
    (h : JobReads sched slot j p s ps bs t) (u : Nat) (buf : List Byte) :
    ps.foldl (readPiece sched slot p) { s := s, j := { j.run with unit := u, buf := buf }, res := .ok } =
      { s := t, j := { j.run with unit := u + ps.length, buf := buf ++ bs }, res := .ok } := by
  induction ps generalizing s bs u buf with
  | nil =>
    obtain ⟨rfl, rfl⟩ := h
    simp
  | cons x ps ih =>
    obtain ⟨b, s₁, rest, read, more, rfl⟩ := h
    have first : readPiece sched slot p { s := s, j := { j.run with unit := u, buf := buf }, res := .ok } x =
        { s := s₁, j := { j.run with unit := u + 1, buf := buf ++ b }, res := .ok } := by
      have read' : jobRead s (jobActor s sched slot { j.run with unit := u, buf := buf }) p x.1 x.2 = (.ok, b, s₁) := read
      simp only [readPiece, read', ne_eq, not_true_eq_false, if_false]
    rw [List.foldl_cons, first, ih more, List.append_assoc, List.length_cons, Nat.add_right_comm, Nat.add_assoc]

/-- R375: a reading phase whose pieces are all read goes on to the next. -/
theorem readPhase_of_reads {sched slot : Nat} {j : Job} {r : Region} {s t : State} {bs : List Byte}
    (h : JobReads sched slot j r.place s (r.pieces.drop j.unit) bs t) (next : State → Job → State × Job) :
    readPhase sched slot s j r next =
      (next t { runs j with phase := 1, unit := 0, buf := j.buf ++ bs }).1.setJob sched slot (next t { runs j with phase := 1, unit := 0, buf := j.buf ++ bs }).2 := by
  have all := foldl_readPiece h j.unit j.buf
  have whole : readPieces sched slot s j.run r = _ := (readPieces_eq_foldl sched slot s j.run r).trans all
  simp only [readPhase, whole, if_true]
  rfl

/-- R151, R375: the step of writePieces: the next piece is written and counted, unless an earlier one has not been. -/
def writePiece (who : Actor) (w : Region) (data : Nat → Nat → List Byte) (r : JRun × Nat) (x : Nat × Nat) : JRun × Nat :=
  if r.1.res ≠ .ok then r
  else
    let bs := data r.2 x.2
    match jobWrite r.1.s who w.place x.1 bs (w.rowAt x.1) with
    | (.ok, s) =>
      let k := r.1.j.unit + 1
      let s := if r.1.j.counted < k then jobCount s r.1.j x.2 else s
      ({ r.1 with s := s, j := { r.1.j with unit := k, counted := max r.1.j.counted k } }, r.2 + x.2)
    | (f, s) => ({ r.1 with s := s, res := f }, r.2)

theorem writePieces_eq_foldl (who : Actor) (s : State) (j : Job) (w : Region) (data : Nat → Nat → List Byte) :
    writePieces who s j w data =
      ((w.pieces.drop j.unit).foldl (writePiece who w data)
        ({ s := s, j := j, res := .ok }, ((w.pieces.take j.unit).map (·.2)).foldl (· + ·) 0)).1 := rfl

theorem foldl_writePiece {who : Actor} {j : Job} {w : Region} {buf : List Byte} {ps : List (Nat × Nat)} {s t : State} {o : Nat}
    (h : JobWrites who j w s ps (buf.drop o) t) (k : Nat) :
    (ps.foldl (writePiece who w (sliceOf buf)) ({ s := s, j := { j.run with unit := k, counted := k }, res := .ok }, o)).1 =
      { s := t, j := { j.run with unit := k + ps.length, counted := k + ps.length }, res := .ok } := by
  induction ps generalizing s o k with
  | nil =>
    obtain rfl := h
    rfl
  | cons x ps ih =>
    obtain ⟨s₁, write, more⟩ := h
    rw [List.drop_drop] at more
    have first : writePiece who w (sliceOf buf) ({ s := s, j := { j.run with unit := k, counted := k }, res := .ok }, o) x =
        ({ s := jobCount s₁ j x.2, j := { j.run with unit := k + 1, counted := k + 1 }, res := .ok }, o + x.2) := by
      have write' : jobWrite s who w.place x.1 (sliceOf buf o x.2) (w.rowAt x.1) = (.ok, s₁) := write
      simp only [writePiece, write', ne_eq, not_true_eq_false, if_false, Nat.lt_succ_self, if_true, Nat.max_eq_right (Nat.le_succ k)]
      rfl
    rw [List.foldl_cons, first, ih more, List.length_cons, Nat.add_right_comm, Nat.add_assoc]

/-- R375: a writing phase whose pieces are all written gives the job its next phase. -/
theorem writePhase_of_writes {sched slot : Nat} {who : Actor} {j : Job} {w : Region} {s t : State}
    (h : JobWrites who j w s w.pieces j.buf t) (unit : j.unit = 0) (counted : j.counted = 0) (next : Nat) :
    ∃ n, writePhase sched slot who s j w (sliceOf j.buf) next = t.setJob sched slot { runs j with phase := next, unit := 0, counted := n } := by
  have start : j.run = { j.run with unit := 0, counted := 0 } := by cases j; cases unit; cases counted; rfl
  have whole : writePieces who s j.run w (sliceOf j.buf) =
      { s := t, j := { j.run with unit := 0 + w.pieces.length, counted := 0 + w.pieces.length }, res := .ok } := by
    rw [writePieces_eq_foldl, start]
    exact foldl_writePiece (o := 0) h 0
  refine ⟨0 + w.pieces.length, ?_⟩
  simp only [writePhase, whole, if_true]
  rfl

end Sys2Proof.Machine
end

section
/-! PROOFS (00_scope). Gates, sealed pages and the completion of jobs (O57): a lemma for each phase of a job's row, from the laws of its phases above. -/

namespace Sys2Proof.Machine

open Claims

/-! ## A gate (R159) -/

/-- R159: who makes a gate's accesses in the destination. -/
def gateWriter (s : State) (sched slot : Nat) (j : Job) (d : GateDesc) : Actor :=
  { jobActor s sched slot j with ctx := d.dctxn, key := some (BitVec.ofNat 8 d.dkey), self := noAlias }

/-- R86, R159: a gate that is accepted, while no compartment has been terminated, goes through its three phases. -/
theorem runGate_of_ok {s : State} {j : Job} {r : Region} {x : Ctx} {d : GateDesc} (sched slot : Nat) (read : j.rd0 = some r)
    (ctx : s.ctxOf? j.ctx = some x) (ok : gateOk s x j.card = some d) (alive : ∀ e ∈ s.ctxs, e.2.dead = false) :
    runGate s sched slot j =
      if j.phase = 0 then readPhase sched slot s j r (fun s j => (s, j))
      else if j.phase = 1 then
        writePhase sched slot (gateWriter s sched slot j d) s j { r with base := d.dbase.toNat + cardTops j.card 0 40 } (sliceOf j.buf) 2
      else runGate.gateNotify s sched slot j (gateWriter s sched slot j d) d.naddr.toNat := by
  have named : (s.ctxOf? j.ctx).bind (fun c => gateOk s c j.card) = some d := by rw [ctx]; exact ok
  have none_dead : ¬ s.ctxs.any (fun e => e.2.dead && (some e.2.world = (s.ctxOf? j.ctx).map (·.world)) &&
      (e.2.ckey.toNat = d.skey || e.2.ckey.toNat = d.dkey)) = true := by
    rw [List.any_eq_true]
    rintro ⟨e, he, dead⟩
    simp [alive e he] at dead
  simp only [runGate, named, read, if_neg none_dead]
  rfl

/-- R143, R159: a gate does not notify while a write of it waits. -/
theorem gateNotify_waits {s : State} {sched slot : Nat} (j : Job) (who : Actor) (naddr : Nat) (waits : ∃ y ∈ s.homeQ, y.src = .job sched slot) :
    runGate.gateNotify s sched slot j who naddr = s.setJob sched slot (runs j) := by
  have busy : s.homeQ.any (fun r => decide (r.src = .job sched slot)) = true := by simpa using waits
  simp only [runGate.gateNotify, busy, if_true]
  rfl

/-- R147, R159: once they have been performed, it waits for its release. -/
theorem gateNotify_unreleased {s s₁ : State} {sched slot : Nat} {j : Job} (who : Actor) (naddr : Nat)
    (free : ∀ y ∈ s.homeQ, y.src ≠ .job sched slot) (held : jobReleased s j = (false, s₁)) :
    runGate.gateNotify s sched slot j who naddr = s₁.setJob sched slot (runs j) := by
  have idle : ¬ s.homeQ.any (fun r => decide (r.src = .job sched slot)) = true := by simpa using free
  simp only [runGate.gateNotify, if_neg idle, held]
  rfl

/-- R161: an access of memory of the module has no request to the switch that could have failed. -/
theorem repFault_local (s : State) (id : Nat) {a : GAddr} (here : a.rep = none) : repFault s id a = none := by
  have none_out : s.reps.find? (fun r => a.rep.isSome && r.gid = id && r.failed && (if r.write then r.va = a.va else r.line = a.addr / 64)) = none := by
    simp [here]
  simp only [repFault, none_out]

/-- R348: an atomic addition of 1 to a 64-bit word. -/
theorem addOne_value (old : Nat) : (AtomOp.rmw { op := 0, ty := 3 } 1).value old = some ((old + 1) % 2 ^ 64) := by
  simp [AtomOp.value, rmwVal]

theorem gateNotify_adds {s s₁ s₂ : State} {sched slot : Nat} {j : Job} {who : Actor} {naddr : Nat} {a : GAddr}
    (free : ∀ y ∈ s.homeQ, y.src ≠ .job sched slot) (released : jobReleased s j = (true, s₁))
    (target : jobTarget s₁ who naddr 8 .atomic (naddr, 8) = (.ok, some a, s₂)) (here : a.rep = none) (dram : frameCxl s₂ a.addr = none) :
    runGate.gateNotify s sched slot j who naddr =
      (performWrite s₂ who.id a (natLe 8 ((s₂.num a.addr 8 + 1) % 2 ^ 64))).setJob sched slot (ended j 0) := by
  have idle : ¬ s.homeQ.any (fun r => decide (r.src = .job sched slot)) = true := by simpa using free
  have line : cxlRead s₂ a.addr false = (true, s₂) := by simp only [cxlRead, dram]
  simp only [runGate.gateNotify, if_neg idle, released, target, repFault_local s₂ who.id here, here, Option.isSome_none, Bool.false_eq_true, if_false, line,
    addOne_value, Option.getD_some]
  rfl

/-- A write of an access at its home: its bytes, over what its granules held after their decode. -/
theorem performWrite_mem (s : State) (gid : Nat) {a : GAddr} (glob : a.place = .glob) (bs : List Byte) :
    (performWrite s gid a bs).mem = writeBytes (reencode (reach s a.ctx none a.addr) a.addr bs.length).mem a.addr bs := by
  simp only [performWrite, performWhole, glob, storeWhole_mem]

@[simp] theorem reach_upsets (s : State) (ctx : Nat) (cl : Option Nat) (addr : Nat) : (reach s ctx cl addr).upsets = s.upsets :=
  (congrArg State.upsets (reach_frame s ctx cl addr)).trans rfl

/-- R52: where every granule is as it was stored, a write changes its own bytes alone. -/
theorem readByte_performWrite_outside {s : State} (gid : Nat) {a : GAddr} (glob : a.place = .glob) (bs : List Byte) (clean : s.upsets = [])
    {b : Nat} (outside : b < a.addr ∨ a.addr + bs.length ≤ b) : readByte (performWrite s gid a bs).mem b = readByte s.mem b := by
  rw [performWrite_mem s gid glob, reencode_clean _ _ _ (by rw [reach_upsets, clean]), reach_mem]
  exact readByte_writeBytes_outside bs s.mem a.addr b outside

theorem readNat_performWrite (s : State) (gid : Nat) {a : GAddr} (glob : a.place = .glob) (n x : Nat) :
    readNat (performWrite s gid a (natLe n x)).mem a.addr n = x % 256 ^ n := by
  have whole := readBytes_writeBytes_same (natLe n x) (reencode (reach s a.ctx none a.addr) a.addr (natLe n x).length).mem a.addr
  rw [length_natLe] at whole
  rw [readNat, performWrite_mem s gid glob, length_natLe, whole, leNat_natLe]

/-! ## Sealed pages (R84, R85) -/

/-- A sparse map that lists the bytes other than 0 from key `k` on reads as the bytes. -/
theorem find?_zip_nonzero (bs : List Byte) (k i : Nat) :
    (SMap.find? ((List.zip (List.range' k bs.length) bs).filter (fun e => e.2 != 0)) i).getD 0 = if k ≤ i then bs.getD (i - k) 0 else 0 := by
  induction bs generalizing k with
  | nil => simp
  | cons b bs ih =>
    rw [List.length_cons, List.range'_succ, List.zip_cons_cons, List.filter_cons]
    have page : (if k ≤ i then (b :: bs).getD (i - k) 0 else 0) = if i = k then b else if k + 1 ≤ i then bs.getD (i - (k + 1)) 0 else 0 := by
      rcases Nat.lt_trichotomy i k with below | rfl | above
      · rw [if_neg (by omega), if_neg (by omega), if_neg (by omega)]
      · simp
      · rw [if_pos (by omega), if_neg (by omega), if_pos (by omega), show i - k = (i - (k + 1)) + 1 by omega, List.getD_cons_succ]
    rw [page]
    by_cases zero : b = 0
    · rw [if_neg (by simp [zero]), ih]
      by_cases here : i = k
      · simp [here, zero]
      · rw [if_neg here]
    · rw [if_pos (by simpa using zero), SMap.find?]
      by_cases here : i = k
      · simp [here]
      · rw [if_neg (Ne.symm here), if_neg here, ih]

/-- R84: the plaintext that a version keeps reads as the page. -/
theorem find?_plainOf (bs : List Byte) (i : Nat) : (SMap.find? (plainOf bs) i).getD 0 = bs.getD i 0 := by
  have h := find?_zip_nonzero bs 0 i
  rw [if_pos (Nat.zero_le i), Nat.sub_zero, ← List.range_eq_range'] at h
  exact h

/-- R85: the step of unsealWrite: the next block is written, unless an earlier one waits. -/
def unsealBlock (who : Actor) (f : Nat) (r : JRun) : JRun :=
  if r.res ≠ .ok then r
  else
    let at_ := 65536 * f + 512 * r.j.unit
    let d := r.s.dirOf f
    let a : GAddr := { place := .glob, addr := at_, key := d.ktag, gc := d.fmt, cp := 1, rep := none, va := 0, ctx := r.j.ctx }
    match actorHome (reach r.s r.j.ctx who.cl at_) who 0 a 512 .store 0 [(at_, 512)] with
    | (.ok, some _, s) =>
      { r with s := storeFrame s who.id at_ (sliceOf r.j.buf (512 * r.j.unit) 512), j := { r.j with unit := r.j.unit + 1 } }
    | (f, _, s) => { r with s := s, res := f }

theorem unsealWrite_eq_foldl (sched slot f : Nat) (s : State) (j : Job) :
    unsealWrite sched slot f s j =
      (List.range (128 - j.unit)).foldl (fun r _ => unsealBlock (jobActor s sched slot j) f r) { s := s, j := j, res := .ok } := rfl

theorem foldl_unsealBlock {who : Actor} {f : Nat} {j : Job} (l : List Nat) {k : Nat} {s t : State}
    (h : Blocks who j.ctx f j.buf l.length k s t) :
    l.foldl (fun r _ => unsealBlock who f r) { s := s, j := { j with unit := k }, res := .ok } =
      { s := t, j := { j with unit := k + l.length }, res := .ok } := by
  induction l generalizing k s with
  | nil =>
    obtain rfl := h
    rfl
  | cons _ l ih =>
    obtain ⟨x, s₁, turn, more⟩ := h
    have first : unsealBlock who f { s := s, j := { j with unit := k }, res := .ok } =
        { s := storeFrame s₁ who.id (65536 * f + 512 * k) ((j.buf.drop (512 * k)).take 512), j := { j with unit := k + 1 }, res := .ok } := by
      simp only [unsealBlock, turn, ne_eq, not_true_eq_false, if_false]
      rfl
    rw [List.foldl_cons, first, ih more, List.length_cons, Nat.add_right_comm, Nat.add_assoc]

theorem unsealWrite_of_blocks {sched slot f : Nat} {s t : State} {j : Job} (unit : j.unit ≤ 128)
    (h : Blocks (jobActor s sched slot j) j.ctx f j.buf (128 - j.unit) j.unit s t) :
    unsealWrite sched slot f s j = { s := t, j := { j with unit := 128 }, res := .ok } := by
  rw [unsealWrite_eq_foldl]
  have all := foldl_unsealBlock (j := j) (List.range (128 - j.unit)) (by rw [List.length_range]; exact h)
  rw [List.length_range, Nat.add_sub_cancel' unit] at all
  exact all

/-! ## What a write of whole granules changes (R52, R85) -/

theorem startThaw_mem (s : State) (addr : Nat) (host : Bool) : (startThaw s addr host).mem = s.mem := by
  unfold startThaw startThawFor
  dsimp only
  split <;> rfl

theorem homeKeep_mem (s : State) (src : Source) (cls : Nat) (a : GAddr) (n pc : Nat) : (homeKeep s src cls a n pc).mem = s.mem := by
  unfold homeKeep
  dsimp only
  split <;> rfl

theorem homeAsk_mem (s : State) (src : Source) (cls : Nat) (a : GAddr) (n pc : Nat) : (homeAsk s src cls a n pc).2.mem = s.mem := by
  unfold homeAsk
  dsimp only
  split
  · rfl
  · split
    · rfl
    · split <;> rfl

theorem actorAsk_mem (s : State) (b : Actor) (a : GAddr) (n : Nat) : (actorAsk s b a n).2.mem = s.mem := by
  unfold actorAsk
  dsimp only
  split
  all_goals
    rename_i answer
    have asked := congrArg (fun x => x.2.mem) answer
    simp only [homeAsk_mem] at asked
  · rw [openRow_mem]; exact asked.symm
  · exact asked.symm

/-- R69: an access that gets its turn at its home has written nothing yet. -/
theorem actorHome_mem (s : State) (b : Actor) (va : Nat) (a : GAddr) (n : Nat) (acc : Acc) (e : DWord) (whole : List (Nat × Nat)) :
    (actorHome s b va a n acc e whole).2.2.mem = s.mem := by
  unfold actorHome
  dsimp only
  split
  · split <;> exact sense_mem ..
  · rw [homeKeep_mem, startThaw_mem, sense_mem]
  · split
    · exact sense_mem ..
    · split
      · exact sense_mem ..
      · split
        all_goals
          rename_i answer
          have asked := congrArg (fun x => x.2.mem) answer
          simp only [actorAsk_mem, sense_mem] at asked
          exact asked.symm

theorem length_bytes (s : State) (addr n : Nat) : (s.bytes addr n).length = n := by
  unfold State.bytes
  split <;> simp

/-- R49: granules of every class divide a block of 512 bytes. -/
theorem granuleBytes_dvd (gc : BitVec 3) : granuleBytes gc ∣ 512 := by revert gc; decide

theorem granuleBytes_pos (gc : BitVec 3) : 0 < granuleBytes gc := Nat.pos_of_dvd_of_pos (granuleBytes_dvd gc) (by decide)

/-- R49, R59: the granules of an aligned block of 512 bytes lie in it. -/
theorem mem_granulesOf_block {g addr a : Nat} (pos : 0 < g) (block : g ∣ 512) (aligned : 512 ∣ addr) (h : a ∈ granulesOf g addr 512) :
    addr ≤ a ∧ a + g ≤ addr + 512 := by
  obtain ⟨i, hi, rfl⟩ := List.mem_map.mp h
  have inside := List.mem_range.mp hi
  obtain ⟨q, rfl⟩ := block.trans aligned
  obtain ⟨m, hm⟩ := block
  rw [Nat.mul_mod_right, hm, Nat.zero_add, Nat.add_sub_assoc pos, Nat.mul_add_div pos, Nat.div_eq_of_lt (by omega), Nat.add_zero] at inside
  rw [Nat.mul_div_cancel_left q pos, Nat.mul_comm q g, hm]
  have upto : g * (i + 1) ≤ g * m := Nat.mul_le_mul_left g inside
  rw [Nat.mul_succ] at upto
  omega

/-- R52: granules that are decoded and encoded anew keep every byte beside them. -/
theorem readByte_foldl_encode (g : Nat) (l : List Nat) (s : State) {b : Nat} (outside : ∀ a ∈ l, b < a ∨ a + g ≤ b) :
    readByte (l.foldl (fun s a => freshen { s with mem := writeBytes s.mem a (s.bytes a g) } a g) s).mem b = readByte s.mem b := by
  induction l generalizing s with
  | nil => rfl
  | cons a l ih =>
    rw [List.foldl_cons, ih _ fun x hx => outside x (List.mem_cons_of_mem _ hx)]
    exact readByte_writeBytes_outside _ _ _ _ (by rw [length_bytes]; exact outside a List.mem_cons_self)

/-- R52: of a block of whole granules, what a write decodes and encodes anew lies in the block. -/
theorem readByte_reencode_outside (s : State) {addr b : Nat} (aligned : 512 ∣ addr) (outside : b < addr ∨ addr + 512 ≤ b) :
    readByte (reencode s addr 512).mem b = readByte s.mem b := by
  unfold reencode
  split
  · rfl
  · refine readByte_foldl_encode _ _ s fun a ha => ?_
    obtain ⟨lo, hi⟩ := mem_granulesOf_block (granuleBytes_pos _) (granuleBytes_dvd _) aligned ha
    omega

theorem readByte_storeFrame_block (s : State) (gid : Nat) {addr : Nat} {bs : List Byte} (aligned : 512 ∣ addr) (block : bs.length = 512) (b : Nat) :
    readByte (storeFrame s gid addr bs).mem b = if addr ≤ b ∧ b < addr + 512 then bs.getD (b - addr) 0 else readByte s.mem b := by
  rw [storeFrame, storeWhole_mem, readByte_writeBytes, block]
  split
  · rfl
  · exact readByte_reencode_outside s aligned (by omega)

/-- R85: blocks that are written one after another leave the page's bytes in their range. -/
theorem readByte_blocks {who : Actor} {ctx f : Nat} {page : List Byte} (whole : page.length = 65536) {n k : Nat} {s t : State} (upto : n + k ≤ 128)
    (h : Blocks who ctx f page n k s t) (b : Nat) :
    readByte t.mem b = if 65536 * f + 512 * k ≤ b ∧ b < 65536 * f + 512 * k + 512 * n then page.getD (b - 65536 * f) 0 else readByte s.mem b := by
  induction n generalizing k s with
  | zero =>
    obtain rfl := h
    rw [if_neg (by omega)]
  | succ n ih =>
    obtain ⟨x, s₁, turn, more⟩ := h
    have unwritten : s₁.mem = s.mem := by
      have home := congrArg (fun x => x.2.2.mem) turn
      simp only [actorHome_mem, reach_mem] at home
      exact home.symm
    have aligned : 512 ∣ 65536 * f + 512 * k := ⟨128 * f + k, by ring⟩
    have length : ((page.drop (512 * k)).take 512).length = 512 := by
      rw [List.length_take, List.length_drop, whole]
      omega
    rw [ih (by omega) more, readByte_storeFrame_block s₁ who.id aligned length, unwritten, Nat.mul_succ 512 n, ← Nat.add_assoc]
    by_cases later : 65536 * f + 512 * (k + 1) ≤ b ∧ b < 65536 * f + 512 * (k + 1) + 512 * n
    · rw [if_pos later, if_pos (by omega)]
    · rw [if_neg later]
      by_cases here : 65536 * f + 512 * k ≤ b ∧ b < 65536 * f + 512 * k + 512
      · rw [if_pos here, if_pos (by omega), List.getD_eq_getElem?_getD, List.getElem?_take_of_lt (by omega), List.getElem?_drop,
          show 512 * k + (b - (65536 * f + 512 * k)) = b - 65536 * f by omega, List.getD_eq_getElem?_getD]
      · rw [if_neg here, if_neg (by omega)]

end Sys2Proof.Machine
end

section
/-! PROOFS (00_scope). Gates, sealed pages and the completion of jobs (O57): the phases of SEAL and UNSEAL, the end of a job, and the obligation. -/

namespace Sys2Proof.Machine

open Claims

/-! ## SEAL (R84) -/

/-- R84: what follows the reads of SEAL: the next version is recorded, unless the store is full. -/
def takeVersion (c : Ctx) (r : Region) (s : State) (j : Job) : State × Job :=
  let comp := compartment c
  let stack := r.base / 65536 % 72
  let old := s.versions.filter (fun x => x.world = c.world && x.key = c.ckey && x.page.toNat = r.base)
  let kept := s.versions.filter (fun x => !(x.world = c.world && x.key = c.ckey && x.page.toNat = r.base))
  if old.isEmpty && 2 ^ 20 ≤ (s.versions.filter (fun x => x.stack = stack)).length then (s, j.finish 1)
  else
    let v := SMap.get 0 s.evict comp + 1
    ({ s with evict := SMap.put s.evict comp v,
              versions := kept ++ [{ world := c.world, key := c.ckey, page := BitVec.ofNat 64 r.base, v := BitVec.ofNat 64 v,
                                     stack := stack, plain := plainOf j.buf }] },
     { j with buf := sealImage comp r.base v })

theorem runSeal_of_regions {s : State} {j : Job} {r w : Region} {c : Ctx} (sched slot : Nat) (read : j.rd0 = some r) (write : j.wr = some w)
    (ctx : s.ctxOf? j.ctx = some c) :
    runSeal s sched slot j = if j.phase = 0 then readPhase sched slot s j r (takeVersion c r)
      else writePhase sched slot (jobActor s sched slot j) s j w (sliceOf j.buf) 3 := by
  simp only [runSeal, read, write, ctx]
  rfl

/-- R84: the store is full for a page that has no version in it. -/
theorem takeVersion_full {c : Ctx} {r : Region} {s : State} (j : Job)
    (fresh : ∀ y ∈ s.versions, (y.world = c.world && y.key = c.ckey && y.page.toNat = r.base : Bool) = false)
    (full : 2 ^ 20 ≤ (s.versions.filter (fun y => y.stack = r.base / 65536 % 72)).length) :
    takeVersion c r s j = (s, j.finish 1) := by
  have none_old : s.versions.filter (fun x => x.world = c.world && x.key = c.ckey && x.page.toNat = r.base) = [] :=
    List.filter_eq_nil_iff.mpr fun y hy => by simp only [fresh y hy, Bool.false_eq_true, not_false_eq_true]
  unfold takeVersion
  rw [if_pos (by rw [none_old, List.isEmpty_nil, Bool.true_and]; exact decide_eq_true full)]

/-- R84: a page that has a version, or whose stack has room for one, takes the compartment's next. -/
theorem takeVersion_next {c : Ctx} {r : Region} {s : State} (j : Job)
    (room : (∃ y ∈ s.versions, (y.world = c.world && y.key = c.ckey && y.page.toNat = r.base : Bool) = true) ∨
      (s.versions.filter (fun y => y.stack = r.base / 65536 % 72)).length < 2 ^ 20) :
    let v := SMap.get 0 s.evict (compartment c) + 1
    takeVersion c r s j =
      ({ s with evict := SMap.put s.evict (compartment c) v,
                versions := s.versions.filter (fun x => !(x.world = c.world && x.key = c.ckey && x.page.toNat = r.base)) ++
                  [{ world := c.world, key := c.ckey, page := BitVec.ofNat 64 r.base, v := BitVec.ofNat 64 v,
                     stack := r.base / 65536 % 72, plain := plainOf j.buf }] },
       { j with buf := sealImage (compartment c) r.base v }) := by
  refine if_neg fun full => ?_
  obtain ⟨fresh, full⟩ := (Bool.and_eq_true ..).mp full
  rcases room with ⟨y, hy, mine⟩ | room
  · exact List.filter_eq_nil_iff.mp (List.isEmpty_iff.mp fresh) y hy mine
  · exact absurd (of_decide_eq_true full) (Nat.not_le.mpr room)

/-! ## UNSEAL (R85, R86) -/

/-- R85: the frame that the card of an UNSEAL names. -/
def unsealFrame (j : Job) : Nat := cardTops j.card 0 30

section
variable {s : State} {sched slot : Nat} {j : Job} {r : Region} {c : Ctx} (read : j.rd0 = some r) (ctx : s.ctxOf? j.ctx = some c)
include read ctx

theorem runUnseal_reads (phase : j.phase = 0) : runUnseal s sched slot j = readPhase sched slot s j r (fun s j => (s, j)) := by
  simp only [runUnseal, read, ctx, phase, if_true]

theorem runUnseal_elsewhere (phase : j.phase ≠ 0) (elsewhere : ¬ ((s.dirOf (unsealFrame j)).state ≠ 0 ∧ (s.dirOf (unsealFrame j)).ktag = c.ckey)) :
    runUnseal s sched slot j = s.setJob sched slot (ended j 1) := by
  have refused : ((s.dirOf (cardTops j.card 0 30)).state = 0 || (s.dirOf (cardTops j.card 0 30)).ktag ≠ c.ckey : Bool) = true := by
    rw [Bool.or_eq_true, decide_eq_true_eq, decide_eq_true_eq]
    exact (not_and_or.mp elsewhere).imp not_not.mp id
  simp only [runUnseal, read, ctx, if_neg phase, refused, if_true]
  rfl

/-- R85: an unseal whose blocks all get their turn ends with the status of its checks. -/
theorem runUnseal_writes {x : State × Job} {t : State} (phase : j.phase ≠ 0)
    (here : (s.dirOf (unsealFrame j)).state ≠ 0 ∧ (s.dirOf (unsealFrame j)).ktag = c.ckey)
    (checked : (if j.phase = 1 then unsealCheck s j.run c else (s, j.run)) = x) (unit : x.2.unit ≤ 128)
    (blocks : Blocks (jobActor x.1 sched slot x.2) x.2.ctx (unsealFrame j) x.2.buf (128 - x.2.unit) x.2.unit x.1 t) :
    runUnseal s sched slot j = t.setJob sched slot { x.2.finish x.2.status with unit := 128 } := by
  have accepted : ¬ ((s.dirOf (cardTops j.card 0 30)).state = 0 || (s.dirOf (cardTops j.card 0 30)).ktag ≠ c.ckey : Bool) = true := by
    rw [Bool.or_eq_true, decide_eq_true_eq, decide_eq_true_eq]
    exact not_or.mpr ⟨here.1, not_not.mpr here.2⟩
  have written : unsealWrite sched slot (cardTops j.card 0 30) x.1 x.2 = { s := t, j := { x.2 with unit := 128 }, res := .ok } :=
    unsealWrite_of_blocks unit blocks
  simp only [runUnseal, read, ctx, if_neg phase, if_neg accepted, checked, written]
  rfl

end

/-- R85: the page and the compartment of a version are those of an UNSEAL. -/
def isVersionOf (y : Version) (c : Ctx) (j : Job) : Bool := y.world = c.world && y.key = c.ckey && y.page.toNat = cardTops j.card 32 56

theorem unsealCheck_agrees {s : State} {j : Job} {c : Ctx} {y : Version}
    (found : s.versions.find? (fun x => isVersionOf x c j && sealChecks j.buf (compartment c) (cardTops j.card 32 56) x.v.toNat) = some y) :
    unsealCheck s j c = ({ s with versions := s.versions.filter (fun y => !isVersionOf y c j), unseals := s.unseals ++ [0] },
      { j with phase := 2, unit := 0, status := 0, buf := (List.range 65536).map (fun i => (SMap.find? y.plain i).getD 0) }) := by
  unfold isVersionOf at found ⊢
  simp only [unsealCheck, found]
  rfl

theorem unsealCheck_refuses {s : State} {j : Job} {c : Ctx}
    (wrong : ∀ y ∈ s.versions, isVersionOf y c j = true → sealChecks j.buf (compartment c) (cardTops j.card 32 56) y.v.toNat = false) :
    unsealCheck s j c = ({ terminate s c with unseals := s.unseals ++ [1] },
      { j with phase := 2, unit := 0, status := 1, buf := List.replicate 65536 0 }) := by
  have none_agrees : s.versions.find? (fun x => isVersionOf x c j && sealChecks j.buf (compartment c) (cardTops j.card 32 56) x.v.toNat) = none := by
    refine List.find?_eq_none.mpr fun y hy => ?_
    rw [Bool.and_eq_true]
    exact fun ⟨mine, agrees⟩ => by simp [wrong y hy mine] at agrees
  unfold isVersionOf at none_agrees
  simp only [unsealCheck, none_agrees]

/-- R39, R86: the contexts that are terminated are those of the compartment. -/
theorem terminate_eq (s : State) (c : Ctx) : terminate s c = { s with ctxs := s.ctxs.map (fun e =>
    (e.1, if e.2.world = c.world ∧ e.2.ckey = c.ckey then { e.2 with dead := true, raised := 0x10 } else e.2)) } := by
  simp only [terminate, Bool.and_eq_true, decide_eq_true_eq]

/-! ## The end of a job (R143, R147, R154) -/

theorem jobWritesDone_eq_false_iff (s : State) (sched slot : Nat) : jobWritesDone s sched slot = false ↔
    (∃ r ∈ s.homeQ, r.src = .job sched slot) ∨ ∃ r ∈ s.reps, r.gid = jobGid sched slot ∧ r.write = true := by
  simp only [jobWritesDone, Bool.and_eq_false_iff, Bool.not_eq_false', List.any_eq_true, Bool.and_eq_true, decide_eq_true_eq]

/-- R129: a die has no shadow reduction left, neither in its buffer nor on its way. -/
theorem shadowsDone_iff (s : State) {cl : Nat} (die : cl < 72) : shadowsDone s (16 * cl) = true ↔
    (s.clusterOf cl).shadow = [] ∧ ∀ r ∈ s.homeQ, r.src ≠ .shadow cl := by
  have of : clusterOfCore (16 * cl) = some cl := by
    rw [clusterOfCore, if_pos (by omega), Nat.mul_div_cancel_left cl (by decide)]
  simp only [shadowsDone, of, Bool.and_eq_true, List.isEmpty_iff, Bool.not_eq_true', List.any_eq_false]
  refine and_congr_right fun _ => forall_congr' fun r => imp_congr_right fun _ => ?_
  cases r.src <;> simp

theorem sysDone_iff (s : State) : sysDone s = true ↔ (∀ r ∈ s.reps, r.write = true → r.got ≠ none) ∧ ∀ e ∈ s.cxl, e.2.unacked = [] := by
  simp only [sysDone, Bool.and_eq_true, Bool.not_eq_true', List.any_eq_false, List.all_eq_true, List.isEmpty_iff, not_and, Option.isNone_iff_eq_none, ne_eq]

/-- R147: the state in which a job's completion waits for its release: from dev on its die's shadow reductions have been sent. -/
def releaseStart (s : State) (j : Job) : State := if 4 ≤ j.scope ∧ j.cluster < 72 then mergeShadows s j.cluster (fun _ => true) else s

/-- R129: what a release sends are reductions: the requests to the switch, the expanders' writes and the jobs stay. -/
theorem releaseStart_keeps (s : State) (j : Job) :
    (releaseStart s j).reps = s.reps ∧ (releaseStart s j).cxl = s.cxl ∧ (releaseStart s j).scheds = s.scheds := by
  unfold releaseStart
  split <;> exact ⟨rfl, rfl, rfl⟩

theorem jobReleased_snd (s : State) (j : Job) : (jobReleased s j).2 = releaseStart s j := by
  unfold jobReleased releaseStart
  by_cases narrow : j.scope < 4
  · rw [if_pos narrow, if_neg (by omega)]
  · simp only [if_neg narrow, Nat.not_lt.mp narrow, true_and]

/-- R77, R129, R147: a completion is released once what its scope orders has been performed. -/
theorem jobReleased_fst_iff (s : State) (j : Job) : (jobReleased s j).1 = true ↔
    (4 ≤ j.scope → 72 ≤ j.cluster ∨ shadowsDone (releaseStart s j) (16 * j.cluster) = true) ∧ (5 ≤ j.scope → sysDone (releaseStart s j) = true) := by
  unfold jobReleased releaseStart
  by_cases narrow : j.scope < 4
  · rw [if_pos narrow]
    simp only [true_iff]
    exact ⟨fun _ => by omega, fun _ => by omega⟩
  · have wide : 4 ≤ j.scope := Nat.not_lt.mp narrow
    simp only [if_neg narrow, wide, true_and, forall_const, Bool.and_eq_true, Bool.or_eq_true, decide_eq_true_eq]
    refine and_congr_right fun _ => ⟨fun h five => h.resolve_left (by omega), fun h => ?_⟩
    by_cases five : 5 ≤ j.scope
    · exact .inr (h five)
    · exact .inl (by omega)

theorem execJobComplete_of_idle {s : State} {sched slot : Nat}
    (idle : (s.job sched slot).state ≠ .running ∨ (s.job sched slot).phase ≠ 3 ∨ (s.job sched slot).out ≠ [] ∨ jobWritesDone s sched slot = false) :
    execJobComplete sched slot s = .next s := by
  refine if_pos ?_
  simpa [or_assoc] using idle

theorem execJobComplete_of_done {s : State} {sched slot : Nat} (running : (s.job sched slot).state = .running) (phase : (s.job sched slot).phase = 3)
    (out : (s.job sched slot).out = []) (writes : jobWritesDone s sched slot = true) :
    execJobComplete sched slot s = .next (if (jobReleased s (s.job sched slot)).1 = true then
      (releaseStart s (s.job sched slot)).setJob sched slot ((s.job sched slot).end (s.job sched slot).status) else releaseStart s (s.job sched slot)) := by
  unfold execJobComplete
  rw [if_neg (by simp [running, phase, out, writes]), ← jobReleased_snd]
  rcases jobReleased s (s.job sched slot) with ⟨_ | _, _⟩ <;> rfl

/-- R152: a group's first queue register of a port is the one that takes its entries. -/
theorem portReg_eq_some {g : Group} {port q : Nat} (inside : q < g.queues.length) (bound : (g.q q).port = port) (first : ∀ k < q, (g.q k).port ≠ port) :
    g.portReg port = some q := by
  have reads (k : Nat) (hk : k < g.queues.length) : g.queues[k] = g.q k := (List.getD_eq_getElem _ _ hk).symm
  refine List.findIdx?_eq_some_iff_getElem.mpr ⟨inside, ?_, fun k hk => ?_⟩
  · rw [reads q inside]; exact decide_eq_true bound
  · rw [reads k (hk.trans inside)]; simpa using first k hk

theorem portsStill_iff (g : Group) : g.portsStill = true ↔ g.sup = true ∧ (g.tcause = 0x09 ∨ g.tcause = 0x11) := by
  simp only [Group.portsStill, Bool.and_eq_true, Bool.or_eq_true, decide_eq_true_eq]

end Sys2Proof.Machine
end

section
/-! PROOFS (00_scope). Gates, sealed pages and the completion of jobs (O57): the clauses of the obligation, row by row. -/

namespace Sys2Proof.Claims

open Machine

/-! ## Gates -/

theorem gate_spec (s s₀ : State) (sched slot : Nat) (j : Job) (r : Region) (x : Ctx) (d : GateDesc) (may : MayRun s s₀ sched slot 0x06 j)
    (read : j.rd0 = some r) (ctx : s.ctxOf? j.ctx = some x) (ok : gateOk s x j.card = some d) (alive : ∀ e ∈ s.ctxs, e.2.dead = false) :
    let who : Actor := { jobActor s₀ sched slot j with ctx := d.dctxn, key := some (BitVec.ofNat 8 d.dkey), self := noAlias }
    (∀ bs s', j.phase = 0 → JobReads sched slot j r.place s₀ (r.pieces.drop j.unit) bs s' →
      exec (.gateJob sched slot) s = .next (s'.setJob sched slot { runs j with phase := 1, unit := 0, buf := j.buf ++ bs })) ∧
    (∀ s', j.phase = 1 → j.unit = 0 → j.counted = 0 → let w : Region := { r with base := d.dbase.toNat + (j.card.extractLsb' 32 40).toNat }
      JobWrites who j w s₀ w.pieces j.buf s' → ∃ n,
      exec (.gateJob sched slot) s = .next (s'.setJob sched slot { runs j with phase := 2, unit := 0, counted := n })) ∧
    (j.phase = 2 → (∃ y ∈ s.homeQ, y.src = .job sched slot) → exec (.gateJob sched slot) s = .next (s₀.setJob sched slot (runs j))) ∧
    ∀ s₁, j.phase = 2 → (∀ y ∈ s.homeQ, y.src ≠ .job sched slot) →
      (jobReleased s₀ j = (false, s₁) → exec (.gateJob sched slot) s = .next (s₁.setJob sched slot (runs j))) ∧
      ∀ a s₂, jobReleased s₀ j = (true, s₁) →
        jobTarget s₁ who d.naddr.toNat 8 .atomic (d.naddr.toNat, 8) = (.ok, some a, s₂) → a.place = .glob → a.rep = none → frameCxl s₂ a.addr = none →
        ∃ t, exec (.gateJob sched slot) s = .next t ∧ t.job sched slot = ended j 0 ∧
          readNat t.mem a.addr 8 = (s₂.num a.addr 8 + 1) % 2 ^ 64 ∧ (s₂.upsets = [] → ∀ b, (b < a.addr ∨ a.addr + 8 ≤ b) → readByte t.mem b = readByte s₂.mem b) := by
  have waiting : (∃ y ∈ s₀.homeQ, y.src = .job sched slot) ↔ ∃ y ∈ s.homeQ, y.src = .job sched slot := by
    rw [may.asks]
    exact exists_src_askAgain s (jobGid sched slot) nofun
  have run : exec (.gateJob sched slot) s = .next (runGate s₀ sched slot j) :=
    (exec_gateJob sched slot s).trans (jobStep_of_mayRun may fun s => runGate s sched slot)
  rw [runGate_of_ok sched slot read (by rw [may.asks]; exact ctx) (by rw [may.asks]; exact ok) (by rw [may.asks]; exact alive)] at run
  rw [run]
  refine ⟨fun bs s' phase reads => ?_, fun s' phase unit counted writes => ?_, fun phase waits => ?_, fun s₁ phase free => ?_⟩
  · rw [if_pos phase, readPhase_of_reads reads]
  · obtain ⟨n, written⟩ := writePhase_of_writes (sched := sched) (slot := slot) writes unit counted 2
    refine ⟨n, ?_⟩
    rw [if_neg (by omega), if_pos phase]
    exact congrArg _ written
  · rw [if_neg (by omega), if_neg (by omega), gateNotify_waits _ _ _ (waiting.mpr waits)]
  · have free₀ : ∀ y ∈ s₀.homeQ, y.src ≠ .job sched slot := fun y hy src => by
      obtain ⟨z, hz, src⟩ := waiting.mp ⟨y, hy, src⟩
      exact free z hz src
    rw [if_neg (by omega), if_neg (by omega)]
    refine ⟨fun held => by rw [gateNotify_unreleased _ _ free₀ held], fun a s₂ released target glob here dram => ?_⟩
    refine ⟨_, congrArg _ (gateNotify_adds free₀ released target here dram), ?_, ?_, fun clean b outside => ?_⟩
    · rw [job_setJob, if_pos ⟨rfl, rfl⟩]
    · rw [setJob_mem, readNat_performWrite s₂ _ glob]
      exact Nat.mod_mod _ _
    · rw [setJob_mem]
      exact readByte_performWrite_outside _ glob _ clean (by rw [length_natLe]; exact outside)

/-! ## Sealed pages -/

theorem seal_spec (s s₀ : State) (sched slot : Nat) (j : Job) (r w : Region) (x : Ctx) (may : MayRun s s₀ sched slot 0x10 j)
    (read : j.rd0 = some r) (write : j.wr = some w) (ctx : s.ctxOf? j.ctx = some x) :
    (∀ bs s', j.phase = 0 → JobReads sched slot j r.place s₀ (r.pieces.drop j.unit) bs s' → s'.versions = s.versions → s'.evict = s.evict →
      let comp := 256 * x.world.toNat + x.ckey.toNat
      let mine (y : Version) : Bool := y.world = x.world && y.key = x.ckey && y.page.toNat = r.base
      let v := SMap.get 0 s.evict comp + 1
      (((∃ y ∈ s.versions, mine y = true) ∨ (s.versions.filter (fun y => y.stack = r.base / 65536 % 72)).length < 2 ^ 20) → ∃ y : Version,
        exec (.seal sched slot) s = .next ({ s' with evict := SMap.put s.evict comp v, versions := s.versions.filter (fun y => !mine y) ++ [y] }.setJob sched slot
          { runs j with phase := 1, unit := 0, buf := Image x r.base v }) ∧
        (y.world, y.key, y.page, y.v) = (x.world, x.ckey, BitVec.ofNat 64 r.base, BitVec.ofNat 64 v) ∧
        ∀ i, (SMap.find? y.plain i).getD 0 = (j.buf ++ bs).getD i 0) ∧
      ((∀ y ∈ s.versions, mine y = false) → 2 ^ 20 ≤ (s.versions.filter (fun y => y.stack = r.base / 65536 % 72)).length →
        exec (.seal sched slot) s = .next (s'.setJob sched slot { ended j 1 with unit := 0, buf := j.buf ++ bs }))) ∧
    ∀ s', j.phase = 1 → j.unit = 0 → j.counted = 0 → JobWrites (jobActor s₀ sched slot j) j w s₀ w.pieces j.buf s' → ∃ n,
      exec (.seal sched slot) s = .next (s'.setJob sched slot { runs j with phase := 3, unit := 0, counted := n }) := by
  have run : exec (.seal sched slot) s = .next (runSeal s₀ sched slot j) :=
    (exec_seal sched slot s).trans (jobStep_of_mayRun may fun s => runSeal s sched slot)
  rw [runSeal_of_regions sched slot read write (by rw [may.asks]; exact ctx)] at run
  rw [run]
  refine ⟨fun bs s' phase reads versions evict => ?_, fun s' phase unit counted writes => ?_⟩
  · rw [if_pos phase, readPhase_of_reads reads, ← versions, ← evict]
    refine ⟨fun room => ?_, fun fresh full => ?_⟩
    · rw [takeVersion_next _ room]
      exact ⟨_, rfl, rfl, find?_plainOf _⟩
    · rw [takeVersion_full _ fresh full]
      rfl
  · obtain ⟨n, written⟩ := writePhase_of_writes (sched := sched) (slot := slot) writes unit counted 3
    refine ⟨n, ?_⟩
    rw [if_neg (by omega), written]

theorem unseal_spec (s s₀ : State) (sched slot : Nat) (j : Job) (r : Region) (x : Ctx) (may : MayRun s s₀ sched slot 0x11 j)
    (read : j.rd0 = some r) (ctx : s.ctxOf? j.ctx = some x) :
    let f := (j.card.extractLsb' 32 30).toNat
    let page := (j.card.extractLsb' 64 56).toNat
    let who := jobActor s₀ sched slot j
    let mine (y : Version) : Bool := y.world = x.world && y.key = x.ckey && y.page.toNat = page
    let agrees (y : Version) : Bool := j.buf.take 32 = (Image x page y.v.toNat).take 32 && j.buf.drop 64 = (Image x page y.v.toNat).drop 64
    let here : Prop := (s.dirOf f).state ≠ 0 ∧ (s.dirOf f).ktag = x.ckey
    (∀ bs s', j.phase = 0 → JobReads sched slot j r.place s₀ (r.pieces.drop j.unit) bs s' →
      exec (.unseal sched slot) s = .next (s'.setJob sched slot { runs j with phase := 1, unit := 0, buf := j.buf ++ bs })) ∧
    (j.phase ≠ 0 → ¬ here → exec (.unseal sched slot) s = .next (s₀.setJob sched slot (ended j 1))) ∧
    (∀ y s', j.phase = 1 → here → s.versions.find? (fun y => mine y && agrees y) = some y →
      let bytes : List Byte := (List.range 65536).map (fun i => (SMap.find? y.plain i).getD 0)
      Blocks who j.ctx f bytes 128 0 { s₀ with versions := s.versions.filter (fun y => !mine y), unseals := s.unseals ++ [0] } s' →
      exec (.unseal sched slot) s = .next (s'.setJob sched slot { ended j 0 with unit := 128, buf := bytes })) ∧
    (∀ s', j.phase = 1 → here → (∀ y ∈ s.versions, mine y = true → agrees y = false) →
      let zeros : List Byte := List.replicate 65536 0
      Blocks who j.ctx f zeros 128 0 { s₀ with unseals := s.unseals ++ [1], ctxs := s.ctxs.map (fun e => (e.1,
        if e.2.world = x.world ∧ e.2.ckey = x.ckey then { e.2 with dead := true, raised := 0x10 } else e.2)) } s' →
      exec (.unseal sched slot) s = .next (s'.setJob sched slot { ended j 1 with unit := 128, buf := zeros })) ∧
    (∀ s', j.phase = 2 → here → j.unit ≤ 128 → Blocks who j.ctx f j.buf (128 - j.unit) j.unit s₀ s' →
      exec (.unseal sched slot) s = .next (s'.setJob sched slot { ended j j.status with unit := 128 })) ∧
    ∀ ctx bytes s' t, bytes.length = 65536 → Blocks who ctx f bytes 128 0 s' t →
      ∀ b, readByte t.mem b = if 65536 * f ≤ b ∧ b < 65536 * (f + 1) then bytes.getD (b - 65536 * f) 0 else readByte s'.mem b := by
  have run : exec (.unseal sched slot) s = .next (runUnseal s₀ sched slot j) :=
    (exec_unseal sched slot s).trans (jobStep_of_mayRun may fun s => runUnseal s sched slot)
  have ctx₀ : s₀.ctxOf? j.ctx = some x := by rw [may.asks]; exact ctx
  have dir (f : Nat) : s₀.dirOf f = s.dirOf f := by rw [may.asks]; rfl
  rw [run]
  intro f page who mine agrees here
  refine ⟨fun bs s' phase reads => ?_, fun phase elsewhere => ?_, fun y s' phase alloc found blocks => ?_,
    fun s' phase alloc wrong blocks => ?_, fun s' phase alloc unit blocks => ?_, fun ctx bytes s' t whole blocks b => ?_⟩
  · rw [runUnseal_reads read ctx₀ phase, readPhase_of_reads reads]
  · rw [runUnseal_elsewhere read ctx₀ phase (by rw [dir]; exact elsewhere)]
  · have versions : s₀.versions = s.versions := by rw [may.asks]; rfl
    have unseals : s₀.unseals = s.unseals := by rw [may.asks]; rfl
    rw [← versions] at found
    rw [← versions, ← unseals] at blocks
    have checked := unsealCheck_agrees (j := j.run) (c := x) found
    generalize (List.range 65536).map (fun i => (SMap.find? y.plain i).getD 0) = plain at checked blocks ⊢
    rw [runUnseal_writes read ctx₀ (by omega) (by rw [dir]; exact alloc) ((if_pos phase).trans checked) (Nat.zero_le 128) blocks]
    rfl
  · have versions : s₀.versions = s.versions := by rw [may.asks]; rfl
    have unseals : s₀.unseals = s.unseals := by rw [may.asks]; rfl
    have ctxs : s₀.ctxs = s.ctxs := by rw [may.asks]; rfl
    rw [← versions] at wrong
    rw [← unseals, ← ctxs] at blocks
    have checked := unsealCheck_refuses (j := j.run) (c := x) wrong
    rw [terminate_eq] at checked
    rw [runUnseal_writes read ctx₀ (by omega) (by rw [dir]; exact alloc) ((if_pos phase).trans checked) (Nat.zero_le 128) blocks]
    rfl
  · rw [runUnseal_writes (x := (s₀, j.run)) read ctx₀ (by omega) (by rw [dir]; exact alloc) (if_neg (by omega)) unit blocks]
    rfl
  · refine (readByte_blocks whole (Nat.le_refl 128) blocks b).trans (if_congr ?_ rfl rfl)
    rw [Nat.mul_zero, Nat.add_zero, Nat.mul_add]

/-! ## The end of a job -/

theorem jobReadsPerformed_spec (s : State) (sched slot : Nat) : let j := s.job sched slot
    (j.state = .running → 1 ≤ j.phase → j.readsDone = false → exec (.jobReadsPerformed sched slot) s = .next (s.setJob sched slot { j with readsDone := true })) ∧
    (j.state ≠ .running ∨ j.phase = 0 ∨ j.readsDone = true → exec (.jobReadsPerformed sched slot) s = .next s) := by
  rw [exec_jobReadsPerformed, execJobReadsPerformed]
  refine ⟨fun running phase reads => if_pos (by simp [running, phase, reads]), fun idle => if_neg fun due => ?_⟩
  simp only [Bool.and_eq_true, beq_iff_eq, decide_eq_true_eq, Bool.not_eq_true'] at due
  obtain ⟨⟨running, phase⟩, reads⟩ := due
  rcases idle with h | h | h
  · exact h running
  · omega
  · rw [h] at reads; cases reads

theorem jobComplete_spec (s : State) (sched slot : Nat) : let j := s.job sched slot
    let owed : Prop := (∃ r ∈ s.homeQ, r.src = .job sched slot) ∨ ∃ r ∈ s.reps, r.gid = jobGid sched slot ∧ r.write = true
    let s₁ := if 4 ≤ j.scope ∧ j.cluster < 72 then mergeShadows s j.cluster (fun _ => true) else s
    let die : Prop := 72 ≤ j.cluster ∨ (s₁.clusterOf j.cluster).shadow = [] ∧ ∀ r ∈ s₁.homeQ, r.src ≠ .shadow j.cluster
    let module : Prop := (∀ r ∈ s.reps, r.write = true → r.got ≠ none) ∧ ∀ e ∈ s.cxl, e.2.unacked = []
    (j.state ≠ .running ∨ j.phase ≠ 3 ∨ j.out ≠ [] ∨ owed → exec (.jobComplete sched slot) s = .next s) ∧
    (j.state = .running → j.phase = 3 → j.out = [] → ¬ owed →
      ((4 ≤ j.scope → die) ∧ (5 ≤ j.scope → module) → ∃ t, exec (.jobComplete sched slot) s = .next t ∧ t = { s₁ with scheds := t.scheds } ∧
          ∀ cl k, t.job cl k = if cl = sched ∧ k = slot then { j with state := .complete, readsDone := true, edges := [], buf := [], out := [], resume := false } else s.job cl k) ∧
      ((4 ≤ j.scope ∧ ¬ die) ∨ (5 ≤ j.scope ∧ ¬ module) → exec (.jobComplete sched slot) s = .next s₁)) := by
  intro j owed s₁ die module
  have owed_iff : jobWritesDone s sched slot = false ↔ owed := jobWritesDone_eq_false_iff s sched slot
  obtain ⟨reps, cxl, scheds⟩ : s₁.reps = s.reps ∧ s₁.cxl = s.cxl ∧ s₁.scheds = s.scheds := releaseStart_keeps s j
  have die_iff : (72 ≤ j.cluster ∨ shadowsDone s₁ (16 * j.cluster) = true) ↔ die := by
    by_cases outer : 72 ≤ j.cluster
    · exact ⟨fun _ => .inl outer, fun _ => .inl outer⟩
    · exact or_congr_right (shadowsDone_iff s₁ (Nat.not_le.mp outer))
  have module_iff : sysDone s₁ = true ↔ module := by rw [sysDone_iff, reps, cxl]
  have released : (jobReleased s j).1 = true ↔ (4 ≤ j.scope → die) ∧ (5 ≤ j.scope → module) := by
    rw [jobReleased_fst_iff]
    exact and_congr (forall_congr' fun _ => die_iff) (forall_congr' fun _ => module_iff)
  rw [exec_jobComplete]
  refine ⟨fun idle => execJobComplete_of_idle ?_, fun running phase out writes => ?_⟩
  · rwa [owed_iff]
  · rw [execJobComplete_of_done running phase out (by rwa [← Bool.not_eq_false, owed_iff])]
    refine ⟨fun done => ⟨_, congrArg _ (if_pos (released.mpr done)), rfl, fun cl k => ?_⟩, fun held => congrArg _ (if_neg (mt released.mp ?_))⟩
    · rw [job_setJob]
      split
      · rw [Job.end, ← phase]
      · exact congrArg (fun m => SMap.get Job.none (SMap.get [] m cl) k) scheds
    · rintro ⟨dies, modules⟩
      exact held.elim (fun h => h.2 (dies h.1)) (fun h => h.2 (modules h.1))

theorem gatherEntryDelivery_spec (s : State) (sched slot : Nat) (x : SMap Word) (rest : List (SMap Word)) (gid : Nat) (g : Group) (q : Nat)
    (out : (s.job sched slot).out = x :: rest) (group : jobGroup s (s.job sched slot) = some (gid, g)) :
    let j := s.job sched slot
    let port : Nat := if (j.card.extractLsb' 0 8).toNat = 0x05 then 3 else if j.engine = 4 then 1 else 2
    q < g.queues.length → (g.q q).port = port → (∀ k < q, (g.q k).port ≠ port) →
    let still : Prop := g.sup = true ∧ (g.tcause = 0x09 ∨ g.tcause = 0x11)
    (still ∨ 32 ≤ (g.q q).fifo.length → exec (.gatherEntryDelivery sched slot) s = .next s) ∧
    (¬ still → (g.q q).fifo.length < 32 → exec (.gatherEntryDelivery sched slot) s =
      .next ((s.setGroup gid (g.setQ q { g.q q with fifo := (g.q q).fifo ++ [x] })).setJob sched slot { j with out := rest })) := by
  intro j port inside bound first still
  have bound' : g.portReg (jobPort (s.job sched slot)) = some q := portReg_eq_some inside bound first
  rw [exec_gatherEntryDelivery, execGatherEntryDelivery, out, group]
  simp only [bound']
  by_cases stopped : still
  · have stands := (portsStill_iff g).mpr stopped
    exact ⟨fun _ => if_pos stands, fun free => absurd stopped free⟩
  · rw [if_neg (mt (portsStill_iff g).mp stopped)]
    exact ⟨fun full => if_pos (full.resolve_left stopped), fun _ room => if_neg (Nat.not_le.mpr room)⟩

/-- Settles O57: the phases of a gate, a SEAL and an UNSEAL come from the laws of reading, writing and blocks above; a job's end from what its release waits for. -/
theorem gatesSealsAndCompletion : Obligations.GatesSealsAndCompletion :=
  ⟨⟨gate_spec, seal_spec, unseal_spec⟩, jobReadsPerformed_spec, jobComplete_spec, gatherEntryDelivery_spec⟩

end Sys2Proof.Claims
end

section
/-! PROOFS (00_scope). What is stored of a data unit (R53): whatever the key, 32 bytes become 32 bytes. -/

namespace Sys2Proof.Machine

/-! ## Bytes as numbers -/

/-- Every number of a list is a byte. -/
def AreBytes (l : List Nat) : Prop := ∀ b ∈ l, b < 256

theorem AreBytes.getD {l : List Nat} (h : AreBytes l) (i : Nat) : l.getD i 0 < 256 := by
  rw [List.getD_eq_getElem?_getD]
  cases read : l[i]? with
  | none => decide
  | some b => exact h b (List.mem_of_getElem? read)

theorem AreBytes.take {l : List Nat} (h : AreBytes l) (n : Nat) : AreBytes (l.take n) := fun b hb => h b (List.mem_of_mem_take hb)
theorem AreBytes.drop {l : List Nat} (h : AreBytes l) (n : Nat) : AreBytes (l.drop n) := fun b hb => h b (List.mem_of_mem_drop hb)

theorem AreBytes.xor {x y : List Nat} (hx : AreBytes x) (hy : AreBytes y) : AreBytes (List.zipWith (· ^^^ ·) x y) := by
  intro b hb
  rw [← List.map_uncurry_zip_eq_zipWith] at hb
  obtain ⟨⟨p, q⟩, pair, rfl⟩ := List.mem_map.mp hb
  exact Nat.xor_lt_two_pow (n := 8) (hx p (List.of_mem_zip pair).1) (hy q (List.of_mem_zip pair).2)

theorem AreBytes.numBytes (n x : Nat) : AreBytes (numBytes n x) := by
  intro b hb
  obtain ⟨i, -, rfl⟩ := List.mem_map.mp hb
  exact Nat.mod_lt _ (by decide)

/-! ## AES works on bytes (R53) -/

/-- A doubling in the AES field stays in it. -/
theorem xtime_lt : ∀ x < 256, (if x < 128 then 2 * x else (2 * x) ^^^ 0x11B) < 256 := by decide +kernel

theorem fieldMul_lt {a : Nat} (h : a < 256) (b : Nat) : fieldMul 0x11B a b < 256 := by
  unfold fieldMul
  induction List.range 8 with
  | nil => exact Nat.zero_lt_succ _
  | cons i l ih =>
    rw [List.foldr_cons]
    dsimp only
    split
    · exact Nat.xor_lt_two_pow (n := 8) (xtime_lt _ ih) h
    · exact xtime_lt _ ih

theorem fieldPow_lt (a n : Nat) : fieldPow 0x11B a n < 256 := by
  unfold fieldPow
  induction List.range 8 with
  | nil => exact Nat.succ_lt_succ (Nat.zero_lt_succ _)
  | cons i l ih =>
    rw [List.foldr_cons]
    dsimp only
    split
    · exact fieldMul_lt (fieldMul_lt ih _) _
    · exact fieldMul_lt ih _

theorem byteRot_lt {x n : Nat} (hx : x < 256) (hn : n < 5) : byteRot x n < 256 := by
  unfold byteRot
  interval_cases n <;> norm_num <;> omega

theorem aesSub_lt (x : Nat) : aesSub x < 256 := by
  have y : fieldPow 0x11B x 254 < 256 := fieldPow_lt x 254
  exact Nat.xor_lt_two_pow (n := 8) (Nat.xor_lt_two_pow (Nat.xor_lt_two_pow (Nat.xor_lt_two_pow (Nat.xor_lt_two_pow y
    (byteRot_lt y (by decide))) (byteRot_lt y (by decide))) (byteRot_lt y (by decide))) (byteRot_lt y (by decide))) (by decide)

theorem areBytes_map_aesSub (x : List Nat) : AreBytes (x.map aesSub) := by
  intro b hb
  obtain ⟨a, -, rfl⟩ := List.mem_map.mp hb
  exact aesSub_lt a

theorem AreBytes.aesShift {x : List Nat} (h : AreBytes x) (by4 : Nat) : AreBytes (aesShift by4 x) := by
  intro b hb
  obtain ⟨i, -, rfl⟩ := List.mem_map.mp hb
  exact h.getD _

theorem length_aesShift (by4 : Nat) (x : List Nat) : (aesShift by4 x).length = 16 := by simp [aesShift]

/-- Words of a key schedule: 4 bytes each. -/
def AreWords (w : List (List Nat)) : Prop := ∀ x ∈ w, x.length = 4 ∧ AreBytes x

theorem AreWords.getD {w : List (List Nat)} (h : AreWords w) {i : Nat} (lt : i < w.length) : (w.getD i []).length = 4 ∧ AreBytes (w.getD i []) := by
  rw [List.getD_eq_getElem _ _ lt]
  exact h _ (List.getElem_mem lt)

theorem AreWords.append {w : List (List Nat)} (h : AreWords w) {x : List Nat} (length : x.length = 4) (bytes : AreBytes x) : AreWords (w ++ [x]) := by
  intro y hy
  rcases List.mem_append.mp hy with old | new
  · exact h y old
  · rw [List.mem_singleton.mp new]
    exact ⟨length, bytes⟩

/-- What every step of a fold over 0, 1, … keeps, the fold arrives at. -/
theorem foldl_range_induction {β : Type} {f : β → Nat → β} {P : Nat → β → Prop} {x : β} (start : P 0 x) {n : Nat}
    (step : ∀ k < n, ∀ y, P k y → P (k + 1) (f y k)) : P n ((List.range n).foldl f x) := by
  induction n with
  | zero => exact start
  | succ n ih =>
    rw [List.range_succ, List.foldl_append, List.foldl_cons, List.foldl_nil]
    exact step n (Nat.lt_succ_self n) _ (ih fun k hk => step k (Nat.lt_succ_of_lt hk))

theorem AreBytes.cons {b : Nat} {l : List Nat} (hb : b < 256) (h : AreBytes l) : AreBytes (b :: l) := by
  intro c hc
  rcases List.mem_cons.mp hc with rfl | tail
  · exact hb
  · exact h c tail

/-- R53: the key schedule of 32 bytes is 60 words. -/
theorem aesKeys_words {key : List Nat} (length : key.length = 32) (bytes : AreBytes key) :
    (aesKeys key).length = 60 ∧ AreWords (aesKeys key) := by
  unfold aesKeys
  refine foldl_range_induction (P := fun n w => w.length = n + 8 ∧ AreWords w) (n := 52) ?start ?step
  case start =>
    refine ⟨by simp, fun x hx => ?_⟩
    obtain ⟨i, hi, rfl⟩ := List.mem_map.mp hx
    have := List.mem_range.mp hi
    exact ⟨by rw [List.length_take, List.length_drop]; omega, (bytes.drop _).take _⟩
  case step =>
    intro n hn w ⟨count, words⟩
    obtain ⟨long, old⟩ := words.getD (i := n + 8 - 8) (by omega)
    obtain ⟨four, last⟩ := words.getD (i := n + 8 - 1) (by omega)
    have joins (t : List Nat) (word : t.length = 4 ∧ AreBytes t) :
        AreWords (w ++ [List.zipWith (· ^^^ ·) (w.getD (n + 8 - 8) []) t]) :=
      words.append (by rw [List.length_zipWith, long, word.1]; rfl) (old.xor word.2)
    refine ⟨by rw [List.length_append, count]; rfl, joins _ ?_⟩
    split
    · have turned := areBytes_map_aesSub ((w.getD (n + 8 - 1) []).tail ++ [(w.getD (n + 8 - 1) []).headD 0])
      have length : (((w.getD (n + 8 - 1) []).tail ++ [(w.getD (n + 8 - 1) []).headD 0]).map aesSub).length = 4 := by
        simp only [List.length_map, List.length_append, List.length_tail, four, List.length_singleton]
      split
      · next b bs rotated =>
        rw [rotated] at turned length
        have constant : 2 ^ ((n + 8) / 8 - 1) < 2 ^ 8 := Nat.pow_lt_pow_right (by decide) (by omega)
        exact ⟨length, .cons (Nat.xor_lt_two_pow (n := 8) (turned b List.mem_cons_self) constant) fun c hc => turned c (List.mem_cons_of_mem b hc)⟩
      · next rotated =>
        rw [rotated] at length
        cases length
    · split
      · exact ⟨by rw [List.length_map, four], areBytes_map_aesSub _⟩
      · exact ⟨four, last⟩

theorem AreWords.flatten {w : List (List Nat)} (h : AreWords w) : w.flatten.length = 4 * w.length ∧ AreBytes w.flatten := by
  constructor
  · rw [List.length_flatten, List.map_congr_left (g := fun _ => 4) fun x hx => (h x hx).1]
    simp [Nat.mul_comm]
  · intro b hb
    obtain ⟨x, hx, hb⟩ := List.mem_flatten.mp hb
    exact (h x hx).2 b hb

theorem aesRoundKey_spec {key : List Nat} (length : key.length = 32) (bytes : AreBytes key) {r : Nat} (hr : r ≤ 14) :
    (aesRoundKey (aesKeys key) r).length = 16 ∧ AreBytes (aesRoundKey (aesKeys key) r) := by
  obtain ⟨count, words⟩ := aesKeys_words length bytes
  have taken : AreWords (((aesKeys key).drop (4 * r)).take 4) := fun x hx => words x (List.mem_of_mem_drop (List.mem_of_mem_take hx))
  refine ⟨taken.flatten.1.trans ?_, taken.flatten.2⟩
  rw [List.length_take, List.length_drop, count]
  omega

/-- R53: AES makes 16 bytes. -/
theorem aesEncrypt_spec {key : List Nat} (length : key.length = 32) (bytes : AreBytes key) (x : List Nat) :
    (aesEncrypt key x).length = 16 ∧ AreBytes (aesEncrypt key x) := by
  obtain ⟨long, last⟩ := aesRoundKey_spec length bytes (r := 14) (by decide)
  exact ⟨by rw [aesEncrypt, List.length_zipWith, length_aesShift, long]; rfl, ((areBytes_map_aesSub _).aesShift 4).xor last⟩

theorem frameKey_spec (k : BitVec 8) : (frameKey k).length = 64 ∧ AreBytes (frameKey k) := by
  refine ⟨by simp [frameKey], fun b hb => ?_⟩
  obtain ⟨i, -, rfl⟩ := List.mem_map.mp hb
  exact (Config.keyByte k i).isLt

theorem length_numBytes (n x : Nat) : (numBytes n x).length = n := by simp [numBytes]

/-- R53: a block of 16 stored bytes under a tweak. -/
theorem xtsBlock_spec (k : BitVec 8) (x : List Nat) (t : Nat) :
    let block := List.zipWith (· ^^^ ·) (aesEncrypt ((frameKey k).take 32) x) (numBytes 16 t)
    block.length = 16 ∧ AreBytes block := by
  obtain ⟨long, key⟩ := frameKey_spec k
  obtain ⟨full, code⟩ := aesEncrypt_spec (by rw [List.length_take, long]; rfl) (key.take 32) x
  exact ⟨by rw [List.length_zipWith, full, length_numBytes]; rfl, code.xor (.numBytes 16 t)⟩

/-- R53: what is stored of 32 bytes is 32 bytes. -/
theorem cipher_unit {x : List Nat} (k : BitVec 8) (unit : Nat) (length : x.length = 32) :
    (cipher k unit x).length = 32 ∧ AreBytes (cipher k unit x) := by
  have one : cipher k unit x = xtsUnit aesEncrypt (frameKey k) unit x := by
    have whole : x.take 32 = x := List.take_of_length_le length.le
    simp [cipher, xtsRange, length, List.range_succ, whole]
  rw [one, xtsUnit]
  simp only [List.mapIdx_cons, List.mapIdx_nil, List.flatten_cons, List.flatten_nil, List.append_nil]
  refine ⟨(List.length_append ..).trans (congrArg₂ (· + ·) (xtsBlock_spec k _ _).1 (xtsBlock_spec k _ _).1), fun b hb => ?_⟩
  rcases List.mem_append.mp hb with first | second
  · exact (xtsBlock_spec k _ _).2 b first
  · exact (xtsBlock_spec k _ _).2 b second

end Sys2Proof.Machine
end

section
/-! PROOFS (00_scope). Stores at their homes (O31): what a decode delivers of differences that it leaves in, and what one write at its home changes. -/

namespace Sys2Proof.Machine

/-! ## Differences that a decode leaves in (R53, R56) -/

/-- The 32 bytes of a data unit, as numbers. -/
def spell (x : Fin 32 → Byte) : List Nat := List.ofFn fun i => (x i).toNat

theorem length_spell (x : Fin 32 → Byte) : (spell x).length = 32 := List.length_ofFn

theorem getElem_spell (x : Fin 32 → Byte) (i : Nat) (h : i < (spell x).length) :
    (spell x)[i] = (x ⟨i, by rwa [length_spell] at h⟩).toNat := List.getElem_ofFn _

/-- R53: a unit of a frame's bytes as the DRAM stores it. -/
def storedUnit (k : BitVec 8) (unit : Nat) (x : Fin 32 → Byte) (i : Fin 32) : Byte := BitVec.ofNat 8 ((cipher k unit (spell x)).getD i 0)
/-- R53: what a stored unit decrypts to. -/
def readUnit (k : BitVec 8) (unit : Nat) (x : Fin 32 → Byte) (i : Fin 32) : Byte := BitVec.ofNat 8 ((plainText k unit (spell x)).getD i 0)

theorem spell_storedUnit (k : BitVec 8) (unit : Nat) (x : Fin 32 → Byte) : spell (storedUnit k unit x) = cipher k unit (spell x) := by
  obtain ⟨length, bytes⟩ := cipher_unit k unit (length_spell x)
  refine List.ext_getElem (by rw [length_spell, length]) fun i hi hc => ?_
  have byte : (cipher k unit (spell x))[i] < 256 := bytes _ (List.getElem_mem hc)
  simp only [getElem_spell, storedUnit, BitVec.toNat_ofNat, List.getD_eq_getElem _ _ hc]
  exact Nat.mod_eq_of_lt byte

theorem zipWith_xor_spell (x w : Fin 32 → Byte) : List.zipWith (· ^^^ ·) (spell x) (spell w) = spell fun i => x i ^^^ w i := by
  refine List.ext_getElem (by simp [length_spell]) fun i _ _ => ?_
  rw [List.getElem_zipWith, getElem_spell, getElem_spell, getElem_spell, BitVec.toNat_xor]

/-- Whatever a code and its inverse are: of two differences, one that stays in what is stored shows in what some unit delivers. -/
theorem exists_difference_shows {α : Type} [Finite α] (store : α → α) (read : α → α) {f g : α → α} (differ : ∀ x, f x ≠ g x) [Nonempty α] :
    ¬ ((∀ x, read (f (store x)) = x) ∧ ∀ x, read (g (store x)) = x) := by
  rintro ⟨hf, hg⟩
  have onto : Function.Surjective read := fun x => ⟨_, hf x⟩
  have x : α := Classical.arbitrary α
  exact differ _ (Finite.injective_iff_surjective.mpr onto ((hf x).trans (hg x).symm))

/-! ## What a read delivers -/

theorem decodeGranule_congr {s t : State} (dir : t.dir = s.dir) (upsets : t.upsets = s.upsets) (a : Nat) : t.decodeGranule a = s.decodeGranule a := by
  unfold State.decodeGranule State.upsetData State.upsetCheck State.fmtAt State.dirOf
  rw [dir, upsets]

/-- R55: where a decode leaves nothing wrong, a read delivers what memory holds. -/
theorem sensedByte_of_right {s : State} {a k n : Nat} (right : s.decodeGranule (a / granuleBytes (s.fmtAt a) * granuleBytes (s.fmtAt a)) = some (List.replicate n 0, k)) :
    s.sensedByte a = readByte s.mem a := by
  unfold State.sensedByte
  simp only [right]
  rw [if_pos]
  simp [List.drop_replicate, List.take_replicate]

/-- R53, R56: where a decode leaves a difference in a unit, a read delivers what the wrong stored bytes decrypt to. -/
theorem sensedByte_of_wrong {s : State} {a k : Nat} {left : List Nat} {m w : Fin 32 → Byte} {i : Fin 32} (hi : a % 32 = i)
    (decode : s.decodeGranule (a / granuleBytes (s.fmtAt a) * granuleBytes (s.fmtAt a)) = some (left, k))
    (wrong : (left.drop (a % granuleBytes (s.fmtAt a) / 32 * 32)).take 32 = spell w) (shows : w ≠ 0)
    (held : readBytes s.mem (a / 32 * 32) 32 = List.ofFn m) :
    s.sensedByte a = readUnit (s.dirOf (a / 65536)).ktag (a / 32) (fun i => storedUnit (s.dirOf (a / 65536)).ktag (a / 32) m i ^^^ w i) i := by
  have plain : (List.ofFn m).map (·.toNat) = spell m := by simp [spell]
  have differs : ¬ (spell w).all (· == 0) = true := by
    intro zero
    refine shows (funext fun j => BitVec.eq_of_toNat_eq ?_)
    simpa using List.all_eq_true.mp zero (w j).toNat (List.mem_ofFn.mpr ⟨j, rfl⟩)
  unfold State.sensedByte
  simp only [decode, wrong, if_neg differs, held, plain, readUnit, ← spell_storedUnit, zipWith_xor_spell, hi]

theorem bytes_one (s : State) (a : Nat) (upset : s.upsets.isEmpty = false) : s.bytes a 1 = [s.sensedByte a] := by
  simp [State.bytes, upset]

/-! ## Writes at their home (R52, R113) -/

/-- R52, R56: where no granule has anything to correct, a decode changes nothing. -/
theorem sense_of_right {s : State} {addr n : Nat} {whole : List (Nat × Nat)}
    (right : ∀ a ∈ granulesOf (granuleBytes (s.fmtAt addr)) addr n, ∃ left, s.decodeGranule a = some (left, 0)) : sense s addr n whole = s := by
  unfold sense
  split
  · rfl
  · generalize hl : (granulesOf (granuleBytes (s.fmtAt addr)) addr n).filter _ = l
    have inside : ∀ a ∈ l, ∃ left, s.decodeGranule a = some (left, 0) := fun a ha => right a (List.mem_filter.mp (hl ▸ ha)).1
    clear hl
    induction l with
    | nil => rfl
    | cons a l ih =>
      obtain ⟨left, decode⟩ := inside a List.mem_cons_self
      rw [List.foldl_cons]
      simp only [decode]
      exact ih fun x hx => inside x (List.mem_cons_of_mem _ hx)

theorem together_self (s : State) {r : HomeReq} (request : r.looks = false) : r.together s r = true := by simp [HomeReq.together, request]

/-- R52, R113: a write that waits alone and that its home does not refuse is performed. -/
theorem exec_homeAccess_write {s : State} {r : HomeReq} {d : List Byte} (alone : s.homeQ = [r]) (write : r.op = .write d)
    (own : ∀ h, r.src ≠ .host h) (here : r.dst.rep = none) (right : sense s r.dst.addr r.bytes [r.covers] = s)
    (ok : homeCheck s r.dst r.bytes [r.covers] = .ok) :
    exec (.homeAccess 0) s = .next (performReq [r.covers] { s with homeQ := [] } r) := by
  have looks : r.looks = false := by rw [HomeReq.looks, write]
  have self : r.together s r = true := together_self s looks
  have turn : homeTurn s 0 = some r := homeTurn_alone alone
  have core : serveCore s r = performReq [r.covers] { s with homeQ := [] } r := by
    simp [serveCore, alone, self, right, ok, turn, here, write, cxlBatch, refuseAll]
  rw [exec_homeAccess, execHomeAccess]
  simp only [turn, looks, Bool.false_eq_true, if_false]
  rw [core]

theorem performReq_write (whole : List (Nat × Nat)) (s : State) {r : HomeReq} {d : List Byte} (write : r.op = .write d) (glob : r.dst.place = .glob) :
    performReq whole s r = storeWhole (reach s r.dst.ctx none r.dst.addr) r.src.gid r.dst.addr d whole := by
  simp only [performReq, write, performWhole, glob]

/-- R52: a write leaves the differences that encoding its granules anew leaves. -/
theorem storeWhole_upsets (s : State) (gid addr : Nat) (bs : List Byte) (whole : List (Nat × Nat)) :
    (storeWhole s gid addr bs whole).upsets = (reencode s addr bs.length).upsets := by
  unfold storeWhole
  dsimp only
  rw [cxlWrite_frame, mirrorCxl_frame, openRow_frame]
  simp only [cancelFrosting]
  rw [clearPoison_frame]

theorem storeWhole_dir (s : State) (gid addr : Nat) (bs : List Byte) (whole : List (Nat × Nat)) : (storeWhole s gid addr bs whole).dir = s.dir :=
  (congrArg State.dir (storeWhole_stored s gid addr bs whole)).trans rfl

theorem reach_dir (s : State) (ctx : Nat) (cl : Option Nat) (addr : Nat) : (reach s ctx cl addr).dir = s.dir :=
  (congrArg State.dir (reach_frame s ctx cl addr)).trans rfl

/-- R52: the differences that are left in granules after they are encoded anew. -/
def freshUpsets (g : Nat) (upsets : SMap Byte) (a : Nat) : SMap Byte := SMap.delRange (SMap.delRange upsets a g) (checkKey a 0) (g / 8)

theorem upsets_foldl_encode (g : Nat) (l : List Nat) (s : State) :
    (l.foldl (fun s a => freshen { s with mem := writeBytes s.mem a (s.bytes a g) } a g) s).upsets = l.foldl (freshUpsets g) s.upsets := by
  induction l generalizing s with
  | nil => rfl
  | cons a l ih => rw [List.foldl_cons, List.foldl_cons, ih]; rfl

theorem reencode_upsets (s : State) (addr n : Nat) (upset : s.upsets.isEmpty = false) :
    (reencode s addr n).upsets = (granulesOf (granuleBytes (s.fmtAt addr)) addr n).foldl (freshUpsets (granuleBytes (s.fmtAt addr))) s.upsets := by
  unfold reencode
  rw [if_neg (by simp [upset])]
  exact upsets_foldl_encode ..

/-- R52: what a write decodes and encodes anew are granules that it touches. -/
theorem readByte_reencode_of_outside (s : State) {addr n b : Nat}
    (outside : ∀ a ∈ granulesOf (granuleBytes (s.fmtAt addr)) addr n, b < a ∨ a + granuleBytes (s.fmtAt addr) ≤ b) :
    readByte (reencode s addr n).mem b = readByte s.mem b := by
  unfold reencode
  split
  · rfl
  · exact readByte_foldl_encode _ _ s outside

end Sys2Proof.Machine
end

section
/-! PROOFS (00_scope). Stores at their homes (O31): a write across the end of a frame, and the obligation. -/

namespace Sys2Proof.Claims

open Machine

/-! ## A write across the end of a frame -/

/-- A store of two bytes that waits at the home of frame 0: the last byte of the frame and the first of the next. -/
def tornReq : HomeReq :=
  { cls := 3, arrival := 0, src := .group 0, op := .write [0, 0], pc := 0, aged := false,
    dst := { place := .glob, addr := 0xFFFF, key := 0, gc := 0, cp := 0, rep := none, va := 0xFFFF, ctx := 0 } }

/-- R55: differences in frame 1's first granule of 64 bytes that make a codeword, in which a decode finds nothing to correct: four lie in its first 32 bytes, one beyond. There are two such lists, one twice the other in the field of the code. -/
def tornUpsets (twice : Bool) : SMap Byte :=
  if twice then [(0x10000, 152), (0x10002, 101), (0x10004, 158), (0x10006, 97), (0x10020, 2)]
  else [(0x10000, 76), (0x10002, 188), (0x10004, 79), (0x10006, 190), (0x10020, 1)]
/-- What such a codeword changes in the second 32 bytes of the granule. -/
def tornUnit (twice : Bool) (i : Fin 32) : Byte := if i = 0 then (if twice then 2 else 1) else 0

/-- After a reset, with frames 0 and 1 allocated in granules of 32 and of 64 bytes, that store waiting, those differences in the DRAM, and `m` in bytes 32 to 63 of frame 1. -/
def tornState (twice : Bool) (m : Fin 32 → Byte) : State :=
  { State.reset with
    dir := [(0, { DirEntry.free with state := 1 }), (1, { DirEntry.free with state := 1, fmt := 1 })]
    homeQ := [tornReq], upsets := tornUpsets twice, mem := writeBytes [] 0x10020 (List.ofFn m) }

/-- The state once the store has been performed. -/
def tornStored (twice : Bool) (m : Fin 32 → Byte) : State := performReq [(0xFFFF, 2)] { tornState twice m with homeQ := [] } tornReq

theorem granules_torn : granulesOf 32 0xFFFF 2 = [0xFFE0, 0x10000] := by decide

/-- R55: the decode takes the differences for data. -/
theorem decode_tornState (twice : Bool) (m : Fin 32 → Byte) : ∃ left,
    (tornState twice m).decodeGranule 0x10000 = some (left, 0) ∧ (left.drop 32).take 32 = spell (tornUnit twice) := by
  have found : ∀ twice, ((tornState twice 0).decodeGranule 0x10000).map (fun x => ((x.1.drop 32).take 32, x.2)) = some (spell (tornUnit twice), 0) := by
    decide +kernel
  obtain ⟨⟨left, n⟩, decode, second⟩ := Option.map_eq_some_iff.mp (found twice)
  obtain ⟨half, rfl⟩ := Prod.mk.inj second
  exact ⟨left, (decodeGranule_congr rfl rfl _).trans decode, half⟩

theorem decode_tornState_before (twice : Bool) (m : Fin 32 → Byte) : ∃ left, (tornState twice m).decodeGranule 0xFFE0 = some (left, 0) := by
  have clean : ∀ twice, (tornState twice 0).decodeGranule 0xFFE0 = some (List.replicate 32 0, 0) := by decide +kernel
  exact ⟨_, (decodeGranule_congr rfl rfl _).trans (clean twice)⟩

theorem sense_tornState (twice : Bool) (m : Fin 32 → Byte) : sense (tornState twice m) 0xFFFF 2 [(0xFFFF, 2)] = tornState twice m := by
  refine sense_of_right fun a ha => ?_
  have touched : a ∈ granulesOf 32 0xFFFF 2 := ha
  rw [granules_torn] at touched
  rcases List.mem_pair.mp touched with rfl | rfl
  · exact decode_tornState_before twice m
  · obtain ⟨left, decode, -⟩ := decode_tornState twice m
    exact ⟨left, decode⟩

theorem homeCheck_tornState (twice : Bool) (m : Fin 32 → Byte) : homeCheck (tornState twice m) tornReq.dst 2 [(0xFFFF, 2)] = .ok := by
  have dir : (tornState twice m).dirOf 0 = { DirEntry.free with state := 1 } := rfl
  have kept : (tornState twice m).lost = 0 := rfl
  have unpoisoned : (tornState twice m).poison = [] := rfl
  simp [homeCheck, tornReq, remoteBase, dir, DirEntry.free, kept, poisonStops, unpoisoned]

theorem exec_tornState (twice : Bool) (m : Fin 32 → Byte) : exec (.homeAccess 0) (tornState twice m) = .next (tornStored twice m) :=
  exec_homeAccess_write (r := tornReq) rfl rfl (fun _ => Source.noConfusion) rfl (sense_tornState twice m) (homeCheck_tornState twice m)

/-! What the store leaves: memory beyond the granules that it touches, and a difference that the decode now corrects. -/

theorem tornStored_eq (twice : Bool) (m : Fin 32 → Byte) : tornStored twice m =
    storeWhole (reach { tornState twice m with homeQ := [] } 0 none 0xFFFF) 0 0xFFFF [0, 0] [(0xFFFF, 2)] := performReq_write _ _ rfl rfl

theorem tornStored_dir (twice : Bool) (m : Fin 32 → Byte) : (tornStored twice m).dir = (tornState twice m).dir := by
  rw [tornStored_eq, storeWhole_dir, reach_dir]

theorem reach_tornState_fmt (twice : Bool) (m : Fin 32 → Byte) :
    (reach { tornState twice m with homeQ := [] } 0 none 0xFFFF).fmtAt 0xFFFF = 0 := rfl

theorem tornStored_upsets (twice : Bool) (m : Fin 32 → Byte) :
    (tornStored twice m).upsets = [(0x10020, tornUnit twice 0)] := by
  have left : ∀ twice, [0xFFE0, 0x10000].foldl (freshUpsets 32) (tornUpsets twice) = [(0x10020, tornUnit twice 0)] := by decide
  have upset : ∀ twice, (tornUpsets twice).isEmpty = false := by decide
  rw [tornStored_eq, storeWhole_upsets, reencode_upsets _ _ _ (by rw [reach_upsets]; exact upset twice), reach_upsets, reach_tornState_fmt]
  exact (congrArg (fun l => l.foldl (freshUpsets 32) (tornUpsets twice)) granules_torn).trans (left twice)

theorem readByte_tornStored (twice : Bool) (m : Fin 32 → Byte) (i : Fin 32) : readByte (tornStored twice m).mem (0x10020 + i) = m i := by
  have beyond : ∀ a ∈ granulesOf 32 0xFFFF 2, 0x10020 + i.val < a ∨ a + 32 ≤ 0x10020 + i.val := by
    rw [granules_torn]
    intro a ha
    rcases List.mem_pair.mp ha with rfl | rfl <;> omega
  have kept := readByte_reencode_of_outside (reach { tornState twice m with homeQ := [] } 0 none 0xFFFF) beyond
  rw [reach_mem] at kept
  rw [tornStored_eq, storeWhole_mem, readByte_writeBytes_outside _ _ _ _ (.inr (by simp; omega))]
  refine kept.trans ?_
  exact (readByte_writeBytes_inside _ _ _ _ (by simp)).trans (List.getElem_ofFn ..)

theorem decode_tornStored (twice : Bool) (m : Fin 32 → Byte) : (tornStored twice m).decodeGranule 0x10000 = some (List.replicate 64 0, 1) := by
  have corrected : ∀ twice, ({ tornState twice 0 with upsets := [(0x10020, tornUnit twice 0)] } : State).decodeGranule 0x10000 = some (List.replicate 64 0, 1) := by
    decide +kernel
  exact (decodeGranule_congr (s := { tornState twice 0 with upsets := [(0x10020, tornUnit twice 0)] }) (tornStored_dir twice m)
    (tornStored_upsets twice m) _).trans (corrected twice)

/-! Bytes 32 to 63 of frame 1 before and after the store, which names none of them. -/

theorem bytes_tornState (twice : Bool) (m : Fin 32 → Byte) (i : Fin 32) : (tornState twice m).bytes (0x10020 + i) 1 =
    [readUnit 0 0x801 (fun j => storedUnit 0 0x801 m j ^^^ tornUnit twice j) i] := by
  have upset : ∀ twice, (tornUpsets twice).isEmpty = false := by decide
  obtain ⟨left, decode, second⟩ := decode_tornState twice m
  have shows : tornUnit twice ≠ 0 := fun zero => by
    have first := congrFun zero 0
    cases twice <;> cases first
  have frame : (0x10020 + i.val) / 65536 = 1 := by omega
  have unit : (0x10020 + i.val) / 32 = 0x801 := by omega
  have fmt : granuleBytes ((tornState twice m).fmtAt (0x10020 + i)) = 64 := by rw [State.fmtAt, frame]; rfl
  have held : readBytes (tornState twice m).mem 0x10020 32 = List.ofFn m := by
    have := readBytes_writeBytes_same (List.ofFn m) [] 0x10020
    rwa [List.length_ofFn] at this
  have sensed := sensedByte_of_wrong (s := tornState twice m) (a := 0x10020 + i) (k := 0) (left := left) (m := m) (w := tornUnit twice) (i := i) (by omega)
    (by rw [fmt, show (0x10020 + i.val) / 64 * 64 = 0x10000 by omega, decode]) (by rw [fmt, show (0x10020 + i.val) % 64 / 32 * 32 = 32 by omega, second]) shows
    (by rw [unit]; exact held)
  rw [bytes_one _ _ (upset twice), sensed, unit, frame]
  rfl

theorem bytes_tornStored (twice : Bool) (m : Fin 32 → Byte) (i : Fin 32) : (tornStored twice m).bytes (0x10020 + i) 1 = [m i] := by
  have fmt : granuleBytes ((tornStored twice m).fmtAt (0x10020 + i)) = 64 := by
    rw [State.fmtAt, State.dirOf, tornStored_dir, show (0x10020 + i.val) / 65536 = 1 by omega]; rfl
  have right := sensedByte_of_right (s := tornStored twice m) (a := 0x10020 + i) (k := 1) (n := 64)
    (by rw [fmt, show (0x10020 + i.val) / 64 * 64 = 0x10000 by omega, decode_tornStored])
  rw [bytes_one _ _ (by rw [tornStored_upsets]; rfl), right, readByte_tornStored]

theorem batch_tornState (twice : Bool) (m : Fin 32 → Byte) :
    (tornState twice m).homeQ.filter (tornReq.together (tornState twice m)) = [tornReq] :=
  List.filter_eq_self.mpr fun _ h => by rw [List.mem_singleton.mp h]; exact together_self _ rfl

theorem lastByte_tornReq (i : Fin 32) : lastByte [(0xFFFF, [0, 0])] (0x10020 + i) = none := by
  have beyond : ¬ 0x10020 + i.val < 0xFFFF + 2 := by omega
  simp [lastByte, beyond]

/-- HomesPerformStoresAndReductions bounds no request by its frame. A write across the end of a frame encodes half of a wider granule of the next frame anew; a decode that went wrong undetected there is corrected once half of its differences are gone, so bytes that the write does not name read otherwise than before. That would go unseen only if the key hid both differences from every unit's plain text, which no code can do. -/
theorem not_homesPerformStoresAndReductions : ¬ Claims.HomesPerformStoresAndReductions := by
  intro perform
  have hidden (twice : Bool) (m : Fin 32 → Byte) : readUnit 0 0x801 (fun j => storedUnit 0 0x801 m j ^^^ tornUnit twice j) = m := by
    have turn : homeTurn (tornState twice m) 0 = some tornReq := homeTurn_alone rfl
    have turns (k : Nat) (x : HomeReq) (hx : (tornState twice m).homeQ[k]? = some x) (_ : tornReq.together (tornState twice m) x = true) :
        homeTurn (tornState twice m) k = some x := by
      obtain _ | k := k
      · cases hx; exact turn
      · cases hx
    have accepted : homeCheck (sense (tornState twice m) 0xFFFF 2 [(0xFFFF, 2)]) tornReq.dst 2 [(0xFFFF, 2)] = .ok := by
      rw [sense_tornState, homeCheck_tornState]
    have claim := perform (tornState twice m) 0 tornReq turn (fun _ => Source.noConfusion) rfl turns
    simp only [batch_tornState, List.forall_mem_singleton] at claim
    obtain ⟨stores, -⟩ := claim ⟨rfl, rfl, rfl, accepted⟩
    obtain ⟨t, step, -, bytes⟩ := stores ⟨_, rfl⟩
    obtain rfl : t = tornStored twice m := by
      rw [exec_tornState] at step
      exact (Host.Outcome.next.inj step).symm
    funext i
    have same := bytes (0x10020 + i)
    simp only [List.map_cons, List.map_nil, tornReq, lastByte_tornReq, bytes_tornState, bytes_tornStored] at same
    exact (List.singleton_inj.mp same).symm
  refine exists_difference_shows (storedUnit 0 0x801) (readUnit 0 0x801)
    (f := fun x j => x j ^^^ tornUnit false j) (g := fun x j => x j ^^^ tornUnit true j) (fun x same => ?_) ⟨hidden false, hidden true⟩
  have first := congrFun same 0
  simp [tornUnit] at first

/-- Refutes O31: its second part asks of every state that reads deliver as before what a write does not name, also where the write's bytes run over the end of their frame (no aligned access makes such a request, but no premise excludes it). After a reset, with frame 0 in granules of 32 bytes, frame 1 in granules of 64, and differences in the DRAM that make a codeword of frame 1's first granule, a store of two bytes at 0xFFFF that waits alone at its home changes what a read of bytes 32 to 63 of frame 1 delivers. -/
theorem not_storesReachMemory : ¬ Obligations.StoresReachMemory :=
  fun ⟨_, perform⟩ => not_homesPerformStoresAndReductions perform

end Sys2Proof.Claims
end

section
/-! PROOFS (00_scope). Laws of jobs that move data (O56): jobs that may not start, phases that stop at a piece, a pattern that is written, and the bytes of a place. -/

namespace Sys2Proof.Machine

open Claims

theorem exec_copy (sched slot : Nat) (s : State) : exec (.copy sched slot) s = execCopy sched slot s := rfl
theorem exec_fill (sched slot : Nat) (s : State) : exec (.fill sched slot) s = execFill sched slot s := rfl
theorem exec_gather (sched slot : Nat) (s : State) : exec (.gather sched slot) s = execGather sched slot s := rfl
theorem exec_scatter (sched slot : Nat) (s : State) : exec (.scatter sched slot) s = execScatter sched slot s := rfl
theorem exec_collective (sched slot : Nat) (peers : List CollPeer) (s : State) :
    exec (.collective sched slot peers) s = execCollective sched slot peers s := rfl

/-! ## A job that may not start (R102, R144) -/

theorem startRegion_of_outOfPart {s : State} {ctx : Nat} {r : Region} (out : OutOfPart s ctx r) : startRegion s ctx r = none := by
  obtain ⟨cl, place, beyond⟩ := out
  unfold startRegion
  simp only [place]
  split
  · next b size part => exact if_neg (Nat.not_le.mpr (beyond b size part))
  · rfl

theorem startPart_of_outOfPart {s : State} {ctx : Nat} {r : Region} {o : Option Region} (present : o = some r) (out : OutOfPart s ctx r) :
    startPart s ctx o = none := by
  rw [present]
  exact congrArg (Option.map some) (startRegion_of_outOfPart out)

theorem startJob_of_outOfPart {s : State} {j : Job} {r : Region} (named : j.rd0 = some r ∨ j.rd1 = some r ∨ j.wr = some r) (out : OutOfPart s j.ctx r) :
    startJob s j = none := by
  unfold startJob
  split
  · next rd0 rd1 wr =>
    rcases named with h | h | h
    · rw [startPart_of_outOfPart h out] at rd0; cases rd0
    · rw [startPart_of_outOfPart h out] at rd1; cases rd1
    · rw [startPart_of_outOfPart h out] at wr; cases wr
  · rfl

/-- R102: whatever its type, a pending job with a region outside its context's part ends with ERROR. -/
theorem jobStep_of_outOfPart {s : State} {sched slot ty : Nat} (pending : (s.job sched slot).state = .pending)
    (may : MayStart s sched slot ty (s.job sched slot))
    (out : ∃ r, ((s.job sched slot).rd0 = some r ∨ (s.job sched slot).rd1 = some r ∨ (s.job sched slot).wr = some r) ∧ OutOfPart s (s.job sched slot).ctx r)
    (run : State → Job → State) : jobStep sched slot ty s run = .next (s.setJob sched slot (ended (s.job sched slot) 1)) := by
  obtain ⟨r, named, out⟩ := out
  obtain ⟨type, ready⟩ := ready_of_mayStart may
  unfold jobStep
  simp only [type, ready, pending, startJob_of_outOfPart named out, decide_true, Bool.and_self, BEq.rfl, if_true]
  rfl

/-! ## Phases that stop at a piece (R146) -/

theorem foldl_readPiece_of_stopped {sched slot : Nat} {p : Place} {x : JRun} (stopped : x.res ≠ .ok) (ps : List (Nat × Nat)) :
    ps.foldl (readPiece sched slot p) x = x := by
  induction ps with
  | nil => rfl
  | cons a ps ih => rw [List.foldl_cons, readPiece, if_pos stopped, ih]

/-- R146: a reading phase that stops at its first piece has read nothing. -/
theorem readPhase_of_first_stops {s s' : State} {sched slot : Nat} {j : Job} {r : Region} {a n : Nat} {ps : List (Nat × Nat)} {f : JRes} {b : List Byte}
    (unit : j.unit = 0) (buf : j.buf = []) (pieces : r.pieces = (a, n) :: ps)
    (read : jobRead s (jobActor s sched slot j) r.place a n = (f, b, s')) (stops : f ≠ .ok) (next : State → Job → State × Job) :
    readPhase sched slot s j r next = settle sched slot { s := s', j := j.run, res := f } 0 := by
  have first : readPiece sched slot r.place { s := s, j := j.run, res := .ok } (a, n) = { s := s', j := j.run, res := f } := by
    have read' : jobRead s (jobActor s sched slot j.run) r.place a n = (f, b, s') := read
    simp only [readPiece, read', ne_eq, not_true_eq_false, if_false]
  have whole : readPieces sched slot s j.run r = { s := s', j := j.run, res := f } := by
    have unit' : j.run.unit = 0 := unit
    rw [readPieces_eq_foldl, unit', List.drop_zero, pieces, List.foldl_cons, first]
    exact foldl_readPiece_of_stopped stops ps
  have start : unitStart r.pieces j.run.unit = 0 := by
    have unit' : j.run.unit = 0 := unit
    rw [unit', unitStart, pieces]
    exact Nat.zero_sub _
  simp only [readPhase, whole, if_neg stops, settleRead, start]
  cases f with
  | fault => rw [show j.run.buf = [] from buf, List.take_nil, ← show j.run.buf = [] from buf]
  | ok => rfl
  | wait => rfl
  | error => rfl

end Sys2Proof.Machine
end

section
/-! PROOFS (00_scope). Laws of jobs that move data (O56): a pattern that is written over a region, and the bytes of a place. -/

namespace Sys2Proof.Machine

open Claims

/-! ## The pieces of a region (R375) -/

/-- The pieces up to the k-th reach from the run's start to the k-th boundary of 64 bytes, or to its end. -/
theorem sum_cut64_upto (a n k : Nat) (upto : k ≤ (a % 64 + n + 63) / 64) :
    (((List.range k).map (fun i => ((max a ((a / 64 + i) * 64)), min (a + n) ((a / 64 + i + 1) * 64) - max a ((a / 64 + i) * 64)))).map (·.2)).sum =
      min (a + n) ((a / 64 + k) * 64) - a := by
  induction k with
  | zero => simp; omega
  | succ k ih =>
    rw [List.range_succ, List.map_append, List.map_append, List.sum_append, ih (by omega)]
    simp only [List.map_cons, List.map_nil, List.sum_cons, List.sum_nil, Nat.add_zero]
    omega

theorem sum_cut64 (a n : Nat) : ((cut64 a n).map (·.2)).sum = n := by
  unfold cut64
  by_cases empty : n = 0
  · simp [empty]
  · rw [if_neg empty]
    refine (sum_cut64_upto a n _ (Nat.le_refl _)).trans ?_
    omega

/-- R141: the pieces of a region are its bytes. -/
theorem sum_pieces (r : Region) : (r.pieces.map (·.2)).sum = r.len * r.rows := by
  have upto (k : Nat) : (((List.range k).flatMap (fun i => cut64 (r.first + i * r.stride) r.len)).map (·.2)).sum = r.len * k := by
    induction k with
    | zero => rfl
    | succ k ih =>
      rw [List.range_succ, List.flatMap_append, List.map_append, List.sum_append, ih, Nat.mul_succ]
      simp [sum_cut64]
  exact upto r.rows

/-! ## Writing a region from a pattern (R375) -/

theorem writePiece_offset_le (who : Actor) (w : Region) (data : Nat → Nat → List Byte) (r : JRun × Nat) (x : Nat × Nat) :
    (writePiece who w data r x).2 ≤ r.2 + x.2 := by
  unfold writePiece
  dsimp only
  split
  · exact Nat.le_add_right ..
  · split
    · exact Nat.le_refl _
    · exact Nat.le_add_right ..

theorem writePiece_congr {who : Actor} {w : Region} {data data' : Nat → Nat → List Byte} {r : JRun × Nat} {x : Nat × Nat}
    (same : data r.2 x.2 = data' r.2 x.2) : writePiece who w data r x = writePiece who w data' r x := by
  unfold writePiece
  rw [same]

/-- Patterns that agree as far as the pieces reach write the same. -/
theorem foldl_writePiece_congr {who : Actor} {w : Region} {data data' : Nat → Nat → List Byte} {total : Nat}
    (same : ∀ o n, o + n ≤ total → data o n = data' o n) {ps : List (Nat × Nat)} {r : JRun × Nat} (upto : r.2 + (ps.map (·.2)).sum ≤ total) :
    ps.foldl (writePiece who w data) r = ps.foldl (writePiece who w data') r := by
  induction ps generalizing r with
  | nil => rw [List.foldl_nil, List.foldl_nil]
  | cons x ps ih =>
    rw [List.map_cons, List.sum_cons, ← Nat.add_assoc] at upto
    rw [List.foldl_cons, List.foldl_cons, ← writePiece_congr (same r.2 x.2 (Nat.le_of_add_right_le upto))]
    exact ih ((Nat.add_le_add_right (writePiece_offset_le who w data r x) _).trans upto)

/-- R375: a writing phase writes what its pattern gives of the region. -/
theorem writePhase_of_pattern {sched slot : Nat} {who : Actor} {j : Job} {w : Region} {s t : State} {bs : List Byte} {data : Nat → Nat → List Byte}
    (h : JobWrites who j w s w.pieces bs t) (unit : j.unit = 0) (counted : j.counted = 0)
    (pattern : ∀ o n, o + n ≤ w.len * w.rows → data o n = sliceOf bs o n) (next : Nat) :
    ∃ n, writePhase sched slot who s j w data next = t.setJob sched slot { runs j with phase := next, unit := 0, counted := n } := by
  have start : j.run = { j.run with unit := 0, counted := 0 } := by cases j; cases unit; cases counted; rfl
  have whole : writePieces who s j.run w data =
      { s := t, j := { j.run with unit := 0 + w.pieces.length, counted := 0 + w.pieces.length }, res := .ok } := by
    rw [writePieces_eq_foldl, start]
    refine (congrArg Prod.fst (foldl_writePiece_congr pattern ?_)).trans (foldl_writePiece (o := 0) h 0)
    exact Nat.le_of_eq ((Nat.zero_add _).trans (sum_pieces w))
  refine ⟨0 + w.pieces.length, ?_⟩
  simp only [writePhase, whole, if_true]
  rfl

theorem sliceOf_range (f : Nat → Byte) {o n total : Nat} (upto : o + n ≤ total) :
    sliceOf ((List.range total).map f) o n = (List.range n).map (fun i => f (o + i)) := by
  refine List.ext_getElem ?_ fun i hi hc => ?_
  · simp [sliceOf]; omega
  · simp [sliceOf]

/-- R239: a byte of a number. -/
theorem natLe_getD (n x : Nat) {i : Nat} (hi : i < n) : (natLe n x).getD i 0 = BitVec.ofNat 8 (x / 256 ^ i) := by
  induction n generalizing x i with
  | zero => exact absurd hi (Nat.not_lt_zero i)
  | succ n ih =>
    cases i with
    | zero => simp [natLe]
    | succ i => rw [natLe, List.getD_cons_succ, ih (x / 256) (Nat.lt_of_succ_lt_succ hi), Nat.div_div_eq_div_mul, ← Nat.pow_succ']

/-- R239, R373: a byte of the literal of FILL. -/
theorem natLe_literal_getD (card : BitVec 512) {i : Nat} (hi : i < 4) :
    (natLe 4 (cardTops card 0 32)).getD i 0 = card.extractLsb' (32 + 8 * i) 8 := by
  refine (natLe_getD 4 _ hi).trans (BitVec.eq_of_toNat_eq ?_)
  have literal : cardTops card 0 32 = card.toNat >>> 32 % 2 ^ 32 := BitVec.extractLsb'_toNat ..
  rw [BitVec.extractLsb'_toNat, BitVec.toNat_ofNat, literal, Nat.shiftRight_add, Nat.shiftRight_eq_div_pow _ (8 * i), pow_mul]
  generalize card.toNat >>> 32 = x
  interval_cases i <;> omega

end Sys2Proof.Machine
end

section
/-! PROOFS (00_scope). COPY, FILL and jobs outside their part (O56): the bytes of a place, and the clauses row by row. -/

namespace Sys2Proof.Machine

open Claims

/-! ## The bytes of a place (R16, R146, R375) -/

theorem jobRead_shared {s : State} (b : Actor) {k : Nat} {x : Team} {a n : Nat} (team : SMap.find? s.teams k = some x) (inside : a + n ≤ x.sharedBytes) :
    jobRead s b (.shared k) a n = (.ok, readPlace s (.shared k) a n, s) := by
  have within : outside s (.shared k) a n = none := by simp [outside, team, inside]
  simp only [jobRead, within]

theorem jobWrite_shared {s : State} (b : Actor) {k : Nat} {x : Team} {a : Nat} {bs : List Byte} (row : Nat × Nat) (team : SMap.find? s.teams k = some x)
    (inside : a + bs.length ≤ x.sharedBytes) : jobWrite s b (.shared k) a bs row = (.ok, writePlace s (.shared k) a bs) := by
  have within : outside s (.shared k) a bs.length = none := by simp [outside, team, inside]
  simp only [jobWrite, within]

/-- R56: a read of the module's own memory delivers what its home holds. -/
theorem jobRead_glob {s s₁ : State} {b : Actor} {a n : Nat} {x : GAddr} (target : jobTarget s b a n .load (a, n) = (.ok, some x, s₁)) (here : x.rep = none)
    (dram : frameCxl s₁ x.addr = none) (own : frontierOther s₁ b.self x = false) :
    jobRead s b .glob a n = (.ok, s₁.bytes x.addr n, openRow s₁ x.addr n) := by
  have line : cxlRead s₁ x.addr false = (true, s₁) := by simp only [cxlRead, dram]
  have home : homeRead s₁ b.id b.ctx x n = (some (s₁.bytes x.addr n), openRow s₁ x.addr n) := by simp [homeRead, here, line]
  have sees : readSees (openRow s₁ x.addr n) b.self x n (s₁.bytes x.addr n) = s₁.bytes x.addr n := by
    refine if_neg ?_
    rw [openRow_frame]
    exact Bool.eq_false_iff.mp own
  simp [jobRead, outside, target, repFault_local s₁ b.id here, here, home, sees]

theorem jobWrite_glob {s s₁ : State} {b : Actor} {a : Nat} {bs : List Byte} {row : Nat × Nat} {x : GAddr}
    (target : jobTarget s b a bs.length .store row = (.ok, some x, s₁)) (here : x.rep = none) :
    jobWrite s b .glob a bs row = (.ok, performWhole s₁ b.id x bs [rowPlaced row a x.addr]) := by
  simp [jobWrite, outside, target, here]

/-- A write at its home: its bytes, over what its granules held after their decode. -/
theorem performWhole_mem (s : State) (gid : Nat) {a : GAddr} (glob : a.place = .glob) (bs : List Byte) (whole : List (Nat × Nat)) :
    (performWhole s gid a bs whole).mem = writeBytes (reencode (reach s a.ctx none a.addr) a.addr bs.length).mem a.addr bs := by
  simp only [performWhole, glob, storeWhole_mem]

theorem readByte_performWhole_inside (s : State) (gid : Nat) {a : GAddr} (glob : a.place = .glob) (bs : List Byte) (whole : List (Nat × Nat)) {k : Nat}
    (inside : a.addr ≤ k ∧ k < a.addr + bs.length) : readByte (performWhole s gid a bs whole).mem k = bs.getD (k - a.addr) 0 := by
  rw [performWhole_mem s gid glob, readByte_writeBytes, if_pos inside]

/-- R52: where every granule is as it was stored, a write changes its own bytes alone. -/
theorem readByte_performWhole_outside {s : State} (gid : Nat) {a : GAddr} (glob : a.place = .glob) (bs : List Byte) (whole : List (Nat × Nat))
    (clean : s.upsets = []) {k : Nat} (outside : k < a.addr ∨ a.addr + bs.length ≤ k) :
    readByte (performWhole s gid a bs whole).mem k = readByte s.mem k := by
  rw [performWhole_mem s gid glob, reencode_clean _ _ _ (by rw [reach_upsets, clean]), reach_mem]
  exact readByte_writeBytes_outside bs s.mem a.addr k outside

/-! ## COPY and FILL (R375) -/

theorem runCopy_of_regions {s : State} {j : Job} {r w : Region} (sched slot : Nat) (read : j.rd0 = some r) (write : j.wr = some w) :
    runCopy s sched slot j = if j.phase = 0 then readPhase sched slot s j r (fun s j => (s, j))
      else writePhase sched slot (jobActor s sched slot j) s j w (sliceOf j.buf) 3 := by
  simp only [runCopy, read, write]

/-- R375: what FILL writes of its region: its literal in every unit of 4 bytes. -/
def fillPattern (card : BitVec 512) (o n : Nat) : List Byte := (List.range n).map (fun i => (natLe 4 (cardTops card 0 32)).getD ((o + i) % 4) 0)

theorem runFill_of_region {s : State} {j : Job} {w : Region} (sched slot : Nat) (write : j.wr = some w) :
    runFill s sched slot j = writePhase sched slot (jobActor s sched slot j) s j w (fillPattern j.card) 3 := by
  simp only [runFill, write]
  rfl

theorem fillPattern_eq (card : BitVec 512) {o n total : Nat} (upto : o + n ≤ total) :
    fillPattern card o n = sliceOf ((List.range total).map (fun i => card.extractLsb' (32 + 8 * (i % 4)) 8)) o n := by
  rw [sliceOf_range _ upto]
  exact List.map_congr_left fun i _ => natLe_literal_getD card (Nat.mod_lt _ (by decide))

end Sys2Proof.Machine

namespace Sys2Proof.Claims

open Machine

theorem copy_spec (s s₀ : State) (sched slot : Nat) (j : Job) (r w : Region) (may : MayRun s s₀ sched slot 0x01 j) (read : j.rd0 = some r) (write : j.wr = some w) :
    let who := jobActor s₀ sched slot j
    (∀ bs s', j.phase = 0 → JobReads sched slot j r.place s₀ (r.pieces.drop j.unit) bs s' →
      exec (.copy sched slot) s = .next (s'.setJob sched slot { runs j with phase := 1, unit := 0, buf := j.buf ++ bs })) ∧
    (∀ s', j.phase = 1 → j.unit = 0 → j.counted = 0 → JobWrites who j w s₀ w.pieces j.buf s' → ∃ n,
      exec (.copy sched slot) s = .next (s'.setJob sched slot { runs j with phase := 3, unit := 0, counted := n })) ∧
    ∀ a n ps b s', j.phase = 0 → j.unit = 0 → j.buf = [] → r.pieces = (a, n) :: ps →
      (∀ cause va level e tag fmt, jobRead s₀ who r.place a n = (.fault cause va level e tag fmt, b, s') →
        ∃ f : FaultRec, exec (.copy sched slot) s =
          .next ((postFault { s' with seqNo := s'.seqNo + 1 } f).setJob sched slot { runs j with state := .parked, pseq := s'.seqNo }) ∧
          f.akind = 5 ∧ f.cause = cause ∧ f.va = va ∧ f.level = level ∧ f.entry = e.toNat ∧ f.ctx = j.ctx ∧ f.core = coreOfGid j.gid ∧ f.pc = j.pc ∧
          f.lanes = 0 ∧ f.seq = s'.seqNo.toNat) ∧
      (jobRead s₀ who r.place a n = (.wait, b, s') → exec (.copy sched slot) s = .next (s'.setJob sched slot (runs j))) ∧
      (jobRead s₀ who r.place a n = (.error, b, s') → exec (.copy sched slot) s = .next (s'.setJob sched slot (ended j 1))) := by
  have run : exec (.copy sched slot) s = .next (runCopy s₀ sched slot j) :=
    (exec_copy sched slot s).trans (jobStep_of_mayRun may fun s => runCopy s sched slot)
  rw [run, runCopy_of_regions sched slot read write]
  refine ⟨fun bs s' phase reads => ?_, fun s' phase unit counted writes => ?_, fun a n ps b s' phase unit buf pieces => ⟨?_, ?_, ?_⟩⟩
  · rw [if_pos phase, readPhase_of_reads reads]
  · obtain ⟨n, written⟩ := writePhase_of_writes (sched := sched) (slot := slot) writes unit counted 3
    refine ⟨n, ?_⟩
    rw [if_neg (by omega), written]
  · intro cause va level e tag fmt stops
    refine ⟨jobRec j.run cause va level e tag fmt s'.seqNo, ?_, rfl, rfl, rfl, rfl, rfl, rfl, rfl, rfl, rfl, rfl⟩
    rw [if_pos phase, readPhase_of_first_stops unit buf pieces stops (by simp), runs, ← unit]
    rfl
  · intro stops
    rw [if_pos phase, readPhase_of_first_stops unit buf pieces stops (by simp)]
    rfl
  · intro stops
    rw [if_pos phase, readPhase_of_first_stops unit buf pieces stops (by simp)]
    rfl

theorem fill_spec (s s₀ : State) (sched slot : Nat) (j : Job) (w : Region) (s' : State) (may : MayRun s s₀ sched slot 0x02 j) (write : j.wr = some w)
    (unit : j.unit = 0) (counted : j.counted = 0)
    (writes : JobWrites (jobActor s₀ sched slot j) j w s₀ w.pieces
      ((List.range (w.len * w.rows)).map (fun i => j.card.extractLsb' (32 + 8 * (i % 4)) 8)) s') : ∃ n,
    exec (.fill sched slot) s = .next (s'.setJob sched slot { runs j with phase := 3, unit := 0, counted := n }) := by
  have run : exec (.fill sched slot) s = .next (runFill s₀ sched slot j) :=
    (exec_fill sched slot s).trans (jobStep_of_mayRun may fun s => runFill s sched slot)
  rw [run, runFill_of_region sched slot write]
  obtain ⟨n, written⟩ := writePhase_of_pattern (sched := sched) (slot := slot) writes unit counted (fun o n => fillPattern_eq j.card) 3
  exact ⟨n, congrArg _ written⟩

theorem jobAccess_spec (s : State) (b : Actor) (p : Place) (a n : Nat) (bs : List Byte) (row : Nat × Nat) :
    (∀ k t₀, p = .shared k → SMap.find? s.teams k = some t₀ → a + n ≤ t₀.sharedBytes → bs.length = n →
      jobRead s b p a n = (.ok, readPlace s p a n, s) ∧ jobWrite s b p a bs row = (.ok, writePlace s p a bs)) ∧
    (∀ x s₁, p = .glob → jobTarget s b a n .load (a, n) = (.ok, some x, s₁) → x.rep = none → frameCxl s₁ x.addr = none → frontierOther s₁ b.self x = false →
      ∃ t, jobRead s b p a n = (.ok, s₁.bytes x.addr n, t) ∧ t = { s₁ with memStacks := t.memStacks }) ∧
    ∀ x s₁, p = .glob → bs.length = n → jobTarget s b a n .store row = (.ok, some x, s₁) → x.rep = none → x.place = .glob →
      ∃ t, jobWrite s b p a bs row = (.ok, t) ∧
        ∀ k, (x.addr ≤ k ∧ k < x.addr + n → readByte t.mem k = bs.getD (k - x.addr) 0) ∧
          (k < x.addr ∨ x.addr + n ≤ k → s₁.upsets = [] → readByte t.mem k = readByte s₁.mem k) := by
  refine ⟨?_, ?_, ?_⟩
  · rintro k t₀ rfl team inside rfl
    exact ⟨jobRead_shared b team inside, jobWrite_shared b row team inside⟩
  · rintro x s₁ rfl target here dram own
    exact ⟨_, jobRead_glob target here dram own, openRow_frame s₁ x.addr n⟩
  · rintro x s₁ rfl rfl target here glob
    exact ⟨_, jobWrite_glob target here, fun k => ⟨readByte_performWhole_inside s₁ b.id glob bs _,
      fun beside clean => readByte_performWhole_outside b.id glob bs _ clean beside⟩⟩

theorem copiesAndFills : CopiesAndFills := ⟨copy_spec, fill_spec, jobAccess_spec⟩

theorem jobsOutsideTheirPart : JobsOutsideTheirPart := by
  intro s sched slot j i ty row pending may out
  have refused := jobStep_of_outOfPart pending may out
  simp only [List.mem_cons, Prod.mk.injEq, List.not_mem_nil, or_false] at row
  rcases row with ⟨rfl, rfl⟩ | ⟨rfl, rfl⟩ | ⟨rfl, rfl⟩ | ⟨rfl, rfl⟩ | ⟨rfl, rfl⟩ | ⟨rfl, rfl⟩ | ⟨rfl, rfl⟩ | ⟨rfl, rfl⟩
  · exact (exec_copy sched slot s).trans (refused _)
  · exact (exec_fill sched slot s).trans (refused _)
  · exact (exec_gather sched slot s).trans (refused _)
  · exact (exec_scatter sched slot s).trans (refused _)
  · exact (exec_collective sched slot [] s).trans (refused _)
  · exact (exec_gateJob sched slot s).trans (refused _)
  · exact (exec_seal sched slot s).trans (refused _)
  · exact (exec_unseal sched slot s).trans (refused _)

end Sys2Proof.Claims
end

section
/-! PROOFS (00_scope). GATHER and SCATTER (O56): one element, all elements, and the queue entries of a job. -/

namespace Sys2Proof.Machine

open Claims

/-! ## Queue entries (R376) -/

theorem entriesOf_length (width : Nat) (xs : List Word) : (entriesOf width xs).length = (xs.length + width - 1) / width := by
  simp [entriesOf]

theorem entriesOf_get (width : Nat) (xs : List Word) {e i : Nat} (he : e < (entriesOf width xs).length) (hi : i < width) :
    SMap.get 0 ((entriesOf width xs).getD e []) i = xs.getD (width * e + i) 0 := by
  have entry : (entriesOf width xs).getD e [] = (List.range width).map (fun i => (i, xs.getD (width * e + i) 0)) := by
    rw [List.getD_eq_getElem _ _ he]
    simp [entriesOf]
  have listed : SMap.find? ((List.range width).map (fun i => (i, xs.getD (width * e + i) 0))) i = some (xs.getD (width * e + i) 0) :=
    (SMap.find?_table Function.injective_id (fun i => xs.getD (width * e + i) 0) (List.range width) i).trans (if_pos (List.mem_range.mpr hi))
  rw [entry, SMap.get, listed, Option.getD_some]

/-- R376: the 32-bit words of bytes. -/
def queueWords (bs : List Byte) : List Word := (List.range (bs.length / 4)).map (fun k => BitVec.ofNat 32 (leNat (sliceOf bs (4 * k) 4)))

theorem entries_entriesOf (width : Nat) (bs : List Byte) : Entries (entriesOf width (queueWords bs)) width bs := by
  have length : (queueWords bs).length = bs.length / 4 := by simp [queueWords]
  refine ⟨by rw [entriesOf_length, length], fun e i he hi => ?_⟩
  rw [entriesOf_get _ _ he hi]
  by_cases within : width * e + i < bs.length / 4
  · rw [if_pos within, List.getD_eq_getElem _ _ (by rwa [length])]
    simp [queueWords, sliceOf]
  · rw [if_neg within, List.getD_eq_default _ _ (by rw [length]; exact Nat.not_lt.mp within)]

/-! ## One element (R375) -/

/-- R375: the step of runGather: the next element, unless an earlier one waits, has faulted or was out of range. -/
def gatherStep (sched slot : Nat) (scatter : Bool) (r0 r1 : Region) (w : Option Region) (z : Nat) (r : JRun) : JRun :=
  if r.res ≠ .ok || r.j.phase = 3 then r else gatherOne sched slot scatter r0 r1 w z r

section
variable {sched slot z k : Nat} {scatter : Bool} {r0 r1 w : Region} {j : Job} {s s₁ s₂ s₃ : State} {ib bs : List Byte}

theorem gatherStep_of_phase (wr : Option Region) (phase : j.phase ≠ 3) :
    gatherStep sched slot scatter r0 r1 wr z { s := s, j := j, res := .ok } = gatherOne sched slot scatter r0 r1 wr z { s := s, j := j, res := .ok } := by
  simp [gatherStep, phase]

theorem foldl_gatherStep_of_finished {wr : Option Region} {r : JRun} (finished : r.j.phase = 3) (l : List Nat) :
    l.foldl (fun r _ => gatherStep sched slot scatter r0 r1 wr z r) r = r := by
  induction l with
  | nil => rfl
  | cons _ l ih => rw [List.foldl_cons, gatherStep, if_pos (by simp [finished]), ih]

/-- R375: an index beyond the table ends the job with status 2. -/
theorem gatherStep_of_beyond (phase : j.phase ≠ 3) (unit : j.unit = k)
    (index : readRun sched slot s j r0.place (r0.first + 4 * k) 4 = (.ok, ib, s₁)) (beyond : (if scatter then w else r1).len / z ≤ leNat ib) :
    gatherStep sched slot scatter r0 r1 (some w) z { s := s, j := j, res := .ok } = { s := s₁, j := j.finish 2, res := .ok } := by
  subst unit
  rw [gatherStep_of_phase _ phase]
  cases scatter
  · simp only [Bool.false_eq_true, if_false] at beyond
    simp [gatherOne, index, beyond]
  · simp only [if_true] at beyond
    simp [gatherOne, index, beyond]

/-- R375: an element is moved, and its bytes count. -/
theorem gatherStep_of_moves (phase : j.phase ≠ 3) (unit : j.unit = k) (counted : j.counted = k)
    (index : readRun sched slot s j r0.place (r0.first + 4 * k) 4 = (.ok, ib, s₁)) (within : leNat ib < (if scatter then w else r1).len / z)
    (holds : (if scatter then r1 else w).holds (z * k) z = true)
    (read : readRun sched slot s₁ j r1.place (r1.first + z * (if scatter then k else leNat ib)) z = (.ok, bs, s₂))
    (write : writeRun sched slot s₂ j w.place (w.first + z * (if scatter then leNat ib else k)) bs = (.ok, s₃)) :
    gatherStep sched slot scatter r0 r1 (some w) z { s := s, j := j, res := .ok } =
      { s := jobCount s₃ j z, j := { j with unit := k + 1, counted := k + 1 }, res := .ok } := by
  subst unit
  rw [gatherStep_of_phase _ phase]
  cases scatter
  · simp only [Bool.false_eq_true, if_false] at within holds read write
    simp [gatherOne, index, Nat.not_le.mpr within, holds, read, write, counted]
  · simp only [if_true] at within holds read write
    simp [gatherOne, index, Nat.not_le.mpr within, holds, read, write, counted]

/-- R376: an element of a GATHER to a queue is read. -/
theorem gatherStep_of_takes (phase : j.phase ≠ 3) (unit : j.unit = k)
    (index : readRun sched slot s j r0.place (r0.first + 4 * k) 4 = (.ok, ib, s₁))
    (within : leNat ib < r1.len / z) (read : readRun sched slot s₁ j r1.place (r1.first + z * leNat ib) z = (.ok, bs, s₂)) :
    gatherStep sched slot false r0 r1 none z { s := s, j := j, res := .ok } =
      { s := s₂, j := { j with unit := k + 1, buf := j.buf ++ bs }, res := .ok } := by
  subst unit
  rw [gatherStep_of_phase _ phase]
  simp [gatherOne, index, Nat.not_le.mpr within, read]

end

/-! ## All elements (R375, R376) -/

theorem foldl_gatherStep_of_transfers {sched slot z : Nat} {scatter : Bool} {r0 r1 w : Region} {j : Job} (phase : j.phase ≠ 3) (l : List Nat) {k : Nat} {s t : State}
    (h : Transfers sched slot j scatter r0 r1 w z (List.range' k l.length) s t) :
    l.foldl (fun r _ => gatherStep sched slot scatter r0 r1 (some w) z r) { s := s, j := { j.run with unit := k, counted := k }, res := .ok } =
      { s := t, j := { j.run with unit := k + l.length, counted := k + l.length }, res := .ok } := by
  induction l generalizing k s with
  | nil =>
    obtain rfl := h
    rw [List.foldl_nil, List.length_nil, Nat.add_zero]
  | cons _ l ih =>
    rw [List.length_cons, List.range'_succ] at h
    obtain ⟨ib, bs, s₁, s₂, s₃, index, within, holds, read, write, more⟩ := h
    have moved := gatherStep_of_moves (j := { j.run with unit := k, counted := k }) phase rfl rfl index within holds read write
    rw [List.foldl_cons, moved]
    refine (ih more).trans ?_
    rw [List.length_cons, Nat.add_right_comm, Nat.add_assoc]

theorem foldl_gatherStep_of_takes {sched slot z : Nat} {r0 r1 : Region} {j : Job} (phase : j.phase ≠ 3) (l : List Nat) {k : Nat} {s t : State} {buf bs : List Byte}
    (h : Takes sched slot j r0 r1 z (List.range' k l.length) s bs t) :
    l.foldl (fun r _ => gatherStep sched slot false r0 r1 none z r) { s := s, j := { j.run with unit := k, buf := buf }, res := .ok } =
      { s := t, j := { j.run with unit := k + l.length, buf := buf ++ bs }, res := .ok } := by
  induction l generalizing k s buf bs with
  | nil =>
    obtain ⟨rfl, rfl⟩ := h
    rw [List.foldl_nil, List.length_nil, Nat.add_zero, List.append_nil]
  | cons _ l ih =>
    rw [List.length_cons, List.range'_succ] at h
    obtain ⟨ib, b, rest, s₁, s₂, index, within, read, more, rfl⟩ := h
    have taken := gatherStep_of_takes (j := { j.run with unit := k, buf := buf }) phase rfl index within read
    rw [List.foldl_cons, taken]
    refine (ih more).trans ?_
    rw [List.length_cons, Nat.add_right_comm, Nat.add_assoc, List.append_assoc]

/-- R376: what a GATHER to a queue delivers at its end. -/
def gatherOut (s : State) (j : Job) (buf : List Byte) : List (SMap Word) :=
  match j.wr with
  | some _ => []
  | none => entriesOf (jobWidth s j) (queueWords buf)

section
variable {s : State} {sched slot z : Nat} {j : Job} {scatter : Bool} {r0 r1 : Region} {r : JRun}

/-- R375: a GATHER or SCATTER none of whose elements waits or faults makes its last access. -/
theorem runGather_of_folded (read : j.rd0 = some r0) (table : j.rd1 = some r1) (unit : j.unit = 0) (size : gatherSize (cardTops j.card 0 2) = z)
    (folded : (List.range (r0.len / 4)).foldl (fun r _ => gatherStep sched slot scatter r0 r1 j.wr z r)
      { s := s, j := j.run, res := .ok } = r) (ok : r.res = .ok) :
    runGather s sched slot j scatter =
      r.s.setJob sched slot { (if r.j.phase = 3 then r.j else r.j.finish 0) with out := gatherOut s j r.j.buf, buf := [] } := by
  unfold gatherStep at folded
  simp only [runGather, read, table, unit, size, Nat.sub_zero, folded, ok, if_true]
  rfl

theorem runGather_of_moved {t : State} {j' : Job} (read : j.rd0 = some r0) (table : j.rd1 = some r1) (unit : j.unit = 0) (size : gatherSize (cardTops j.card 0 2) = z)
    (folded : (List.range (r0.len / 4)).foldl (fun r _ => gatherStep sched slot scatter r0 r1 j.wr z r)
      { s := s, j := j.run, res := .ok } = { s := t, j := j', res := .ok }) (phase : j'.phase ≠ 3) :
    runGather s sched slot j scatter = t.setJob sched slot { j'.finish 0 with out := gatherOut s j j'.buf, buf := [] } := by
  rw [runGather_of_folded read table unit size folded rfl, if_neg phase]

theorem runGather_of_ended {t : State} {j' : Job} (read : j.rd0 = some r0) (table : j.rd1 = some r1) (unit : j.unit = 0) (size : gatherSize (cardTops j.card 0 2) = z)
    (folded : (List.range (r0.len / 4)).foldl (fun r _ => gatherStep sched slot scatter r0 r1 j.wr z r)
      { s := s, j := j.run, res := .ok } = { s := t, j := j', res := .ok }) (phase : j'.phase = 3) :
    runGather s sched slot j scatter = t.setJob sched slot { j' with out := gatherOut s j j'.buf, buf := [] } := by
  rw [runGather_of_folded read table unit size folded rfl, if_pos phase]

end

end Sys2Proof.Machine

namespace Sys2Proof.Claims

open Machine

/-- R373: the bytes of an element of a card of GATHER or SCATTER. -/
theorem gatherSize_eq (card : BitVec 512) : gatherSize (cardTops card 0 2) =
    match (card.extractLsb' 32 2).toNat with | 0 => 4 | 1 => 8 | 2 => 16 | _ => 64 := by
  unfold gatherSize
  rw [show cardTops card 0 2 = (card.extractLsb' 32 2).toNat from rfl]
  generalize (card.extractLsb' 32 2).toNat = n
  rcases n with _ | _ | _ | n <;> rfl

theorem jobWidth_askAgain (s : State) (src : Source) (j : Job) : jobWidth (askAgain s src) j = jobWidth s j := rfl

theorem moves_spec (s s₀ : State) (sched slot : Nat) (j : Job) (r0 r1 w : Region) (s' : State) (i : Instr) (ty : Nat) (scatter : Bool)
    (row : (i, ty, scatter) ∈ [(Instr.gather sched slot, 0x03, false), (.scatter sched slot, 0x04, true)]) (may : MayRun s s₀ sched slot ty j)
    (read : j.rd0 = some r0) (table : j.rd1 = some r1) (write : j.wr = some w) (phase : j.phase ≠ 3) (unit : j.unit = 0) (counted : j.counted = 0) :
    let z : Nat := match (j.card.extractLsb' 32 2).toNat with | 0 => 4 | 1 => 8 | 2 => 16 | _ => 64
    (Transfers sched slot j scatter r0 r1 w z (List.range (r0.len / 4)) s₀ s' → ∃ n, exec i s =
      .next (s'.setJob sched slot { ended j 0 with unit := r0.len / 4, counted := n, out := [], buf := [] })) ∧
    ∀ ib, 4 ≤ r0.len → readRun sched slot s₀ j r0.place r0.first 4 = (.ok, ib, s') → (if scatter then w else r1).len / z ≤ leNat ib →
      exec i s = .next (s'.setJob sched slot { ended j 2 with out := [], buf := [] }) := by
  have run : exec i s = .next (runGather s₀ sched slot j scatter) := by
    simp only [List.mem_cons, Prod.mk.injEq, List.not_mem_nil, or_false] at row
    rcases row with ⟨rfl, rfl, rfl⟩ | ⟨rfl, rfl, rfl⟩
    · exact (exec_gather sched slot s).trans (jobStep_of_mayRun may fun s j => runGather s sched slot j false)
    · exact (exec_scatter sched slot s).trans (jobStep_of_mayRun may fun s j => runGather s sched slot j true)
  rw [run]
  intro z
  have size : gatherSize (cardTops j.card 0 2) = z := gatherSize_eq j.card
  have out (buf : List Byte) : gatherOut s₀ j buf = [] := by simp only [gatherOut, write]
  have start : j.run = { j.run with unit := 0, counted := 0 } := by cases j; cases unit; cases counted; rfl
  refine ⟨fun transfers => ⟨r0.len / 4, ?_⟩, fun ib some_index index beyond => ?_⟩
  · have all := foldl_gatherStep_of_transfers phase (List.range (r0.len / 4)) (k := 0)
      (by rw [List.length_range, ← List.range_eq_range']; exact transfers)
    rw [List.length_range, Nat.zero_add, ← start, ← write] at all
    rw [runGather_of_moved read table unit size all phase, out]
    rfl
  · obtain ⟨n, hn⟩ : ∃ n, r0.len / 4 = n + 1 := ⟨r0.len / 4 - 1, by omega⟩
    have first := gatherStep_of_beyond (w := w) (j := j.run) (k := 0) phase unit index beyond
    have all : (List.range (n + 1)).foldl (fun r _ => gatherStep sched slot scatter r0 r1 (some w) z r) { s := s₀, j := j.run, res := .ok } =
        { s := s', j := j.run.finish 2, res := .ok } := by
      rw [List.range_succ_eq_map, List.foldl_cons, first]
      exact foldl_gatherStep_of_finished rfl _
    rw [← hn, ← write] at all
    rw [runGather_of_ended read table unit size all rfl, out]
    rfl

theorem takes_spec (s s₀ : State) (sched slot : Nat) (j : Job) (r0 r1 : Region) (bs : List Byte) (s' : State) (may : MayRun s s₀ sched slot 0x03 j)
    (read : j.rd0 = some r0) (table : j.rd1 = some r1) (write : j.wr = none) (phase : j.phase ≠ 3) (unit : j.unit = 0) (buf : j.buf = [])
    (takes : Takes sched slot j r0 r1 4 (List.range (r0.len / 4)) s₀ bs s') (four : j.card.extractLsb' 32 2 = 0) :
    ∃ out, exec (.gather sched slot) s = .next (s'.setJob sched slot { ended j 0 with unit := r0.len / 4, out := out, buf := [] }) ∧
      Entries out (jobWidth s j) bs := by
  have run : exec (.gather sched slot) s = .next (runGather s₀ sched slot j false) :=
    (exec_gather sched slot s).trans (jobStep_of_mayRun may fun s j => runGather s sched slot j false)
  have size : gatherSize (cardTops j.card 0 2) = 4 := by rw [gatherSize_eq, four]; rfl
  have width : jobWidth s₀ j = jobWidth s j := by rw [may.asks, jobWidth_askAgain]
  have out : gatherOut s₀ j bs = entriesOf (jobWidth s j) (queueWords bs) := by simp only [gatherOut, write, width]
  have start : j.run = { j.run with unit := 0, buf := [] } := by cases j; cases unit; cases buf; rfl
  have all := foldl_gatherStep_of_takes phase (List.range (r0.len / 4)) (k := 0) (buf := [])
    (by rw [List.length_range, ← List.range_eq_range']; exact takes)
  rw [List.length_range, Nat.zero_add, List.nil_append, ← start, ← write] at all
  refine ⟨_, ?_, entries_entriesOf (jobWidth s j) bs⟩
  rw [run, runGather_of_moved read table unit size all phase, out]
  rfl

end Sys2Proof.Claims
end

section
/-! PROOFS (00_scope). What a sum, a minimum and a collective's combination come to is a code of the operands' width (O56). -/

namespace Sys2Proof.Machine

open Claims

/-! ## A result of a format fits its width (R223) -/

section
variable {f : Fmt} {fz : Bool} {a b x : Nat}

theorem ite_lt_of_lt {p : Prop} [Decidable p] {x y n : Nat} (hx : x < n) (hy : y < n) : (if p then x else y) < n := by
  split <;> assumption

theorem Fmt.infCode_add (f : Fmt) : f.infCode + 2 ^ f.mb = f.signBit := by
  rw [Fmt.infCode, Fmt.signBit, pow_add, ← Nat.succ_mul, Nat.succ_eq_add_one, Nat.sub_add_cancel (Nat.one_le_two_pow)]

theorem Fmt.two_mul_signBit (f : Fmt) : 2 * f.signBit = 2 ^ f.width := by
  rw [Fmt.signBit, Fmt.width, ← pow_succ', show f.eb + f.mb + 1 = 1 + f.eb + f.mb by omega]

/-- R223: a magnitude below the sign bit is, under either sign, a code of the format. -/
theorem signed_lt_width (neg : Bool) (h : x < f.signBit) : (if neg then f.signBit else 0) + x < 2 ^ f.width := by
  rw [← f.two_mul_signBit]
  split <;> omega

theorem Fmt.infCode_lt (f : Fmt) : f.infCode < f.signBit := by
  have := f.infCode_add
  have := Nat.two_pow_pos f.mb
  omega

theorem fFlushIn_lt (h : x < 2 ^ f.width) : fFlushIn f fz x < 2 ^ f.width := by
  unfold fFlushIn
  split
  · exact (Nat.sub_le _ _).trans_lt h
  · exact h

theorem fQuiet_lt (fraction : 1 ≤ f.mb) (x : Nat) : fQuiet f f x < 2 ^ f.width := by
  have half : 2 * 2 ^ (f.mb - 1) = 2 ^ f.mb := by rw [← pow_succ', Nat.sub_add_cancel fraction]
  have payload : x % 2 ^ f.mb < 2 ^ f.mb := Nat.mod_lt _ (Nat.two_pow_pos _)
  have quiet : (if x % 2 ^ f.mb / 2 ^ (f.mb - 1) % 2 = 1 then x % 2 ^ f.mb else x % 2 ^ f.mb + 2 ^ (f.mb - 1)) < 2 ^ f.mb := by
    have bit : x % 2 ^ f.mb / 2 ^ (f.mb - 1) < 2 := Nat.div_lt_of_lt_mul (by omega)
    rcases Nat.le_one_iff_eq_zero_or_eq_one.mp (Nat.lt_succ_iff.mp bit) with clear | set
    · have low := (Nat.div_eq_zero_iff_lt (Nat.two_pow_pos _)).mp clear
      rw [clear, if_neg (by decide)]
      omega
    · rwa [set, if_pos (by decide)]
  have := f.infCode_add
  simp only [fQuiet, le_refl, if_true, Nat.sub_self, pow_zero, mul_one]
  rw [Nat.add_assoc]
  exact signed_lt_width _ (by omega)

theorem overflowCode_lt (rm : Nat) (neg : Bool) : overflowCode f rm neg < 2 ^ f.width := by
  have := f.infCode_lt
  exact signed_lt_width neg (by split <;> omega)

theorem fRound_lt (rm : Nat) (neg : Bool) (m : Nat) (e : Int) (sticky : Bool) : (fRound f rm fz neg m e sticky).bits < 2 ^ f.width := by
  have := f.infCode_lt
  simp only [fRound]
  split
  · exact signed_lt_width neg (x := 0) (by omega)
  · split
    · exact overflowCode_lt rm neg
    · exact signed_lt_width neg (by omega)

theorem Dy.round_lt (rm : Nat) (x : Dy) (zeroNeg : Bool) : (x.round f rm fz zeroNeg).bits < 2 ^ f.width := by
  have := f.infCode_lt
  unfold Dy.round
  split
  · exact signed_lt_width zeroNeg (x := 0) (by omega)
  · exact fRound_lt rm _ _ _ _

theorem fInvalid_lt (fraction : 1 ≤ f.mb) : (fInvalid f).bits < 2 ^ f.width := by
  have := f.infCode_add
  have : 2 ^ (f.mb - 1) < 2 ^ f.mb := Nat.pow_lt_pow_right (by omega) (by omega)
  have : f.dnan < f.signBit := by unfold Fmt.dnan; omega
  have := f.two_mul_signBit
  show f.dnan < _
  omega

theorem fNaNs_lt (fraction : 1 ≤ f.mb) {xs : List Nat} {r : FRes} (nan : fNaNs f xs = some r) : r.bits < 2 ^ f.width := by
  unfold fNaNs at nan
  split at nan
  · obtain rfl := Option.some.inj nan
    exact fQuiet_lt fraction _
  · cases nan

theorem fAdd_lt (fraction : 1 ≤ f.mb) (rm : Nat) (ha : a < 2 ^ f.width) (hb : b < 2 ^ f.width) : (fAdd f rm fz a b).bits < 2 ^ f.width := by
  unfold fAdd
  simp only
  split
  · next nan => exact fNaNs_lt fraction nan
  · split
    · split
      · exact fFlushIn_lt ha
      · exact fInvalid_lt fraction
    · exact fFlushIn_lt ha
    · exact fFlushIn_lt hb
    · exact Dy.round_lt rm _ _
    · exact fInvalid_lt fraction

theorem fMinMax_lt (fraction : 1 ≤ f.mb) (mx num : Bool) (ha : a < 2 ^ f.width) (hb : b < 2 ^ f.width) :
    (fMinMax f fz mx num a b).bits < 2 ^ f.width := by
  have ha' := fFlushIn_lt (fz := fz) ha
  have hb' := fFlushIn_lt (fz := fz) hb
  unfold fMinMax
  simp only
  split
  · exact fQuiet_lt fraction _
  · split
    · exact ite_lt_of_lt hb' (fQuiet_lt fraction _)
    · split
      · exact ite_lt_of_lt ha' (fQuiet_lt fraction _)
      · exact ite_lt_of_lt hb' ha'

end

/-! ## Combining elements (R377) -/

theorem collCombine_eq {op : Nat} (first : 1 ≤ op) (last : op ≤ 4) (a b : Nat) : collCombine op a b = combine op a b := by
  obtain rfl | rfl | rfl | rfl : op = 1 ∨ op = 2 ∨ op = 3 ∨ op = 4 := by omega
  all_goals rfl

theorem collCombine_lt (op : Nat) {a b : Nat} (ha : a < 256 ^ collSize op) (hb : b < 256 ^ collSize op) : collCombine op a b < 256 ^ collSize op := by
  by_cases wide : op = 2
  · subst wide
    exact fAdd_lt (f := Fmt.f64) (by decide) 0 ha hb
  · rw [collSize, if_neg wide] at ha hb ⊢
    unfold collCombine
    split
    · exact fAdd_lt (f := Fmt.f32) (by decide) 0 ha hb
    · split
      · exact Nat.mod_lt _ (by decide)
      · exact fMinMax_lt (f := Fmt.f32) (by decide) true true ha hb

end Sys2Proof.Machine
end

section
/-! PROOFS (00_scope). COLLECTIVE (O56): the elements of a result, and what its phases come to. -/

namespace Sys2Proof.Machine

open Claims

/-! ## Slices of bytes (R239) -/

theorem leNat_lt (bs : List Byte) : leNat bs < 256 ^ bs.length := by
  induction bs with
  | nil => exact Nat.one_pos
  | cons b bs ih =>
    have : b.toNat < 256 := b.isLt
    rw [leNat, List.length_cons, pow_succ']
    omega

theorem leNat_sliceOf_lt (bs : List Byte) (o n : Nat) : leNat (sliceOf bs o n) < 256 ^ n :=
  (leNat_lt _).trans_le (Nat.pow_le_pow_right (by decide) (List.length_take_le _ _))

section
variable {α : Type} {f : α → List Byte} {e : Nat}

theorem length_flatMap_of_size (size : ∀ x, (f x).length = e) (xs : List α) : (xs.flatMap f).length = e * xs.length := by
  induction xs with
  | nil => rfl
  | cons x xs ih => rw [List.flatMap_cons, List.length_append, ih, size, List.length_cons, Nat.mul_succ, Nat.add_comm]

/-- Parts of one size, one after another: the bytes from the `k`-th part on are it and its successors. -/
theorem drop_flatMap_of_size (size : ∀ x, (f x).length = e) (xs : List α) (k : Nat) : (xs.flatMap f).drop (e * k) = (xs.drop k).flatMap f := by
  induction k generalizing xs with
  | zero => rfl
  | succ k ih =>
    cases xs with
    | nil => simp
    | cons x xs =>
      rw [List.flatMap_cons, Nat.mul_succ, Nat.add_comm, List.drop_succ_cons, ← ih xs, ← List.drop_drop, ← size x, List.drop_left]

/-- What lies at an offset within the `k`-th part is read from that part. -/
theorem slice_flatMap_of_size (size : ∀ x, (f x).length = e) {xs : List α} {k : Nat} {x : α} (listed : xs[k]? = some x) {o n : Nat} (inside : o + n ≤ e) :
    ((xs.flatMap f).drop (e * k + o)).take n = ((f x).drop o).take n := by
  obtain ⟨hk, rfl⟩ := List.getElem?_eq_some_iff.mp listed
  rw [← List.drop_drop, drop_flatMap_of_size size, List.drop_eq_getElem_cons hk, List.flatMap_cons, List.drop_append_of_le_length (by rw [size]; omega),
    List.take_append_of_le_length (by rw [List.length_drop, size]; omega)]

theorem part_flatMap_of_size (size : ∀ x, (f x).length = e) {xs : List α} {k : Nat} {x : α} (listed : xs[k]? = some x) :
    sliceOf (xs.flatMap f) (e * k) e = f x := by
  have := slice_flatMap_of_size size listed (o := 0) (n := e) (by omega)
  rw [Nat.add_zero, List.drop_zero, List.take_of_length_le (size x).le] at this
  exact this

end

/-! ## A result's elements (R377) -/

/-- R377: the step of collResult: `n` elements of the result so far and of the next member are combined. -/
def collStep (op n : Nat) (acc x : List Byte) : List Byte :=
  (List.range n).flatMap (fun k => natLe (collSize op) (collCombine op (leNat (sliceOf acc (collSize op * k) (collSize op)))
    (leNat (sliceOf x (collSize op * k) (collSize op)))))

theorem collResult_of_op {op : Nat} (reduces : op ≠ 0) (b : List Byte) (bs : List (List Byte)) :
    collResult op (b :: bs) = bs.foldl (collStep op (b.length / collSize op)) b := by
  rw [collResult, if_neg reduces]
  rfl

theorem length_collStep (op n : Nat) (acc x : List Byte) : (collStep op n acc x).length = collSize op * n := by
  rw [collStep, length_flatMap_of_size (fun _ => length_natLe _ _), List.length_range]

theorem length_foldl_collStep {op n : Nat} {b : List Byte} (size : b.length = collSize op * n) (bs : List (List Byte)) :
    (bs.foldl (collStep op n) b).length = collSize op * n := by
  induction bs generalizing b with
  | nil => exact size
  | cons x bs ih => exact ih (length_collStep op n b x)

theorem collElem_lt (op : Nat) (bs : List Byte) (k : Nat) : collElem op bs k < 256 ^ collSize op := leNat_sliceOf_lt bs _ _

/-- R377: an element of a step is the combination of the two elements. -/
theorem collElem_collStep {op n k : Nat} (first : 1 ≤ op) (last : op ≤ 4) (hk : k < n) (acc x : List Byte) :
    collElem op (collStep op n acc x) k = combine op (collElem op acc k) (collElem op x k) := by
  have part := part_flatMap_of_size (f := fun k => natLe (collSize op) (collCombine op (leNat (sliceOf acc (collSize op * k) (collSize op)))
    (leNat (sliceOf x (collSize op * k) (collSize op))))) (fun _ => length_natLe _ _) (List.getElem?_range hk)
  have element : collElem op (collStep op n acc x) k = leNat (natLe (collSize op) (collCombine op (collElem op acc k) (collElem op x k))) :=
    congrArg leNat part
  rw [element, leNat_natLe, Nat.mod_eq_of_lt (collCombine_lt op (collElem_lt op acc k) (collElem_lt op x k)), collCombine_eq first last]

theorem collElem_foldl_collStep {op n k : Nat} (first : 1 ≤ op) (last : op ≤ 4) (hk : k < n) (b : List Byte) (bs : List (List Byte)) :
    collElem op (bs.foldl (collStep op n) b) k = bs.foldl (fun a x => combine op a (collElem op x k)) (collElem op b k) := by
  induction bs generalizing b with
  | nil => rfl
  | cons x bs ih => rw [List.foldl_cons, List.foldl_cons, ih, collElem_collStep first last hk]

section
variable {op n m : Nat} {data : Nat → List Byte}

theorem collResult_range (reduces : op ≠ 0) (size : (data 0).length = collSize op * n) :
    collResult op ((List.range (m + 1)).map data) = ((List.range m).map (fun k => data (k + 1))).foldl (collStep op n) (data 0) := by
  have positive : 0 < collSize op := by unfold collSize; split <;> decide
  have units : (data 0).length / collSize op = n := by rw [size, Nat.mul_div_cancel_left _ positive]
  rw [List.range_succ_eq_map, List.map_cons, List.map_map, collResult_of_op reduces, units]
  rfl

theorem length_collResult (size : (data 0).length = collSize op * n) : (collResult op ((List.range (m + 1)).map data)).length = collSize op * n := by
  by_cases gathers : op = 0
  · rw [List.range_succ_eq_map, List.map_cons, collResult, if_pos gathers, size]
  · rw [collResult_range gathers size, length_foldl_collStep size]

/-- R377: the members' elements are combined in ascending rank. -/
theorem collElem_collResult (first : 1 ≤ op) (last : op ≤ 4) (size : (data 0).length = collSize op * n) {k : Nat} (hk : k < n) :
    collElem op (collResult op ((List.range (m + 1)).map data)) k =
      (List.range m).foldl (fun a i => combine op a (collElem op (data (i + 1)) k)) (collElem op (data 0) k) := by
  rw [collResult_range (by omega) size, collElem_foldl_collStep first last hk, List.foldl_map]

end

/-! ## Phases of a COLLECTIVE (R377) -/

theorem cardTops_one (card : BitVec 512) (i : Nat) : cardTops card i 1 = (card.getLsbD (32 + i)).toNat := by
  show (card.extractLsb' (32 + i) 1).toNat = _
  rw [BitVec.extractLsb'_toNat, BitVec.getLsbD, Nat.testBit_eq_decide_div_mod_eq, Nat.shiftRight_eq_div_pow, pow_one]
  rcases Nat.mod_two_eq_zero_or_one (card.toNat / 2 ^ (32 + i)) with h | h <;> simp [h]

/-- R377: the buffer of the member of a rank. -/
def memberData (c : CollGroup) (j : Job) (peers : List CollPeer) (k : Nat) : List Byte :=
  if k = c.rank then j.buf else (peers.find? (fun p => p.rank = k)).elim [] (fun p => p.data)

/-- R377: what the member of a rank brings: this job's buffer of `n` elements, or what a peer has sent. -/
def memberOf (c : CollGroup) (j : Job) (peers : List CollPeer) (n k : Nat) : CollPeer :=
  if k = c.rank then { rank := c.rank, n := n, data := j.buf } else (peers.find? (fun p => p.rank = k)).getD { rank := k, n := n, data := [] }

/-- R377: every other member has come. -/
def AllCome (c : CollGroup) (peers : List CollPeer) : Prop := ∀ k < c.members.length, k ≠ c.rank → ∃ p ∈ peers, p.rank = k

/-- R377: what the others bring is of this job's size. -/
def SizesAgree (c : CollGroup) (j : Job) (peers : List CollPeer) (n : Nat) : Prop :=
  ∀ k < c.members.length, k ≠ c.rank → ∀ p, peers.find? (fun p => p.rank = k) = some p → p.n = n ∧ p.data.length = j.buf.length

section
variable {c : CollGroup} {j : Job} {peers : List CollPeer} {n k : Nat}

theorem memberOf_data (c : CollGroup) (j : Job) (peers : List CollPeer) (n k : Nat) : (memberOf c j peers n k).data = memberData c j peers k := by
  unfold memberOf memberData
  split
  · rfl
  · cases peers.find? (fun p => p.rank = k) <;> rfl

theorem find?_member (come : AllCome c peers) (inside : k < c.members.length) (other : k ≠ c.rank) :
    peers.find? (fun p => p.rank = k) = some (memberOf c j peers n k) := by
  obtain ⟨p, listed, rank⟩ := come k inside other
  obtain ⟨q, found⟩ := Option.isSome_iff_exists.mp (List.find?_isSome (p := fun p : CollPeer => p.rank = k) |>.mpr ⟨p, listed, decide_eq_true rank⟩)
  rw [memberOf, if_neg other, found, Option.getD_some]

theorem members_eq (come : AllCome c peers) :
    (List.range c.members.length).map (fun k => if k = c.rank then some { rank := c.rank, n := n, data := j.buf } else peers.find? (fun p => p.rank = k)) =
      (List.range c.members.length).map (fun k => some (memberOf c j peers n k)) := by
  refine List.map_congr_left fun k listed => ?_
  by_cases mine : k = c.rank
  · rw [if_pos mine, memberOf, if_pos mine]
  · rw [if_neg mine, find?_member come (List.mem_range.mp listed) mine]

theorem memberOf_size (come : AllCome c peers) (sizes : SizesAgree c j peers n) (inside : k < c.members.length) :
    (memberOf c j peers n k).n = n ∧ (memberOf c j peers n k).data.length = j.buf.length := by
  by_cases mine : k = c.rank
  · rw [memberOf, if_pos mine]
    exact ⟨rfl, rfl⟩
  · exact sizes k inside mine _ (find?_member come inside mine)

theorem length_memberData (come : AllCome c peers) (sizes : SizesAgree c j peers n) (inside : k < c.members.length) :
    (memberData c j peers k).length = j.buf.length := by
  rw [← memberOf_data c j peers n k]
  exact (memberOf_size come sizes inside).2

end

/-- R377: the result of all members' buffers. -/
def collOfMembers (op : Nat) (c : CollGroup) (j : Job) (peers : List CollPeer) : List Byte :=
  collResult op ((List.range c.members.length).map (memberData c j peers))

section
variable {s : State} {sched slot : Nat} {j : Job} {peers : List CollPeer} {c : CollGroup} {r w : Region}
variable (coll : SMap.find? s.colls (cardTops j.card 0 8) = some c) (ctx : c.ctx = j.ctx) (read : j.rd0 = some r) (write : j.wr = some w)
include coll ctx read write

theorem runCollective_of_reads (phase : j.phase = 0) (memory : j.card.getLsbD 43 = false) :
    runCollective s sched slot j peers = readPhase sched slot s j r (fun s j => (s, j)) := by
  have entries : cardTops j.card 11 1 ≠ 1 := by rw [cardTops_one, memory]; decide
  simp only [runCollective, coll, read, write, ctx, phase, entries, ne_eq, not_true_eq_false, if_false, if_true]

theorem runCollective_of_accepts (phase : j.phase = 0) (entries : j.card.getLsbD 43 = true) {s' : State} {j' : Job}
    (accepts : acceptOut s j.run (r.len * r.rows) = (s', j')) :
    runCollective s sched slot j peers =
      s'.setJob sched slot (if r.len * r.rows ≤ j'.buf.length then { j' with buf := j'.buf.take (r.len * r.rows), phase := 1 } else j') := by
  have entries' : cardTops j.card 11 1 = 1 := by rw [cardTops_one, entries]; rfl
  simp only [runCollective, coll, read, write, ctx, phase, entries', accepts, ne_eq, not_true_eq_false, if_false, if_true]
  split <;> rfl

theorem runCollective_of_missing (phase : j.phase = 1) (missing : ∃ k < c.members.length, k ≠ c.rank ∧ ∀ p ∈ peers, p.rank ≠ k) :
    runCollective s sched slot j peers = s.setJob sched slot j.run := by
  obtain ⟨k, inside, other, absent⟩ := missing
  have waits : ((List.range c.members.length).filter (fun k => k ≠ c.rank)).any (fun k => !peers.any (fun p => p.rank = k)) = true := by
    refine List.any_eq_true.mpr ⟨k, by simp [inside, other], ?_⟩
    simpa using absent
  simp only [runCollective, coll, read, write, ctx, phase, waits, ne_eq, not_true_eq_false, if_false, if_true, one_ne_zero]

theorem runCollective_of_members (phase : j.phase = 1) (come : AllCome c peers)
    (sizes : SizesAgree c j peers (r.len * r.rows / collSize (cardTops j.card 8 3))) :
    runCollective s sched slot j peers = s.setJob sched slot (if j.card.getLsbD 44 = true then
      { j.run.finish 0 with out := entriesOf (jobWidth s j) (queueWords (collOfMembers (cardTops j.card 8 3) c j peers)) }
      else { j.run with phase := 2, unit := 0, buf := collOfMembers (cardTops j.card 8 3) c j peers }) := by
  have here : ((List.range c.members.length).filter (fun k => k ≠ c.rank)).any (fun k => !peers.any (fun p => p.rank = k)) = false := by
    refine List.any_eq_false.mpr fun k listed => ?_
    obtain ⟨inside, other⟩ := List.mem_filter.mp listed
    obtain ⟨p, found, rank⟩ := come k (List.mem_range.mp inside) (of_decide_eq_true other)
    simpa using ⟨p, found, rank⟩
  have agree : ((List.range c.members.length).map (memberOf c j peers (r.len * r.rows / collSize (cardTops j.card 8 3)))).any
      (fun p => p.n ≠ r.len * r.rows / collSize (cardTops j.card 8 3) || p.data.length ≠ j.buf.length) = false := by
    refine List.any_eq_false.mpr fun p listed => ?_
    obtain ⟨k, inside, rfl⟩ := List.mem_map.mp listed
    obtain ⟨units, bytes⟩ := memberOf_size come sizes (List.mem_range.mp inside)
    simp [units, bytes]
  have present (n : Nat) : ((List.range c.members.length).map (fun k => some (memberOf c j peers n k))).filterMap id =
      (List.range c.members.length).map (memberOf c j peers n) := by
    rw [List.filterMap_map]
    exact congrFun (List.filterMap_eq_map (f := memberOf c j peers n)) _
  have data (n : Nat) : ((List.range c.members.length).map (memberOf c j peers n)).map (·.data) = (List.range c.members.length).map (memberData c j peers) := by
    rw [List.map_map]
    exact List.map_congr_left fun k _ => memberOf_data c j peers n k
  have entries : (cardTops j.card 12 1 = 1) = (j.card.getLsbD 44 = true) := by
    rw [cardTops_one]
    cases j.card.getLsbD (32 + 12) <;> simp
  simp only [runCollective, coll, read, write, ctx, phase, here, members_eq come, present, agree, data, entries, ne_eq, not_true_eq_false, if_false, if_true,
    one_ne_zero, Bool.false_eq_true]
  split <;> rfl

theorem runCollective_of_writes (phase : j.phase = 2) :
    runCollective s sched slot j peers = writePhase sched slot (jobActor s sched slot j) s j w (sliceOf j.buf) 3 := by
  simp only [runCollective, coll, read, write, ctx, phase, ne_eq, not_true_eq_false, if_false, OfNat.ofNat_ne_zero, OfNat.ofNat_ne_one]

end

end Sys2Proof.Machine
end

section
/-! PROOFS (00_scope). COLLECTIVE (O56): the entries that the collective-out port accepts, and the clauses of the obligation. -/

namespace Sys2Proof.Machine

open Claims

/-- R154: the bytes of a queue entry's lanes. -/
def entryBytes (width : Nat) (x : SMap Word) : List Byte := (List.range width).flatMap (fun i => natLe 4 (SMap.get 0 x i).toNat)

theorem length_entryBytes (width : Nat) (x : SMap Word) : (entryBytes width x).length = 4 * width := by
  rw [entryBytes, length_flatMap_of_size (fun _ => length_natLe _ _), List.length_range]

theorem lane_entryBytes {width lane : Nat} (inside : lane < width) (x : SMap Word) :
    ((entryBytes width x).drop (4 * lane)).take 4 = natLe 4 (SMap.get 0 x lane).toNat :=
  part_flatMap_of_size (f := fun i => natLe 4 (SMap.get 0 x i).toNat) (fun _ => length_natLe _ _) (List.getElem?_range inside)

theorem lane_entriesBytes {width k lane : Nat} {xs : List (SMap Word)} {x : SMap Word} (listed : xs[k]? = some x) (inside : lane < width) :
    ((xs.flatMap (entryBytes width)).drop (4 * (width * k + lane))).take 4 = natLe 4 (SMap.get 0 x lane).toNat := by
  rw [Nat.mul_add, ← Nat.mul_assoc, slice_flatMap_of_size (length_entryBytes width) listed (by omega), lane_entryBytes inside]

/-- R154, R377: the collective-out port takes the entries that the job still needs. -/
theorem acceptOut_of_port {s : State} {j : Job} {gid q total need : Nat} {g : Group} (group : jobGroup s j = some (gid, g)) (moves : g.portsStill = false)
    (port : g.portReg 4 = some q) (needs : (total - j.buf.length + 4 * g.width - 1) / (4 * g.width) = need) :
    acceptOut s j total = (s.setGroup gid (g.setQ q { g.q q with fifo := (g.q q).fifo.drop ((g.q q).fifo.take need).length }),
      { j with buf := j.buf ++ ((g.q q).fifo.take need).flatMap (entryBytes g.width) }) := by
  have left : (g.q q).fifo.drop ((g.q q).fifo.take need).length = (g.q q).fifo.drop need := by
    rw [List.length_take]
    rcases Nat.le_total need (g.q q).fifo.length with enough | short
    · rw [Nat.min_eq_left enough]
    · rw [Nat.min_eq_right short, List.drop_length, List.drop_eq_nil_of_le short]
  subst needs
  rw [left]
  simp only [acceptOut, group, moves, port, Bool.false_eq_true, if_false]
  rfl

end Sys2Proof.Machine

namespace Sys2Proof.Claims

open Machine

section
variable (s s₀ : State) (sched slot : Nat) (j : Job) (peers : List CollPeer) (c : CollGroup) (r w : Region) (may : MayRun s s₀ sched slot 0x05 j)
  (coll : SMap.find? s.colls (j.card.extractLsb' 32 8).toNat = some c) (ctx : c.ctx = j.ctx) (read : j.rd0 = some r) (write : j.wr = some w)
include may

theorem exec_collective_of_mayRun : exec (.collective sched slot peers) s = .next (runCollective s₀ sched slot j peers) :=
  (exec_collective sched slot peers s).trans (jobStep_of_mayRun may fun s j => runCollective s sched slot j peers)

include coll ctx read write

theorem collective_accepts_spec (gid : Nat) (g : Group) (q : Nat) (phase : j.phase = 0) (entries : j.card.getLsbD 43 = true)
    (group : jobGroup s j = some (gid, g)) (moves : ¬ (g.sup = true ∧ (g.tcause = 0x09 ∨ g.tcause = 0x11)))
    (inside : q < g.queues.length) (bound : (g.q q).port = 4) (first : ∀ k < q, (g.q k).port ≠ 4) :
    let total := r.len * r.rows
    let taken := (g.q q).fifo.take ((total - j.buf.length + 4 * g.width - 1) / (4 * g.width))
    ∃ bs t, exec (.collective sched slot peers) s = .next t ∧ bs.length = 4 * g.width * taken.length ∧
      (∀ k x lane, taken[k]? = some x → lane < g.width → (bs.drop (4 * (g.width * k + lane))).take 4 = natLe 4 (SMap.get 0 x lane).toNat) ∧
      SMap.find? t.groups gid = some (g.setQ q { g.q q with fifo := (g.q q).fifo.drop taken.length }) ∧ (∀ m, m ≠ gid → SMap.find? t.groups m = SMap.find? s.groups m) ∧
      t.job sched slot = if total ≤ (j.buf ++ bs).length then { runs j with buf := (j.buf ++ bs).take total, phase := 1 } else { runs j with buf := j.buf ++ bs } := by
  intro total taken
  have still : g.portsStill = false := Bool.eq_false_iff.mpr (mt (portsStill_iff g).mp moves)
  have asks := may.asks
  have coll₀ : SMap.find? s₀.colls (cardTops j.card 0 8) = some c := by rw [asks]; exact coll
  have group₀ : jobGroup s₀ j.run = some (gid, g) := by rw [asks]; exact group
  have groups₀ : s₀.groups = s.groups := by rw [asks]; rfl
  have accepts := acceptOut_of_port (j := j.run) (total := total) group₀ still (portReg_eq_some inside bound first) rfl
  refine ⟨taken.flatMap (entryBytes g.width), _, (exec_collective_of_mayRun s s₀ sched slot j peers may).trans
    (congrArg _ (runCollective_of_accepts coll₀ ctx read write phase entries accepts)), length_flatMap_of_size (length_entryBytes g.width) taken,
    fun k x lane listed inside => lane_entriesBytes listed inside, ?_, fun m other => ?_, ?_⟩
  · exact SMap.find?_put_same _ _ _
  · rw [← groups₀]
    exact SMap.find?_put_other _ _ other
  · rw [job_setJob, if_pos ⟨rfl, rfl⟩]
    rfl

theorem collective_combines_spec (phase : j.phase = 1) (rank : c.rank < c.members.length) (come : AllCome c peers) :
    let op := (j.card.extractLsb' 40 3).toNat
    let n := r.len * r.rows / collSize op
    SizesAgree c j peers n → j.buf.length = collSize op * n →
    ∃ bs : List Byte, bs.length = collSize op * n ∧ (op = 0 → bs = memberData c j peers 0) ∧
      (1 ≤ op → op ≤ 4 → ∀ k < n, collElem op bs k = (List.range (c.members.length - 1)).foldl
        (fun a m => combine op a (collElem op (memberData c j peers (m + 1)) k)) (collElem op (memberData c j peers 0) k)) ∧
      (j.card.getLsbD 44 = false → exec (.collective sched slot peers) s = .next (s₀.setJob sched slot { runs j with phase := 2, unit := 0, buf := bs })) ∧
      (j.card.getLsbD 44 = true → ∃ out, Entries out (jobWidth s j) bs ∧ exec (.collective sched slot peers) s = .next (s₀.setJob sched slot { ended j 0 with out := out })) := by
  intro op n sizes whole
  have asks := may.asks
  have coll₀ : SMap.find? s₀.colls (cardTops j.card 0 8) = some c := by rw [asks]; exact coll
  have width : jobWidth s₀ j = jobWidth s j := by rw [asks, jobWidth_askAgain]
  have size : (memberData c j peers 0).length = collSize op * n := (length_memberData come sizes (by omega)).trans whole
  obtain ⟨m, members⟩ : ∃ m, c.members.length = m + 1 := ⟨c.members.length - 1, by omega⟩
  have run := (exec_collective_of_mayRun s s₀ sched slot j peers may).trans (congrArg _ (runCollective_of_members coll₀ ctx read write phase come sizes))
  rw [width] at run
  refine ⟨collOfMembers op c j peers, ?_, fun gathers => ?_, fun least most k inside => ?_, fun memory => ?_, fun queued => ?_⟩
  · rw [collOfMembers, members, length_collResult size]
  · rw [collOfMembers, members, List.range_succ_eq_map, List.map_cons, collResult, if_pos gathers]
  · rw [collOfMembers, members, collElem_collResult least most size inside, Nat.add_sub_cancel]
  · rw [run, if_neg (Bool.eq_false_iff.mp memory)]
    rfl
  · refine ⟨_, entries_entriesOf (jobWidth s j) _, ?_⟩
    rw [run, if_pos queued]
    rfl

theorem collective_reads_spec (bs : List Byte) (s' : State) (phase : j.phase = 0) (memory : j.card.getLsbD 43 = false)
    (reads : JobReads sched slot j r.place s₀ (r.pieces.drop j.unit) bs s') :
    exec (.collective sched slot peers) s = .next (s'.setJob sched slot { runs j with phase := 1, unit := 0, buf := j.buf ++ bs }) := by
  have coll₀ : SMap.find? s₀.colls (cardTops j.card 0 8) = some c := by rw [may.asks]; exact coll
  rw [exec_collective_of_mayRun s s₀ sched slot j peers may, runCollective_of_reads coll₀ ctx read write phase memory, readPhase_of_reads reads]

theorem collective_waits_spec (phase : j.phase = 1) (missing : ∃ k < c.members.length, k ≠ c.rank ∧ ∀ p ∈ peers, p.rank ≠ k) :
    exec (.collective sched slot peers) s = .next (s₀.setJob sched slot (runs j)) := by
  have coll₀ : SMap.find? s₀.colls (cardTops j.card 0 8) = some c := by rw [may.asks]; exact coll
  rw [exec_collective_of_mayRun s s₀ sched slot j peers may, runCollective_of_missing coll₀ ctx read write phase missing]
  rfl

theorem collective_writes_spec (s' : State) (phase : j.phase = 2) (unit : j.unit = 0) (counted : j.counted = 0)
    (writes : JobWrites (jobActor s₀ sched slot j) j w s₀ w.pieces j.buf s') :
    ∃ m, exec (.collective sched slot peers) s = .next (s'.setJob sched slot { runs j with phase := 3, unit := 0, counted := m }) := by
  have coll₀ : SMap.find? s₀.colls (cardTops j.card 0 8) = some c := by rw [may.asks]; exact coll
  obtain ⟨m, written⟩ := writePhase_of_writes (sched := sched) (slot := slot) writes unit counted 3
  exact ⟨m, by rw [exec_collective_of_mayRun s s₀ sched slot j peers may, runCollective_of_writes coll₀ ctx read write phase, written]⟩

end

theorem gathersScattersAndCollectives : GathersScattersAndCollectives := by
  refine ⟨fun s s₀ sched slot j r0 r1 w s' i ty scatter => moves_spec s s₀ sched slot j r0 r1 w s' i ty scatter, takes_spec,
    fun s s₀ sched slot j peers c r w may coll ctx read write => ⟨?_, ?_, ?_, ?_, ?_⟩⟩
  · exact collective_reads_spec s s₀ sched slot j peers c r w may coll ctx read write
  · exact fun gid g q phase entries group _ => collective_accepts_spec s s₀ sched slot j peers c r w may coll ctx read write gid g q phase entries group
  · exact collective_waits_spec s s₀ sched slot j peers c r w may coll ctx read write
  · exact collective_combines_spec s s₀ sched slot j peers c r w may coll ctx read write
  · exact collective_writes_spec s s₀ sched slot j peers c r w may coll ctx read write

/-- Settles O56: each row is the run of its job (jobStep_of_mayRun), and a run comes to its reading phase, its writing phase or the fold over its elements, whose steps are the laws above; the result of a COLLECTIVE is that fold over the members, and keeps each element within its width. -/
theorem dataMovementJobs : Obligations.DataMovementJobs := ⟨copiesAndFills, jobsOutsideTheirPart, gathersScattersAndCollectives⟩

end Sys2Proof.Claims
end

section
/-! PROOFS (00_scope). Accesses and the bytes of memory (O35): what a lane reaches through its TLB, and what a write leaves beside its granules, does not depend on what memory holds. -/

namespace Sys2Proof.Machine

/-- The state with other bytes in memory. -/
def State.withMem (s : State) (mm : Memory) : State := { s with mem := mm }

section
variable (s : State) (mm : Memory)

@[simp] theorem withMem_mem : (s.withMem mm).mem = mm := rfl
@[simp] theorem withMem_dir : (s.withMem mm).dir = s.dir := rfl
@[simp] theorem withMem_upsets : (s.withMem mm).upsets = s.upsets := rfl
@[simp] theorem withMem_decodeGranule (a : Nat) : (s.withMem mm).decodeGranule a = s.decodeGranule a := rfl

theorem withMem_shadowOver (core a n : Nat) : shadowOver (s.withMem mm) core a n = shadowOver s core a n := rfl

/-! ## A translation that hits (R31) -/

theorem tlbInstall_withMem (core? cl? : Option Nat) (ctx va level : Nat) (leaf : DWord) :
    tlbInstall (s.withMem mm) core? cl? ctx va level leaf = (tlbInstall s core? cl? ctx va level leaf).withMem mm := by
  cases core? <;> cases cl? <;> rfl

theorem leafAddr_withMem (ctx : Nat) (c : Ctx) (va level : Nat) {e : DWord} (own : e.getLsbD 9 = false) :
    leafAddr (s.withMem mm) ctx c va level e = leafAddr s ctx c va level e := by
  simp only [leafAddr, own, Bool.false_eq_true, if_false]

/-- R24, R31: the TLBs of a core hold a leaf for an address of a context; it permits the access, and is no replica's. -/
def TlbServes (s : State) (core? cl? : Option Nat) (ctx : Nat) (c : Ctx) (va : Nat) (acc : Acc) (sup : Bool) (e : TlbEntry) : Prop :=
  tlbLookup s core? cl? ctx va (c.kind == 0) = some e ∧ leafCheck c e.leaf e.level acc sup = none ∧ e.leaf.getLsbD 9 = false

theorem translate_withMem {s : State} (mm : Memory) {core? cl? : Option Nat} {ctx va : Nat} {c : Ctx} {acc : Acc} {sup : Bool} {e : TlbEntry}
    (serves : TlbServes s core? cl? ctx c va acc sup e) :
    translate (s.withMem mm) core? cl? ctx c va acc sup =
      Prod.map id (State.withMem · mm) (translate s core? cl? ctx c va acc sup) := by
  obtain ⟨cached, permits, own⟩ := serves
  have cached' : tlbLookup (s.withMem mm) core? cl? ctx va (c.kind == 0) = some e := cached
  simp only [translate, cached, cached', permits, leafAddr_withMem s mm ctx c va e.level own, tlbInstall_withMem, Prod.map, id]

/-! ## What an access changes on its way to its home (R7, R52, R69) -/

theorem recordHolder_withMem (f holder : Nat) : recordHolder (s.withMem mm) f holder = (recordHolder s f holder).withMem mm := by
  unfold recordHolder
  rw [apply_ite (State.withMem · mm)]
  rfl

theorem remapFill_withMem (cl f : Nat) : remapFill (s.withMem mm) cl f = (remapFill s cl f).withMem mm := by
  unfold remapFill
  rw [apply_ite (State.withMem · mm), apply_ite (State.withMem · mm)]
  simp only [← recordHolder_withMem]
  rfl

theorem reach_withMem (ctx : Nat) (cl : Option Nat) (addr : Nat) : reach (s.withMem mm) ctx cl addr = (reach s ctx cl addr).withMem mm := by
  unfold reach
  rw [apply_ite (State.withMem · mm)]
  cases cl with
  | none => rfl
  | some cl =>
    simp only [← remapFill_withMem]
    rfl

theorem sense_withMem (addr n : Nat) (whole : List (Nat × Nat)) : sense (s.withMem mm) addr n whole = (sense s addr n whole).withMem mm := by
  unfold sense
  rw [apply_ite (State.withMem · mm)]
  refine if_congr Iff.rfl rfl (List.foldl_hom (State.withMem · mm) fun t a => ?_)
  have decode : (t.withMem mm).decodeGranule a = t.decodeGranule a := rfl
  dsimp only
  rw [decode]
  split <;> rfl

theorem openRow_withMem (addr n : Nat) : openRow (s.withMem mm) addr n = (openRow s addr n).withMem mm := by
  unfold openRow
  rw [apply_ite (State.withMem · mm)]
  rfl

theorem startThaw_withMem (addr : Nat) (host : Bool) : startThaw (s.withMem mm) addr host = (startThaw s addr host).withMem mm := by
  unfold startThaw startThawFor
  rw [apply_ite (State.withMem · mm)]
  rfl

theorem homeAsk_withMem (src : Source) (cls : Nat) (a : GAddr) (n pc : Nat) :
    homeAsk (s.withMem mm) src cls a n pc = Prod.map id (State.withMem · mm) (homeAsk s src cls a n pc) := by
  have queued : (s.withMem mm).homeQ = s.homeQ := rfl
  simp only [homeAsk, queued]
  split
  · rfl
  · split
    · rfl
    · rw [apply_ite (Prod.map id (State.withMem · mm))]
      rfl

theorem laneKeep_withMem (gid : Nat) (g : Group) (a : GAddr) (n : Nat) : laneKeep (s.withMem mm) gid g a n = (laneKeep s gid g a n).withMem mm := by
  have queued : (s.withMem mm).homeQ = s.homeQ := rfl
  simp only [laneKeep, homeKeep, queued]
  split <;> rfl

/-! ## A lane's access (R33, R69) -/

theorem laneFree_withMem (gid : Nat) (g : Group) {a : GAddr} (n : Nat) (acc : Acc) (here : a.rep = none) :
    laneFree (s.withMem mm) gid g a n acc = laneFree s gid g a n acc := by
  have outside (t : State) : atSwitch t g.ctx a acc = false := by simp [atSwitch, here]
  simp only [laneFree, outside]
  rfl

theorem laneHome_withMem (gid : Nat) (g : Group) {a : GAddr} (n : Nat) (acc : Acc) (whole : List (Nat × Nat)) (here : a.rep = none) :
    laneHome (s.withMem mm) gid g a n acc whole = Prod.map id (State.withMem · mm) (laneHome s gid g a n acc whole) := by
  have cached : l1Has (s.withMem mm) = l1Has s := rfl
  have verdict (t : State) : laneVerdict (t.withMem mm) = laneVerdict t := rfl
  have sensed : (if (acc == .load && l1Has s (coreOfGid gid) g a n) = true then s.withMem mm else sense (s.withMem mm) a.addr n whole) =
      (if (acc == .load && l1Has s (coreOfGid gid) g a n) = true then s else sense s a.addr n whole).withMem mm := by
    rw [apply_ite (State.withMem · mm), sense_withMem]
  simp only [laneHome, cached, sensed]
  generalize (if (acc == .load && l1Has s (coreOfGid gid) g a n) = true then s else sense s a.addr n whole) = t
  rw [verdict, laneFree_withMem t mm gid g n acc here, homeAsk_withMem, startThaw_withMem, laneKeep_withMem]
  split
  · rw [apply_ite (Prod.map id (State.withMem · mm))]
    refine if_congr Iff.rfl rfl ?_
    generalize homeAsk t _ _ _ _ _ = asked
    rcases asked with ⟨_ | _, t'⟩
    · rfl
    · simp only [Prod.map, id, openRow_withMem]
  · rfl
  · rfl

/-- R24, R31: the TLBs of a group's core serve an access to an address of the global space. -/
def LaneServed (s : State) (gid : Nat) (g : Group) (ctx : Ctx) (va : Nat) (acc : Acc) : Prop :=
  va < winRegion ∧ ∃ e, TlbServes s (some (coreOfGid gid)) (clusterOfCore (coreOfGid gid)) g.ctx ctx va acc g.sup e

theorem resolve_virt (core : Nat) (c : Ctx) (g : Group) (lane n : Nat) (glob : Bool) {va : Nat} (below : va < winRegion) :
    resolve s core c g lane va n glob = .virt va false := by
  have small : ¬ 2 ^ 56 ≤ va := by unfold winRegion at below; omega
  simp only [resolve, small, below, if_false, if_true]

theorem translate_of_serves {s : State} {core? cl? : Option Nat} {ctx va : Nat} {c : Ctx} {acc : Acc} {sup : Bool} {e : TlbEntry}
    (serves : TlbServes s core? cl? ctx c va acc sup e) :
    translate s core? cl? ctx c va acc sup = (.ok (leafAddr s ctx c va e.level e.leaf) e.level 0, tlbInstall s core? cl? ctx va e.level e.leaf) := by
  obtain ⟨cached, permits, -⟩ := serves
  simp only [translate, cached, permits]

theorem laneTarget_withMem {s : State} (mm : Memory) {gid : Nat} {g : Group} {ctx : Ctx} {va : Nat} {acc : Acc} (lane n : Nat) (glob : Bool) (writes : List (Nat × Nat))
    (served : LaneServed s gid g ctx va acc) :
    laneTarget (s.withMem mm) gid g ctx lane va n acc glob writes = Prod.map id (State.withMem · mm) (laneTarget s gid g ctx lane va n acc glob writes) := by
  obtain ⟨below, e, serves⟩ := served
  obtain ⟨-, -, own⟩ := id serves
  have here : (leafAddr s g.ctx ctx va e.level e.leaf).rep = none := by simp only [leafAddr, own, Bool.false_eq_true, if_false]
  have unit (t : State) : (t.withMem mm).unitAt = t.unitAt := rfl
  simp only [laneTarget, resolve_virt _ _ _ _ _ _ _ below, translate_withMem mm serves, translate_of_serves serves, Prod.map_apply, id_eq, reach_withMem,
    repFault_local _ _ here, laneHome_withMem _ _ _ _ _ _ _ here, unit]
  generalize laneHome _ _ _ _ _ _ _ = v
  rcases v with ⟨_ | _ | _, t⟩ <;> rfl

/-- R33: one lane's access that the TLBs serve comes to the same, whatever memory holds. -/
theorem lanesGo_withMem {s : State} (mm : Memory) {gid : Nat} {g : Group} {ctx : Ctx} {va : Nat} {acc : Acc} (lane n : Nat) (glob : Bool)
    (lives : s.ctxOf? g.ctx = some ctx) (served : LaneServed s gid g ctx va acc) :
    lanesGo (s.withMem mm) gid g n acc glob [(lane, va)] =
      { lanesGo s gid g n acc glob [(lane, va)] with s := (lanesGo s gid g n acc glob [(lane, va)]).s.withMem mm } := by
  have lives' : (s.withMem mm).ctxOf? g.ctx = some ctx := lives
  have one (t : State) (h : t.ctxOf? g.ctx = some ctx) : lanesGo t gid g n acc glob [(lane, va)] =
      ((Lanes.start t false).add lane (laneTarget t gid g ctx lane va n acc glob (lanesWith n [(lane, va)] va))).keep gid g n acc := by
    simp only [lanesGo, h]
    rfl
  rw [one s lives, one _ lives', laneTarget_withMem mm lane n glob _ served]
  rcases laneTarget s gid g ctx lane va n acc glob (lanesWith n [(lane, va)] va) with ⟨_ | _ | _ | _, t⟩ <;> rfl

end

end Sys2Proof.Machine
end

section
/-! PROOFS (00_scope). Writes and the bytes of memory (O35): what a write at its home changes beside memory does not depend on what memory holds. -/

namespace Sys2Proof.Machine

/-- The states differ in nothing but what memory holds. -/
def BesideMem (s t : State) : Prop := t = s.withMem t.mem

theorem besideMem_withMem (s : State) (mm : Memory) : BesideMem s (s.withMem mm) := rfl

/-- What commutes with a change of memory alone keeps states that differ in nothing else. -/
theorem BesideMem.map {s t : State} (h : BesideMem s t) (f : State → State) (commutes : ∀ s mm, f (s.withMem mm) = (f s).withMem mm) : BesideMem (f s) (f t) := by
  unfold BesideMem at h
  have moved : f t = (f s).withMem t.mem := (congrArg f h).trans (commutes s t.mem)
  rw [moved]
  rfl

section
variable (s : State) (mm : Memory)

theorem clearPoison_withMem (addr n : Nat) (whole : List (Nat × Nat)) : clearPoison (s.withMem mm) addr n whole = (clearPoison s addr n whole).withMem mm := by
  unfold clearPoison
  rw [apply_ite (State.withMem · mm)]
  refine if_congr Iff.rfl rfl (List.foldl_hom (State.withMem · mm) fun t a => ?_)
  rw [apply_ite (State.withMem · mm)]
  rfl

theorem mirrorCxl_withMem (gid addr n : Nat) : mirrorCxl (s.withMem mm) gid addr n = (mirrorCxl s gid addr n).withMem mm := by
  unfold mirrorCxl
  rw [apply_ite (State.withMem · mm)]
  rfl

theorem cxlWrite_withMem (gid addr n : Nat) : cxlWrite (s.withMem mm) gid addr n = (cxlWrite s gid addr n).withMem mm := by
  have port : frameCxl (s.withMem mm) addr = frameCxl s addr := rfl
  unfold cxlWrite
  rw [port]
  split
  · exact List.foldl_hom (State.withMem · mm) fun _ _ => rfl
  · rfl

end

section
variable {s t : State} (beside : BesideMem s t)
include beside

theorem besideMem_foldl_encode (g : Nat) (l : List Nat) :
    BesideMem (l.foldl (fun s a => freshen { s with mem := writeBytes s.mem a (s.bytes a g) } a g) s)
      (l.foldl (fun s a => freshen { s with mem := writeBytes s.mem a (s.bytes a g) } a g) t) := by
  induction l generalizing s t with
  | nil => exact beside
  | cons a l ih =>
    refine ih ?_
    unfold BesideMem at beside
    rw [beside]
    rfl

theorem besideMem_reencode (addr n : Nat) : BesideMem (reencode s addr n) (reencode t addr n) := by
  have upsets : t.upsets = s.upsets := (congrArg State.upsets beside).trans rfl
  have fmt : t.fmtAt addr = s.fmtAt addr := (congrArg (State.fmtAt · addr) beside).trans rfl
  unfold reencode
  rw [upsets, fmt]
  split
  · exact beside
  · exact besideMem_foldl_encode beside _ _

theorem besideMem_storeWhole (gid addr : Nat) (bs : List Byte) (whole : List (Nat × Nat)) : BesideMem (storeWhole s gid addr bs whole) (storeWhole t gid addr bs whole) := by
  have encoded := besideMem_reencode beside addr bs.length
  have written : BesideMem { reencode s addr bs.length with mem := writeBytes (reencode s addr bs.length).mem addr bs }
      { reencode t addr bs.length with mem := writeBytes (reencode t addr bs.length).mem addr bs } := by
    unfold BesideMem at encoded
    rw [encoded]
    rfl
  have cleared := written.map (clearPoison · addr bs.length whole) fun u mm => clearPoison_withMem u mm addr bs.length whole
  have cancelled := cleared.map (cancelFrosting · addr) fun _ _ => rfl
  have opened := cancelled.map (openRow · addr bs.length) fun u mm => openRow_withMem u mm addr bs.length
  have mirrored := opened.map (mirrorCxl · gid addr bs.length) fun u mm => mirrorCxl_withMem u mm gid addr bs.length
  exact mirrored.map (cxlWrite · gid addr bs.length) fun u mm => cxlWrite_withMem u mm gid addr bs.length

theorem besideMem_performWrite (gid : Nat) {a : GAddr} (glob : a.place = .glob) (bs : List Byte) : BesideMem (performWrite s gid a bs) (performWrite t gid a bs) := by
  have reached := beside.map (reach · a.ctx none a.addr) fun u mm => reach_withMem u mm a.ctx none a.addr
  simp only [performWrite, performWhole, glob]
  exact besideMem_storeWhole reached gid a.addr bs _

theorem besideMem_dropLine (core : Nat) (a : GAddr) : BesideMem (dropLine s core a) (dropLine t core a) := by
  refine beside.map (dropLine · core a) fun u mm => ?_
  unfold dropLine
  rw [apply_ite (State.withMem · mm)]
  rfl

end

theorem dropLine_mem (s : State) (core : Nat) (a : GAddr) : (dropLine s core a).mem = s.mem := by
  unfold dropLine
  split <;> rfl

end Sys2Proof.Machine
end

section
/-! PROOFS (00_scope). Posts (O35): a mailbox whose TAIL shares its check symbols with a unit of another module. -/

namespace Sys2Proof.Claims

open Machine

/-! ## The counterexample -/

def mailClause : Clause :=
  { pc := 0x2000, hdr := 0xE1000000, words := [0xBEC00000, 0, 0], idx := 0, ipc := 0x2004, slot := 0, lats := [], replay := none }
/-- One live lane; scalars 10 and 11 hold the mailbox's address. -/
def mailGroup : Group :=
  { Group.init 1 16 64 0x2000 with lmask := 1, fmask := 1, s0 := { Slot.empty with mask := 1, pc := 0x2000 }, clause := some mailClause }.setS 10 0x10040
def mailOps : Ops := ⟨false, false, 0, false, 0, 4, 0x0703000A⟩
def mailCtx : Ctx := { Ctx.kernel with ckey := 1, world := 1, kind := 2, privBase := 0x1000000, spillBase := 0x2000000 }
/-- The page at 0x10000 lies in frame 2. -/
def mailTlb : TlbEntry := { ctx := 1, level := 0, page := 0x10000, leaf := 0x1008001F }

/-- Four differences in the DRAM. Byte 0 of the remote unit at 2^46 + 0x4000 (where check symbol 0 of the granule at 0x20000 stands) and its first two check symbols lie on a codeword of the code of a granule of 32 bytes; its byte 8 (where check symbol 0 of the granule of TAIL stands) does not. -/
def mailUpsets (twice : Bool) : SMap Byte :=
  if twice then [(2 ^ 46 + 0x4000, 2), (2 ^ 46 + 0x4008, 1), (2 ^ 46 + 2 ^ 43 + 0x800, 21), (2 ^ 46 + 2 ^ 43 + 0x801, 26)]
  else [(2 ^ 46 + 0x4000, 1), (2 ^ 46 + 0x4008, 1), (2 ^ 46 + 2 ^ 43 + 0x800, 132), (2 ^ 46 + 2 ^ 43 + 0x801, 13)]

/-- What is left of them once the granule of TAIL has been encoded anew. -/
def mailLeft (twice : Bool) : SMap Byte := (mailUpsets twice).eraseIdx 1

/-- A mailbox of one slot at 0x10040, whose TAIL and HEAD are 0 and whose slot word is 1. -/
def mailState (twice : Bool) : State :=
  { State.reset with
    hosts := [], groups := [(0, mailGroup)], ctxs := [(1, mailCtx)], cur := some 0, clock := 1, mem := [(0x200BC, 1)], upsets := mailUpsets twice
    dir := [(2, { DirEntry.free with state := 1, ktag := 1, skind := 2 })]
    cores := [(0, { CoreSt.init with tlb := [mailTlb] })], clusters := [(0, { Cluster.init with tlb := [mailTlb] })] }

def mailAddr : GAddr := { place := .glob, addr := 0x20040, key := 1, gc := 0, cp := 0, rep := none, va := 0x10040, ctx := 1 }
def mailSlotAddr : GAddr := { mailAddr with addr := 0x20080, va := 0x10080 }

def mailHead (twice : Bool) : Lanes := lanesGo (mailState twice) 0 mailGroup 64 .acquire true [(0, 0x10040)]
def mailTail (twice : Bool) : Lanes := lanesGo (mailHead twice).s 0 mailGroup 4 .atomic true [(0, 0x10040)]
def mailCounted (twice : Bool) : State := dropLine (performWrite (mailTail twice).s 0 mailAddr (natLe 4 1)) 0 mailAddr
def mailSlot (twice : Bool) : Lanes := lanesGo (mailCounted twice) 0 mailGroup 64 .acquire true [(0, 0x10080)]

/-! ## Its accesses (R33, R343) -/

/-- A lane's access has gone through. -/
def Went (l : Lanes) (a : GAddr) : Prop := l.ok = [(0, a)] ∧ l.bad = [] ∧ l.stall = false ∧ l.walks = false

/-- The core's TLB serves reads and atomics of an address, for a user context with the key of the page. -/
def Serves (s : State) (va : Nat) : Prop :=
  (s.ctxOf? 1).map (fun c => (c.kind, c.ckey)) = some (2, 1) ∧ tlbLookup s (some 0) (clusterOfCore 0) 1 va false = some mailTlb

theorem served_of_serves {s : State} {va : Nat} {acc : Acc} (serves : Serves s va) (below : va < winRegion) (reads : acc = .acquire ∨ acc = .atomic) :
    ∃ ctx, s.ctxOf? 1 = some ctx ∧ LaneServed s 0 mailGroup ctx va acc := by
  obtain ⟨known, cached⟩ := serves
  obtain ⟨ctx, lives, fields⟩ := Option.map_eq_some_iff.mp known
  obtain ⟨kind, ckey⟩ := Prod.mk.inj fields
  refine ⟨ctx, lives, below, mailTlb, ?_, ?_, by decide⟩
  · rw [kind]
    exact cached
  · rcases reads with rfl | rfl <;> simp only [leafCheck, ckey] <;> decide

theorem serves_mailState (twice : Bool) : Serves (mailState twice) 0x10040 := ⟨rfl, rfl⟩

theorem mailHead_went (twice : Bool) : Went (mailHead twice) mailAddr ∧ Settled (mailHead twice).s 0 mailGroup 64 mailAddr ∧ Serves (mailHead twice).s 0x10040 := by
  unfold Went Settled Serves
  revert twice
  decide +kernel

theorem mailTail_went (twice : Bool) : Went (mailTail twice) mailAddr ∧ Settled (mailTail twice).s 0 mailGroup 4 mailAddr ∧
    shadowOver (mailTail twice).s (coreOfGid 0) mailAddr.addr 4 = false ∧ (mailTail twice).s.dir = (mailState false).dir ∧
    Serves (mailCounted twice) 0x10080 ∧ (mailCounted twice).dir = (mailState false).dir ∧ (mailCounted twice).upsets = mailLeft twice := by
  unfold Went Settled Serves
  revert twice
  decide +kernel

theorem mailSlot_went (twice : Bool) : Went (mailSlot twice) mailSlotAddr ∧ Settled (mailSlot twice).s 0 mailGroup 64 mailSlotAddr ∧
    (mailSlot twice).s.dir = (mailState false).dir ∧ (mailSlot twice).s.upsets = mailLeft twice := by
  unfold Went Settled
  revert twice
  decide +kernel

theorem access_withMem {s : State} {n va : Nat} {acc : Acc} {a : GAddr} (mm : Memory) (serves : Serves s va) (below : va < winRegion) (reads : acc = .acquire ∨ acc = .atomic)
    (went : Went (lanesGo s 0 mailGroup n acc true [(0, va)]) a) (aligned : va % n = 0) (ends : a.addr % n = 0) :
    Access (s.withMem mm) 0 mailGroup n acc true [(0, va)] [(0, a)] ((lanesGo s 0 mailGroup n acc true [(0, va)]).s.withMem mm) := by
  obtain ⟨ctx, lives, served⟩ := served_of_serves serves below reads
  obtain ⟨ok, bad, stall, walks⟩ := went
  refine ⟨by simpa using aligned, ?_, by simpa using ends⟩
  rw [lanesGo_withMem mm 0 n true lives served]
  simp only [ok, bad, stall, walks]

theorem settled_withMem {s : State} {n : Nat} {a : GAddr} (mm : Memory) (settled : Settled s 0 mailGroup n a) : Settled (s.withMem mm) 0 mailGroup n a := settled

end Sys2Proof.Claims
end

section
/-! PROOFS (00_scope). Posts (O35): what reads of the mailbox and of the remote unit deliver before and after a post counts its ticket, and the obligation. -/

namespace Sys2Proof.Claims

open Machine

/-! ## What memory holds -/

theorem readBytes_eq_map (mm : Memory) (a n : Nat) : readBytes mm a n = (List.range n).map (fun i => readByte mm (a + i)) := by
  induction n generalizing a with
  | zero => rfl
  | succ n ih =>
    rw [readBytes, ih, List.range_succ_eq_map, List.map_cons, List.map_map]
    refine congrArg _ (List.map_congr_left fun i _ => ?_)
    rw [Function.comp, Nat.add_right_comm, Nat.add_assoc]

/-- The slot word, and `m` in the remote unit. -/
def mailMem (m : Fin 32 → Byte) : Memory := writeBytes [(0x200BC, 1)] (2 ^ 46 + 0x4000) (List.ofFn m)

theorem readByte_mailMem_below (m : Fin 32 → Byte) {a : Nat} (below : a < 2 ^ 46) : readByte (mailMem m) a = if a = 0x200BC then 1 else 0 := by
  rw [mailMem, readByte_writeBytes_outside _ _ _ _ (.inl (by omega)), readByte, SMap.get]
  by_cases slot : a = 0x200BC
  · subst slot
    rfl
  · rw [if_neg slot, SMap.find?, if_neg (Ne.symm slot)]
    rfl

theorem readBytes_mailMem (m : Fin 32 → Byte) : readBytes (mailMem m) (2 ^ 46 + 0x4000) 32 = List.ofFn m := by
  have := readBytes_writeBytes_same (List.ofFn m) [(0x200BC, 1)] (2 ^ 46 + 0x4000)
  rwa [List.length_ofFn] at this

/-- What memory holds once the ticket has been counted. -/
def mailMemAfter (twice : Bool) (m : Fin 32 → Byte) : Memory := (performWrite ((mailTail twice).s.withMem (mailMem m)) 0 mailAddr (natLe 4 1)).mem

theorem mailCounted_withMem (twice : Bool) (m : Fin 32 → Byte) :
    dropLine (performWrite ((mailTail twice).s.withMem (mailMem m)) 0 mailAddr (natLe 4 1)) 0 mailAddr = (mailCounted twice).withMem (mailMemAfter twice m) := by
  have beside := besideMem_dropLine (besideMem_performWrite (besideMem_withMem (mailTail twice).s (mailMem m)) 0 (a := mailAddr) rfl (natLe 4 1)) 0 mailAddr
  unfold BesideMem at beside
  rw [dropLine_mem] at beside
  exact beside

theorem fmtAt_congr {s t : State} (dir : t.dir = s.dir) (a : Nat) : t.fmtAt a = s.fmtAt a := by
  rw [State.fmtAt, State.fmtAt, State.dirOf, State.dirOf, dir]

/-- R52: the post encodes the granule of TAIL anew, and no other. -/
theorem readByte_mailMemAfter (twice : Bool) (m : Fin 32 → Byte) {a : Nat} (beyond : 0x20060 ≤ a) : readByte (mailMemAfter twice m) a = readByte (mailMem m) a := by
  obtain ⟨-, -, -, dir, -⟩ := mailTail_went twice
  have fmt : (reach ((mailTail twice).s.withMem (mailMem m)) 1 none 0x20040).fmtAt 0x20040 = 0 := by
    rw [fmtAt_congr (s := mailState false) (by rw [reach_dir, withMem_dir, dir])]
    decide +kernel
  have outside : ∀ b ∈ granulesOf (granuleBytes ((reach ((mailTail twice).s.withMem (mailMem m)) 1 none 0x20040).fmtAt 0x20040)) 0x20040 4,
      a < b ∨ b + granuleBytes ((reach ((mailTail twice).s.withMem (mailMem m)) 1 none 0x20040).fmtAt 0x20040) ≤ a := by
    rw [fmt, show granulesOf (granuleBytes 0) 0x20040 4 = [0x20040] by decide, List.forall_mem_singleton]
    exact .inr beyond
  have kept := readByte_reencode_of_outside _ outside
  rw [reach_mem] at kept
  rw [mailMemAfter, performWrite, performWhole_mem _ _ rfl, readByte_writeBytes_outside _ _ _ _ (.inr ?_)]
  · exact kept
  · exact (show 0x20040 + 4 ≤ a by omega)

/-! ## What reads deliver (R52, R56) -/

theorem mailState_decodes (twice : Bool) : (mailState twice).decodeGranule 0x20040 = some (List.replicate 32 0, 1) ∧
    (mailState twice).decodeGranule 0x20060 = some (List.replicate 32 0, 0) ∧ (mailState twice).decodeGranule (2 ^ 46 + 0x4000) = none := by
  revert twice
  decide +kernel

/-- The mailbox with what is left of the differences. -/
def mailLeftState (twice : Bool) : State := { mailState false with upsets := mailLeft twice }

/-- R55: what is left lacks two symbols of a codeword at the remote unit, and a decode takes it for that. -/
theorem mailLeft_decodes (twice : Bool) : (mailLeftState twice).decodeGranule 0x200A0 = some (List.replicate 32 0, 0) ∧
    ((mailLeftState twice).decodeGranule (2 ^ 46 + 0x4000)).map (fun x => x.1.take 32) = some (spell (tornUnit twice)) := by
  revert twice
  decide +kernel

theorem mailLeft_nonempty (twice : Bool) : (mailLeft twice).isEmpty = false := by cases twice <;> rfl

/-- R53: every frame but frame 2 is free, and both have granules of 32 bytes. -/
theorem mail_granuleBytes {s : State} (dir : s.dir = (mailState false).dir) (a : Nat) : granuleBytes (s.fmtAt a) = 32 := by
  rw [fmtAt_congr dir, State.fmtAt, State.dirOf, mailState, SMap.get, SMap.find?]
  split <;> rfl

theorem mail_ktag {s : State} (dir : s.dir = (mailState false).dir) {f : Nat} (other : f ≠ 2) : (s.dirOf f).ktag = 0 := by
  rw [State.dirOf, dir, mailState, SMap.get, SMap.find?, if_neg (Ne.symm other)]
  rfl

/-- The header, and what follows it in its line, read as memory holds them. -/
theorem mailHeader_bytes (twice : Bool) (m : Fin 32 → Byte) {k n : Nat} (inside : k + n ≤ 64) :
    ((mailState twice).withMem (mailMem m)).bytes (0x20040 + k) n = List.replicate n 0 := by
  obtain ⟨first, second, -⟩ := mailState_decodes twice
  have sensed (i : Nat) (hi : i < 64) : ((mailState twice).withMem (mailMem m)).sensedByte (0x20040 + i) = 0 := by
    have fmt : granuleBytes (((mailState twice).withMem (mailMem m)).fmtAt (0x20040 + i)) = 32 := mail_granuleBytes rfl _
    have right : ∃ k, ((mailState twice).withMem (mailMem m)).decodeGranule ((0x20040 + i) / 32 * 32) = some (List.replicate 32 0, k) := by
      by_cases low : i < 32
      · rw [show (0x20040 + i) / 32 * 32 = 0x20040 by omega]
        exact ⟨1, first⟩
      · rw [show (0x20040 + i) / 32 * 32 = 0x20060 by omega]
        exact ⟨0, second⟩
    obtain ⟨k, right⟩ := right
    rw [sensedByte_of_right (k := k) (n := 32) (by rw [fmt, right]), withMem_mem, readByte_mailMem_below m (by omega), if_neg (by omega)]
  have upset : ((mailState twice).withMem (mailMem m)).upsets.isEmpty = false := by cases twice <;> rfl
  rw [State.bytes, if_neg (by rw [upset]; decide)]
  refine List.eq_replicate_iff.mpr ⟨by simp, fun b hb => ?_⟩
  obtain ⟨i, hi, rfl⟩ := List.mem_map.mp hb
  rw [Nat.add_assoc, sensed _ (by have := List.mem_range.mp hi; omega)]

theorem mailHeader_num (twice : Bool) (m : Fin 32 → Byte) {k n : Nat} (inside : k + n ≤ 64) : ((mailState twice).withMem (mailMem m)).num (0x20040 + k) n = 0 := by
  rw [State.num, mailHeader_bytes twice m inside]
  clear inside
  induction n with
  | zero => rfl
  | succ n ih => rw [List.replicate_succ, leNat, ih]; rfl

/-- The slot is not free for ticket 0. -/
theorem mailSlot_num (twice : Bool) (m : Fin 32 → Byte) : ((mailCounted twice).withMem (mailMemAfter twice m)).num 0x200BC 4 ≠ 0 := by
  obtain ⟨-, -, -, -, -, dir, upsets⟩ := mailTail_went twice
  have decode : (mailCounted twice).decodeGranule 0x200A0 = some (List.replicate 32 0, 0) := (decodeGranule_congr (s := mailLeftState twice) dir upsets _).trans (mailLeft_decodes twice).1
  have fmt : granuleBytes (((mailCounted twice).withMem (mailMemAfter twice m)).fmtAt 0x200BC) = 32 := mail_granuleBytes ((withMem_dir ..).trans dir) _
  have word : ((mailCounted twice).withMem (mailMemAfter twice m)).sensedByte 0x200BC = 1 := by
    rw [sensedByte_of_right (k := 0) (n := 32) (by rw [fmt, withMem_decodeGranule, ← decode]), withMem_mem, readByte_mailMemAfter twice m (by decide),
      readByte_mailMem_below m (by decide), if_pos rfl]
  rw [State.num, State.bytes, if_neg (by rw [withMem_upsets, upsets, mailLeft_nonempty]; decide), List.range_succ_eq_map, List.map_cons, leNat, Nat.add_zero, word]
  exact fun zero => absurd (Nat.eq_zero_of_add_eq_zero zero).1 (by decide)

theorem mailState_remote (twice : Bool) (m : Fin 32 → Byte) (i : Fin 32) : ((mailState twice).withMem (mailMem m)).bytes (2 ^ 46 + 0x4000 + i) 1 = [m i] := by
  obtain ⟨-, -, lost⟩ := mailState_decodes twice
  have upset : ((mailState twice).withMem (mailMem m)).upsets.isEmpty = false := by cases twice <;> rfl
  have fmt : granuleBytes (((mailState twice).withMem (mailMem m)).fmtAt (2 ^ 46 + 0x4000 + i)) = 32 := mail_granuleBytes rfl _
  have decode : ((mailState twice).withMem (mailMem m)).decodeGranule ((2 ^ 46 + 0x4000 + i) / 32 * 32) = none := by
    rw [show (2 ^ 46 + 0x4000 + i.val) / 32 * 32 = 2 ^ 46 + 0x4000 by omega]
    exact lost
  rw [bytes_one _ _ upset, State.sensedByte]
  simp only [fmt, decode, withMem_mem]
  exact congrArg (fun b => [b]) ((readByte_writeBytes_inside _ _ _ _ (by simp)).trans (List.getElem_ofFn ..))

theorem mailSlot_remote (twice : Bool) (m : Fin 32 → Byte) (i : Fin 32) : ((mailSlot twice).s.withMem (mailMemAfter twice m)).bytes (2 ^ 46 + 0x4000 + i) 1 =
    [readUnit 0 (2 ^ 41 + 0x200) (fun j => storedUnit 0 (2 ^ 41 + 0x200) m j ^^^ tornUnit twice j) i] := by
  obtain ⟨-, -, dir, upsets⟩ := mailSlot_went twice
  obtain ⟨⟨left, k⟩, decode, wrong⟩ := Option.map_eq_some_iff.mp (mailLeft_decodes twice).2
  rw [← decodeGranule_congr (s := mailLeftState twice) dir upsets] at decode
  have shows : tornUnit twice ≠ 0 := fun zero => by
    have first := congrFun zero 0
    cases twice <;> cases first
  have dir : ((mailSlot twice).s.withMem (mailMemAfter twice m)).dir = (mailState false).dir := (withMem_dir ..).trans dir
  have frame : (2 ^ 46 + 0x4000 + i.val) / 65536 = 2 ^ 30 := by omega
  have unit : (2 ^ 46 + 0x4000 + i.val) / 32 = 2 ^ 41 + 0x200 := by omega
  have fmt : granuleBytes (((mailSlot twice).s.withMem (mailMemAfter twice m)).fmtAt (2 ^ 46 + 0x4000 + i)) = 32 := mail_granuleBytes dir _
  have key : (((mailSlot twice).s.withMem (mailMemAfter twice m)).dirOf (2 ^ 30)).ktag = 0 := mail_ktag dir (by decide)
  have held : readBytes (mailMemAfter twice m) (2 ^ 46 + 0x4000) 32 = List.ofFn m := by
    rw [← readBytes_mailMem, readBytes_eq_map, readBytes_eq_map]
    exact List.map_congr_left fun j _ => readByte_mailMemAfter twice m (by omega)
  have sensed := sensedByte_of_wrong (s := (mailSlot twice).s.withMem (mailMemAfter twice m)) (a := 2 ^ 46 + 0x4000 + i) (k := k) (left := left) (m := m)
    (w := tornUnit twice) (i := i) (by omega) (by rw [fmt, show (2 ^ 46 + 0x4000 + i.val) / 32 * 32 = 2 ^ 46 + 0x4000 by omega, withMem_decodeGranule, decode])
    (by rw [fmt, show (2 ^ 46 + 0x4000 + i.val) % 32 / 32 * 32 = 0 by omega, List.drop_zero, wrong]) shows (by rw [unit, withMem_mem, show (2 ^ 41 + 0x200) * 32 = 2 ^ 46 + 0x4000 by decide, held])
  rw [bytes_one _ _ (by rw [withMem_upsets, upsets, mailLeft_nonempty]), sensed, frame, unit, key]

/-! ## The obligation -/

theorem mailState_header (twice : Bool) (m : Fin 32 → Byte) :
    Header ((mailState twice).withMem (mailMem m)) 0 mailGroup mailClause mailOps 0 0x10040 0 mailAddr ((mailHead twice).s.withMem (mailMem m)) := by
  obtain ⟨went, settled, -⟩ := mailHead_went twice
  refine ⟨⟨⟨rfl, rfl, rfl⟩, by decide, fun j below => absurd below (Nat.not_lt_zero j), by decide⟩, by unfold Fresh; decide, ?_, by decide,
    ⟨access_withMem (mailMem m) (serves_mailState twice) (by decide) (.inl rfl) went (by decide) (by decide), settled_withMem (mailMem m) settled⟩, ?_⟩
  · rw [if_neg (by decide)]
    exact ⟨by decide, (mailHeader_num twice m (k := 8) (by decide)).symm⟩
  · refine ⟨?_, fun k _ below => mailHeader_num twice m (by omega)⟩
    rw [show mailAddr.addr + 8 = 0x20040 + 8 from rfl, mailHeader_num twice m (by decide)]
    decide

/-- Where only a group and its core change, reads deliver the same. -/
theorem bytes_of_onlyGroup {s t : State} {gid : Nat} (only : OnlyGroup s t gid) (a n : Nat) : t.bytes a n = s.bytes a n := by
  rw [only.rest]
  rfl

/-- PostsAndTakes bounds no address whose bytes a post leaves. From 2^46 on, where replicas in other modules are addressed, the model keeps the differences of check symbols; the post's atomic encodes the granule of TAIL anew, and with it goes a difference that the decode of the remote unit reads as data. Before, that decode found the unit uncorrectable; now it goes wrong undetected, so the unit reads otherwise. That would go unseen only if the key hid both differences from every unit's plain text, which no code can do. -/
theorem not_postsAndTakes : ¬ PostsAndTakes := by
  rintro ⟨-, -, posts⟩
  have hidden (twice : Bool) (m : Fin 32 → Byte) : readUnit 0 (2 ^ 41 + 0x200) (fun j => storedUnit 0 (2 ^ 41 + 0x200) m j ^^^ tornUnit twice j) = m := by
    obtain ⟨-, -, serves⟩ := mailHead_went twice
    obtain ⟨went, settled, unshadowed, -, serves', -⟩ := mailTail_went twice
    obtain ⟨went', settled', -⟩ := mailSlot_went twice
    have ticket : ((mailState twice).withMem (mailMem m)).num mailAddr.addr 4 = 0 := mailHeader_num twice m (k := 0) (by decide)
    have claim := posts _ 0 mailGroup mailClause mailOps 0 0x10040 0 mailAddr _ mailAddr ((mailTail twice).s.withMem (mailMem m)) mailSlotAddr
      ((mailSlot twice).s.withMem (mailMemAfter twice m)) (mailState_header twice m) (by decide)
      (access_withMem (mailMem m) serves (by decide) (.inr rfl) went (by decide) (by decide)) rfl (settled_withMem (mailMem m) settled)
      ((withMem_shadowOver ..).trans unshadowed)
    simp only [ticket] at claim
    rw [show (0 + 1) % 2 ^ 32 = 1 from rfl, show coreOfGid 0 = 0 from rfl, mailCounted_withMem] at claim
    obtain ⟨t, -, -, ⟨-, counted⟩, -, only, -⟩ := claim
      (access_withMem (mailMemAfter twice m) serves' (by decide) (.inl rfl) went' (by decide) (by decide)) (settled_withMem _ settled') (mailSlot_num twice m)
    funext i
    have same := counted (2 ^ 46 + 0x4000 + i) (.inr (show 0x20040 + 4 ≤ 2 ^ 46 + 0x4000 + i.val by omega))
    rw [bytes_of_onlyGroup only, mailSlot_remote, mailState_remote] at same
    exact List.singleton_inj.mp same
  refine exists_difference_shows (storedUnit 0 (2 ^ 41 + 0x200)) (readUnit 0 (2 ^ 41 + 0x200))
    (f := fun x j => x j ^^^ tornUnit false j) (g := fun x j => x j ^^^ tornUnit true j) (fun x same => ?_) ⟨hidden false, hidden true⟩
  have first := congrFun same 0
  simp [tornUnit] at first

/-- Refutes O35: the third part of PostsAndTakes asks that reads deliver as before at every address but TAIL's four bytes, also at addresses from 2^46 on. After a reset, with a valid mailbox of one slot at 0x10040 whose slot is not free for ticket 0, and four differences in the DRAM, of which one is a check symbol of TAIL's granule, a post that takes its ticket and waits changes what a read of the 32 bytes at 2^46 + 0x4000 delivers. -/
theorem not_mailboxes : ¬ Obligations.Mailboxes := fun ⟨posts, _⟩ => not_postsAndTakes posts

end Sys2Proof.Claims
end

section
/-! PROOFS (00_scope). The enabled cores, and where a new group is placed: what the admission of teams (O50) needs. -/

namespace Sys2Proof.Machine

theorem exec_teamAdmit (cluster : Nat) (s : State) : exec (.teamAdmit cluster) s = execTeamAdmit cluster s := rfl

/-! ## The enabled cores -/

theorem getLsbD_foldl_clear {n : Nat} (f : Nat → Nat) (l : List Nat) (m : BitVec n) {k : Nat} (below : k < n) (clear : ∀ i ∈ l, f i ≠ k) :
    (l.foldl (fun m i => m &&& ~~~BitVec.twoPow n (f i)) m).getLsbD k = m.getLsbD k := by
  induction l generalizing m with
  | nil => rfl
  | cons i l ih =>
    rw [List.forall_mem_cons] at clear
    rw [List.foldl_cons, ih _ clear.2]
    simp only [BitVec.getLsbD_and, BitVec.getLsbD_not, BitVec.getLsbD_twoPow, below, clear.1, decide_true, decide_false, Bool.and_false, Bool.not_false, Bool.and_true]

/-- R4: at most 72 cores are not enabled, so that one of any 73 is. -/
theorem exists_enabledCore : ∃ core < 1152, Config.enabledCores.getLsbD core = true := by
  obtain ⟨core, below, spared⟩ : ∃ core ∈ Finset.range 73, core ∉ (Finset.range 72).image Config.spareCore :=
    Finset.exists_mem_notMem_of_card_lt_card (Finset.card_image_le.trans_lt (by simp))
  have bound : core < 1152 := (Finset.mem_range.mp below).trans (by decide)
  refine ⟨core, bound, ?_⟩
  rw [Config.enabledCores, getLsbD_foldl_clear _ _ _ bound fun i inRange same => spared (Finset.mem_image.mpr ⟨i, by simpa using inRange, same⟩)]
  rw [BitVec.getLsbD_allOnes, decide_eq_true bound]

/-! ## Where a team is placed (R184, R186) -/

/-- R184: the one team that waits is admitted where it fits. -/
theorem execTeamAdmit_of_only {s : State} {cluster core : Nat} {w : Waiting} {place : List (Nat × Nat)} (below : cluster < 72) (running : s.resetting = false)
    (only : waitingTeams s cluster = [w]) (fit : admitPlace s cluster w = some (core, place)) :
    execTeamAdmit cluster s = .next (admitTeam s w core place) := by
  have inRange : ¬ 72 ≤ cluster := by omega
  simp [execTeamAdmit, inRange, running, only, fit]

/-- R186: a team with no orphans, which is not paired, is placed once it fits on some core of the cluster. -/
theorem exists_admitPlace {s : State} {cluster i : Nat} {w : Waiting} {place : List (Nat × Nat)} (orphans : s.orphans = []) (single : Kernel.paired w.desc = false)
    (below : i < 16) (fit : fits s w.desc (16 * cluster + i) none = some place) :
    ∃ j < 16, ∃ place', fits s w.desc (16 * cluster + j) none = some place' ∧ admitPlace s cluster w = some (16 * cluster + j, place') := by
  have search : admitPlace s cluster w = (List.range 16).findSome? fun j => (fits s w.desc (16 * cluster + j) none).map (16 * cluster + j, ·) := by
    simp [admitPlace, orphans, single]
  obtain ⟨found, hit⟩ : ∃ x, admitPlace s cluster w = some x := by
    rw [search, ← Option.isSome_iff_exists, List.findSome?_isSome_iff]
    exact ⟨i, List.mem_range.mpr below, by simp [fit]⟩
  obtain ⟨j, inRange, at_⟩ := List.exists_of_findSome?_eq_some (search ▸ hit)
  obtain ⟨place', fit', rfl⟩ := Option.map_eq_some_iff.mp at_
  exact ⟨j, List.mem_range.mp inRange, place', fit', hit⟩

/-- R186: with no group resident and none that has left, the lowest slot of a partition is free. -/
theorem freeSlot_of_empty {s : State} (groups : s.groups = []) (left : leftGroups s none = []) (core part : Nat) :
    freeSlot s core part = some (64 * core + 16 * part) := by
  simp [freeSlot, groups, left, List.range_succ_eq_map]

/-- R192: the groups that have left are those of the only resident team. -/
theorem leftGroups_of_sole {s : State} {key : Nat} {t : Team} (teams : s.teams = [(key, t)]) : leftGroups s none = t.left := by
  simp [leftGroups, teams]

/-- R186: where a new team of one group, with no sequencer, takes the place of the only resident team, and no group is there, its group goes to the lowest slot of the partition. -/
theorem admitTeam_groups_of_sole {s : State} {w : Waiting} {old : Team} (new : w.saved = none) (single : Kernel.paired w.desc = false) (unsequenced : Kernel.mseq w.desc = false)
    (groups : s.groups = []) (teams : s.teams = [(teamKey w.ctx w.kid w.tidx, old)]) (core part : Nat) :
    ∃ g, (admitTeam s w core [(0, part)]).groups = [(64 * core + 16 * part, g)] := by
  have free {t : Team} (left : t.left = []) (core : Nat) : freeSlot ((unwait s w).setTeam (teamKey w.ctx w.kid w.tidx) t) core part = some (64 * core + 16 * part) := by
    refine freeSlot_of_empty (by simp [unwait, groups]) ?_ core part
    rw [leftGroups_of_sole (key := teamKey w.ctx w.kid w.tidx) (t := t) (by simp [State.setTeam, unwait, teams, SMap.put]), left]
  have gone : (unwait s w).groups = [] := by simp [unwait, groups]
  simp only [admitTeam, new, single, unsequenced, Bool.false_eq_true, if_false, List.length_singleton, List.range_one, List.zip_cons_cons, List.zip_nil_right,
    List.foldl_cons, List.foldl_nil, free, Nat.add_zero, restartProgress, State.setCore_groups, State.modCtx_groups, State.setGroup, State.setTeam_groups, gone, SMap.put]
  exact ⟨_, rfl⟩

end Sys2Proof.Machine
end

section
/-! PROOFS (00_scope). The admission of a team (O50): a waiting team under the key of a resident one that has left its slots. -/

namespace Sys2Proof.Claims

open Machine

/-! ## The counterexample -/

/-- A kernel of one team of one group of 16 lanes and 8 registers, for every cluster; its team waits. -/
def twinKernel : Kernel :=
  { desc := BitVec.ofNat 512 (0x2000 + 2 ^ 128 + 2 ^ 144 + 2 ^ 160 + (2 ^ 72 - 1) * 2 ^ 256), order := 0, waiting := [0], saved := [], ended := 0, unplaceable := false }

/-- A group that has left slot 0 of a partition, which its team still holds (R192). -/
def twinLeft (part : Nat) : SavedGroup := { idx := part, gid := 16 * part, slices := 2, gsavep := 0, seqs := [], kept := [], held := [] }

/-- Slot 0 of the first `n` partitions. -/
def twinLefts (n : Nat) : List SavedGroup := (List.range n).map twinLeft

theorem twinLeft_mem {n part : Nat} (below : part < n) : twinLeft part ∈ twinLefts n := List.mem_map_of_mem (List.mem_range.mpr below)

theorem twinLefts_filter {n part : Nat} (below : part < n) : (twinLefts n).filter (fun e => e.gid / 16 = part) = [twinLeft part] := by
  have same : ((fun e : SavedGroup => decide (e.gid / 16 = part)) ∘ twinLeft) = (· == part) := by
    funext q
    simp [twinLeft, Bool.beq_eq_decide_eq]
  rw [twinLefts, List.filter_map, same, List.filter_beq, List.count_eq_one_of_mem List.nodup_range (List.mem_range.mpr below)]
  rfl

/-- The kernel's team, resident: it holds slot 0 of every partition of every core. -/
def twinTeam : Team :=
  { ctx := 1, kid := 0, tidx := 0, core := 0, paired := false, gpt := 1, prio := 0, order := 0, admitted := 0, landing := [], sharedBytes := 0, shared := [],
    objs := [], bosel := 0, seq := none, preempt := false, left := twinLefts 4608, mbase := 0, mseq := none }

/-- The kernel's team, waiting. -/
def twinWaiting : Waiting := { prio := 0, order := 0, tidx := 0, ctx := 1, kid := 0, desc := twinKernel.desc, saved := none }

/-- A machine in which the team waits while it is resident. -/
def twinState : State :=
  { State.reset with
    hosts := [], groups := [], ctxs := [(1, { Ctx.empty with ckey := 1, world := 1, kind := 2, kernels := [(0, twinKernel)] })],
    teams := [(teamKey 1 0 0, twinTeam)] }

theorem twinState_teams : twinState.teams = [(teamKey 1 0 0, twinTeam)] := rfl

/-! ## The team is admitted (R184-R186) -/

theorem twinState_waitingTeams {cluster : Nat} (below : cluster < 72) : waitingTeams twinState cluster = [twinWaiting] := by
  have on : Kernel.onCluster twinKernel.desc cluster = true := by
    revert cluster
    decide +kernel
  have prio : Kernel.prio twinKernel.desc = 0 := by decide +kernel
  simp only [waitingTeams, twinState, Ctx.empty, List.flatMap_singleton, Bool.false_eq_true, if_false, on, prio, Bool.not_true]
  rfl

theorem twinTeam_left : twinTeam.left = twinLefts 4608 := by rw [twinTeam]

/-- R89, R192: of each partition's 16 slots and 1,024 slices, a group that has left holds one and two. -/
theorem twinState_coreRooms {core : Nat} (below : core < 1152) : coreRooms twinState core none = [(15, 1022), (15, 1022), (15, 1022), (15, 1022)] := by
  refine (List.eq_replicate_iff (n := 4)).mpr ⟨by simp [coreRooms], fun room listed => ?_⟩
  obtain ⟨p, inRange, rfl⟩ := List.mem_map.mp listed
  have inCore := List.mem_range.mp inRange
  have left : (leftGroups twinState none).filter (fun e => e.gid / 16 = 4 * core + p) = [twinLeft (4 * core + p)] := by
    rw [leftGroups_of_sole twinState_teams, twinTeam_left]
    exact twinLefts_filter (by omega)
  simp only [left]
  rfl

theorem twinState_usable {core : Nat} (below : core < 1152) : usable twinState core = Config.enabledCores.getLsbD core := by
  simp [usable, State.coreEnabled, below, twinState, State.reset, State.coreOf, SMap.get, CoreSt.init]

theorem twinState_sharedUsed (core : Nat) : sharedUsed twinState core none = 0 := by
  simp only [sharedUsed, twinState_teams, List.filter_cons, List.filter_nil]
  split <;> rfl

theorem twinWaiting_single : Kernel.paired twinWaiting.desc = false := by decide +kernel
theorem twinWaiting_unsequenced : Kernel.mseq twinWaiting.desc = false := by decide +kernel

/-- R185, R186: the team fits on every enabled core, with its group in partition 0. -/
theorem twinState_fits {core : Nat} (below : core < 1152) :
    fits twinState twinWaiting.desc core none = if Config.enabledCores.getLsbD core then some [(0, 0)] else none := by
  have unshared : Kernel.sharedKib twinWaiting.desc = 0 := by decide +kernel
  have place : placeGroups (sliceNeed twinWaiting.desc) false (Kernel.gpt twinWaiting.desc) 0 [(15, 1022), (15, 1022), (15, 1022), (15, 1022)] [] = some [(0, 0)] := by decide +kernel
  simp only [fits, twinWaiting_single, unshared, twinWaiting_unsequenced, twinState_usable below, twinState_sharedUsed, twinState_coreRooms below]
  cases Config.enabledCores.getLsbD core <;> simp [place]

/-- R4, R186: in some cluster the team has a place, since some core is enabled. -/
theorem twinState_admitPlace : ∃ cluster < 72, ∃ core < 1152, admitPlace twinState cluster twinWaiting = some (core, [(0, 0)]) := by
  obtain ⟨enabledCore, inModule, enabled⟩ := exists_enabledCore
  have fit : fits twinState twinWaiting.desc (16 * (enabledCore / 16) + enabledCore % 16) none = some [(0, 0)] := by
    rw [Nat.div_add_mod, twinState_fits inModule, if_pos enabled]
  obtain ⟨i, below, place, fit, placed⟩ := exists_admitPlace rfl twinWaiting_single (Nat.mod_lt _ (by decide)) fit
  have bound : 16 * (enabledCore / 16) + i < 1152 := by omega
  rw [twinState_fits bound, Option.ite_none_right_eq_some, Option.some_inj] at fit
  obtain ⟨-, rfl⟩ := fit
  exact ⟨enabledCore / 16, by omega, _, bound, placed⟩

/-- R186: as the new team takes the place of the resident one, nothing is held any more, and the group goes to slot 0. -/
theorem twinState_admitTeam_groups (core : Nat) : ∃ g, (admitTeam twinState twinWaiting core [(0, 0)]).groups = [(64 * core, g)] :=
  admitTeam_groups_of_sole rfl twinWaiting_single twinWaiting_unsequenced rfl twinState_teams core 0

/-- Refutes O50: the clause on admission asks that a new group's slot is held by no group that has left, in every state. In a state where a resident team, whose groups have left slot 0 of every partition, has the key of the team that waits, the room of each partition is counted without slot 0, but the admission writes the new team over the resident one, so that slot 0 is free again and the new group goes there. -/
theorem not_teamsComeAndGo : ¬ Obligations.TeamsComeAndGo := by
  rintro ⟨admits, -⟩
  obtain ⟨cluster, inModule, core, bound, placed⟩ := twinState_admitPlace
  have only := twinState_waitingTeams inModule
  obtain ⟨t, -, gids, ran, -, -, -, -, -, -, -, -, long, -, -, at_⟩ :=
    admits twinState cluster [] twinWaiting [] core [(0, 0)] inModule rfl only (by simp) placed (fun _ _ saved => nomatch saved)
  rw [exec_teamAdmit, execTeamAdmit_of_only inModule rfl only placed] at ran
  obtain ⟨gid, rfl⟩ := List.length_eq_one_iff.mp long
  obtain ⟨-, -, notLeft, -, fresh⟩ := at_ 0 gid (0, 0) rfl rfl
  obtain ⟨g, found, -⟩ := fresh rfl
  obtain ⟨g', groups⟩ := twinState_admitTeam_groups core
  obtain rfl : gid = 64 * core := by
    rw [← Host.Outcome.next.inj ran, groups, SMap.find?] at found
    split at found
    · next same => exact same.symm
    · cases found
  refine notLeft (teamKey 1 0 0, twinTeam) (List.mem_singleton.mpr rfl) (twinLeft (4 * core)) (twinTeam_left ▸ twinLeft_mem (by omega)) ?_
  show 16 * (4 * core) = 64 * core
  omega

end Sys2Proof.Claims
end

section
/-! PROOFS (00_scope). Traps of groups in supervisor mode (O28): a post to a ring leaves every group as it is. -/

namespace Sys2Proof.Machine

/-! ## Posts to the rings leave the groups alone (R38, R241) -/

@[simp] theorem State.setRing_groups (s : State) (k : Ring) (r : RingSt) : (s.setRing k r).groups = s.groups := by cases k <;> rfl

theorem startThaw_groups (s : State) (addr : Nat) (host : Bool) : (startThaw s addr host).groups = s.groups := by
  unfold startThaw startThawFor
  dsimp only
  split <;> rfl

theorem storeFrame_groups (s : State) (gid addr : Nat) (bs : List Byte) : (storeFrame s gid addr bs).groups = s.groups :=
  (congrArg State.groups (storeWhole_stored s gid addr bs [(addr, bs.length)])).trans rfl

theorem ringPost_groups (s : State) (k : Ring) (x : BitVec 512) : (ringPost s k x).groups = s.groups := by
  unfold ringPost
  dsimp only
  split
  · simp only [ringWrite, State.setRing_groups, storeFrame_groups]
  · simp only [State.setRing_groups, startThaw_groups]

theorem postEvent_groups (s : State) (kind object data : Nat) : (postEvent s kind object data).groups = s.groups := ringPost_groups _ _ _

/-! ## Software traps (R339) -/

theorem exec_trapLanes (o : Ops) (s : State) : exec (.trapLanes o) s = execTrapLanes o s := rfl
theorem exec_brkpt (o : Ops) (s : State) : exec (.brkpt o) s = execBrkpt o s := rfl

/-- R335: the address after the instruction at hand, in the words of the claims. -/
theorem nextPc_eq_after (c : Clause) : c.nextPc = Claims.after c := by
  rw [Clause.nextPc, BitVec.ofNat_mul]
  rfl

/-- R339: with an active lane, the fragment takes the trap. -/
theorem softTrap_of_active {s : State} {gid : Nat} {g : Group} {c : Clause} {o : Ops} (issues : Issues s gid g c) (some_active : active g c o ≠ 0)
    (cause : Nat) (next : Bool) :
    softTrap s o cause next =
      .next (takeTrap s gid (Claims.softRec g c cause g.fmask (if next then Claims.after c else c.pc) (g.slot c.slot).mask)) := by
  unfold softTrap
  rw [withClause_issues issues, if_neg some_active, nextPc_eq_after]
  rfl

/-- R205: a trap in supervisor mode changes no other group, and posts the event after the group has halted. -/
theorem takeTrap_halts (s : State) (gid : Nat) (g : Group) (r : TrapReq) (found : SMap.find? s.groups gid = some g) (handler : g.sup = true) :
    (takeTrap s gid r).groups = SMap.put s.groups gid { g.flush with trec := trecWord r g.flush, halted := true, clause := none } := by
  rw [takeTrap_double s gid g r found handler, postDouble, postEvent_groups]
  split <;> rfl

end Sys2Proof.Machine

namespace Sys2Proof.Claims

open Machine

/-- Settles O28: in supervisor mode takeTrap halts the group and posts the event, which leaves the groups as they are; trap and brkpt with an active lane take their trap so. -/
theorem trapsInAHandlerHalt : Obligations.TrapsInAHandlerHalt := by
  refine ⟨fun s gid g r found handler => ⟨_, rfl, ?_, ?_, fun n other => ?_⟩, fun s gid g c o issues _ some_active i r listed => ?_⟩
  · rw [takeTrap_halts s gid g r found handler]
    exact SMap.find?_put_same _ _ _
  · rw [takeTrap_halts s gid g r found handler, takeTrap_double s gid g r found handler, postDouble]
    split <;> rfl
  · rw [takeTrap_halts s gid g r found handler]
    exact SMap.find?_put_other _ _ other
  · simp only [List.mem_cons, Prod.mk.injEq, List.not_mem_nil, or_false] at listed
    obtain ⟨rfl, rfl⟩ | ⟨rfl, rfl⟩ := listed
    · exact (exec_trapLanes o s).trans (softTrap_of_active issues some_active 0x0B true)
    · exact (exec_brkpt o s).trans (softTrap_of_active issues some_active 0x0C false)

end Sys2Proof.Claims
end

section
/-! PROOFS (00_scope). Traps of events (O49): a trap that a change of the groups prepares, the live slot at which a held trap is due, and the rows of DIELOSS, PREEMPT and held traps. -/

namespace Sys2Proof.Machine

open Claims

theorem exec_illbarrierDelivery (core slot : Nat) (s : State) : exec (.illbarrierDelivery core slot) s = execIllbarrierDelivery core slot s := rfl
theorem exec_dielossEntry (core slot : Nat) (s : State) : exec (.dielossEntry core slot) s = execDielossEntry core slot s := rfl
theorem exec_preemptEntry (core slot : Nat) (s : State) : exec (.preemptEntry core slot) s = execPreemptEntry core slot s := rfl
theorem exec_progressFault (core : Nat) (s : State) : exec (.progressFault core) s = execProgressFault core s := rfl

theorem gidOf_eq {core slot : Nat} (inCore : slot < 64) : gidOf core slot = some (64 * core + slot) := if_pos inCore

/-! ## Traps that a change of the groups prepares -/

theorem groupIs_setGroup (s : State) (gid : Nat) (g : Group) : GroupIs s (s.setGroup gid g) gid g :=
  ⟨rfl, State.find_setGroup_same s gid g, fun _ other => State.find_setGroup_other s g other⟩

/-- What a handler's entry needs does not depend on the traps that the group holds. -/
theorem enters_withHeld {s : State} {g : Group} (enters : Enters s g) (held : List Held) : Enters s { g with held := held } :=
  ⟨enters.user, enters.spill, enters.park, enters.ctx⟩

theorem takeTrap_of_enters {s : State} {gid : Nat} {g : Group} (found : SMap.find? s.groups gid = some g) (enters : Enters s g) (r : TrapReq) :
    Trapped s (takeTrap s gid r) gid g r := by
  obtain ⟨ctx, live⟩ := Option.isSome_iff_exists.mp enters.ctx
  exact takeTrap_trapped s gid g ctx r found enters.user enters.spill enters.park live

/-- A trap taken by a group that was put in its place is a trap of the state as it was before. -/
theorem Trapped.of_setGroup {s t : State} {gid : Nat} {g : Group} {r : TrapReq} (trapped : Trapped (s.setGroup gid g) t gid g r) : Trapped s t gid g r where
  rest := trapped.rest
  others := fun n other => (trapped.others n other).trans (State.find_setGroup_other s g other)
  cores := trapped.cores
  core := trapped.core
  group := trapped.group

/-- A trap that has been taken in user mode needs no second try: the group's mode has changed. -/
theorem orRetry_of_trapped {before prepared after : State} {gid : Nat} {g : Group} {r : TrapReq} (found : SMap.find? prepared.groups gid = some g)
    (user : g.sup = false) (trapped : Trapped prepared after gid g r) : orRetry before prepared after = after := by
  refine if_neg fun same => ?_
  obtain ⟨g', -, found', -, handler, -⟩ := trapped.group
  rw [same, found] at found'
  cases found'
  simp [user] at handler

/-- R202: a trap that a change of its group has prepared is taken at the first try. -/
theorem orRetry_takeTrap_trapped {s : State} {gid : Nat} {g : Group} (enters : Enters s g) (r : TrapReq) :
    Trapped s (orRetry s (s.setGroup gid g) (takeTrap (s.setGroup gid g) gid r)) gid g r := by
  have found := State.find_setGroup_same s gid g
  have trapped : Trapped (s.setGroup gid g) (takeTrap (s.setGroup gid g) gid r) gid g r :=
    takeTrap_of_enters found ⟨enters.user, enters.spill, enters.park, enters.ctx⟩ r
  rw [orRetry_of_trapped found enters.user trapped]
  exact trapped.of_setGroup

/-! ## The live slot at which a held trap is due (R108, R207) -/

/-- The lowest bit that is set is the only one left. -/
theorem lowestLane_eq_twoPow {m : DWord} {l : Nat} (set : m.getLsbD l = true) (lowest : ∀ j < l, m.getLsbD j = false) : lowestLane m = BitVec.twoPow 64 l := by
  have bound : l < 64 := BitVec.lt_of_getLsbD set
  refine BitVec.eq_of_getLsbD_eq fun i below => ?_
  have negated : (0 : DWord) - m = -m := BitVec.zero_sub m
  rw [lowestLane, negated, BitVec.getLsbD_and, BitVec.getLsbD_neg, BitVec.getLsbD_twoPow]
  rcases Nat.lt_trichotomy i l with under | rfl | above
  · simp [lowest i under, (Nat.ne_of_lt under).symm]
  · have none_under : ¬ ∃ j < i, m.getLsbD j = true := fun ⟨j, under, on⟩ => by simp [lowest j under] at on
    simp [set, none_under, below]
  · have some_under : ∃ j < i, m.getLsbD j = true := ⟨l, above, set⟩
    simp [some_under, below, Nat.ne_of_lt above]

@[simp] theorem Group.slot_zero (g : Group) : g.slot 0 = g.s0 := rfl
@[simp] theorem Group.slot_one (g : Group) : g.slot 1 = g.s1 := rfl

theorem and_twoPow_eq_zero {m : DWord} {l : Nat} (bound : l < 64) : m &&& BitVec.twoPow 64 l = 0#64 ↔ m.getLsbD l = false := by
  rw [BitVec.and_twoPow]
  cases m.getLsbD l
  · simp
  · simp [← BitVec.toNat_inj, Nat.mod_eq_of_lt (Nat.pow_lt_pow_right (a := 2) (by omega) bound)]

/-- R108, R207: where a held trap is due, as the claims say it. -/
theorem dueSlot_of_dueAt {g : Group} {h : Held} {k : Nat} (user : g.sup = false) (due : DueAt g h k) : g.dueSlot h = some k := by
  obtain ⟨two, notLost, ⟨notParking, l, live, lowest, stands, unparked, only⟩ | ⟨parking, -, parked, waits, seq, only⟩⟩ := due
  · have lane := lowestLane_eq_twoPow live lowest
    have here (m : DWord) := and_twoPow_eq_zero (m := m) (BitVec.lt_of_getLsbD live)
    obtain rfl | rfl : k = 0 ∨ k = 1 := by omega
    · rw [Group.slot_zero] at stands unparked
      simp [Group.dueSlot, user, notLost, notParking, lane, here, stands, unparked]
    · rw [Group.slot_one] at stands unparked
      simp [Group.dueSlot, user, notLost, notParking, lane, here, stands, unparked, only rfl]
  · obtain rfl | rfl : k = 0 ∨ k = 1 := by omega
    · rw [Group.slot_zero] at parked waits seq
      simp [Group.dueSlot, user, parking, parked, waits, seq]
    · rw [Group.slot_one] at parked waits seq
      simp [Group.dueSlot, user, parking, parked, waits, seq, only rfl]

/-- R108: a held trap that is due concerns a lane that still lives; a post's, a post that waits. -/
theorem stale_of_dueAt {g : Group} {h : Held} {k : Nat} (user : g.sup = false) (due : DueAt g h k) (post : h.cause = 0x08 → (g.slot k).wait.kind = 4) :
    g.stale h = false := by
  have slot := dueSlot_of_dueAt user due
  have lives : h.mask &&& g.lmask ≠ 0#64 := by
    obtain ⟨-, -, ⟨-, l, live, -⟩ | ⟨-, live, -⟩⟩ := due
    · intro gone
      simp [gone] at live
    · exact live
  have waiting : (decide (h.cause = 0x08) && (g.slot k).wait.kind != 4) = false := by
    by_cases isPost : h.cause = 0x08
    · simp [post isPost]
    · simp [isPost]
  simp [Group.stale, slot, waiting, lives]

/-- The trap of a held event is the record that the claims name. -/
theorem heldTrap_eq_heldRec {g : Group} {h : Held} {k : Nat} (due : DueAt g h k) :
    heldTrap g h k = heldRec g k h (if h.cause = 0x0D then h.mask else (g.slot k).mask) := by
  have parking : ((g.slot k).park.active && decide (h.cause = 0x0D)) = decide (h.cause = 0x0D) := by
    obtain ⟨-, -, ⟨notParking, -⟩ | ⟨-, -, parked, -⟩⟩ := due
    · simp [notParking]
    · simp [parked]
  simp [heldTrap, heldRec, parking, bne, Bool.beq_eq_decide_eq]

/-! ## The rows of the events -/

/-- R108, R205, R207: the first held trap, which is due, is the one that is delivered. -/
theorem execIllbarrierDelivery_of_due {s : State} {core slot : Nat} {g : Group} {h : Held} {rest : List Held} {k : Nat} (inCore : slot < 64)
    (found : SMap.find? s.groups (64 * core + slot) = some g) (boundary : g.clause = none) (running : g.halted = false) (user : g.sup = false)
    (first : g.held = h :: rest) (fresh : ∀ x ∈ rest, g.stale x = false) (post : h.cause = 0x08 → (g.slot k).wait.kind = 4) (due : DueAt g h k) :
    let s₁ := s.setGroup (64 * core + slot) { g with held := rest }
    execIllbarrierDelivery core slot s = .next (orRetry s s₁ (takeTrap s₁ (64 * core + slot) (heldTrap g h k))) := by
  have noneStale : g.held.any g.stale = false := by
    rw [first, List.any_cons, stale_of_dueAt user due post, Bool.false_or, List.any_eq_false]
    exact fun x listed => by simp [fresh x listed]
  have search : g.held.findSome? (fun h => (g.dueSlot h).map (h, ·)) = some (h, k) := by
    simp [first, dueSlot_of_dueAt user due]
  have others : g.held.erase h = rest := by rw [first, List.erase_cons_head]
  have may : (g.clause.isSome || g.sup || g.halted) = false := by simp [boundary, running, user]
  simp only [execIllbarrierDelivery, gidOf_eq inCore, found, may, noneStale, search, others, Bool.false_eq_true, if_false]

theorem takeGroupTrap_eq (s : State) (gid : Nat) (g : Group) (cause reason : Nat) (info : Word) :
    takeGroupTrap s gid g cause reason info = takeTrap s gid (groupRec g cause reason info) := rfl

/-- R205, R219, R446: a group that holds DIELOSS takes it from where it stands, or from where it stood before a frontier parking. -/
theorem execDielossEntry_of_held {s : State} {core slot : Nat} {g g₀ : Group} {h : Held} (inCore : slot < 64)
    (found : SMap.find? s.groups (64 * core + slot) = some g) (boundary : g.clause = none) (running : g.halted = false)
    (mode : g.sup = false ∨ g.fpark ≠ none) (held : g.held.find? (fun x => x.cause = 0x10) = some h)
    (stood : (if g.fpark.isSome then g.unenter else g) = g₀) :
    let g₁ : Group := { g₀ with held := g.held.erase h }
    let s₁ := s.setGroup (64 * core + slot) g₁
    execDielossEntry core slot s = .next (orRetry s s₁ (takeTrap s₁ (64 * core + slot) (groupRec g₁ 0x10 h.reason h.info))) := by
  have outside : (g.sup && g.fpark.isNone) = false := by
    rcases mode with user | parked
    · simp [user]
    · simp [Option.isNone_eq_false_iff, Option.isSome_iff_ne_none, parked]
  have may : (g.clause.isSome || g.halted || (g.sup && g.fpark.isNone)) = false := by simp [boundary, running, outside]
  simp only [execDielossEntry, gidOf_eq inCore, found, held, may, stood, Bool.false_eq_true, if_false, takeGroupTrap_eq]

end Sys2Proof.Machine
end

section
/-! PROOFS (00_scope). Traps of events (O49): the parts of the obligation on the four event rows. -/

namespace Sys2Proof.Machine

open Claims

/-! ## The record of a halted group that is pre-empted (R203) -/

theorem getLsbD_fld {n lo w x i : Nat} (bound : i < n) : (fld lo w x : BitVec n).getLsbD i = (decide (lo ≤ i) && (decide (i - lo < w) && x.testBit (i - lo))) := by
  rw [fld, BitVec.getLsbD_ofNat, Nat.testBit_mul_two_pow, Nat.testBit_mod_two_pow, decide_eq_true bound, Bool.true_and]

/-- R203: the low byte of a trap record is its cause. -/
theorem trecWord_cause (r : TrapReq) (g : Group) : fieldNat (trecWord r g) 0 8 = r.cause % 256 := by
  refine Nat.eq_of_testBit_eq fun i => ?_
  rw [fieldNat, BitVec.testBit_toNat, BitVec.getLsbD_extractLsb', Nat.zero_add, show 256 = 2 ^ 8 from rfl, Nat.testBit_mod_two_pow]
  by_cases low : i < 8
  · have below (lo : Nat) (far : 8 ≤ lo) : ¬ lo ≤ i := by omega
    simp [trecWord, getLsbD_fld (show i < 512 by omega), low, below]
  · simp [low]

/-! ## PREEMPT (R205, R211) -/

theorem execPreemptEntry_unchosen {s : State} {core slot tid : Nat} {g : Group} {t₀ : Team} (found : SMap.find? s.groups (64 * core + slot) = some g)
    (team : g.team = some tid) (resident : SMap.find? s.teams tid = some t₀) (stays : t₀.preempt = false) :
    execPreemptEntry core slot s = .next s := by
  simp [execPreemptEntry, found, team, resident, stays]

section

variable {s : State} {core slot tid : Nat} {g : Group} {t₀ : Team} (found : SMap.find? s.groups (64 * core + slot) = some g) (boundary : g.clause = none)
  (team : g.team = some tid) (resident : SMap.find? s.teams tid = some t₀) (chosen : t₀.preempt = true)

include found boundary team resident chosen

theorem execPreemptEntry_halted (halted : g.halted = true) :
    execPreemptEntry core slot s = .next (preemptHalted s (64 * core + slot) g) := by
  simp [execPreemptEntry, found, boundary, team, resident, chosen, halted]

theorem execPreemptEntry_running (running : g.halted = false) (enters : Enters s g) (first : ∀ h ∈ g.held, h.cause ≠ 0x10 ∧ g.dueSlot h = none) :
    execPreemptEntry core slot s = .next (takeTrap s (64 * core + slot) (groupRec g 0x09 0 0)) := by
  simp only [execPreemptEntry, found, boundary, team, Option.bind_some, resident, chosen, running, enters.user, enters.park, takeGroupTrap_eq]
  refine (if_neg Bool.false_ne_true).trans ((if_neg Bool.false_ne_true).trans (if_neg ?_))
  rw [Bool.false_or, Option.isSome_none, Bool.false_or, Bool.not_eq_true, List.any_eq_false]
  intro h listed
  simp [first h listed]

end

/-! ## PROGRESS (R194, R195) -/

/-- R202: a group in its handler waits in no post. -/
theorem postWaits_of_trapped {s t u : State} {gid gid' : Nat} {g g' : Group} {r : TrapReq} (trapped : Trapped s t gid g r)
    (found : SMap.find? t.groups gid = some g') : postWaits u gid' g' = none := by
  obtain ⟨g'', ctx, found', -, -, -, -, -, -, s0, s1, -⟩ := trapped.group
  obtain rfl : g'' = g' := Option.some_inj.mp (found'.symm.trans found)
  simp [postWaits, s0, s1, Slot.empty, Wait.none]

/-- The trap of a post that waits is the record that the claims name. -/
theorem heldTrap_progress (g : Group) (k : Nat) (h : Held) (cause : h.cause = 0x08) : heldTrap g h k = heldRec g k h (g.slot k).mask := by
  simp [heldTrap, heldRec, cause]

/-- R194: a group that waits in a blocking post, with no clause in issue, takes PROGRESS at the first try. -/
theorem progressTrap_of_waits {s : State} {gid : Nat} {g : Group} {k : Nat} (found : SMap.find? s.groups gid = some g) (enters : Enters s g)
    (boundary : g.clause = none) (waits : postWaits s gid g = some k) :
    Trapped s (progressTrap s gid) gid g
      (heldRec g k { cause := 0x08, reason := 0, info := 0, mask := (g.slot k).mask, cpc := (g.slot k).pc, ipc := (g.slot k).wait.ipc, idx := (g.slot k).wait.idx }
        (g.slot k).mask) := by
  rw [← heldTrap_progress g k _ rfl]
  have trapped := takeTrap_of_enters found enters
    (heldTrap g { cause := 0x08, reason := 0, info := 0, mask := (g.slot k).mask, cpc := (g.slot k).pc, ipc := (g.slot k).wait.ipc, idx := (g.slot k).wait.idx } k)
  have issuesNone : (g.clause.isSome && !g.sup) = false := by simp [boundary]
  simp only [progressTrap, found, waits, issuesNone, Bool.false_eq_true, if_false]
  rw [orRetry_of_trapped found enters.user trapped]
  exact trapped

/-- A group that has taken its trap is left alone. -/
theorem progressTrap_of_trapped {s t : State} {gid : Nat} {g : Group} {r : TrapReq} (trapped : Trapped s t gid g r) : progressTrap t gid = t := by
  obtain ⟨g', -, found, -⟩ := trapped.group
  simp only [progressTrap, found, postWaits_of_trapped trapped found]

theorem foldl_progressTrap_fixed {t : State} {l : List (Nat × Group)} (fixed : ∀ e ∈ l, progressTrap t e.1 = t) :
    l.foldl (fun s e => progressTrap s e.1) t = t := by
  induction l with
  | nil => rfl
  | cons e l ih =>
    rw [List.foldl_cons, fixed e List.mem_cons_self]
    exact ih fun x listed => fixed x (List.mem_cons_of_mem _ listed)

section

variable {s : State} {core : Nat}

/-- R195: nothing happens while the counter is off or before its limit. -/
theorem execProgressFault_before (early : (s.coreOf core).progfault.getLsbD 6 = false ∨
      s.clock < (s.coreOf core).faultcnt + 2 ^ ((s.coreOf core).progfault.extractLsb' 0 6).toNat) :
    execProgressFault core s = .next s := by
  refine if_pos ?_
  rw [Bool.or_eq_true, Bool.or_eq_true, Bool.not_eq_true', decide_eq_true_eq]
  exact early.imp .inr id

/-- R194: at its limit the counter restarts, and the group that waits in a post takes PROGRESS. -/
theorem execProgressFault_at {slot : Nat} {g : Group} (compute : core < 1152) (inCore : slot < 64) (listed : (64 * core + slot, g) ∈ s.groups)
    (on : (s.coreOf core).progfault.getLsbD 6 = true) (late : (s.coreOf core).faultcnt + 2 ^ ((s.coreOf core).progfault.extractLsb' 0 6).toNat ≤ s.clock)
    (waits : (postWaits s (64 * core + slot) g).isSome = true)
    (alone : ∀ e ∈ s.groups, coreOfGid e.1 = core → (postWaits s e.1 e.2).isSome = true → e = (64 * core + slot, g)) {r : TrapReq}
    (trapped : Trapped (s.setCore core { s.coreOf core with faultcnt := s.clock })
      (progressTrap (s.setCore core { s.coreOf core with faultcnt := s.clock }) (64 * core + slot)) (64 * core + slot) g r) :
    execProgressFault core s = .next (progressTrap (s.setCore core { s.coreOf core with faultcnt := s.clock }) (64 * core + slot)) := by
  have inIt : coreOfGid (64 * core + slot) = core := by simp only [coreOfGid]; omega
  have due : (isService core || !progOn (s.coreOf core).progfault || s.clock < (s.coreOf core).faultcnt + progLimit (s.coreOf core).progfault) = false := by
    have service : isService core = false := by simp [isService, compute]
    rw [service, progOn, on, Bool.false_or, Bool.not_true, Bool.false_or, decide_eq_false_iff_not]
    exact Nat.not_lt.mpr late
  unfold execProgressFault
  simp only [due, Bool.false_eq_true, if_false]
  generalize waiting : s.groups.filter (fun e => decide (coreOfGid e.1 = core) && (postWaits s e.1 e.2).isSome) = gs
  have only : ∀ e ∈ gs, e = (64 * core + slot, g) := by
    subst waiting
    intro e found
    rw [List.mem_filter, Bool.and_eq_true, decide_eq_true_eq] at found
    exact alone e found.1 found.2.1 found.2.2
  have member : (64 * core + slot, g) ∈ gs := by
    subst waiting
    rw [List.mem_filter, Bool.and_eq_true, decide_eq_true_eq]
    exact ⟨listed, inIt, waits⟩
  cases gs with
  | nil => cases member
  | cons e rest =>
    obtain rfl := only e List.mem_cons_self
    rw [List.isEmpty_cons, if_neg Bool.false_ne_true, List.foldl_cons, foldl_progressTrap_fixed]
    intro x found
    rw [only x (List.mem_cons_of_mem _ found)]
    exact progressTrap_of_trapped trapped

end

end Sys2Proof.Machine

namespace Sys2Proof.Claims

open Machine

theorem illbarrierDeliveryCompletes : Claims.IllbarrierDeliveryCompletes := by
  intro s core slot g h rest k inCore found boundary running enters first fresh post due
  refine ⟨_, (exec_illbarrierDelivery ..).trans (execIllbarrierDelivery_of_due inCore found boundary running enters.user first fresh post due), ?_⟩
  rw [← heldTrap_eq_heldRec due]
  exact orRetry_takeTrap_trapped (enters_withHeld enters rest) _

theorem dielossEntryCompletes : Claims.DielossEntryCompletes := by
  refine ⟨fun s core slot g h inCore found boundary running enters held => ?_, fun s core slot g h inCore found boundary running parked unspilled live held => ?_⟩
  · have stood : (if g.fpark.isSome then g.unenter else g) = g := by simp [enters.park]
    exact ⟨_, (exec_dielossEntry ..).trans (execDielossEntry_of_held inCore found boundary running (.inl enters.user) held stood),
      orRetry_takeTrap_trapped (enters_withHeld enters _) _⟩
  · have stood : (if g.fpark.isSome then g.unenter else g) = g.unenter := if_pos (Option.isSome_iff_ne_none.mpr parked)
    exact ⟨_, (exec_dielossEntry ..).trans (execDielossEntry_of_held inCore found boundary running (.inr parked) held stood),
      orRetry_takeTrap_trapped (g := { g.unenter with held := g.held.erase h }) ⟨rfl, unspilled, rfl, live⟩ _⟩

theorem preemptEntryCompletes : Claims.PreemptEntryCompletes := by
  refine ⟨fun s core slot g tid t₀ _ found boundary team resident chosen => ⟨fun running enters first => ?_, fun halted ctx live => ?_⟩,
    fun s core slot g tid t₀ found team resident stays => (exec_preemptEntry ..).trans (execPreemptEntry_unchosen found team resident stays)⟩
  · exact ⟨_, (exec_preemptEntry ..).trans (execPreemptEntry_running found boundary team resident chosen running enters first), takeTrap_of_enters found enters _⟩
  · refine ⟨_, _, (exec_preemptEntry ..).trans (execPreemptEntry_halted found boundary team resident chosen halted), groupIs_setGroup _ _ _,
      rfl, trecWord_cause _ _, rfl, rfl, ?_, rfl, rfl, rfl, rfl, rfl, rfl, rfl⟩
    simp only [live]

theorem progressFaultCompletes : Claims.ProgressFaultCompletes := by
  intro s core compute
  refine ⟨fun early => (exec_progressFault ..).trans (execProgressFault_before early), fun slot g k inCore found listed on late enters boundary waits stillWaits alone => ?_⟩
  have trapped := progressTrap_of_waits (s := s.setCore core { s.coreOf core with faultcnt := s.clock }) found
    ⟨enters.user, enters.spill, enters.park, enters.ctx⟩ boundary stillWaits
  exact ⟨_, (exec_progressFault ..).trans (execProgressFault_at compute inCore listed on late (by rw [waits]; rfl) alone trapped), trapped⟩

end Sys2Proof.Claims
end

section
/-! PROOFS (00_scope). A lane that faults parks its fragment (O49): what parking changes, what the access of one lane that faults changes, and the obligation. -/

namespace Sys2Proof.Machine

open Claims

theorem exec_ld (o : Ops) (s : State) : exec (.ld o) s = execLd o s := rfl
theorem exec_st (o : Ops) (s : State) : exec (.st o) s = execSt o s := rfl

/-! ## Outstanding results (R198, R252) -/

theorem applyWrite_withResults (g : Group) (ps : List Pending) (cs : List Nat) (w : RegWrite) :
    ({ g with pending := ps, counters := cs } : Group).applyWrite w = { g.applyWrite w with pending := ps, counters := cs } := by
  cases w <;> rfl

theorem applyWrites_withResults (g : Group) (ps : List Pending) (cs : List Nat) (ws : List RegWrite) :
    ws.foldl Group.applyWrite { g with pending := ps, counters := cs } = { ws.foldl Group.applyWrite g with pending := ps, counters := cs } := by
  induction ws generalizing g with
  | nil => rfl
  | cons w ws ih => rw [List.foldl_cons, applyWrite_withResults, ih, List.foldl_cons]

/-- What results that arrive write does not depend on what is outstanding or counted. -/
theorem applyPendings_withResults (l : List Pending) (g : Group) (ps : List Pending) (cs : List Nat) :
    ∃ cs', l.foldl Group.applyPending { g with pending := ps, counters := cs } = { l.foldl Group.applyPending g with pending := ps, counters := cs' } := by
  induction l generalizing g cs with
  | nil => exact ⟨cs, rfl⟩
  | cons p l ih =>
    have first : ({ g with pending := ps, counters := cs } : Group).applyPending p =
        { g.applyPending p with pending := ps, counters := cs.set p.ctr (cs.getD p.ctr 0 - 1) } := by
      simp only [Group.applyPending, applyWrites_withResults]
    rw [List.foldl_cons, first, List.foldl_cons]
    exact ih _ _

/-- A result that writes nothing leaves no trace once everything outstanding has been written. -/
theorem flush_addPending_nil (g : Group) (ctr : Nat) : (g.addPending ctr []).flush = g.flush := by
  obtain ⟨cs, others⟩ := applyPendings_withResults g.pending g (g.addPending ctr []).pending (g.addPending ctr []).counters
  unfold Group.flush
  rw [show (g.addPending ctr []).pending = g.pending ++ [{ ctr := ctr, writes := [] }] from rfl, List.foldl_append]
  dsimp only
  rw [show g.addPending ctr [] = { g with pending := (g.addPending ctr []).pending, counters := (g.addPending ctr []).counters } from rfl, others]
  rfl

/-! ## Parking (R189, R206) -/

theorem agedFrom_refl (g : Group) : AgedFrom g g := rfl

theorem agedFrom_trans {a b c : Group} (h : AgedFrom a b) (k : AgedFrom b c) : AgedFrom a c := by
  unfold AgedFrom at *
  rw [k, h]

/-- R189: an age that is counted anew is all that changes in a slot. -/
theorem agedFrom_setSlot_since (g : Group) (k n : Nat) : AgedFrom g (g.setSlot k { g.slot k with since := n }) := by
  unfold AgedFrom Group.setSlot Group.slot
  split <;> rfl

theorem agedFrom_ite {p : Prop} [Decidable p] {g g' : Group} (aged : AgedFrom g g') : AgedFrom g (if p then g' else g) := by
  split
  · exact aged
  · exact agedFrom_refl g

theorem groupIs_setGroup_again (s : State) (gid : Nat) (g g' : Group) : GroupIs s ((s.setGroup gid g).setGroup gid g') gid g' :=
  ⟨rfl, State.find_setGroup_same _ gid g', fun _ other => (State.find_setGroup_other _ g' other).trans (State.find_setGroup_other s g other)⟩

/-- R189: fragments that have become eligible count their age anew, and nothing else changes. -/
theorem refreshAge_setGroup (s before : State) (gid : Nat) (g : Group) :
    ∃ g', AgedFrom g g' ∧ GroupIs s (refreshAge (s.setGroup gid g) before gid) gid g' := by
  unfold refreshAge
  rw [State.find_setGroup_same]
  split
  case h_1 g₁ g₀ same found =>
    cases same
    split
    · exact ⟨g, agedFrom_refl g, groupIs_setGroup s gid g⟩
    · refine ⟨_, ?_, groupIs_setGroup_again s gid g _⟩
      exact agedFrom_trans (agedFrom_ite (agedFrom_setSlot_since g 0 _)) (agedFrom_ite (agedFrom_setSlot_since _ 1 _))
  case h_2 => exact ⟨g, agedFrom_refl g, groupIs_setGroup s gid g⟩

@[simp] theorem flush_slot (g : Group) (k : Nat) : g.flush.slot k = g.slot k := by simp [Group.slot]

/-- R191, R194: where the core's progress counters have restarted, only the group changes. -/
theorem onlyGroup_of_groupIs {s t : State} {gid : Nat} {g : Group} (changed : GroupIs (restartProgress s (coreOfGid gid)) t gid g) : OnlyGroup s t gid := by
  obtain ⟨rest, -, others⟩ := changed
  have cores (n : Nat) : t.coreOf n = (restartProgress s (coreOfGid gid)).coreOf n := by rw [rest]; rfl
  exact {
    rest := by rw [rest]; rfl
    others := others
    cores := fun n other => (cores n).trans (SMap.get_set_other _ _ _ other)
    core := (cores _).trans (SMap.get_set_same _ _ _ _) }

/-- R206: parking changes the group that parks, and restarts its core's progress counters. -/
theorem park_parks (s : State) (gid : Nat) (g : Group) (c : Clause) (mask : DWord) (seq : Word) :
    ∃ g', OnlyGroup s (park s gid g c mask seq) gid ∧ SMap.find? (park s gid g c mask seq).groups gid = some g' ∧
      AgedFrom { g.flush.setSlot c.slot (parkedAt (g.slot c.slot) mask c.pc c.idx seq c.ipc) with clause := none } g' := by
  obtain ⟨g', aged, changed⟩ := refreshAge_setGroup (restartProgress s (coreOfGid gid)) s gid
    { g.flush.setSlot c.slot (parkedAt (g.flush.slot c.slot) mask c.pc c.idx seq c.ipc) with clause := none }
  rw [flush_slot] at aged
  exact ⟨g', onlyGroup_of_groupIs changed, changed.2.1, aged⟩

theorem park_addPending_nil (s : State) (gid : Nat) (g : Group) (c : Clause) (mask : DWord) (seq : Word) (ctr : Nat) :
    park s gid (g.addPending ctr []) c mask seq = park s gid g c mask seq := by
  simp only [park, flush_addPending_nil]

/-! ## The access of one lane that faults (R33, R38) -/

theorem lanesOf_twoPow {n : Nat} (below : n < 64) : lanesOf (BitVec.twoPow 64 n) = [n] := by
  have only : (fun i => (BitVec.twoPow 64 n).getLsbD i) = (· == n) := by
    funext i
    simp only [BitVec.getLsbD_twoPow, below, decide_true, Bool.true_and, Bool.beq_eq_decide_eq, eq_comm]
  rw [lanesOf, only, List.filter_beq, List.count_eq_one_of_mem List.nodup_range (List.mem_range.mpr below)]
  rfl

theorem maskOf_singleton (n : Nat) : maskOf [n] = BitVec.twoPow 64 n := by simp [maskOf]

/-- A fault that the core or its translation detects. -/
def plainFault (n cause va level : Nat) (entry : DWord) (page : Nat) : LaneFault :=
  { lane := n, cause := cause, va := va, win := false, level := level, entry := entry, ftag := 0, ffmt := 0, page := page }

section

variable (s : State) (gid : Nat) (g : Group) (ctx : Ctx) (n size : Nat) (acc : Acc) (ws : List (Nat × Nat)) {p : Nat}

/-- R15: a pointer beyond the addresses. -/
theorem laneTarget_beyond (glob : Bool) (beyond : 2 ^ 56 ≤ p) : laneTarget s gid g ctx n p size acc glob ws = (.fault (plainFault n 0x01 p 0 0 65536), s) := by
  have leads : resolve s (coreOfGid gid) ctx g n p size glob = .bad 0x01 p false := if_pos beyond
  simp only [laneTarget, leads]
  rfl

/-- R342: the window region, named by .g. -/
theorem laneTarget_window (window : winRegion ≤ p) (within : p < 2 ^ 56) : laneTarget s gid g ctx n p size acc true ws = (.fault (plainFault n 0x02 p 0 0 65536), s) := by
  have leads : resolve s (coreOfGid gid) ctx g n p size true = .bad 0x02 p false :=
    (if_neg (by omega)).trans ((if_neg (by omega)).trans (if_pos rfl))
  simp only [laneTarget, leads]
  rfl

/-- R33: what translation answers. -/
theorem laneTarget_translation (glob : Bool) {f : XFault} {s₁ : State} (global : p < winRegion)
    (faults : translate s (some (coreOfGid gid)) (clusterOfCore (coreOfGid gid)) g.ctx ctx p acc g.sup = (.fault f, s₁)) :
    ∃ page, laneTarget s gid g ctx n p size acc glob ws = (.fault (plainFault n f.cause p f.level f.entry page), s₁) := by
  have leads : resolve s (coreOfGid gid) ctx g n p size glob = .virt p false :=
    (if_neg (by have : winRegion < 2 ^ 56 := by decide
                omega)).trans (if_pos global)
  simp only [laneTarget, leads, faults]
  exact ⟨_, rfl⟩

end

/-- A state that has given up places at the homes. -/
def State.withHomeQ (s : State) (q : List HomeReq) : State := { s with homeQ := q }

/-- R69: places that are given up change no memory. -/
theorem reached_withHomeQ {s : State} {q : List HomeReq} (requests : q.filter (fun r => !r.looks) = Requests s) : Reached s (s.withHomeQ q) :=
  ⟨rfl, requests, fun p a => by cases p <;> rfl⟩

/-- R33, R69: an instruction whose one lane faults gives up its places at the homes. -/
theorem lanesGo_fault {s s₁ : State} {gid : Nat} {g : Group} {ctx : Ctx} {n p size : Nat} {acc : Acc} {glob : Bool} {f : LaneFault} (live : s.ctxOf? g.ctx = some ctx)
    (faults : laneTarget s gid g ctx n p size acc glob (lanesWith size [(n, p)] p) = (.fault f, s₁)) :
    ∃ q, lanesGo s gid g size acc glob [(n, p)] = { ok := [], bad := [f], stall := false, walks := false, s := s₁.withHomeQ q } ∧
      q.filter (fun r => !r.looks) = Requests s₁ := by
  unfold lanesGo
  rw [live]
  dsimp only [List.foldl_cons, List.foldl_nil, Lanes.start]
  rw [faults]
  refine ⟨_, rfl, ?_⟩
  rw [List.filter_filter, Requests]
  refine List.filter_congr fun r _ => ?_
  cases looks : r.looks <;> simp [looks, Lanes.add]

/-! ## Loads and stores whose one lane faults (R206, R343) -/

/-- R38, R206: the state in which the lane's fault is recorded and the fragment is parked. -/
def faultParked (s : State) (gid : Nat) (g : Group) (c : Clause) (n akind cause va level : Nat) (entry : DWord) : State :=
  park (postFault { s with seqNo := s.seqNo + 1 } (laneRec gid g akind cause va false level entry c.ipc (BitVec.twoPow 64 n) s.seqNo)) gid g c
    (BitVec.twoPow 64 n) s.seqNo

theorem parkFaults_plainFault (s : State) (gid : Nat) (g : Group) (c : Clause) (n akind cause va level : Nat) (entry : DWord) (page : Nat) :
    parkFaults s gid g c akind [plainFault n cause va level entry page] (faultMask [plainFault n cause va level entry page]) =
      faultParked s gid g c n akind cause va level entry := by
  have mask : faultMask [plainFault n cause va level entry page] = BitVec.twoPow 64 n := maskOf_singleton n
  rw [mask]
  rfl

theorem finishMem_bad (s : State) (gid : Nat) (g g' : Group) (c : Clause) (akind : Nat) (f : LaneFault) :
    finishMem gid g c akind faultMask { stall := false, bad := [f], g := g', s := s } = .next (parkFaults s gid g' c akind [f] (faultMask [f])) := rfl

theorem faultParked_addPending_nil (s : State) (gid : Nat) (g : Group) (c : Clause) (n akind cause va level : Nat) (entry : DWord) (ctr : Nat) :
    faultParked s gid (g.addPending ctr []) c n akind cause va level entry = faultParked s gid g c n akind cause va level entry :=
  park_addPending_nil _ gid g c _ _ ctr

/-- R343: a lane's address that is a multiple of the size is not MISALIGN. -/
theorem aligned_of_multiple (s : State) (gid : Nat) (g : Group) (c : Clause) (k : Out) {n p size : Nat} (multiple : p % size = 0) :
    aligned s gid g c [(n, p)] size k = k := by
  have none_bad : misaligned [(n, p)] size = 0 := by simp [misaligned, maskOf, multiple]
  exact if_neg (not_not.mpr none_bad)

section

variable {s t : State} {gid : Nat} {g : Group} {n p size : Nat} {glob : Bool} {f : LaneFault}

/-- R252, R346: a load whose lanes have faulted leaves a result that writes nothing. -/
theorem loadLanes_fault {ctr : Nat} (wr : Nat → List Byte → List RegWrite) (room : CtrRoom g ctr)
    (goes : lanesGo s gid g size .load glob [(n, p)] = { ok := [], bad := [f], stall := false, walks := false, s := t }) :
    loadLanes s gid g size glob 0 ctr wr [(n, p)] = { stall := false, bad := [f], g := g.addPending ctr [], s := t } := by
  have notFull : g.full ctr = false := decide_eq_false (Nat.not_le.mpr room)
  simp [loadLanes, goes, notFull]

/-- R112, R346: a store whose lanes have faulted leaves the queue as it is. -/
theorem storeLanes_fault (pc : DWord) (data : Nat → List Byte) (room : g.sq.length < 32)
    (goes : lanesGo s gid g size .store glob [(n, p)] = { ok := [], bad := [f], stall := false, walks := false, s := t }) :
    storeLanes s gid g size glob 0 pc data [(n, p)] = { stall := false, bad := [f], g := g, s := t } := by
  have notFull : ¬ 32 ≤ g.sq.length := by omega
  simp [storeLanes, goes, notFull]

end

section

variable {s t : State} {gid : Nat} {g : Group} {c : Clause} {o : Ops} {n cause va level page : Nat} {entry : DWord} (below : n < 64)
  (only : active g c o = BitVec.twoPow 64 n)

include below only

theorem laneAddrs_of_single (ctr : Bool) : laneAddrs g c o true ctr = [(n, laneAddr g c o true ctr n)] := by
  rw [laneAddrs, only, lanesOf_twoPow below]
  rfl

theorem execLd_fault (ready : Ready s gid g c (active g c o) (zOpd true (if o.var = 5 ∨ o.var = 6 then 2 else o.var) o.d :: addrOpds o true))
    (multiple : laneAddr g c o true true n % zBytes o.var = 0) (room : CtrRoom g o.ctr)
    (goes : lanesGo s gid g (zBytes o.var) .load (o.space = 1) [(n, laneAddr g c o true true n)] =
      { ok := [], bad := [plainFault n cause va level entry page], stall := false, walks := false, s := t }) :
    execLd o s = .next (faultParked t gid g c n 0 cause va level entry) := by
  unfold execLd loadOp
  rw [checked_ok ready.issues (fun g c => active g c o) _ _ (by simpa using ready.quiet), laneAddrs_of_single below only]
  dsimp only
  rw [aligned_of_multiple s gid g c _ multiple, loadLanes_fault _ room goes, finishMem_bad, parkFaults_plainFault, faultParked_addPending_nil]

theorem execSt_fault (ready : Ready s gid g c (active g c o) (zOpd false o.var o.d :: addrOpds o true))
    (multiple : laneAddr g c o true false n % zBytes o.var = 0) (room : g.sq.length < 32)
    (goes : lanesGo s gid g (zBytes o.var) .store (o.space = 1) [(n, laneAddr g c o true false n)] =
      { ok := [], bad := [plainFault n cause va level entry page], stall := false, walks := false, s := t }) :
    execSt o s = .next (faultParked t gid g c n 1 cause va level entry) := by
  unfold execSt storeOp
  rw [checked_ok ready.issues (fun g c => active g c o) _ _ ready.quiet, laneAddrs_of_single below only]
  dsimp only
  rw [aligned_of_multiple s gid g c _ multiple, storeLanes_fault _ _ room goes, finishMem_bad, parkFaults_plainFault]

end

end Sys2Proof.Machine

namespace Sys2Proof.Claims

open Machine

/-- What MemoryFaultsPark asks of one fault (R206): the instruction parks the fragment at itself, the record of lane `n` goes to the fault-record ring, and no byte is stored. -/
def FaultParks (i : Instr) (s : State) (gid : Nat) (g : Group) (c : Clause) (n akind : Nat) (s₀ : State) (cause va level : Nat) (entry : DWord) : Prop :=
  ∃ t s₁ s₂ g', exec i s = .next t ∧ Reached s₀ s₁ ∧ OnlyGroup s₂ t gid ∧ SMap.find? t.groups gid = some g' ∧
    AgedFrom { g.flush.setSlot c.slot (parkedAt (g.slot c.slot) (BitVec.twoPow 64 n) c.pc c.idx s.seqNo c.ipc) with clause := none } g' ∧
    s₂ = postFault { s₁ with seqNo := s.seqNo + 1 } (laneRec gid g akind cause va false level entry c.ipc (BitVec.twoPow 64 n) s.seqNo)

theorem faultParks_of_exec {i : Instr} {s s₀ : State} {gid : Nat} {g : Group} {c : Clause} {n akind cause va level : Nat} {entry : DWord} {q : List HomeReq}
    (ran : exec i s = .next (faultParked (s₀.withHomeQ q) gid g c n akind cause va level entry)) (requests : q.filter (fun r => !r.looks) = Requests s₀)
    (number : s₀.seqNo = s.seqNo) : FaultParks i s gid g c n akind s₀ cause va level entry := by
  obtain ⟨g', changed, found, aged⟩ := park_parks
    (postFault { s₀.withHomeQ q with seqNo := s₀.seqNo + 1 } (laneRec gid g akind cause va false level entry c.ipc (BitVec.twoPow 64 n) s₀.seqNo)) gid g c
    (BitVec.twoPow 64 n) s₀.seqNo
  unfold FaultParks
  rw [← number]
  exact ⟨_, s₀.withHomeQ q, _, g', ran, reached_withHomeQ requests, changed, found, aged, rfl⟩

section

variable {s : State} {gid : Nat} {g : Group} {c : Clause} {o : Ops} {n : Nat} {ctx : Ctx} {i : Instr} {akind : Nat} {acc : Acc}
  (listed : (i, akind, acc) ∈ [(Instr.ld o, 0, Acc.load), (.st o, 1, Acc.store)]) (below : n < 64)
  (ready : Ready s gid g c (active g c o) (zOpd (akind = 0) (if akind = 0 ∧ (o.var = 5 ∨ o.var = 6) then 2 else o.var) o.d :: addrOpds o true))
  (counter : akind = 0 → CtrRoom g o.ctr) (queue : g.sq.length < 32) (only : active g c o = BitVec.twoPow 64 n) (live : s.ctxOf? g.ctx = some ctx)
  (multiple : laneAddr g c o true (decide (akind = 0)) n % zBytes o.var = 0)

include listed below ready counter queue only live multiple

/-- R206, R343: an active lane's fault, wherever it is found, parks the fragment. -/
theorem faultParks_of_laneTarget {s₀ : State} {cause va level page : Nat} {entry : DWord}
    (faults : let p := laneAddr g c o true (decide (akind = 0)) n
      laneTarget s gid g ctx n p (zBytes o.var) acc (o.space = 1) (lanesWith (zBytes o.var) [(n, p)] p) = (.fault (plainFault n cause va level entry page), s₀))
    (number : s₀.seqNo = s.seqNo) : FaultParks i s gid g c n akind s₀ cause va level entry := by
  obtain ⟨q, goes, requests⟩ := lanesGo_fault live faults
  simp only [List.mem_cons, Prod.mk.injEq, List.not_mem_nil, or_false] at listed
  obtain ⟨rfl, rfl, rfl⟩ | ⟨rfl, rfl, rfl⟩ := listed
  · exact faultParks_of_exec ((exec_ld o s).trans (execLd_fault below only (by simpa using ready) multiple (counter rfl) goes)) requests number
  · exact faultParks_of_exec ((exec_st o s).trans (execSt_fault below only (by simpa using ready) multiple queue goes)) requests number

end

theorem memoryFaultsPark : Claims.MemoryFaultsPark := by
  intro s gid g c o n ctx i akind acc listed below ready counter queue only live p multiple
  have parks {s₀ : State} {cause va level page : Nat} {entry : DWord} :=
    faultParks_of_laneTarget (page := page) listed below ready counter queue only live multiple (s₀ := s₀) (cause := cause) (va := va) (level := level) (entry := entry)
  refine ⟨fun beyond => parks (laneTarget_beyond _ _ _ _ _ _ _ _ _ beyond) rfl, fun window within space => ?_, fun f s₁ global faults number => ?_⟩
  · refine parks (page := 65536) ?_ rfl
    rw [decide_eq_true space]
    exact laneTarget_window _ _ _ _ _ _ _ _ window within
  · obtain ⟨page, target⟩ := laneTarget_translation s gid g ctx n (zBytes o.var) acc (lanesWith (zBytes o.var) [(n, p)] p) (o.space = 1) global faults
    exact parks target number

/-- Settles O49: a held trap, DIELOSS and PREEMPT are taken at the first try by the group that its change has prepared, PROGRESS by the one post that waits; a lane's fault gives up its places at the homes, is recorded, and parks the fragment. -/
theorem trapsOfEventsAndParkings : Obligations.TrapsOfEventsAndParkings :=
  ⟨illbarrierDeliveryCompletes, dielossEntryCompletes, preemptEntryCompletes, progressFaultCompletes, memoryFaultsPark⟩

end Sys2Proof.Claims
end
